-- ==== Sys2Proof/Word.lean ====
section
/-! DEFINITION. The words of the machine (R3) and their plainest arithmetic. -/

namespace Sys2Proof

/-- A dword (R3): an x register, a scratch word, a system register. -/
abbrev Dword := BitVec 64

/-- A 256-byte row (R3): a scratch row, a v register, a copy row. -/
abbrev Row := BitVec 2048

/-- A predicate register: one bit per byte lane (R96). -/
abbrev Pred := BitVec 256

/-- A byte. -/
abbrev Byte := BitVec 8

/-- Ceiling division of naturals; a zero divisor gives zero. -/
def ceilDiv (a b : Nat) : Nat := (a + b - 1) / b

/-- The bits hi..lo of a natural number read as a pattern. -/
def bitsOf (n lo w : Nat) : Nat := n / 2 ^ lo % 2 ^ w

/-- One bit of a natural number. -/
def bitOf (n i : Nat) : Bool := n / 2 ^ i % 2 == 1

/-- A Boolean as the number 1 or 0. -/
def b2n (b : Bool) : Nat := if b then 1 else 0

end Sys2Proof
end

