-- ==== Sys2Proof/Syntax.lean ====
section
/-! DEFINITION. The operations and events of the DXS-4040 (R34, spec/opcode_table.json), one constructor each, and bundles (R22, R23). -/

namespace Sys2Proof

/-- The slot classes of R23, in ascending PM bit order. -/
inductive SlotClass where
  | a0 | a1 | ld | ls | vx | mx | ec | br
  deriving DecidableEq, Repr

/-- The PM bit of a slot class (R23). -/
def SlotClass.pm : SlotClass → Nat
  | .a0 => 0 | .a1 => 1 | .ld => 2 | .ls => 3 | .vx => 4 | .mx => 5 | .ec => 6 | .br => 7

/-- The slot class of a PM bit (R23). -/
def SlotClass.ofPm : Nat → SlotClass
  | 0 => .a0 | 1 => .a1 | 2 => .ld | 3 => .ls | 4 => .vx | 5 => .mx | 6 => .ec | _ => .br

/-- The width of a slot in bits (R23). -/
def SlotClass.bits : SlotClass → Nat
  | .mx => 64 | .ec => 64 | .a0 => 32 | .a1 => 32 | .ld => 32 | .ls => 32 | .vx => 32 | .br => 32

/-- Every row of the table of operations and events. `sp` is the stage field (R29). The fields of an operation are those of its
encoding entry; the arguments of an event name the unit it happens to and what is measured or decided outside the machine. -/
inductive Instr where
  /-- ADD (R84): Adds two x registers modulo 2^64. -/
  | add (sp : BitVec 3) (d : BitVec 5) (a : BitVec 5) (b : BitVec 5)
  /-- SUB (R84): Subtracts x[b] from x[a] modulo 2^64. -/
  | sub (sp : BitVec 3) (d : BitVec 5) (a : BitVec 5) (b : BitVec 5)
  /-- AND (R84): Bitwise AND of two x registers. -/
  | and (sp : BitVec 3) (d : BitVec 5) (a : BitVec 5) (b : BitVec 5)
  /-- OR (R84): Bitwise OR of two x registers. -/
  | or (sp : BitVec 3) (d : BitVec 5) (a : BitVec 5) (b : BitVec 5)
  /-- XOR (R84): Bitwise XOR of two x registers. -/
  | xor (sp : BitVec 3) (d : BitVec 5) (a : BitVec 5) (b : BitVec 5)
  /-- ANDN (R84): x[a] AND NOT x[b]. -/
  | andn (sp : BitVec 3) (d : BitVec 5) (a : BitVec 5) (b : BitVec 5)
  /-- SHL (R85): Shifts x[a] left by x[b][5:0]. -/
  | shl (sp : BitVec 3) (d : BitVec 5) (a : BitVec 5) (b : BitVec 5)
  /-- SHR (R85): Logical right shift by x[b][5:0]. -/
  | shr (sp : BitVec 3) (d : BitVec 5) (a : BitVec 5) (b : BitVec 5)
  /-- SAR (R85): Arithmetic right shift by x[b][5:0]. -/
  | sar (sp : BitVec 3) (d : BitVec 5) (a : BitVec 5) (b : BitVec 5)
  /-- ROL (R85): Rotates x[a] left by x[b][5:0]. -/
  | rol (sp : BitVec 3) (d : BitVec 5) (a : BitVec 5) (b : BitVec 5)
  /-- MIN (R86): Signed minimum of two x registers. -/
  | min (sp : BitVec 3) (d : BitVec 5) (a : BitVec 5) (b : BitVec 5)
  /-- MAX (R86): Signed maximum of two x registers. -/
  | max (sp : BitVec 3) (d : BitVec 5) (a : BitVec 5) (b : BitVec 5)
  /-- MINN (R86): Natural minimum of two x registers. -/
  | minn (sp : BitVec 3) (d : BitVec 5) (a : BitVec 5) (b : BitVec 5)
  /-- MAXN (R86): Natural maximum of two x registers. -/
  | maxn (sp : BitVec 3) (d : BitVec 5) (a : BitVec 5) (b : BitVec 5)
  /-- SEQ (R86): Writes 1 if the two x registers are equal, else 0. -/
  | seq (sp : BitVec 3) (d : BitVec 5) (a : BitVec 5) (b : BitVec 5)
  /-- SLT (R86): Writes 1 if x[a] is signed-less than x[b]. -/
  | slt (sp : BitVec 3) (d : BitVec 5) (a : BitVec 5) (b : BitVec 5)
  /-- SLTN (R86): Writes 1 if x[a] is natural-less than x[b]. -/
  | sltn (sp : BitVec 3) (d : BitVec 5) (a : BitVec 5) (b : BitVec 5)
  /-- SEL (R86): Selects x[a] if x[c] is non-zero, else x[b]. -/
  | sel (sp : BitVec 3) (d : BitVec 5) (a : BitVec 5) (b : BitVec 5) (c : BitVec 5)
  /-- CLZ (R87): Counts leading zeros in the low w bits of x[a]. -/
  | clz (sp : BitVec 3) (d : BitVec 5) (a : BitVec 5) (w : BitVec 2)
  /-- POPC (R87): Counts one bits in the low w bits of x[a]. -/
  | popc (sp : BitVec 3) (d : BitVec 5) (a : BitVec 5) (w : BitVec 2)
  /-- ADDSH (R89): Adds x[b] shifted left by sh to x[a]. -/
  | addsh (sp : BitVec 3) (d : BitVec 5) (a : BitVec 5) (b : BitVec 5) (sh : BitVec 4)
  /-- ADDW (R84): 32-bit sum of two x registers, sign-extended. -/
  | addw (sp : BitVec 3) (d : BitVec 5) (a : BitVec 5) (b : BitVec 5)
  /-- BEXT (R88): Extracts a bit field of x[a], zero- or sign-extended. -/
  | bext (sp : BitVec 3) (d : BitVec 5) (a : BitVec 5) (sg : BitVec 1) (len : BitVec 6) (pos : BitVec 6)
  /-- BINS (R88): Inserts the low bits of x[a] into a field of x[d]. -/
  | bins (sp : BitVec 3) (d : BitVec 5) (a : BitVec 5) (len : BitVec 6) (pos : BitVec 6)
  /-- MUL (R92): Low 64 bits of the product of two x registers (A0 only). -/
  | mul (sp : BitVec 3) (d : BitVec 5) (a : BitVec 5) (b : BitVec 5)
  /-- MULH (R92): High 64 bits of the signed product. -/
  | mulh (sp : BitVec 3) (d : BitVec 5) (a : BitVec 5) (b : BitVec 5)
  /-- MULHN (R92): High 64 bits of the natural product. -/
  | mulhn (sp : BitVec 3) (d : BitVec 5) (a : BitVec 5) (b : BitVec 5)
  /-- DIV (R93): Signed division truncating towards zero; divisor zero gives all ones. -/
  | div (sp : BitVec 3) (d : BitVec 5) (a : BitVec 5) (b : BitVec 5)
  /-- DIVN (R93): Natural division; divisor zero gives all ones. -/
  | divn (sp : BitVec 3) (d : BitVec 5) (a : BitVec 5) (b : BitVec 5)
  /-- REM (R93): Signed remainder; divisor zero gives the dividend. -/
  | rem (sp : BitVec 3) (d : BitVec 5) (a : BitVec 5) (b : BitVec 5)
  /-- REMN (R93): Natural remainder; divisor zero gives the dividend. -/
  | remn (sp : BitVec 3) (d : BitVec 5) (a : BitVec 5) (b : BitVec 5)
  /-- ADDI (R90): Adds a sign-extended 13-bit immediate to x[a]. -/
  | addi (sp : BitVec 3) (d : BitVec 5) (a : BitVec 5) (imm : BitVec 13)
  /-- ANDI (R90): AND with a sign-extended immediate. -/
  | andi (sp : BitVec 3) (d : BitVec 5) (a : BitVec 5) (imm : BitVec 13)
  /-- ORI (R90): OR with a sign-extended immediate. -/
  | ori (sp : BitVec 3) (d : BitVec 5) (a : BitVec 5) (imm : BitVec 13)
  /-- XORI (R90): XOR with a sign-extended immediate. -/
  | xori (sp : BitVec 3) (d : BitVec 5) (a : BitVec 5) (imm : BitVec 13)
  /-- SHLI (R85): Shifts x[a] left by an immediate count. -/
  | shli (sp : BitVec 3) (d : BitVec 5) (a : BitVec 5) (n : BitVec 6)
  /-- SHRI (R85): Logical right shift by an immediate count. -/
  | shri (sp : BitVec 3) (d : BitVec 5) (a : BitVec 5) (n : BitVec 6)
  /-- SARI (R85): Arithmetic right shift by an immediate count. -/
  | sari (sp : BitVec 3) (d : BitVec 5) (a : BitVec 5) (n : BitVec 6)
  /-- SLTI (R86): Signed compare of x[a] with a sign-extended immediate. -/
  | slti (sp : BitVec 3) (d : BitVec 5) (a : BitVec 5) (imm : BitVec 13)
  /-- SLTNI (R86): Natural compare of x[a] with a sign-extended immediate. -/
  | sltni (sp : BitVec 3) (d : BitVec 5) (a : BitVec 5) (imm : BitVec 13)
  /-- SEQI (R86): Equality of x[a] with a sign-extended immediate. -/
  | seqi (sp : BitVec 3) (d : BitVec 5) (a : BitVec 5) (imm : BitVec 13)
  /-- MOVL (R91): Loads a sign-extended 18-bit immediate. -/
  | movl (sp : BitVec 3) (d : BitVec 5) (imm : BitVec 18)
  /-- CATI (R91): Shifts x[d] left by 18 and appends an 18-bit immediate. -/
  | cati (sp : BitVec 3) (d : BitVec 5) (imm : BitVec 18)
  /-- LDX (R162): Loads one scratch dword into an x register. -/
  | ldx (sp : BitVec 3) (t : BitVec 5) (base : BitVec 5) (off : BitVec 13)
  /-- STX (R162): Stores an x register to one scratch dword. -/
  | stx (sp : BitVec 3) (t : BitVec 5) (base : BitVec 5) (off : BitVec 13)
  /-- LDV (R162): Loads one scratch row into a v register. -/
  | ldv (sp : BitVec 3) (t : BitVec 5) (base : BitVec 5) (off : BitVec 13)
  /-- STV (R162): Stores a v register to one scratch row. -/
  | stv (sp : BitVec 3) (t : BitVec 5) (base : BitVec 5) (off : BitVec 13)
  /-- STVP (R162): Stores the predicated bytes of a v register to a scratch row. -/
  | stvp (sp : BitVec 3) (t : BitVec 5) (base : BitVec 5) (p : BitVec 3) (off : BitVec 10)
  /-- LDXF (R163): Waits for a full word, loads it and marks it empty. -/
  | ldxf (sp : BitVec 3) (t : BitVec 5) (base : BitVec 5) (off : BitVec 13)
  /-- STXE (R163): Waits for an empty word, stores it and marks it full. -/
  | stxe (sp : BitVec 3) (t : BitVec 5) (base : BitVec 5) (off : BitVec 13)
  /-- LDVF (R163): Waits for a full row, loads it and marks it empty. -/
  | ldvf (sp : BitVec 3) (t : BitVec 5) (base : BitVec 5) (off : BitVec 13)
  /-- STVE (R163): Waits for an empty row, stores it and marks it full. -/
  | stve (sp : BitVec 3) (t : BitVec 5) (base : BitVec 5) (off : BitVec 13)
  /-- SETFE (R164): Writes the 32 full/empty bits of a row from x[t]. -/
  | setfe (sp : BitVec 3) (t : BitVec 5) (base : BitVec 5) (off : BitVec 13)
  /-- GETFE (R164): Reads the 32 full/empty bits of a row into x[t]. -/
  | getfe (sp : BitVec 3) (t : BitVec 5) (base : BitVec 5) (off : BitVec 13)
  /-- LDSP (R165): Loads a scalar spill slot. -/
  | ldsp (sp : BitVec 3) (t : BitVec 5) (k : BitVec 11)
  /-- STSP (R165): Stores a scalar spill slot. -/
  | stsp (sp : BitVec 3) (t : BitVec 5) (k : BitVec 11)
  /-- LDSPV (R165): Loads a vector spill slot. -/
  | ldspv (sp : BitVec 3) (t : BitVec 5) (k : BitVec 6)
  /-- STSPV (R165): Stores a vector spill slot. -/
  | stspv (sp : BitVec 3) (t : BitVec 5) (k : BitVec 6)
  /-- AADD (R166): Atomic add on a scratch dword, returning the old value. -/
  | aadd (sp : BitVec 3) (t : BitVec 5) (base : BitVec 5) (b : BitVec 5) (off : BitVec 8)
  /-- AMIN (R166): Atomic signed minimum on a scratch dword. -/
  | amin (sp : BitVec 3) (t : BitVec 5) (base : BitVec 5) (b : BitVec 5) (off : BitVec 8)
  /-- AMAX (R166): Atomic signed maximum on a scratch dword. -/
  | amax (sp : BitVec 3) (t : BitVec 5) (base : BitVec 5) (b : BitVec 5) (off : BitVec 8)
  /-- AMINN (R166): Atomic natural minimum on a scratch dword. -/
  | aminn (sp : BitVec 3) (t : BitVec 5) (base : BitVec 5) (b : BitVec 5) (off : BitVec 8)
  /-- AMAXN (R166): Atomic natural maximum on a scratch dword. -/
  | amaxn (sp : BitVec 3) (t : BitVec 5) (base : BitVec 5) (b : BitVec 5) (off : BitVec 8)
  /-- AAND (R166): Atomic AND on a scratch dword. -/
  | aand (sp : BitVec 3) (t : BitVec 5) (base : BitVec 5) (b : BitVec 5) (off : BitVec 8)
  /-- AOR (R166): Atomic OR on a scratch dword. -/
  | aor (sp : BitVec 3) (t : BitVec 5) (base : BitVec 5) (b : BitVec 5) (off : BitVec 8)
  /-- AXOR (R166): Atomic XOR on a scratch dword. -/
  | axor (sp : BitVec 3) (t : BitVec 5) (base : BitVec 5) (b : BitVec 5) (off : BitVec 8)
  /-- ASWP (R166): Atomic swap on a scratch dword. -/
  | aswp (sp : BitVec 3) (t : BitVec 5) (base : BitVec 5) (b : BitVec 5) (off : BitVec 8)
  /-- ACAS (R166): Atomic compare-and-swap on a scratch dword. -/
  | acas (sp : BitVec 3) (t : BitVec 5) (base : BitVec 5) (b : BitVec 5) (off : BitVec 8)
  /-- VAOR (R167): Atomic OR of a v register into a scratch row, returning the old row. -/
  | vaor (sp : BitVec 3) (t : BitVec 5) (base : BitVec 5) (off : BitVec 13)
  /-- VAADD (R167): Atomic 32-bit lane add of a v register into a scratch row. -/
  | vaadd (sp : BitVec 3) (t : BitVec 5) (base : BitVec 5) (off : BitVec 13)
  /-- GLDX (R171): Issues a global dword load through a queue. -/
  | gldx (sp : BitVec 3) (t : BitVec 5) (base : BitVec 5) (q : BitVec 2) (off : BitVec 11)
  /-- GSTX (R171): Issues a global dword store through a queue. -/
  | gstx (sp : BitVec 3) (t : BitVec 5) (base : BitVec 5) (q : BitVec 2) (off : BitVec 11)
  /-- GLDV (R171): Issues a global 256-byte load into a v register. -/
  | gldv (sp : BitVec 3) (t : BitVec 5) (base : BitVec 5) (q : BitVec 2) (off : BitVec 11)
  /-- GSTV (R171): Issues a global 256-byte store from a v register. -/
  | gstv (sp : BitVec 3) (t : BitVec 5) (base : BitVec 5) (q : BitVec 2) (off : BitVec 11)
  /-- GAMO (R173): Issues one atomic performed at the home memory port, optionally returning. -/
  | gamo (sp : BitVec 3) (d : BitVec 5) (a : BitVec 5) (b : BitVec 5) (ret : BitVec 1) (q : BitVec 2) (aop : BitVec 4)
  /-- GRED (R174): Issues a non-returning reduction that may merge in switches. -/
  | gred (sp : BitVec 3) (a : BitVec 5) (b : BitVec 5) (q : BitVec 2) (aop : BitVec 4)
  /-- DRAIN (R175): Waits until earlier global accesses of the named queues are performed at the scope. -/
  | drain (sp : BitVec 3) (scope : BitVec 2) (mask : BitVec 4)
  /-- VADD (R100): Lane-wise add. -/
  | vadd (sp : BitVec 3) (d : BitVec 5) (a : BitVec 5) (b : BitVec 5) (p : BitVec 3) (ty : BitVec 3) (z : BitVec 1)
  /-- VSUB (R100): Lane-wise subtract. -/
  | vsub (sp : BitVec 3) (d : BitVec 5) (a : BitVec 5) (b : BitVec 5) (p : BitVec 3) (ty : BitVec 3) (z : BitVec 1)
  /-- VMUL (R100): Lane-wise multiply. -/
  | vmul (sp : BitVec 3) (d : BitVec 5) (a : BitVec 5) (b : BitVec 5) (p : BitVec 3) (ty : BitVec 3) (z : BitVec 1)
  /-- VFMA (R100): Lane-wise fused multiply-add into the destination. -/
  | vfma (sp : BitVec 3) (d : BitVec 5) (a : BitVec 5) (b : BitVec 5) (p : BitVec 3) (ty : BitVec 3) (z : BitVec 1)
  /-- VFMS (R100): Lane-wise fused multiply-subtract from the destination. -/
  | vfms (sp : BitVec 3) (d : BitVec 5) (a : BitVec 5) (b : BitVec 5) (p : BitVec 3) (ty : BitVec 3) (z : BitVec 1)
  /-- VMIN (R100): Lane-wise signed or floating minimum. -/
  | vmin (sp : BitVec 3) (d : BitVec 5) (a : BitVec 5) (b : BitVec 5) (p : BitVec 3) (ty : BitVec 3) (z : BitVec 1)
  /-- VMAX (R100): Lane-wise signed or floating maximum. -/
  | vmax (sp : BitVec 3) (d : BitVec 5) (a : BitVec 5) (b : BitVec 5) (p : BitVec 3) (ty : BitVec 3) (z : BitVec 1)
  /-- VMINN (R100): Lane-wise natural minimum. -/
  | vminn (sp : BitVec 3) (d : BitVec 5) (a : BitVec 5) (b : BitVec 5) (p : BitVec 3) (ty : BitVec 3) (z : BitVec 1)
  /-- VMAXN (R100): Lane-wise natural maximum. -/
  | vmaxn (sp : BitVec 3) (d : BitVec 5) (a : BitVec 5) (b : BitVec 5) (p : BitVec 3) (ty : BitVec 3) (z : BitVec 1)
  /-- VABS (R100): Lane-wise absolute value. -/
  | vabs (sp : BitVec 3) (d : BitVec 5) (a : BitVec 5) (p : BitVec 3) (ty : BitVec 3) (z : BitVec 1)
  /-- VNEG (R100): Lane-wise negation. -/
  | vneg (sp : BitVec 3) (d : BitVec 5) (a : BitVec 5) (p : BitVec 3) (ty : BitVec 3) (z : BitVec 1)
  /-- VADDS (R100): Lane-wise saturating add. -/
  | vadds (sp : BitVec 3) (d : BitVec 5) (a : BitVec 5) (b : BitVec 5) (p : BitVec 3) (ty : BitVec 3) (nat : BitVec 1) (z : BitVec 1)
  /-- VSUBS (R100): Lane-wise saturating subtract. -/
  | vsubs (sp : BitVec 3) (d : BitVec 5) (a : BitVec 5) (b : BitVec 5) (p : BitVec 3) (ty : BitVec 3) (nat : BitVec 1) (z : BitVec 1)
  /-- VMULH (R100): Lane-wise signed high product. -/
  | vmulh (sp : BitVec 3) (d : BitVec 5) (a : BitVec 5) (b : BitVec 5) (p : BitVec 3) (ty : BitVec 3) (z : BitVec 1)
  /-- VMULHN (R100): Lane-wise natural high product. -/
  | vmulhn (sp : BitVec 3) (d : BitVec 5) (a : BitVec 5) (b : BitVec 5) (p : BitVec 3) (ty : BitVec 3) (z : BitVec 1)
  /-- VDOT (R102): Accumulates pairs or quads of products into wider lanes. -/
  | vdot (sp : BitVec 3) (d : BitVec 5) (a : BitVec 5) (b : BitVec 5) (p : BitVec 3) (ty : BitVec 3) (nat : BitVec 1) (z : BitVec 1)
  /-- VAND (R103): Lane-wise AND. -/
  | vand (sp : BitVec 3) (d : BitVec 5) (a : BitVec 5) (b : BitVec 5) (p : BitVec 3) (ty : BitVec 3) (z : BitVec 1)
  /-- VOR (R103): Lane-wise OR. -/
  | vor (sp : BitVec 3) (d : BitVec 5) (a : BitVec 5) (b : BitVec 5) (p : BitVec 3) (ty : BitVec 3) (z : BitVec 1)
  /-- VXOR (R103): Lane-wise XOR. -/
  | vxor (sp : BitVec 3) (d : BitVec 5) (a : BitVec 5) (b : BitVec 5) (p : BitVec 3) (ty : BitVec 3) (z : BitVec 1)
  /-- VANDN (R103): Lane-wise AND NOT. -/
  | vandn (sp : BitVec 3) (d : BitVec 5) (a : BitVec 5) (b : BitVec 5) (p : BitVec 3) (ty : BitVec 3) (z : BitVec 1)
  /-- VSHL (R103): Lane-wise left shift by lane counts. -/
  | vshl (sp : BitVec 3) (d : BitVec 5) (a : BitVec 5) (b : BitVec 5) (p : BitVec 3) (ty : BitVec 3) (z : BitVec 1)
  /-- VSHR (R103): Lane-wise logical right shift by lane counts. -/
  | vshr (sp : BitVec 3) (d : BitVec 5) (a : BitVec 5) (b : BitVec 5) (p : BitVec 3) (ty : BitVec 3) (z : BitVec 1)
  /-- VSAR (R103): Lane-wise arithmetic right shift by lane counts. -/
  | vsar (sp : BitVec 3) (d : BitVec 5) (a : BitVec 5) (b : BitVec 5) (p : BitVec 3) (ty : BitVec 3) (z : BitVec 1)
  /-- VSHLI (R103): Lane-wise left shift by an immediate. -/
  | vshli (sp : BitVec 3) (d : BitVec 5) (a : BitVec 5) (n : BitVec 5) (p : BitVec 3) (ty : BitVec 3) (z : BitVec 1)
  /-- VSHRI (R103): Lane-wise right shift by an immediate, logical or arithmetic. -/
  | vshri (sp : BitVec 3) (d : BitVec 5) (a : BitVec 5) (n : BitVec 5) (p : BitVec 3) (ty : BitVec 3) (nat : BitVec 1) (z : BitVec 1)
  /-- VPOPC (R103): Lane-wise population count. -/
  | vpopc (sp : BitVec 3) (d : BitVec 5) (a : BitVec 5) (p : BitVec 3) (ty : BitVec 3) (z : BitVec 1)
  /-- VCLZ (R103): Lane-wise leading-zero count. -/
  | vclz (sp : BitVec 3) (d : BitVec 5) (a : BitVec 5) (p : BitVec 3) (ty : BitVec 3) (z : BitVec 1)
  /-- VCMPEQ (R104): Lane-wise equality into a predicate. -/
  | vcmpeq (sp : BitVec 3) (d : BitVec 5) (a : BitVec 5) (b : BitVec 5) (p : BitVec 3) (ty : BitVec 3) (z : BitVec 1)
  /-- VCMPNE (R104): Lane-wise inequality into a predicate. -/
  | vcmpne (sp : BitVec 3) (d : BitVec 5) (a : BitVec 5) (b : BitVec 5) (p : BitVec 3) (ty : BitVec 3) (z : BitVec 1)
  /-- VCMPLT (R104): Lane-wise less-than into a predicate. -/
  | vcmplt (sp : BitVec 3) (d : BitVec 5) (a : BitVec 5) (b : BitVec 5) (p : BitVec 3) (ty : BitVec 3) (z : BitVec 1)
  /-- VCMPLE (R104): Lane-wise less-or-equal into a predicate. -/
  | vcmple (sp : BitVec 3) (d : BitVec 5) (a : BitVec 5) (b : BitVec 5) (p : BitVec 3) (ty : BitVec 3) (z : BitVec 1)
  /-- VCMPLTN (R104): Lane-wise natural less-than into a predicate. -/
  | vcmpltn (sp : BitVec 3) (d : BitVec 5) (a : BitVec 5) (b : BitVec 5) (p : BitVec 3) (ty : BitVec 3) (z : BitVec 1)
  /-- VCMPUN (R104): Lane-wise unordered test into a predicate. -/
  | vcmpun (sp : BitVec 3) (d : BitVec 5) (a : BitVec 5) (b : BitVec 5) (p : BitVec 3) (ty : BitVec 3) (z : BitVec 1)
  /-- VSEL (R105): Selects lanes of two registers under a selector predicate. -/
  | vsel (sp : BitVec 3) (d : BitVec 5) (a : BitVec 5) (b : BitVec 5) (p : BitVec 3) (ty : BitVec 3)
  /-- VMOV (R105): Gated lane copy. -/
  | vmov (sp : BitVec 3) (d : BitVec 5) (a : BitVec 5) (p : BitVec 3) (ty : BitVec 3) (z : BitVec 1)
  /-- VBCAST (R105): Broadcasts an x register into every active lane. -/
  | vbcast (sp : BitVec 3) (d : BitVec 5) (a : BitVec 5) (p : BitVec 3) (ty : BitVec 3) (z : BitVec 1)
  /-- VEXT (R105): Extracts one lane into an x register. -/
  | vext (sp : BitVec 3) (d : BitVec 5) (a : BitVec 5) (b : BitVec 5) (ty : BitVec 3) (nat : BitVec 1)
  /-- VINS (R105): Inserts an x register into one lane. -/
  | vins (sp : BitVec 3) (d : BitVec 5) (a : BitVec 5) (b : BitVec 5) (ty : BitVec 3)
  /-- VPERM (R105): Permutes lanes by an index vector. -/
  | vperm (sp : BitVec 3) (d : BitVec 5) (a : BitVec 5) (b : BitVec 5) (p : BitVec 3) (ty : BitVec 3) (oz : BitVec 1) (z : BitVec 1)
  /-- VROT (R105): Rotates lanes towards lane 0 by k. -/
  | vrot (sp : BitVec 3) (d : BitVec 5) (a : BitVec 5) (b : BitVec 5) (p : BitVec 3) (ty : BitVec 3) (z : BitVec 1)
  /-- VMERGE (R105): Fills the top k lanes of the destination from a source. -/
  | vmerge (sp : BitVec 3) (d : BitVec 5) (a : BitVec 5) (b : BitVec 5) (ty : BitVec 3)
  /-- VIOTA (R105): Writes x[a] + i into lane i. -/
  | viota (sp : BitVec 3) (d : BitVec 5) (a : BitVec 5) (p : BitVec 3) (ty : BitVec 3) (z : BitVec 1)
  /-- VREDADD (R106): Tree-sums the active lanes into an x register. -/
  | vredadd (sp : BitVec 3) (d : BitVec 5) (a : BitVec 5) (p : BitVec 3) (ty : BitVec 3) (nat : BitVec 1)
  /-- VREDMAX (R106): Tree maximum of the active lanes into an x register. -/
  | vredmax (sp : BitVec 3) (d : BitVec 5) (a : BitVec 5) (p : BitVec 3) (ty : BitVec 3) (nat : BitVec 1)
  /-- VREDMIN (R106): Tree minimum of the active lanes into an x register. -/
  | vredmin (sp : BitVec 3) (d : BitVec 5) (a : BitVec 5) (p : BitVec 3) (ty : BitVec 3) (nat : BitVec 1)
  /-- VSCAN (R107): Inclusive prefix sum over active lanes. -/
  | vscan (sp : BitVec 3) (d : BitVec 5) (a : BitVec 5) (p : BitVec 3) (ty : BitVec 3) (z : BitVec 1)
  /-- VCVT (R109): Converts lanes between number formats with one rounding. -/
  | vcvt (sp : BitVec 3) (d : BitVec 5) (a : BitVec 5) (smod : BitVec 1) (sty : BitVec 3) (h : BitVec 3) (ty : BitVec 3) (dmod : BitVec 1) (z : BitVec 1)
  /-- VPACK4 (R110): Packs 32-element blocks into 4-bit codes and scale bytes. -/
  | vpack4 (sp : BitVec 3) (d : BitVec 5) (a : BitVec 5) (b : BitVec 5) (h : BitVec 3) (ty : BitVec 3) (bt : BitVec 2)
  /-- VUNPK4 (R111): Expands 4-bit block codes into a floating format. -/
  | vunpk4 (sp : BitVec 3) (d : BitVec 5) (a : BitVec 5) (b : BitVec 5) (h : BitVec 3) (ty : BitVec 3)
  /-- VCORD (R112): Evaluates a CORDIC function with n iterations on every lane. -/
  | vcord (sp : BitVec 3) (d : BitVec 5) (a : BitVec 5) (n : BitVec 5) (func : BitVec 3) (ty : BitVec 3)
  /-- PAND (R114): AND of two predicates. -/
  | pand (sp : BitVec 3) (d : BitVec 5) (a : BitVec 5) (b : BitVec 5)
  /-- POR (R114): OR of two predicates. -/
  | por (sp : BitVec 3) (d : BitVec 5) (a : BitVec 5) (b : BitVec 5)
  /-- PXOR (R114): XOR of two predicates. -/
  | pxor (sp : BitVec 3) (d : BitVec 5) (a : BitVec 5) (b : BitVec 5)
  /-- PNOT (R114): Complement of a predicate. -/
  | pnot (sp : BitVec 3) (d : BitVec 5) (a : BitVec 5)
  /-- PCNT (R114): Counts active lanes of a predicate. -/
  | pcnt (sp : BitVec 3) (d : BitVec 5) (a : BitVec 5) (ty : BitVec 3)
  /-- PFIRST (R114): Index of the first active lane of a predicate. -/
  | pfirst (sp : BitVec 3) (d : BitVec 5) (a : BitVec 5) (ty : BitVec 3)
  /-- PTAIL (R114): Sets the predicate lanes below x[a]. -/
  | ptail (sp : BitVec 3) (d : BitVec 5) (a : BitVec 5) (ty : BitVec 3)
  /-- MMA (R134): Queues a matrix product with formats from the instruction. -/
  | mma (sp : BitVec 3) (acc : BitVec 2) (a : BitVec 5) (aoff : BitVec 10) (ws : BitVec 3) (bk : BitVec 4) (kgm1 : BitVec 4) (fmtA : BitVec 4) (fmtB : BitVec 4) (z : BitVec 1)
  /-- MMAT (R134): Queues a matrix product with formats from the format table. -/
  | mmat (sp : BitVec 3) (acc : BitVec 2) (a : BitVec 5) (aoff : BitVec 10) (ws : BitVec 3) (bk : BitVec 4) (kgm1 : BitVec 4) (ftoff : BitVec 4) (lvl : BitVec 1) (z : BitVec 1)
  /-- MMAE (R144): Queues a monitored product that may escalate along the format-table chain. -/
  | mmae (sp : BitVec 3) (acc : BitVec 2) (a : BitVec 5) (aoff : BitVec 10) (ws : BitVec 3) (bk : BitVec 4) (kgm1 : BitVec 4) (ftoff : BitVec 4) (lvl : BitVec 1) (z : BitVec 1)
  /-- WBLD (R135): Issues an asynchronous load of scratch rows into a weight-buffer slot. -/
  | wbld (sp : BitVec 3) (ws : BitVec 3) (a : BitVec 5) (roff : BitVec 10) (srow : BitVec 5) (nrm1 : BitVec 5) (kind : BitVec 2) (fmt : BitVec 4) (xfmt : BitVec 4) (tag : BitVec 7) (tg : BitVec 1) (aq : BitVec 1) (scope : BitVec 2)
  /-- WBCLR (R136): Issues an asynchronous clear of weight-buffer slots. -/
  | wbclr (sp : BitVec 3) (mask : BitVec 8) (tag : BitVec 7) (tg : BitVec 1)
  /-- ACCZ (R137): Queues zeroing of accumulators. -/
  | accz (sp : BitVec 3) (mask : BitVec 4)
  /-- ACCRD (R137): Reads an accumulator pair into a v register. -/
  | accrd (sp : BitVec 3) (acc : BitVec 2) (d : BitVec 5) (q : BitVec 4)
  /-- ACCWR (R137): Queues writing a v register into an accumulator pair. -/
  | accwr (sp : BitVec 3) (acc : BitVec 2) (a : BitVec 5) (q : BitVec 4)
  /-- ACCBIAS (R137): Queues adding a bias row to every accumulator row. -/
  | accbias (sp : BitVec 3) (acc : BitVec 2) (a : BitVec 5)
  /-- ACCST (R138): Issues an asynchronous rounded store of an accumulator to scratch. -/
  | accst (sp : BitVec 3) (acc : BitVec 2) (a : BitVec 5) (roff : BitVec 10) (ofmt : BitVec 4) (rm : BitVec 3) (tag : BitVec 7) (tg : BitVec 1) (tw : BitVec 1) (s : BitVec 5) (rel : BitVec 1) (scope : BitVec 2)
  /-- FTSET (R139): Writes a format-table entry. -/
  | ftset (sp : BitVec 3) (e : BitVec 4) (a : BitVec 5)
  /-- FTGET (R139): Reads a format-table entry. -/
  | ftget (sp : BitVec 3) (e : BitVec 4) (d : BitVec 5)
  /-- MONRD (R151): Reads a monitor counter or MBUD after late array operations. -/
  | monrd (sp : BitVec 3) (d : BitVec 5) (which : BitVec 3)
  /-- MONCLR (R151): Clears selected monitor counters. -/
  | monclr (sp : BitVec 3) (mask : BitVec 3)
  /-- MBSET (R151): Writes the monitor budgets. -/
  | mbset (sp : BitVec 3) (a : BitVec 5)
  /-- CPY (R190): Issues a row copy between global memory and scratch, optionally with a slab tag update. -/
  | cpy (sp : BitVec 3) (dir : BitVec 2) (g : BitVec 5) (a : BitVec 5) (roff : BitVec 10) (nrm1 : BitVec 8) (s : BitVec 5) (tw : BitVec 1) (tag : BitVec 7) (tg : BitVec 1) (aq : BitVec 1) (rl : BitVec 1) (scope : BitVec 2) (fe : BitVec 1)
  /-- CPY2 (R190): Issues a strided row copy. -/
  | cpy2 (sp : BitVec 3) (dir : BitVec 2) (g : BitVec 5) (a : BitVec 5) (roff : BitVec 10) (nrm1 : BitVec 8) (st : BitVec 5) (tag : BitVec 7) (tg : BitVec 1) (aq : BitVec 1) (rl : BitVec 1) (scope : BitVec 2) (fe : BitVec 1)
  /-- CPYG (R191): Issues a gather of global rows through an address list. -/
  | cpyg (sp : BitVec 3) (l : BitVec 5) (a : BitVec 5) (roff : BitVec 10) (nrm1 : BitVec 8) (tag : BitVec 7) (tg : BitVec 1) (aq : BitVec 1) (rl : BitVec 1) (scope : BitVec 2) (fe : BitVec 1)
  /-- CPYS (R191): Issues a scatter of rows to global addresses in a list. -/
  | cpys (sp : BitVec 3) (l : BitVec 5) (a : BitVec 5) (roff : BitVec 10) (nrm1 : BitVec 8) (tag : BitVec 7) (tg : BitVec 1) (aq : BitVec 1) (rl : BitVec 1) (scope : BitVec 2) (fe : BitVec 1)
  /-- CPYR (R193): Issues a multicast of global rows to every tile of a window. -/
  | cpyr (sp : BitVec 3) (w : BitVec 5) (g : BitVec 5) (a : BitVec 5) (nrm1 : BitVec 8) (sem : BitVec 6) (sn : BitVec 8) (tag : BitVec 7) (tg : BitVec 1) (aq : BitVec 1) (rl : BitVec 1) (scope : BitVec 2) (fe : BitVec 1)
  /-- CPYT (R190): Issues a copy that starts when the PTC reaches a time. -/
  | cpyt (sp : BitVec 3) (dir : BitVec 2) (g : BitVec 5) (a : BitVec 5) (roff : BitVec 10) (nrm1 : BitVec 8) (tm : BitVec 5) (tag : BitVec 7) (tg : BitVec 1) (aq : BitVec 1) (rl : BitVec 1) (scope : BitVec 2) (fe : BitVec 1)
  /-- CPYX (R192): Issues a copy of rows to another tile with an optional semaphore add. -/
  | cpyx (sp : BitVec 3) (t : BitVec 5) (b : BitVec 5) (a : BitVec 5) (nrm1 : BitVec 8) (sem : BitVec 6) (sn : BitVec 8) (tag : BitVec 7) (tg : BitVec 1) (aq : BitVec 1) (rl : BitVec 1) (scope : BitVec 2) (fe : BitVec 1)
  /-- TWANY (R195): Waits for any masked tag and returns it. -/
  | twany (sp : BitVec 3) (d : BitVec 5) (m : BitVec 5)
  /-- TWALL (R195): Waits for all masked tags and returns any error. -/
  | twall (sp : BitVec 3) (d : BitVec 5) (m : BitVec 5)
  /-- TFFR (R195): Finds, returns and clears the first set masked tag without waiting. -/
  | tffr (sp : BitVec 3) (d : BitVec 5) (m : BitVec 5)
  /-- TCLR (R195): Clears masked TB and TE bits. -/
  | tclr (sp : BitVec 3) (m : BitVec 5)
  /-- WAIT (R195): Waits until selected outstanding counters are at or below a limit. -/
  | wait (sp : BitVec 3) (cm : BitVec 4) (lim : BitVec 7)
  /-- SEMSIG (R208): Release that adds to or sets a local or remote semaphore. -/
  | semsig (sp : BitVec 3) (t : BitVec 5) (loc : BitVec 1) (sem : BitVec 6) (n : BitVec 8) (md : BitVec 1) (scope : BitVec 2)
  /-- SEMWAIT (R209): Acquire that waits for a semaphore count and decrements it. -/
  | semwait (sp : BitVec 3) (sem : BitVec 6) (n : BitVec 8) (nd : BitVec 1) (scope : BitVec 2)
  /-- SEMRD (R210): Reads a semaphore count and OVF as an acquire. -/
  | semrd (sp : BitVec 3) (d : BitVec 5) (sem : BitVec 6) (scope : BitVec 2)
  /-- BARARV (R266): Arrives at a named barrier or sets its expected count. -/
  | bararv (sp : BitVec 3) (r : BitVec 5) (loc : BitVec 1) (bar : BitVec 6) (n : BitVec 8) (md : BitVec 1) (scope : BitVec 2)
  /-- BARWT (R267): Waits until a barrier's generation changes. -/
  | barwt (sp : BitVec 3) (g : BitVec 5) (bar : BitVec 6) (scope : BitVec 2)
  /-- TREEARV (R270): Sends an AND-tree arrival and returns TGEN. -/
  | treearv (sp : BitVec 3) (d : BitVec 5) (tr : BitVec 3) (scope : BitVec 2)
  /-- TREEWT (R270): Waits until the tile's TGEN changes. -/
  | treewt (sp : BitVec 3) (g : BitVec 5) (tr : BitVec 3) (scope : BitVec 2)
  /-- TREEMASK (R271): Writes an AND-tree segment mask (supervisor only). -/
  | treemask (sp : BitVec 3) (a : BitVec 5) (b : BitVec 5) (tr : BitVec 3)
  /-- NEXT (R240): Sends a next-work request to the dispatcher. -/
  | next (sp : BitVec 3)
  /-- LAUNCH (R235): Issues a launch from a spec with slot and dependence counting. -/
  | launch (sp : BitVec 3) (d : BitVec 5) (a : BitVec 5) (slot : BitVec 4) (dep : BitVec 16) (j : BitVec 5) (oj : BitVec 1)
  /-- TASK (R282): Issues an operator task dispatched by slab tags and the method table. -/
  | task (sp : BitVec 3) (d : BitVec 5) (a : BitVec 5) (b : BitVec 5) (c : BitVec 5) (n : BitVec 2) (slot : BitVec 4) (dep : BitVec 16)
  /-- DONE_UNIT (R245): Ends the issuing unit after its outstanding work drains. -/
  | doneUnit (sp : BitVec 3)
  /-- DONE_ITEM (R245): Reports a work item finished to the dispatcher. -/
  | doneItem (sp : BitVec 3) (a : BitVec 5)
  /-- CANCEL (R248): Cancels a launch, graph instance, phase or job. -/
  | cancel (sp : BitVec 3) (a : BitVec 5) (lvl : BitVec 2)
  /-- SLABTAG (R278): Reads, sets or updates a slab tag as a returning global atomic. -/
  | slabtag (sp : BitVec 3) (d : BitVec 5) (a : BitVec 5) (md : BitVec 2) (q : BitVec 2)
  /-- CLKDIV (R260): Reads the divisors and schedules new ones for issue cycle t + 16. -/
  | clkdiv (sp : BitVec 3) (fc : BitVec 4) (fv : BitVec 4) (fm : BitVec 4) (fy : BitVec 4) (d : BitVec 5)
  /-- TIMEWT (R217): Waits until the die's PTC reaches a value. -/
  | timewt (sp : BitVec 3) (a : BitVec 5)
  /-- BRA (R51): Unconditional branch. -/
  | bra (sp : BitVec 3) (off : BitVec 18)
  /-- BZ (R51): Branch if x[c] is zero. -/
  | bz (sp : BitVec 3) (c : BitVec 5) (off : BitVec 18)
  /-- BNZ (R51): Branch if x[c] is non-zero. -/
  | bnz (sp : BitVec 3) (c : BitVec 5) (off : BitVec 18)
  /-- BLTZ (R51): Branch if x[c] is negative. -/
  | bltz (sp : BitVec 3) (c : BitVec 5) (off : BitVec 18)
  /-- BGEZ (R51): Branch if x[c] is not negative. -/
  | bgez (sp : BitVec 3) (c : BitVec 5) (off : BitVec 18)
  /-- LOOPB (R49): Loop branch that steps LC, DC and the stage window. -/
  | loopb (sp : BitVec 3) (lvl : BitVec 1) (off : BitVec 18)
  /-- LOOPSET (R48): Sets a loop counter and, at level 0, the drain count and stage window. -/
  | loopset (sp : BitVec 3) (lvl : BitVec 1) (a : BitVec 5) (n : BitVec 13)
  /-- CALL (R51): Branches and writes the link value to x31. -/
  | call (sp : BitVec 3) (off : BitVec 18)
  /-- JR (R51): Jumps to the address in x[a]. -/
  | jr (sp : BitVec 3) (a : BitVec 5)
  /-- JALR (R51): Jumps to x[a] and writes the link value to x[d]. -/
  | jalr (sp : BitVec 3) (d : BitVec 5) (a : BitVec 5)
  /-- TRAP (R53): Raises a software trap with number n. -/
  | trap (sp : BitVec 3) (n : BitVec 12)
  /-- ERET (R372): Returns from a trap handler to EPC. -/
  | eret (sp : BitVec 3)
  /-- SRD (R56): Reads a system register into x[d]. -/
  | srd (sp : BitVec 3) (d : BitVec 5) (reg : BitVec 12)
  /-- SWR (R56): Writes x[a] to a system register under its access code. -/
  | swr (sp : BitVec 3) (a : BitVec 5) (reg : BitVec 12)
  /-- FENCE (R205): Orders the context's global accesses across queues. -/
  | fence (sp : BitVec 3) (kind : BitVec 2) (scope : BitVec 2)
  /-- HALT (R54): Stops the context once its outstanding results and counters drain. -/
  | halt (sp : BitVec 3)
  /-- LOCQ (R176): Queries home site, hop count and latency band of an address. -/
  | locq (sp : BitVec 3) (d : BitVec 5) (a : BitVec 5)
  /-- TSR (R215): Reads the die's PTC into x[d]. -/
  | tsr (sp : BitVec 3) (d : BitVec 5)
  /-- CYC (R55): Reads ISSCNT or RPLCNT into x[d]. -/
  | cyc (sp : BitVec 3) (d : BitVec 5) (n : BitVec 1)
  /-- EMPTY_BUNDLE (R25): A header-only bundle that takes one issue cycle. -/
  | emptyBundle (ckpt : BitVec 1) (solo : BitVec 1)
  /-- RESULT_DUE (R262): An exposed-latency write falls due in its fixed issue cycle, setting its flags. -/
  | resultDue (t : Nat) (h : Nat)
  /-- CLKDIV_APPLY (R260): New clock divisors take effect at issue cycle t + 16. -/
  | clkdivApply (t : Nat)
  /-- ARRAY_PHASE_START (R126): The oldest queued array operation starts its array phase and frees a queue place. -/
  | arrayPhaseStart (t : Nat)
  /-- MMAE_ESCALATION (R144): A pass whose counts exceed the budget is discarded and the next pass starts with wider operands. -/
  | mmaeEscalation (t : Nat)
  /-- ARRAY_OPERATION_DUE (R126): An array operation falls due and writes its accumulator, counts and flags. -/
  | arrayOperationDue (t : Nat)
  /-- MATRIX_COMMAND_COMPLETION (R422): A WBLD, WBCLR or ACCST moves its last row and completes, updating OMX and its tag. -/
  | matrixCommandCompletion (t : Nat) (id : Nat)
  /-- COPY_COMMAND_START (R178): A queued copy command takes a free active place and starts. -/
  | copyCommandStart (t : Nat)
  /-- CPYT_START (R190): A timed copy starts when its die's PTC reaches its time. -/
  | cpytStart (t : Nat) (id : Nat)
  /-- COPY_ROW_LAND (R184): A copy row is written in scratch or performed at its home port. -/
  | copyRowLand (rid : Nat)
  /-- COPY_COMPLETION (R184): A copy completes after its rows, adds and tag write, updating OCP and its tag. -/
  | copyCompletion (t : Nat) (id : Nat)
  /-- GLOBAL_LOAD_COMPLETION (R171): A global load or LOCQ reply writes its pending destination and decrements OLD. -/
  | globalLoadCompletion (rid : Nat)
  /-- GLOBAL_ACK_ARRIVAL (R353): An acknowledgement reaches the source, freeing retry buffer and decrementing OST. -/
  | globalAckArrival (pid : Nat)
  /-- GLOBAL_ACCESS_ERROR (R172): A global access completes with an error and the context traps at its next bundle boundary. -/
  | globalAccessError (rid : Nat) (cause : Nat)
  /-- TRANSLATION_WALK (R304): A page walk completes and fills the TLB or faults. -/
  | translationWalk (die : Nat) (rid : Nat)
  /-- HOME_PORT_ACCESS (R197): A request is performed at the home memory port, atomics indivisibly. -/
  | homePortAccess (rid : Nat) (corrected : Bool := false)
  /-- REDUCTION_APPLY (R358): The home applies each not-yet-performed GRED constituent once. -/
  | reductionApply (pid : Nat)
  /-- PACKET_ARRIVAL (R353): An ordered packet arrives and is delivered, discarded as duplicate or out of order. -/
  | packetArrival (pid : Nat) (noise : Nat := 0)
  /-- MERGE_ENTRY_SEND (R357): A merge entry is sent when MW passes or it holds 16 constituents. -/
  | mergeEntrySend (node : Nat) (e : Nat)
  /-- RETRANSMIT_TIMEOUT (R354): The oldest unacknowledged packet reaches RTO and the stream is resent. -/
  | retransmitTimeout (node : Nat) (dest : Nat) (cls : Nat)
  /-- LINK_LEVEL_RETRY (R345): A flit fails its CRC and is retried on the link. -/
  | linkLevelRetry (edge : Nat) (m : Nat) (lane : Nat) (failed : Bool := false)
  /-- MODULE_OUT_OF_SERVICE (R347): A UCIe module leaves service and its unacknowledged beats go on other modules. -/
  | moduleOutOfService (edge : Nat) (m : Nat)
  /-- MODULE_RETRAIN_END (R347): A module finishes retraining and lane repair, returning or staying out. -/
  | moduleRetrainEnd (edge : Nat) (m : Nat) (ok : Bool) (lanes : List Nat := [])
  /-- EDGE_FAILURE (R350): An edge is declared failed and packets reaching it are discarded. -/
  | edgeFailure (edge : Nat)
  /-- NODE_RESET (R360): A node enters or leaves reset, changing reachability and routes. -/
  | nodeReset (node : Nat) (enter : Bool)
  /-- ROUTE_TABLE_ADOPTION (R350): A node adopts new routes at D + TRT and aborts requests to unreachable nodes. -/
  | routeTableAdoption (node : Nat)
  /-- SCALE_OUT_RETRAIN (R362): A scale-out port retrains while its partner carries traffic. -/
  | scaleOutRetrain (port : Nat) (up : Bool)
  /-- PTC_ALIGNMENT (R213): An alignment exchange message adjusts a die's time counter. -/
  | ptcAlignment (node : Nat) (skip : Bool)
  /-- SEMAPHORE_UPDATE (R206): Adds and sets reaching a semaphore apply at the end of the control cycle. -/
  | semaphoreUpdate (t : Nat)
  /-- BARRIER_UPDATE (R265): Arrivals reaching a barrier apply and may complete generations. -/
  | barrierUpdate (t : Nat)
  /-- TREE_ARRIVAL_AT_ROOT (R269): A tree arrival reaches the root, sets ARV and may complete the tree. -/
  | treeArrivalAtRoot (job : Nat) (tree : Nat) (t : Nat)
  /-- TREE_MASK_AT_ROOT (R271): A mask change reaches the root and may complete the tree. -/
  | treeMaskAtRoot (job : Nat) (tree : Nat) (row : Nat) (k : Nat) (mask : (BitVec 25))
  /-- TGEN_INCREMENT (R269): A tile increments TGEN at C + down(b). -/
  | tgenIncrement (job : Nat) (tree : Nat) (die : Nat)
  /-- NEXT_ROTATE (R240): At t + 32 the reply is shifted into NQ3, freezing the tile if late. -/
  | nextRotate (t : Nat) (h : Nat)
  /-- NEXT_REPLY_ARRIVAL (R240): A late NEXT reply arrives and ends the freeze. -/
  | nextReplyArrival (t : Nat) (h : Nat)
  /-- NEXT_REQUEST_SERVICE (R242): The dispatcher answers a NEXT request with an item, IDLE, MOV or NUL. -/
  | nextRequestService (t : Nat) (h : Nat)
  /-- ITEM_REPORT (R245): A done.item report is performed at the dispatcher. -/
  | itemReport (rid : Nat)
  /-- LAUNCH_READY (R235): A launch's dependences are satisfied and its spec read begins. -/
  | launchReady (job : Nat) (lid : Nat)
  /-- LAUNCH_SPEC_READ (R236): The spec read completes and the launch is validated or failed. -/
  | launchSpecRead (job : Nat) (lid : Nat)
  /-- UNIT_PLACEMENT (R237): The dispatcher places the next unit when resources in its window free. -/
  | unitPlacement (job : Nat) (lid : Nat)
  /-- UNIT_END (R239): A unit ends once its contexts halt and counters drain, freeing resources. -/
  | unitEnd (job : Nat) (uid : Nat)
  /-- LAUNCH_COMPLETE (R234): A launch completes, writes its status record and releases its slot. -/
  | launchComplete (job : Nat) (lid : Nat)
  /-- TASK_DISPATCH (R282): A ready task reads tags and the method table and launches or converts. -/
  | taskDispatch (job : Nat) (lid : Nat)
  /-- GRAPH_INSTANCE_START (R230): A RUN-GRAPH record starts in the first free graph context of the partition. -/
  | graphInstanceStart (seq : Nat)
  /-- GRAPH_INSTANCE_COMPLETE (R230): A graph instance completes after its context halts and its work completes. -/
  | graphInstanceComplete (job : Nat) (inst : Nat)
  /-- PHASE_COMPLETE (R247): A closed phase completes and the next phase's instances may start. -/
  | phaseComplete (job : Nat)
  /-- JOB_CLEARING (R308): A completed or cancelled job's state is cleared on its dies. -/
  | jobClearing (job : Nat)
  /-- JOB_CLEARING_END (R306): Clearing ends and the CREATE-JOB record reaches its final state. -/
  | jobClearingEnd (job : Nat)
  /-- CHECKPOINT_COMMIT (R327): A checkpoint region commits, snapshots state and starts deferred commands. -/
  | checkpointCommit (t : Nat)
  /-- TIMING_REPLAY (R322): A shadow latch flag squashes four issue cycles and reissues them at half rate. -/
  | timingReplay (t : Nat) (back : Nat) (restarts : (List Nat))
  /-- KGROUP_REPLAY (R326): A matrix k-group is flagged and rerun at half rate while the tile freezes. -/
  | kgroupReplay (t : Nat) (restarts : (List Nat))
  /-- DATA_ERROR_ROLLBACK (R332): A data error restores the snapshot and reruns the region twice. -/
  | dataErrorRollback (t : Nat) (kind : Nat)
  /-- TRAP_ENTRY (R371): A trap is taken, writing the record and entering the firmware handler. -/
  | trapEntry (t : Nat) (h : Nat)
  /-- PRE_EMPTION (R379): The firmware stops and saves every tile of a partition. -/
  | preEmption (job : Nat)
  /-- RESTORE (R380): Saved partition images are written back and contexts resume. -/
  | restore (job : Nat)
  /-- PREDICTIVE_LEAK (R342): Every 1 ms each leaky-bucket counter loses LEAK. -/
  | predictiveLeak (node : Nat := 0)
  /-- CHINOOK_WINDOW_END (R387): A Chinook window ends and the tile voltage steps up, down or holds. -/
  | chinookWindowEnd (t : Nat)
  /-- CHINOOK_FLASH_WRITE (R388): Chinook writes learned tables to NOR flash, at most hourly. -/
  | chinookFlashWrite (t : Nat)
  /-- THROTTLE_STEP (R393): At each 200 ns step a region sets N from its limits and current slope. -/
  | throttleStep (region : Nat) (ik : Nat) (i0 : Nat)
  /-- DROOP_ALARM (R392): A droop alarm stretches the region's clock. -/
  | droopAlarm (region : Nat) (begun : Bool := false) (lasts : Nat := 0)
  /-- DROOP_STRETCH_RELAX (R392): The stretch steps back 12.5 % per 128 ns after alarms stop. -/
  | droopStretchRelax (region : Nat)
  /-- POWER_CAP_EVALUATION (R395): Module power is compared with PWRCAP and the cap limit or ballast adjusts. -/
  | powerCapEvaluation (power : Nat)
  /-- PACING_EVALUATION (R396): Every 10 µs region slack sets pacing limits. -/
  | pacingEvaluation (job : Nat) (slacks : (List (Nat × Nat)))
  /-- TEMPERATURE_READ (R397): Cluster sensors are read and thermal limits, warnings and trips apply. -/
  | temperatureRead (die : Nat) (temps : (List Nat))
  /-- INPUT_SAG (R398): Input below 42 V sets every sag limit to 13. -/
  | inputSag (volt : Nat)
  /-- SAG_RECOVERY (R398): Input at 43 V for 100 µs restores the sag limit. -/
  | sagRecovery (volt : Nat)
  /-- SAG_TIMEOUT (R398): A sag lasting 5 ms starts the emergency sequence. -/
  | sagTimeout
  /-- INTERNAL_BUS_LOW (R399): The internal bus below 36 V removes every compute rail. -/
  | internalBusLow
  /-- EMERGENCY_SEQUENCE (R401): Partitions are saved, tables written and compute rails removed. -/
  | emergencySequence (thermal : Bool)
  /-- POWER_ENABLE_LOW (R402): Power-enable low is ignored, starts a warm restart, or removes rails by its length. -/
  | powerEnableLow (micros : Nat)
  /-- INPUT_REMOVAL (R385): Removing input or over-voltage removes every rail. -/
  | inputRemoval
  /-- MODULE_RESET (R319): The boot ROM verifies and loads firmware on every supervisor tile. -/
  | moduleReset (recovery : Bool) (cd24ok : Bool)
  /-- FLASH_WRITE (R405): A host write through window 4 in recovery programs the NOR flash. -/
  | flashWrite (port : Nat) (off : Nat) (bytes : (List (BitVec 8)))
  /-- COMMAND_RECORD_WRITE (R311): A host writes a 64-byte record that enters the intake or is dropped. -/
  | commandRecordWrite (port : Nat) (off : Nat) (size : Nat) (data : (BitVec 512))
  /-- RECORD_ACCEPT (R18): A supervisor tile accepts a record, numbers and journals it. -/
  | recordAccept (port : Nat)
  /-- CREATE_JOB (R306): Creates a job on a partition of whole compute dies. -/
  | createJob (seq : Nat)
  /-- LOAD_RANGE (R305): Writes a range entry and completes after TLB invalidation. -/
  | loadRange (seq : Nat)
  /-- LOAD_INVAL (R305): Invalidates TLB entries for an address range. -/
  | loadInval (seq : Nat)
  /-- LOAD_METHOD (R279): Sets the job's method table address and count. -/
  | loadMethod (seq : Nat)
  /-- LOAD_GRAPH (R315): Loads a graph kernel with SERIAL and STRICT flags. -/
  | loadGraph (seq : Nat)
  /-- RUN_GRAPH (R246): Requests a graph instance in a phase. -/
  | runGraph (seq : Nat)
  /-- CANCEL_RECORD (R248): Host cancel of a launch, instance, phase or job, or close of the job. -/
  | cancelRecord (seq : Nat)
  /-- QUERY (R321): Writes the status block, a signed quote, the log or identity certificates. -/
  | query (seq : Nat) (hostOk : Bool)
  /-- SELF_TEST (R403): Runs transport or quick tests and sets PASS and MSTATE. -/
  | selfTest (seq : Nat) (fails : (List Nat))
  /-- SET_POLICY_TREE (R315): Writes an AND-tree segment mask through a firmware TREEMASK. -/
  | setPolicyTree (seq : Nat)
  /-- SET_POLICY_PCAP (R404): Writes PCAP. -/
  | setPolicyPcap (seq : Nat)
  /-- SET_POLICY_CSLR (R404): Writes the CSLR of one or every region. -/
  | setPolicyCslr (seq : Nat)
  /-- SET_POLICY_MARKS (R344): Sets FILL, LEAK and MARK of one predictive-failure kind. -/
  | setPolicyMarks (seq : Nat)
  /-- COMPLETION_RECORD (R314): A record's final state writes a completion record and signals vector 0. -/
  | completionRecord (seq : Nat)
  /-- HSEM_CLAIM (R312): A port's claim write takes a free hardware semaphore. -/
  | hsemClaim (port : Nat) (idx : Nat) (p : Nat)
  /-- HSEM_RELEASE (R312): The owner's zero write releases a hardware semaphore. -/
  | hsemRelease (port : Nat) (idx : Nat)
  /-- HOST_LINK_DOWN (R312): A port's link goes down, releasing every semaphore it holds. -/
  | hostLinkDown (port : Nat)
  /-- APERTURE_READ (R313): A host read through window 4, translated by APCTL mode. -/
  | apertureRead (port : Nat) (off : Nat) (len : Nat)
  /-- APERTURE_WRITE (R313): A host posted write through window 4, dropped when refused. -/
  | apertureWrite (port : Nat) (off : Nat) (bytes : (List (BitVec 8)))
  /-- REGISTER_WRITE (R7): A write to a host-window register without its own row. -/
  | registerWrite (port : Nat) (off : Nat) (value : (BitVec 64))
  /-- ACKNOWLEDGEMENT_DEPARTURE (R353): A destination sends a class 2 acknowledgement covering its deliveries and duplicates up to ACKO, at a moment it chooses within ACKD ticks of them. -/
  | acknowledgementDeparture (node : Nat) (src : Nat) (cls : Nat)
  deriving DecidableEq, Repr

/-- A decoded bundle (R22): its flags, its length in bytes and its slots in ascending PM order, each with its class. -/
structure Bundle where
  ckpt : Bool
  solo : Bool
  len : Nat
  slots : List (SlotClass × Instr)
  deriving DecidableEq, Repr

/-- The stage field of an operation (R29); an event has none and is unguarded. -/
def Instr.sp : Instr → BitVec 3
  | .add sp _ _ _ => sp
  | .sub sp _ _ _ => sp
  | .and sp _ _ _ => sp
  | .or sp _ _ _ => sp
  | .xor sp _ _ _ => sp
  | .andn sp _ _ _ => sp
  | .shl sp _ _ _ => sp
  | .shr sp _ _ _ => sp
  | .sar sp _ _ _ => sp
  | .rol sp _ _ _ => sp
  | .min sp _ _ _ => sp
  | .max sp _ _ _ => sp
  | .minn sp _ _ _ => sp
  | .maxn sp _ _ _ => sp
  | .seq sp _ _ _ => sp
  | .slt sp _ _ _ => sp
  | .sltn sp _ _ _ => sp
  | .sel sp _ _ _ _ => sp
  | .clz sp _ _ _ => sp
  | .popc sp _ _ _ => sp
  | .addsh sp _ _ _ _ => sp
  | .addw sp _ _ _ => sp
  | .bext sp _ _ _ _ _ => sp
  | .bins sp _ _ _ _ => sp
  | .mul sp _ _ _ => sp
  | .mulh sp _ _ _ => sp
  | .mulhn sp _ _ _ => sp
  | .div sp _ _ _ => sp
  | .divn sp _ _ _ => sp
  | .rem sp _ _ _ => sp
  | .remn sp _ _ _ => sp
  | .addi sp _ _ _ => sp
  | .andi sp _ _ _ => sp
  | .ori sp _ _ _ => sp
  | .xori sp _ _ _ => sp
  | .shli sp _ _ _ => sp
  | .shri sp _ _ _ => sp
  | .sari sp _ _ _ => sp
  | .slti sp _ _ _ => sp
  | .sltni sp _ _ _ => sp
  | .seqi sp _ _ _ => sp
  | .movl sp _ _ => sp
  | .cati sp _ _ => sp
  | .ldx sp _ _ _ => sp
  | .stx sp _ _ _ => sp
  | .ldv sp _ _ _ => sp
  | .stv sp _ _ _ => sp
  | .stvp sp _ _ _ _ => sp
  | .ldxf sp _ _ _ => sp
  | .stxe sp _ _ _ => sp
  | .ldvf sp _ _ _ => sp
  | .stve sp _ _ _ => sp
  | .setfe sp _ _ _ => sp
  | .getfe sp _ _ _ => sp
  | .ldsp sp _ _ => sp
  | .stsp sp _ _ => sp
  | .ldspv sp _ _ => sp
  | .stspv sp _ _ => sp
  | .aadd sp _ _ _ _ => sp
  | .amin sp _ _ _ _ => sp
  | .amax sp _ _ _ _ => sp
  | .aminn sp _ _ _ _ => sp
  | .amaxn sp _ _ _ _ => sp
  | .aand sp _ _ _ _ => sp
  | .aor sp _ _ _ _ => sp
  | .axor sp _ _ _ _ => sp
  | .aswp sp _ _ _ _ => sp
  | .acas sp _ _ _ _ => sp
  | .vaor sp _ _ _ => sp
  | .vaadd sp _ _ _ => sp
  | .gldx sp _ _ _ _ => sp
  | .gstx sp _ _ _ _ => sp
  | .gldv sp _ _ _ _ => sp
  | .gstv sp _ _ _ _ => sp
  | .gamo sp _ _ _ _ _ _ => sp
  | .gred sp _ _ _ _ => sp
  | .drain sp _ _ => sp
  | .vadd sp _ _ _ _ _ _ => sp
  | .vsub sp _ _ _ _ _ _ => sp
  | .vmul sp _ _ _ _ _ _ => sp
  | .vfma sp _ _ _ _ _ _ => sp
  | .vfms sp _ _ _ _ _ _ => sp
  | .vmin sp _ _ _ _ _ _ => sp
  | .vmax sp _ _ _ _ _ _ => sp
  | .vminn sp _ _ _ _ _ _ => sp
  | .vmaxn sp _ _ _ _ _ _ => sp
  | .vabs sp _ _ _ _ _ => sp
  | .vneg sp _ _ _ _ _ => sp
  | .vadds sp _ _ _ _ _ _ _ => sp
  | .vsubs sp _ _ _ _ _ _ _ => sp
  | .vmulh sp _ _ _ _ _ _ => sp
  | .vmulhn sp _ _ _ _ _ _ => sp
  | .vdot sp _ _ _ _ _ _ _ => sp
  | .vand sp _ _ _ _ _ _ => sp
  | .vor sp _ _ _ _ _ _ => sp
  | .vxor sp _ _ _ _ _ _ => sp
  | .vandn sp _ _ _ _ _ _ => sp
  | .vshl sp _ _ _ _ _ _ => sp
  | .vshr sp _ _ _ _ _ _ => sp
  | .vsar sp _ _ _ _ _ _ => sp
  | .vshli sp _ _ _ _ _ _ => sp
  | .vshri sp _ _ _ _ _ _ _ => sp
  | .vpopc sp _ _ _ _ _ => sp
  | .vclz sp _ _ _ _ _ => sp
  | .vcmpeq sp _ _ _ _ _ _ => sp
  | .vcmpne sp _ _ _ _ _ _ => sp
  | .vcmplt sp _ _ _ _ _ _ => sp
  | .vcmple sp _ _ _ _ _ _ => sp
  | .vcmpltn sp _ _ _ _ _ _ => sp
  | .vcmpun sp _ _ _ _ _ _ => sp
  | .vsel sp _ _ _ _ _ => sp
  | .vmov sp _ _ _ _ _ => sp
  | .vbcast sp _ _ _ _ _ => sp
  | .vext sp _ _ _ _ _ => sp
  | .vins sp _ _ _ _ => sp
  | .vperm sp _ _ _ _ _ _ _ => sp
  | .vrot sp _ _ _ _ _ _ => sp
  | .vmerge sp _ _ _ _ => sp
  | .viota sp _ _ _ _ _ => sp
  | .vredadd sp _ _ _ _ _ => sp
  | .vredmax sp _ _ _ _ _ => sp
  | .vredmin sp _ _ _ _ _ => sp
  | .vscan sp _ _ _ _ _ => sp
  | .vcvt sp _ _ _ _ _ _ _ _ => sp
  | .vpack4 sp _ _ _ _ _ _ => sp
  | .vunpk4 sp _ _ _ _ _ => sp
  | .vcord sp _ _ _ _ _ => sp
  | .pand sp _ _ _ => sp
  | .por sp _ _ _ => sp
  | .pxor sp _ _ _ => sp
  | .pnot sp _ _ => sp
  | .pcnt sp _ _ _ => sp
  | .pfirst sp _ _ _ => sp
  | .ptail sp _ _ _ => sp
  | .mma sp _ _ _ _ _ _ _ _ _ => sp
  | .mmat sp _ _ _ _ _ _ _ _ _ => sp
  | .mmae sp _ _ _ _ _ _ _ _ _ => sp
  | .wbld sp _ _ _ _ _ _ _ _ _ _ _ _ => sp
  | .wbclr sp _ _ _ => sp
  | .accz sp _ => sp
  | .accrd sp _ _ _ => sp
  | .accwr sp _ _ _ => sp
  | .accbias sp _ _ => sp
  | .accst sp _ _ _ _ _ _ _ _ _ _ _ => sp
  | .ftset sp _ _ => sp
  | .ftget sp _ _ => sp
  | .monrd sp _ _ => sp
  | .monclr sp _ => sp
  | .mbset sp _ => sp
  | .cpy sp _ _ _ _ _ _ _ _ _ _ _ _ _ => sp
  | .cpy2 sp _ _ _ _ _ _ _ _ _ _ _ _ => sp
  | .cpyg sp _ _ _ _ _ _ _ _ _ _ => sp
  | .cpys sp _ _ _ _ _ _ _ _ _ _ => sp
  | .cpyr sp _ _ _ _ _ _ _ _ _ _ _ _ => sp
  | .cpyt sp _ _ _ _ _ _ _ _ _ _ _ _ => sp
  | .cpyx sp _ _ _ _ _ _ _ _ _ _ _ _ => sp
  | .twany sp _ _ => sp
  | .twall sp _ _ => sp
  | .tffr sp _ _ => sp
  | .tclr sp _ => sp
  | .wait sp _ _ => sp
  | .semsig sp _ _ _ _ _ _ => sp
  | .semwait sp _ _ _ _ => sp
  | .semrd sp _ _ _ => sp
  | .bararv sp _ _ _ _ _ _ => sp
  | .barwt sp _ _ _ => sp
  | .treearv sp _ _ _ => sp
  | .treewt sp _ _ _ => sp
  | .treemask sp _ _ _ => sp
  | .next sp => sp
  | .launch sp _ _ _ _ _ _ => sp
  | .task sp _ _ _ _ _ _ _ => sp
  | .doneUnit sp => sp
  | .doneItem sp _ => sp
  | .cancel sp _ _ => sp
  | .slabtag sp _ _ _ _ => sp
  | .clkdiv sp _ _ _ _ _ => sp
  | .timewt sp _ => sp
  | .bra sp _ => sp
  | .bz sp _ _ => sp
  | .bnz sp _ _ => sp
  | .bltz sp _ _ => sp
  | .bgez sp _ _ => sp
  | .loopb sp _ _ => sp
  | .loopset sp _ _ _ => sp
  | .call sp _ => sp
  | .jr sp _ => sp
  | .jalr sp _ _ => sp
  | .trap sp _ => sp
  | .eret sp => sp
  | .srd sp _ _ => sp
  | .swr sp _ _ => sp
  | .fence sp _ _ => sp
  | .halt sp => sp
  | .locq sp _ _ => sp
  | .tsr sp _ => sp
  | .cyc sp _ _ => sp
  | .emptyBundle _ _ => 0
  | .resultDue _ _ => 0
  | .clkdivApply _ => 0
  | .arrayPhaseStart _ => 0
  | .mmaeEscalation _ => 0
  | .arrayOperationDue _ => 0
  | .matrixCommandCompletion _ _ => 0
  | .copyCommandStart _ => 0
  | .cpytStart _ _ => 0
  | .copyRowLand _ => 0
  | .copyCompletion _ _ => 0
  | .globalLoadCompletion _ => 0
  | .globalAckArrival _ => 0
  | .globalAccessError _ _ => 0
  | .translationWalk _ _ => 0
  | .homePortAccess _ _ => 0
  | .reductionApply _ => 0
  | .packetArrival _ _ => 0
  | .mergeEntrySend _ _ => 0
  | .retransmitTimeout _ _ _ => 0
  | .linkLevelRetry _ _ _ _ => 0
  | .moduleOutOfService _ _ => 0
  | .moduleRetrainEnd _ _ _ _ => 0
  | .edgeFailure _ => 0
  | .nodeReset _ _ => 0
  | .routeTableAdoption _ => 0
  | .scaleOutRetrain _ _ => 0
  | .ptcAlignment _ _ => 0
  | .semaphoreUpdate _ => 0
  | .barrierUpdate _ => 0
  | .treeArrivalAtRoot _ _ _ => 0
  | .treeMaskAtRoot _ _ _ _ _ => 0
  | .tgenIncrement _ _ _ => 0
  | .nextRotate _ _ => 0
  | .nextReplyArrival _ _ => 0
  | .nextRequestService _ _ => 0
  | .itemReport _ => 0
  | .launchReady _ _ => 0
  | .launchSpecRead _ _ => 0
  | .unitPlacement _ _ => 0
  | .unitEnd _ _ => 0
  | .launchComplete _ _ => 0
  | .taskDispatch _ _ => 0
  | .graphInstanceStart _ => 0
  | .graphInstanceComplete _ _ => 0
  | .phaseComplete _ => 0
  | .jobClearing _ => 0
  | .jobClearingEnd _ => 0
  | .checkpointCommit _ => 0
  | .timingReplay _ _ _ => 0
  | .kgroupReplay _ _ => 0
  | .dataErrorRollback _ _ => 0
  | .trapEntry _ _ => 0
  | .preEmption _ => 0
  | .restore _ => 0
  | .predictiveLeak _ => 0
  | .chinookWindowEnd _ => 0
  | .chinookFlashWrite _ => 0
  | .throttleStep _ _ _ => 0
  | .droopAlarm _ _ _ => 0
  | .droopStretchRelax _ => 0
  | .powerCapEvaluation _ => 0
  | .pacingEvaluation _ _ => 0
  | .temperatureRead _ _ => 0
  | .inputSag _ => 0
  | .sagRecovery _ => 0
  | .sagTimeout => 0
  | .internalBusLow => 0
  | .emergencySequence _ => 0
  | .powerEnableLow _ => 0
  | .inputRemoval => 0
  | .moduleReset _ _ => 0
  | .flashWrite _ _ _ => 0
  | .commandRecordWrite _ _ _ _ => 0
  | .recordAccept _ => 0
  | .createJob _ => 0
  | .loadRange _ => 0
  | .loadInval _ => 0
  | .loadMethod _ => 0
  | .loadGraph _ => 0
  | .runGraph _ => 0
  | .cancelRecord _ => 0
  | .query _ _ => 0
  | .selfTest _ _ => 0
  | .setPolicyTree _ => 0
  | .setPolicyPcap _ => 0
  | .setPolicyCslr _ => 0
  | .setPolicyMarks _ => 0
  | .completionRecord _ => 0
  | .hsemClaim _ _ _ => 0
  | .hsemRelease _ _ => 0
  | .hostLinkDown _ => 0
  | .apertureRead _ _ _ => 0
  | .apertureWrite _ _ _ => 0
  | .registerWrite _ _ _ => 0
  | .acknowledgementDeparture _ _ _ => 0

end Sys2Proof
end

