-- ==== Sys2Proof/WellFormed.lean ====
section
/-! DEFINITION. The values that an instruction's entry allows in its fields (R27), beyond the fields that must be zero.
A word that decodes to an operation which is not well formed raises the illegal-instruction trap. -/

namespace Sys2Proof

/-- The width in bits of a vector type code (R32, R95). -/
def tyWidth (ty : BitVec 3) : Nat :=
  match ty.toNat with
  | 0 => 8 | 1 => 16 | 2 => 32 | 3 => 64 | 4 => 8 | 5 => 16 | 6 => 16 | _ => 32

/-- The type set INT of R98. -/
def tyInt (ty : BitVec 3) : Bool := ty.toNat < 4
/-- The type set FLT of R98. -/
def tyFlt (ty : BitVec 3) : Bool := 5 ≤ ty.toNat
/-- The type set ARI of R98. -/
def tyAri (ty : BitVec 3) : Bool := tyInt ty || tyFlt ty

/-- A field that names a p register allows 0 to 7 (R32). -/
def isPred (r : BitVec 5) : Bool := r.toNat < 8

/-- The lanes of a type (R36). -/
def tyLanes (ty : BitVec 3) : Nat := 2048 / tyWidth ty

/-- A conversion format (R108): a modifier set with a floating code other than 4 is refused. -/
def cvtFormatOk (ty : BitVec 3) (m : BitVec 1) : Bool := m == 0 || tyInt ty || ty == 4

/-- The ratio r of the two widths of a conversion (R109). -/
def cvtRatio (dst src : BitVec 3) : Nat :=
  max (tyWidth dst) (tyWidth src) / min (tyWidth dst) (tyWidth src)

/-- The common conditions of a copy command (R188). -/
def copyCommonOk (tag : BitVec 7) (tg aq rl : BitVec 1) (scope : BitVec 2) : Bool :=
  (tg == 1 || tag == 0) && (aq == 1 || rl == 1 || scope == 0)

/-- The system register numbers of R40. -/
def sysRegAssigned (n : BitVec 12) : Bool :=
  let k := n.toNat
  k ≤ 0x008 || (0x010 ≤ k && k ≤ 0x01B) || (0x020 ≤ k && k ≤ 0x023) || (0x040 ≤ k && k ≤ 0x04B) || (0x080 ≤ k && k ≤ 0x083)

/-- Whether a position and a length field of BEXT and BINS stay within 64 bits (R88). -/
def bitFieldOk (len pos : BitVec 6) : Bool := pos.toNat + len.toNat + 1 ≤ 64

/-- The values R27 allows in the fields of each operation; every event is well formed. -/
def Instr.wf (i : Instr) : Bool :=
  match i with
  | .bext _ _ _ _ len pos => bitFieldOk len pos
  | .bins _ _ _ len pos => bitFieldOk len pos
  | .gamo _ d _ _ ret _ aop => aop.toNat ≤ 11 && (ret == 1 || (aop != 9 && d == 0))
  | .gred _ _ _ _ aop => aop.toNat ≤ 11 && aop != 8 && aop != 9
  | .drain _ _ mask => mask != 0
  | .vadd _ _ _ _ _ ty _ | .vsub _ _ _ _ _ ty _ | .vmul _ _ _ _ _ ty _ | .vfma _ _ _ _ _ ty _
  | .vfms _ _ _ _ _ ty _ | .vmin _ _ _ _ _ ty _ | .vmax _ _ _ _ _ ty _ => tyAri ty
  | .vminn _ _ _ _ _ ty _ | .vmaxn _ _ _ _ _ ty _ | .vmulh _ _ _ _ _ ty _ | .vmulhn _ _ _ _ _ ty _ => tyInt ty
  | .vabs _ _ _ _ ty _ | .vneg _ _ _ _ ty _ | .vscan _ _ _ _ ty _ => tyAri ty
  | .vadds _ _ _ _ _ ty _ _ | .vsubs _ _ _ _ _ ty _ _ | .vshri _ _ _ _ _ ty _ _ => tyInt ty
  | .vdot _ _ _ _ _ ty nat _ => ty == 0 || ((ty == 5 || ty == 6) && nat == 0)
  | .vshl _ _ _ _ _ ty _ | .vshr _ _ _ _ _ ty _ | .vsar _ _ _ _ _ ty _ | .vshli _ _ _ _ _ ty _ => tyInt ty
  | .vpopc _ _ _ _ ty _ | .vclz _ _ _ _ ty _ | .viota _ _ _ _ ty _ => tyInt ty
  | .vcmpeq _ d _ _ _ ty _ | .vcmpne _ d _ _ _ ty _ | .vcmplt _ d _ _ _ ty _ | .vcmple _ d _ _ _ ty _ => isPred d && tyAri ty
  | .vcmpltn _ d _ _ _ ty _ => isPred d && tyInt ty
  | .vcmpun _ d _ _ _ ty _ => isPred d && tyFlt ty
  | .vext _ _ _ _ ty nat => nat == 0 || tyInt ty
  | .vredadd _ _ _ _ ty nat | .vredmax _ _ _ _ ty nat | .vredmin _ _ _ _ ty nat => tyAri ty && (nat == 0 || tyInt ty)
  | .vcvt _ _ _ smod sty h ty dmod z =>
      cvtFormatOk sty smod && cvtFormatOk ty dmod && h.toNat < cvtRatio ty sty && (z == 0 || tyWidth ty < tyWidth sty)
  | .vpack4 _ d _ b h ty _ => (ty == 0 || 4 ≤ ty.toNat) && h.toNat * (tyLanes ty / 32) < 16 && d != b
  | .vunpk4 _ _ _ _ h ty => 4 ≤ ty.toNat && h.toNat * (tyLanes ty / 32) < 16
  | .vcord _ _ _ n _ ty => 4 ≤ n.toNat && n.toNat ≤ 28 && tyFlt ty
  | .pand _ d a b | .por _ d a b | .pxor _ d a b => isPred d && isPred a && isPred b
  | .pnot _ d a => isPred d && isPred a
  | .pcnt _ _ a _ | .pfirst _ _ a _ => isPred a
  | .ptail _ d _ _ => isPred d
  | .mma _ _ _ _ _ bk _ fmtA fmtB _ => bk != 15 && fmtA.toNat ≤ 6 && fmtB.toNat ≤ 6
  | .mmat _ _ _ _ _ bk _ _ _ _ | .mmae _ _ _ _ _ bk _ _ _ _ => bk != 15
  | .wbld _ _ _ _ srow nrm1 kind fmt xfmt tag tg _ _ =>
      kind != 3 && srow.toNat + nrm1.toNat + 1 ≤ 32 && fmt.toNat ≤ 6 && xfmt.toNat ≤ 6 &&
      (kind == 2 || xfmt == 0) && (kind != 1 || fmt != 5) && (kind != 2 || (fmt == 5 && xfmt.toNat ≤ 4)) && (tg == 1 || tag == 0)
  | .wbclr _ mask tag tg => mask != 0 && (tg == 1 || tag == 0)
  | .accz _ mask => mask != 0
  | .accst _ _ _ _ ofmt rm tag tg tw s _ _ =>
      ofmt.toNat ≤ 4 && rm != 5 && rm != 6 && (tg == 1 || tag == 0) && (tw == 1 || s == 0)
  | .monrd _ _ which => which.toNat ≤ 4
  | .monclr _ mask => mask != 0
  | .cpy _ dir _ _ _ _ s tw tag tg aq rl scope fe =>
      dir != 3 && (fe == 0 || dir != 1) && (tw == 1 || s == 0) && copyCommonOk tag tg aq rl scope
  | .cpy2 _ dir _ _ _ _ _ tag tg aq rl scope fe => dir.toNat < 2 && (fe == 0 || dir != 1) && copyCommonOk tag tg aq rl scope
  | .cpyg _ _ _ _ _ tag tg aq rl scope _ => copyCommonOk tag tg aq rl scope
  | .cpys _ _ _ _ _ tag tg aq rl scope fe => fe == 0 && copyCommonOk tag tg aq rl scope
  | .cpyr _ _ _ _ _ sem sn tag tg aq rl scope _ => (sn != 0 || sem == 0) && copyCommonOk tag tg aq rl scope
  | .cpyt _ dir _ _ _ _ _ tag tg aq rl scope fe => dir != 3 && (fe == 0 || dir != 1) && copyCommonOk tag tg aq rl scope
  | .cpyx _ _ _ _ _ sem sn tag tg aq rl scope _ => (sn != 0 || sem == 0) && copyCommonOk tag tg aq rl scope
  | .twany _ _ m | .twall _ _ m | .tffr _ _ m | .tclr _ m => m.toNat % 2 == 0
  | .wait _ cm _ => cm != 0
  | .semsig _ t loc _ n md _ => (n != 0 || md == 1) && (md == 0 || loc == 1) && (loc == 0 || t == 0)
  | .semwait _ _ n _ _ => n != 0
  | .bararv _ _ loc _ n md _ => (n != 0 || md == 1) && (md == 0 || loc == 1)
  | .launch _ _ _ _ _ j oj => oj == 1 || j == 0
  | .task _ _ _ _ _ n _ _ => n != 0
  | .slabtag _ _ _ md _ => md != 3
  | .loopset _ lvl _ n => lvl == 0 || n == 0
  | .srd _ _ reg => sysRegAssigned reg
  | .swr _ _ reg => sysRegAssigned reg
  | .fence _ kind _ => kind != 3
  | _ => true

/-- A bundle is well formed when every slot's operation is and its slots' PM bits rise (R23). -/
def Bundle.wf (b : Bundle) : Bool :=
  b.slots.all (fun p => p.2.wf) && (b.slots.map fun p => p.1.pm).Pairwise (· < ·)

end Sys2Proof
end

