-- ==== Sys2Proof/Decode.lean ====
section
/-! DEFINITION. From bits to operations and bundles (R21 to R34), the refusals by name, and the encoder beside it. -/

namespace Sys2Proof

/-- Why a slot word is no operation (R27). -/
inductive Reject where
  /-- The opcode is unassigned in its class. -/
  | unassigned (op : Nat)
  /-- An A0-only opcode in A1, or an LD-only opcode in LS. -/
  | wrongSlot (op : Nat)
  /-- A bit is 1 in a field that the instruction does not use. -/
  | unusedField (mnemonic : String)
  /-- A field holds a value that the instruction's entry does not allow. -/
  | badValue
  deriving DecidableEq, Repr

/-- The six opcode tables of R34. -/
inductive SlotUnit where
  | arith | access | vector | matrix | engine | control
  deriving DecidableEq, Repr

/-- The opcode table of a slot class. -/
def SlotClass.unit : SlotClass → SlotUnit
  | .a0 => .arith | .a1 => .arith | .ld => .access | .ls => .access
  | .vx => .vector | .mx => .matrix | .ec => .engine | .br => .control

/-- The bits of a slot below its opcode (R31, R33). -/
def SlotUnit.low : SlotUnit → Nat
  | .matrix => 58 | .engine => 58 | .arith => 26 | .access => 26 | .vector => 26 | .control => 26

/-- Lays fields (width, value) one above the other, the first lowest; an unused field (no value) is zero (R27). -/
def pack : List (Nat × Option Nat) → Nat
  | [] => 0
  | (w, v) :: fs => v.getD 0 % 2 ^ w + 2 ^ w * pack fs

/-- Cuts a number into fields of the given widths, the first lowest. -/
def unpack : List Nat → Nat → List Nat
  | [], _ => []
  | w :: ws, n => n % 2 ^ w :: unpack ws (n / 2 ^ w)

/-- The opcodes of the arith slots (R34) with their field layouts; a bit of an unused field that is 1 refuses the word (R27). -/
def decodeArith (w : Nat) : Except Reject Instr :=
  match w / 2 ^ 26 with
  | 0x00 =>
    match unpack [8, 5, 5, 5, 3] w with
    | [0, b, a, d, sp] => .ok (.add (.ofNat 3 sp) (.ofNat 5 d) (.ofNat 5 a) (.ofNat 5 b))
    | _ => .error (.unusedField "ADD")
  | 0x01 =>
    match unpack [8, 5, 5, 5, 3] w with
    | [0, b, a, d, sp] => .ok (.sub (.ofNat 3 sp) (.ofNat 5 d) (.ofNat 5 a) (.ofNat 5 b))
    | _ => .error (.unusedField "SUB")
  | 0x02 =>
    match unpack [8, 5, 5, 5, 3] w with
    | [0, b, a, d, sp] => .ok (.and (.ofNat 3 sp) (.ofNat 5 d) (.ofNat 5 a) (.ofNat 5 b))
    | _ => .error (.unusedField "AND")
  | 0x03 =>
    match unpack [8, 5, 5, 5, 3] w with
    | [0, b, a, d, sp] => .ok (.or (.ofNat 3 sp) (.ofNat 5 d) (.ofNat 5 a) (.ofNat 5 b))
    | _ => .error (.unusedField "OR")
  | 0x04 =>
    match unpack [8, 5, 5, 5, 3] w with
    | [0, b, a, d, sp] => .ok (.xor (.ofNat 3 sp) (.ofNat 5 d) (.ofNat 5 a) (.ofNat 5 b))
    | _ => .error (.unusedField "XOR")
  | 0x05 =>
    match unpack [8, 5, 5, 5, 3] w with
    | [0, b, a, d, sp] => .ok (.andn (.ofNat 3 sp) (.ofNat 5 d) (.ofNat 5 a) (.ofNat 5 b))
    | _ => .error (.unusedField "ANDN")
  | 0x06 =>
    match unpack [8, 5, 5, 5, 3] w with
    | [0, b, a, d, sp] => .ok (.shl (.ofNat 3 sp) (.ofNat 5 d) (.ofNat 5 a) (.ofNat 5 b))
    | _ => .error (.unusedField "SHL")
  | 0x07 =>
    match unpack [8, 5, 5, 5, 3] w with
    | [0, b, a, d, sp] => .ok (.shr (.ofNat 3 sp) (.ofNat 5 d) (.ofNat 5 a) (.ofNat 5 b))
    | _ => .error (.unusedField "SHR")
  | 0x08 =>
    match unpack [8, 5, 5, 5, 3] w with
    | [0, b, a, d, sp] => .ok (.sar (.ofNat 3 sp) (.ofNat 5 d) (.ofNat 5 a) (.ofNat 5 b))
    | _ => .error (.unusedField "SAR")
  | 0x09 =>
    match unpack [8, 5, 5, 5, 3] w with
    | [0, b, a, d, sp] => .ok (.rol (.ofNat 3 sp) (.ofNat 5 d) (.ofNat 5 a) (.ofNat 5 b))
    | _ => .error (.unusedField "ROL")
  | 0x0A =>
    match unpack [8, 5, 5, 5, 3] w with
    | [0, b, a, d, sp] => .ok (.min (.ofNat 3 sp) (.ofNat 5 d) (.ofNat 5 a) (.ofNat 5 b))
    | _ => .error (.unusedField "MIN")
  | 0x0B =>
    match unpack [8, 5, 5, 5, 3] w with
    | [0, b, a, d, sp] => .ok (.max (.ofNat 3 sp) (.ofNat 5 d) (.ofNat 5 a) (.ofNat 5 b))
    | _ => .error (.unusedField "MAX")
  | 0x0C =>
    match unpack [8, 5, 5, 5, 3] w with
    | [0, b, a, d, sp] => .ok (.minn (.ofNat 3 sp) (.ofNat 5 d) (.ofNat 5 a) (.ofNat 5 b))
    | _ => .error (.unusedField "MINN")
  | 0x0D =>
    match unpack [8, 5, 5, 5, 3] w with
    | [0, b, a, d, sp] => .ok (.maxn (.ofNat 3 sp) (.ofNat 5 d) (.ofNat 5 a) (.ofNat 5 b))
    | _ => .error (.unusedField "MAXN")
  | 0x0E =>
    match unpack [8, 5, 5, 5, 3] w with
    | [0, b, a, d, sp] => .ok (.seq (.ofNat 3 sp) (.ofNat 5 d) (.ofNat 5 a) (.ofNat 5 b))
    | _ => .error (.unusedField "SEQ")
  | 0x0F =>
    match unpack [8, 5, 5, 5, 3] w with
    | [0, b, a, d, sp] => .ok (.slt (.ofNat 3 sp) (.ofNat 5 d) (.ofNat 5 a) (.ofNat 5 b))
    | _ => .error (.unusedField "SLT")
  | 0x10 =>
    match unpack [8, 5, 5, 5, 3] w with
    | [0, b, a, d, sp] => .ok (.sltn (.ofNat 3 sp) (.ofNat 5 d) (.ofNat 5 a) (.ofNat 5 b))
    | _ => .error (.unusedField "SLTN")
  | 0x11 =>
    match unpack [5, 3, 5, 5, 5, 3] w with
    | [c, 0, b, a, d, sp] => .ok (.sel (.ofNat 3 sp) (.ofNat 5 d) (.ofNat 5 a) (.ofNat 5 b) (.ofNat 5 c))
    | _ => .error (.unusedField "SEL")
  | 0x12 =>
    match unpack [2, 6, 5, 5, 5, 3] w with
    | [w, 0, 0, a, d, sp] => .ok (.clz (.ofNat 3 sp) (.ofNat 5 d) (.ofNat 5 a) (.ofNat 2 w))
    | _ => .error (.unusedField "CLZ")
  | 0x13 =>
    match unpack [2, 6, 5, 5, 5, 3] w with
    | [w, 0, 0, a, d, sp] => .ok (.popc (.ofNat 3 sp) (.ofNat 5 d) (.ofNat 5 a) (.ofNat 2 w))
    | _ => .error (.unusedField "POPC")
  | 0x14 =>
    match unpack [4, 4, 5, 5, 5, 3] w with
    | [sh, 0, b, a, d, sp] => .ok (.addsh (.ofNat 3 sp) (.ofNat 5 d) (.ofNat 5 a) (.ofNat 5 b) (.ofNat 4 sh))
    | _ => .error (.unusedField "ADDSH")
  | 0x15 =>
    match unpack [8, 5, 5, 5, 3] w with
    | [0, b, a, d, sp] => .ok (.addw (.ofNat 3 sp) (.ofNat 5 d) (.ofNat 5 a) (.ofNat 5 b))
    | _ => .error (.unusedField "ADDW")
  | 0x16 =>
    match unpack [6, 6, 1, 5, 5, 3] w with
    | [pos, len, sg, a, d, sp] => .ok (.bext (.ofNat 3 sp) (.ofNat 5 d) (.ofNat 5 a) (.ofNat 1 sg) (.ofNat 6 len) (.ofNat 6 pos))
    | _ => .error (.unusedField "BEXT")
  | 0x17 =>
    match unpack [6, 6, 1, 5, 5, 3] w with
    | [pos, len, 0, a, d, sp] => .ok (.bins (.ofNat 3 sp) (.ofNat 5 d) (.ofNat 5 a) (.ofNat 6 len) (.ofNat 6 pos))
    | _ => .error (.unusedField "BINS")
  | 0x18 =>
    match unpack [8, 5, 5, 5, 3] w with
    | [0, b, a, d, sp] => .ok (.mul (.ofNat 3 sp) (.ofNat 5 d) (.ofNat 5 a) (.ofNat 5 b))
    | _ => .error (.unusedField "MUL")
  | 0x19 =>
    match unpack [8, 5, 5, 5, 3] w with
    | [0, b, a, d, sp] => .ok (.mulh (.ofNat 3 sp) (.ofNat 5 d) (.ofNat 5 a) (.ofNat 5 b))
    | _ => .error (.unusedField "MULH")
  | 0x1A =>
    match unpack [8, 5, 5, 5, 3] w with
    | [0, b, a, d, sp] => .ok (.mulhn (.ofNat 3 sp) (.ofNat 5 d) (.ofNat 5 a) (.ofNat 5 b))
    | _ => .error (.unusedField "MULHN")
  | 0x1B =>
    match unpack [8, 5, 5, 5, 3] w with
    | [0, b, a, d, sp] => .ok (.div (.ofNat 3 sp) (.ofNat 5 d) (.ofNat 5 a) (.ofNat 5 b))
    | _ => .error (.unusedField "DIV")
  | 0x1C =>
    match unpack [8, 5, 5, 5, 3] w with
    | [0, b, a, d, sp] => .ok (.divn (.ofNat 3 sp) (.ofNat 5 d) (.ofNat 5 a) (.ofNat 5 b))
    | _ => .error (.unusedField "DIVN")
  | 0x1D =>
    match unpack [8, 5, 5, 5, 3] w with
    | [0, b, a, d, sp] => .ok (.rem (.ofNat 3 sp) (.ofNat 5 d) (.ofNat 5 a) (.ofNat 5 b))
    | _ => .error (.unusedField "REM")
  | 0x1E =>
    match unpack [8, 5, 5, 5, 3] w with
    | [0, b, a, d, sp] => .ok (.remn (.ofNat 3 sp) (.ofNat 5 d) (.ofNat 5 a) (.ofNat 5 b))
    | _ => .error (.unusedField "REMN")
  | 0x20 =>
    match unpack [13, 5, 5, 3] w with
    | [imm, a, d, sp] => .ok (.addi (.ofNat 3 sp) (.ofNat 5 d) (.ofNat 5 a) (.ofNat 13 imm))
    | _ => .error (.unusedField "ADDI")
  | 0x21 =>
    match unpack [13, 5, 5, 3] w with
    | [imm, a, d, sp] => .ok (.andi (.ofNat 3 sp) (.ofNat 5 d) (.ofNat 5 a) (.ofNat 13 imm))
    | _ => .error (.unusedField "ANDI")
  | 0x22 =>
    match unpack [13, 5, 5, 3] w with
    | [imm, a, d, sp] => .ok (.ori (.ofNat 3 sp) (.ofNat 5 d) (.ofNat 5 a) (.ofNat 13 imm))
    | _ => .error (.unusedField "ORI")
  | 0x23 =>
    match unpack [13, 5, 5, 3] w with
    | [imm, a, d, sp] => .ok (.xori (.ofNat 3 sp) (.ofNat 5 d) (.ofNat 5 a) (.ofNat 13 imm))
    | _ => .error (.unusedField "XORI")
  | 0x24 =>
    match unpack [6, 7, 5, 5, 3] w with
    | [n, 0, a, d, sp] => .ok (.shli (.ofNat 3 sp) (.ofNat 5 d) (.ofNat 5 a) (.ofNat 6 n))
    | _ => .error (.unusedField "SHLI")
  | 0x25 =>
    match unpack [6, 7, 5, 5, 3] w with
    | [n, 0, a, d, sp] => .ok (.shri (.ofNat 3 sp) (.ofNat 5 d) (.ofNat 5 a) (.ofNat 6 n))
    | _ => .error (.unusedField "SHRI")
  | 0x26 =>
    match unpack [6, 7, 5, 5, 3] w with
    | [n, 0, a, d, sp] => .ok (.sari (.ofNat 3 sp) (.ofNat 5 d) (.ofNat 5 a) (.ofNat 6 n))
    | _ => .error (.unusedField "SARI")
  | 0x27 =>
    match unpack [13, 5, 5, 3] w with
    | [imm, a, d, sp] => .ok (.slti (.ofNat 3 sp) (.ofNat 5 d) (.ofNat 5 a) (.ofNat 13 imm))
    | _ => .error (.unusedField "SLTI")
  | 0x28 =>
    match unpack [13, 5, 5, 3] w with
    | [imm, a, d, sp] => .ok (.sltni (.ofNat 3 sp) (.ofNat 5 d) (.ofNat 5 a) (.ofNat 13 imm))
    | _ => .error (.unusedField "SLTNI")
  | 0x29 =>
    match unpack [13, 5, 5, 3] w with
    | [imm, a, d, sp] => .ok (.seqi (.ofNat 3 sp) (.ofNat 5 d) (.ofNat 5 a) (.ofNat 13 imm))
    | _ => .error (.unusedField "SEQI")
  | 0x2A =>
    match unpack [18, 5, 3] w with
    | [imm, d, sp] => .ok (.movl (.ofNat 3 sp) (.ofNat 5 d) (.ofNat 18 imm))
    | _ => .error (.unusedField "MOVL")
  | 0x2B =>
    match unpack [18, 5, 3] w with
    | [imm, d, sp] => .ok (.cati (.ofNat 3 sp) (.ofNat 5 d) (.ofNat 18 imm))
    | _ => .error (.unusedField "CATI")
  | op => .error (.unassigned op)

/-- The opcodes of the access slots (R34) with their field layouts; a bit of an unused field that is 1 refuses the word (R27). -/
def decodeAccess (w : Nat) : Except Reject Instr :=
  match w / 2 ^ 26 with
  | 0x00 =>
    match unpack [13, 5, 5, 3] w with
    | [off, base, t, sp] => .ok (.ldx (.ofNat 3 sp) (.ofNat 5 t) (.ofNat 5 base) (.ofNat 13 off))
    | _ => .error (.unusedField "LDX")
  | 0x01 =>
    match unpack [13, 5, 5, 3] w with
    | [off, base, t, sp] => .ok (.stx (.ofNat 3 sp) (.ofNat 5 t) (.ofNat 5 base) (.ofNat 13 off))
    | _ => .error (.unusedField "STX")
  | 0x02 =>
    match unpack [13, 5, 5, 3] w with
    | [off, base, t, sp] => .ok (.ldv (.ofNat 3 sp) (.ofNat 5 t) (.ofNat 5 base) (.ofNat 13 off))
    | _ => .error (.unusedField "LDV")
  | 0x03 =>
    match unpack [13, 5, 5, 3] w with
    | [off, base, t, sp] => .ok (.stv (.ofNat 3 sp) (.ofNat 5 t) (.ofNat 5 base) (.ofNat 13 off))
    | _ => .error (.unusedField "STV")
  | 0x04 =>
    match unpack [10, 3, 5, 5, 3] w with
    | [off, p, base, t, sp] => .ok (.stvp (.ofNat 3 sp) (.ofNat 5 t) (.ofNat 5 base) (.ofNat 3 p) (.ofNat 10 off))
    | _ => .error (.unusedField "STVP")
  | 0x05 =>
    match unpack [13, 5, 5, 3] w with
    | [off, base, t, sp] => .ok (.ldxf (.ofNat 3 sp) (.ofNat 5 t) (.ofNat 5 base) (.ofNat 13 off))
    | _ => .error (.unusedField "LDXF")
  | 0x06 =>
    match unpack [13, 5, 5, 3] w with
    | [off, base, t, sp] => .ok (.stxe (.ofNat 3 sp) (.ofNat 5 t) (.ofNat 5 base) (.ofNat 13 off))
    | _ => .error (.unusedField "STXE")
  | 0x07 =>
    match unpack [13, 5, 5, 3] w with
    | [off, base, t, sp] => .ok (.ldvf (.ofNat 3 sp) (.ofNat 5 t) (.ofNat 5 base) (.ofNat 13 off))
    | _ => .error (.unusedField "LDVF")
  | 0x08 =>
    match unpack [13, 5, 5, 3] w with
    | [off, base, t, sp] => .ok (.stve (.ofNat 3 sp) (.ofNat 5 t) (.ofNat 5 base) (.ofNat 13 off))
    | _ => .error (.unusedField "STVE")
  | 0x09 =>
    match unpack [13, 5, 5, 3] w with
    | [off, base, t, sp] => .ok (.setfe (.ofNat 3 sp) (.ofNat 5 t) (.ofNat 5 base) (.ofNat 13 off))
    | _ => .error (.unusedField "SETFE")
  | 0x0A =>
    match unpack [13, 5, 5, 3] w with
    | [off, base, t, sp] => .ok (.getfe (.ofNat 3 sp) (.ofNat 5 t) (.ofNat 5 base) (.ofNat 13 off))
    | _ => .error (.unusedField "GETFE")
  | 0x0B =>
    match unpack [11, 7, 5, 3] w with
    | [k, 0, t, sp] => .ok (.ldsp (.ofNat 3 sp) (.ofNat 5 t) (.ofNat 11 k))
    | _ => .error (.unusedField "LDSP")
  | 0x0C =>
    match unpack [11, 7, 5, 3] w with
    | [k, 0, t, sp] => .ok (.stsp (.ofNat 3 sp) (.ofNat 5 t) (.ofNat 11 k))
    | _ => .error (.unusedField "STSP")
  | 0x0D =>
    match unpack [6, 12, 5, 3] w with
    | [k, 0, t, sp] => .ok (.ldspv (.ofNat 3 sp) (.ofNat 5 t) (.ofNat 6 k))
    | _ => .error (.unusedField "LDSPV")
  | 0x0E =>
    match unpack [6, 12, 5, 3] w with
    | [k, 0, t, sp] => .ok (.stspv (.ofNat 3 sp) (.ofNat 5 t) (.ofNat 6 k))
    | _ => .error (.unusedField "STSPV")
  | 0x10 =>
    match unpack [8, 5, 5, 5, 3] w with
    | [off, b, base, t, sp] => .ok (.aadd (.ofNat 3 sp) (.ofNat 5 t) (.ofNat 5 base) (.ofNat 5 b) (.ofNat 8 off))
    | _ => .error (.unusedField "AADD")
  | 0x11 =>
    match unpack [8, 5, 5, 5, 3] w with
    | [off, b, base, t, sp] => .ok (.amin (.ofNat 3 sp) (.ofNat 5 t) (.ofNat 5 base) (.ofNat 5 b) (.ofNat 8 off))
    | _ => .error (.unusedField "AMIN")
  | 0x12 =>
    match unpack [8, 5, 5, 5, 3] w with
    | [off, b, base, t, sp] => .ok (.amax (.ofNat 3 sp) (.ofNat 5 t) (.ofNat 5 base) (.ofNat 5 b) (.ofNat 8 off))
    | _ => .error (.unusedField "AMAX")
  | 0x13 =>
    match unpack [8, 5, 5, 5, 3] w with
    | [off, b, base, t, sp] => .ok (.aminn (.ofNat 3 sp) (.ofNat 5 t) (.ofNat 5 base) (.ofNat 5 b) (.ofNat 8 off))
    | _ => .error (.unusedField "AMINN")
  | 0x14 =>
    match unpack [8, 5, 5, 5, 3] w with
    | [off, b, base, t, sp] => .ok (.amaxn (.ofNat 3 sp) (.ofNat 5 t) (.ofNat 5 base) (.ofNat 5 b) (.ofNat 8 off))
    | _ => .error (.unusedField "AMAXN")
  | 0x15 =>
    match unpack [8, 5, 5, 5, 3] w with
    | [off, b, base, t, sp] => .ok (.aand (.ofNat 3 sp) (.ofNat 5 t) (.ofNat 5 base) (.ofNat 5 b) (.ofNat 8 off))
    | _ => .error (.unusedField "AAND")
  | 0x16 =>
    match unpack [8, 5, 5, 5, 3] w with
    | [off, b, base, t, sp] => .ok (.aor (.ofNat 3 sp) (.ofNat 5 t) (.ofNat 5 base) (.ofNat 5 b) (.ofNat 8 off))
    | _ => .error (.unusedField "AOR")
  | 0x17 =>
    match unpack [8, 5, 5, 5, 3] w with
    | [off, b, base, t, sp] => .ok (.axor (.ofNat 3 sp) (.ofNat 5 t) (.ofNat 5 base) (.ofNat 5 b) (.ofNat 8 off))
    | _ => .error (.unusedField "AXOR")
  | 0x18 =>
    match unpack [8, 5, 5, 5, 3] w with
    | [off, b, base, t, sp] => .ok (.aswp (.ofNat 3 sp) (.ofNat 5 t) (.ofNat 5 base) (.ofNat 5 b) (.ofNat 8 off))
    | _ => .error (.unusedField "ASWP")
  | 0x19 =>
    match unpack [8, 5, 5, 5, 3] w with
    | [off, b, base, t, sp] => .ok (.acas (.ofNat 3 sp) (.ofNat 5 t) (.ofNat 5 base) (.ofNat 5 b) (.ofNat 8 off))
    | _ => .error (.unusedField "ACAS")
  | 0x1A =>
    match unpack [13, 5, 5, 3] w with
    | [off, base, t, sp] => .ok (.vaor (.ofNat 3 sp) (.ofNat 5 t) (.ofNat 5 base) (.ofNat 13 off))
    | _ => .error (.unusedField "VAOR")
  | 0x1B =>
    match unpack [13, 5, 5, 3] w with
    | [off, base, t, sp] => .ok (.vaadd (.ofNat 3 sp) (.ofNat 5 t) (.ofNat 5 base) (.ofNat 13 off))
    | _ => .error (.unusedField "VAADD")
  | 0x20 =>
    match unpack [11, 2, 5, 5, 3] w with
    | [off, q, base, t, sp] => .ok (.gldx (.ofNat 3 sp) (.ofNat 5 t) (.ofNat 5 base) (.ofNat 2 q) (.ofNat 11 off))
    | _ => .error (.unusedField "GLDX")
  | 0x21 =>
    match unpack [11, 2, 5, 5, 3] w with
    | [off, q, base, t, sp] => .ok (.gstx (.ofNat 3 sp) (.ofNat 5 t) (.ofNat 5 base) (.ofNat 2 q) (.ofNat 11 off))
    | _ => .error (.unusedField "GSTX")
  | 0x22 =>
    match unpack [11, 2, 5, 5, 3] w with
    | [off, q, base, t, sp] => .ok (.gldv (.ofNat 3 sp) (.ofNat 5 t) (.ofNat 5 base) (.ofNat 2 q) (.ofNat 11 off))
    | _ => .error (.unusedField "GLDV")
  | 0x23 =>
    match unpack [11, 2, 5, 5, 3] w with
    | [off, q, base, t, sp] => .ok (.gstv (.ofNat 3 sp) (.ofNat 5 t) (.ofNat 5 base) (.ofNat 2 q) (.ofNat 11 off))
    | _ => .error (.unusedField "GSTV")
  | 0x24 =>
    match unpack [4, 2, 1, 1, 5, 5, 5, 3] w with
    | [aop, q, ret, 0, b, a, d, sp] => .ok (.gamo (.ofNat 3 sp) (.ofNat 5 d) (.ofNat 5 a) (.ofNat 5 b) (.ofNat 1 ret) (.ofNat 2 q) (.ofNat 4 aop))
    | _ => .error (.unusedField "GAMO")
  | 0x25 =>
    match unpack [4, 2, 2, 5, 5, 5, 3] w with
    | [aop, q, 0, b, a, 0, sp] => .ok (.gred (.ofNat 3 sp) (.ofNat 5 a) (.ofNat 5 b) (.ofNat 2 q) (.ofNat 4 aop))
    | _ => .error (.unusedField "GRED")
  | 0x26 =>
    match unpack [4, 2, 7, 5, 5, 3] w with
    | [mask, scope, 0, 0, 0, sp] => .ok (.drain (.ofNat 3 sp) (.ofNat 2 scope) (.ofNat 4 mask))
    | _ => .error (.unusedField "DRAIN")
  | op => .error (.unassigned op)

/-- The opcodes of the vector slots (R34) with their field layouts; a bit of an unused field that is 1 refuses the word (R27). -/
def decodeVector (w : Nat) : Except Reject Instr :=
  match w / 2 ^ 26 with
  | 0x00 =>
    match unpack [1, 1, 3, 3, 5, 5, 5, 3] w with
    | [z, 0, ty, p, b, a, d, sp] => .ok (.vadd (.ofNat 3 sp) (.ofNat 5 d) (.ofNat 5 a) (.ofNat 5 b) (.ofNat 3 p) (.ofNat 3 ty) (.ofNat 1 z))
    | _ => .error (.unusedField "VADD")
  | 0x01 =>
    match unpack [1, 1, 3, 3, 5, 5, 5, 3] w with
    | [z, 0, ty, p, b, a, d, sp] => .ok (.vsub (.ofNat 3 sp) (.ofNat 5 d) (.ofNat 5 a) (.ofNat 5 b) (.ofNat 3 p) (.ofNat 3 ty) (.ofNat 1 z))
    | _ => .error (.unusedField "VSUB")
  | 0x02 =>
    match unpack [1, 1, 3, 3, 5, 5, 5, 3] w with
    | [z, 0, ty, p, b, a, d, sp] => .ok (.vmul (.ofNat 3 sp) (.ofNat 5 d) (.ofNat 5 a) (.ofNat 5 b) (.ofNat 3 p) (.ofNat 3 ty) (.ofNat 1 z))
    | _ => .error (.unusedField "VMUL")
  | 0x03 =>
    match unpack [1, 1, 3, 3, 5, 5, 5, 3] w with
    | [z, 0, ty, p, b, a, d, sp] => .ok (.vfma (.ofNat 3 sp) (.ofNat 5 d) (.ofNat 5 a) (.ofNat 5 b) (.ofNat 3 p) (.ofNat 3 ty) (.ofNat 1 z))
    | _ => .error (.unusedField "VFMA")
  | 0x04 =>
    match unpack [1, 1, 3, 3, 5, 5, 5, 3] w with
    | [z, 0, ty, p, b, a, d, sp] => .ok (.vfms (.ofNat 3 sp) (.ofNat 5 d) (.ofNat 5 a) (.ofNat 5 b) (.ofNat 3 p) (.ofNat 3 ty) (.ofNat 1 z))
    | _ => .error (.unusedField "VFMS")
  | 0x05 =>
    match unpack [1, 1, 3, 3, 5, 5, 5, 3] w with
    | [z, 0, ty, p, b, a, d, sp] => .ok (.vmin (.ofNat 3 sp) (.ofNat 5 d) (.ofNat 5 a) (.ofNat 5 b) (.ofNat 3 p) (.ofNat 3 ty) (.ofNat 1 z))
    | _ => .error (.unusedField "VMIN")
  | 0x06 =>
    match unpack [1, 1, 3, 3, 5, 5, 5, 3] w with
    | [z, 0, ty, p, b, a, d, sp] => .ok (.vmax (.ofNat 3 sp) (.ofNat 5 d) (.ofNat 5 a) (.ofNat 5 b) (.ofNat 3 p) (.ofNat 3 ty) (.ofNat 1 z))
    | _ => .error (.unusedField "VMAX")
  | 0x07 =>
    match unpack [1, 1, 3, 3, 5, 5, 5, 3] w with
    | [z, 0, ty, p, b, a, d, sp] => .ok (.vminn (.ofNat 3 sp) (.ofNat 5 d) (.ofNat 5 a) (.ofNat 5 b) (.ofNat 3 p) (.ofNat 3 ty) (.ofNat 1 z))
    | _ => .error (.unusedField "VMINN")
  | 0x08 =>
    match unpack [1, 1, 3, 3, 5, 5, 5, 3] w with
    | [z, 0, ty, p, b, a, d, sp] => .ok (.vmaxn (.ofNat 3 sp) (.ofNat 5 d) (.ofNat 5 a) (.ofNat 5 b) (.ofNat 3 p) (.ofNat 3 ty) (.ofNat 1 z))
    | _ => .error (.unusedField "VMAXN")
  | 0x09 =>
    match unpack [1, 1, 3, 3, 5, 5, 5, 3] w with
    | [z, 0, ty, p, 0, a, d, sp] => .ok (.vabs (.ofNat 3 sp) (.ofNat 5 d) (.ofNat 5 a) (.ofNat 3 p) (.ofNat 3 ty) (.ofNat 1 z))
    | _ => .error (.unusedField "VABS")
  | 0x0A =>
    match unpack [1, 1, 3, 3, 5, 5, 5, 3] w with
    | [z, 0, ty, p, 0, a, d, sp] => .ok (.vneg (.ofNat 3 sp) (.ofNat 5 d) (.ofNat 5 a) (.ofNat 3 p) (.ofNat 3 ty) (.ofNat 1 z))
    | _ => .error (.unusedField "VNEG")
  | 0x0B =>
    match unpack [1, 1, 3, 3, 5, 5, 5, 3] w with
    | [z, nat, ty, p, b, a, d, sp] => .ok (.vadds (.ofNat 3 sp) (.ofNat 5 d) (.ofNat 5 a) (.ofNat 5 b) (.ofNat 3 p) (.ofNat 3 ty) (.ofNat 1 nat) (.ofNat 1 z))
    | _ => .error (.unusedField "VADDS")
  | 0x0C =>
    match unpack [1, 1, 3, 3, 5, 5, 5, 3] w with
    | [z, nat, ty, p, b, a, d, sp] => .ok (.vsubs (.ofNat 3 sp) (.ofNat 5 d) (.ofNat 5 a) (.ofNat 5 b) (.ofNat 3 p) (.ofNat 3 ty) (.ofNat 1 nat) (.ofNat 1 z))
    | _ => .error (.unusedField "VSUBS")
  | 0x0D =>
    match unpack [1, 1, 3, 3, 5, 5, 5, 3] w with
    | [z, 0, ty, p, b, a, d, sp] => .ok (.vmulh (.ofNat 3 sp) (.ofNat 5 d) (.ofNat 5 a) (.ofNat 5 b) (.ofNat 3 p) (.ofNat 3 ty) (.ofNat 1 z))
    | _ => .error (.unusedField "VMULH")
  | 0x0E =>
    match unpack [1, 1, 3, 3, 5, 5, 5, 3] w with
    | [z, 0, ty, p, b, a, d, sp] => .ok (.vmulhn (.ofNat 3 sp) (.ofNat 5 d) (.ofNat 5 a) (.ofNat 5 b) (.ofNat 3 p) (.ofNat 3 ty) (.ofNat 1 z))
    | _ => .error (.unusedField "VMULHN")
  | 0x0F =>
    match unpack [1, 1, 3, 3, 5, 5, 5, 3] w with
    | [z, nat, ty, p, b, a, d, sp] => .ok (.vdot (.ofNat 3 sp) (.ofNat 5 d) (.ofNat 5 a) (.ofNat 5 b) (.ofNat 3 p) (.ofNat 3 ty) (.ofNat 1 nat) (.ofNat 1 z))
    | _ => .error (.unusedField "VDOT")
  | 0x10 =>
    match unpack [1, 1, 3, 3, 5, 5, 5, 3] w with
    | [z, 0, ty, p, b, a, d, sp] => .ok (.vand (.ofNat 3 sp) (.ofNat 5 d) (.ofNat 5 a) (.ofNat 5 b) (.ofNat 3 p) (.ofNat 3 ty) (.ofNat 1 z))
    | _ => .error (.unusedField "VAND")
  | 0x11 =>
    match unpack [1, 1, 3, 3, 5, 5, 5, 3] w with
    | [z, 0, ty, p, b, a, d, sp] => .ok (.vor (.ofNat 3 sp) (.ofNat 5 d) (.ofNat 5 a) (.ofNat 5 b) (.ofNat 3 p) (.ofNat 3 ty) (.ofNat 1 z))
    | _ => .error (.unusedField "VOR")
  | 0x12 =>
    match unpack [1, 1, 3, 3, 5, 5, 5, 3] w with
    | [z, 0, ty, p, b, a, d, sp] => .ok (.vxor (.ofNat 3 sp) (.ofNat 5 d) (.ofNat 5 a) (.ofNat 5 b) (.ofNat 3 p) (.ofNat 3 ty) (.ofNat 1 z))
    | _ => .error (.unusedField "VXOR")
  | 0x13 =>
    match unpack [1, 1, 3, 3, 5, 5, 5, 3] w with
    | [z, 0, ty, p, b, a, d, sp] => .ok (.vandn (.ofNat 3 sp) (.ofNat 5 d) (.ofNat 5 a) (.ofNat 5 b) (.ofNat 3 p) (.ofNat 3 ty) (.ofNat 1 z))
    | _ => .error (.unusedField "VANDN")
  | 0x14 =>
    match unpack [1, 1, 3, 3, 5, 5, 5, 3] w with
    | [z, 0, ty, p, b, a, d, sp] => .ok (.vshl (.ofNat 3 sp) (.ofNat 5 d) (.ofNat 5 a) (.ofNat 5 b) (.ofNat 3 p) (.ofNat 3 ty) (.ofNat 1 z))
    | _ => .error (.unusedField "VSHL")
  | 0x15 =>
    match unpack [1, 1, 3, 3, 5, 5, 5, 3] w with
    | [z, 0, ty, p, b, a, d, sp] => .ok (.vshr (.ofNat 3 sp) (.ofNat 5 d) (.ofNat 5 a) (.ofNat 5 b) (.ofNat 3 p) (.ofNat 3 ty) (.ofNat 1 z))
    | _ => .error (.unusedField "VSHR")
  | 0x16 =>
    match unpack [1, 1, 3, 3, 5, 5, 5, 3] w with
    | [z, 0, ty, p, b, a, d, sp] => .ok (.vsar (.ofNat 3 sp) (.ofNat 5 d) (.ofNat 5 a) (.ofNat 5 b) (.ofNat 3 p) (.ofNat 3 ty) (.ofNat 1 z))
    | _ => .error (.unusedField "VSAR")
  | 0x17 =>
    match unpack [1, 1, 3, 3, 5, 5, 5, 3] w with
    | [z, 0, ty, p, n, a, d, sp] => .ok (.vshli (.ofNat 3 sp) (.ofNat 5 d) (.ofNat 5 a) (.ofNat 5 n) (.ofNat 3 p) (.ofNat 3 ty) (.ofNat 1 z))
    | _ => .error (.unusedField "VSHLI")
  | 0x18 =>
    match unpack [1, 1, 3, 3, 5, 5, 5, 3] w with
    | [z, nat, ty, p, n, a, d, sp] => .ok (.vshri (.ofNat 3 sp) (.ofNat 5 d) (.ofNat 5 a) (.ofNat 5 n) (.ofNat 3 p) (.ofNat 3 ty) (.ofNat 1 nat) (.ofNat 1 z))
    | _ => .error (.unusedField "VSHRI")
  | 0x19 =>
    match unpack [1, 1, 3, 3, 5, 5, 5, 3] w with
    | [z, 0, ty, p, 0, a, d, sp] => .ok (.vpopc (.ofNat 3 sp) (.ofNat 5 d) (.ofNat 5 a) (.ofNat 3 p) (.ofNat 3 ty) (.ofNat 1 z))
    | _ => .error (.unusedField "VPOPC")
  | 0x1A =>
    match unpack [1, 1, 3, 3, 5, 5, 5, 3] w with
    | [z, 0, ty, p, 0, a, d, sp] => .ok (.vclz (.ofNat 3 sp) (.ofNat 5 d) (.ofNat 5 a) (.ofNat 3 p) (.ofNat 3 ty) (.ofNat 1 z))
    | _ => .error (.unusedField "VCLZ")
  | 0x20 =>
    match unpack [1, 1, 3, 3, 5, 5, 5, 3] w with
    | [z, 0, ty, p, b, a, d, sp] => .ok (.vcmpeq (.ofNat 3 sp) (.ofNat 5 d) (.ofNat 5 a) (.ofNat 5 b) (.ofNat 3 p) (.ofNat 3 ty) (.ofNat 1 z))
    | _ => .error (.unusedField "VCMPEQ")
  | 0x21 =>
    match unpack [1, 1, 3, 3, 5, 5, 5, 3] w with
    | [z, 0, ty, p, b, a, d, sp] => .ok (.vcmpne (.ofNat 3 sp) (.ofNat 5 d) (.ofNat 5 a) (.ofNat 5 b) (.ofNat 3 p) (.ofNat 3 ty) (.ofNat 1 z))
    | _ => .error (.unusedField "VCMPNE")
  | 0x22 =>
    match unpack [1, 1, 3, 3, 5, 5, 5, 3] w with
    | [z, 0, ty, p, b, a, d, sp] => .ok (.vcmplt (.ofNat 3 sp) (.ofNat 5 d) (.ofNat 5 a) (.ofNat 5 b) (.ofNat 3 p) (.ofNat 3 ty) (.ofNat 1 z))
    | _ => .error (.unusedField "VCMPLT")
  | 0x23 =>
    match unpack [1, 1, 3, 3, 5, 5, 5, 3] w with
    | [z, 0, ty, p, b, a, d, sp] => .ok (.vcmple (.ofNat 3 sp) (.ofNat 5 d) (.ofNat 5 a) (.ofNat 5 b) (.ofNat 3 p) (.ofNat 3 ty) (.ofNat 1 z))
    | _ => .error (.unusedField "VCMPLE")
  | 0x24 =>
    match unpack [1, 1, 3, 3, 5, 5, 5, 3] w with
    | [z, 0, ty, p, b, a, d, sp] => .ok (.vcmpltn (.ofNat 3 sp) (.ofNat 5 d) (.ofNat 5 a) (.ofNat 5 b) (.ofNat 3 p) (.ofNat 3 ty) (.ofNat 1 z))
    | _ => .error (.unusedField "VCMPLTN")
  | 0x25 =>
    match unpack [1, 1, 3, 3, 5, 5, 5, 3] w with
    | [z, 0, ty, p, b, a, d, sp] => .ok (.vcmpun (.ofNat 3 sp) (.ofNat 5 d) (.ofNat 5 a) (.ofNat 5 b) (.ofNat 3 p) (.ofNat 3 ty) (.ofNat 1 z))
    | _ => .error (.unusedField "VCMPUN")
  | 0x26 =>
    match unpack [2, 3, 3, 5, 5, 5, 3] w with
    | [0, ty, p, b, a, d, sp] => .ok (.vsel (.ofNat 3 sp) (.ofNat 5 d) (.ofNat 5 a) (.ofNat 5 b) (.ofNat 3 p) (.ofNat 3 ty))
    | _ => .error (.unusedField "VSEL")
  | 0x27 =>
    match unpack [1, 1, 3, 3, 5, 5, 5, 3] w with
    | [z, 0, ty, p, 0, a, d, sp] => .ok (.vmov (.ofNat 3 sp) (.ofNat 5 d) (.ofNat 5 a) (.ofNat 3 p) (.ofNat 3 ty) (.ofNat 1 z))
    | _ => .error (.unusedField "VMOV")
  | 0x28 =>
    match unpack [1, 1, 3, 3, 5, 5, 5, 3] w with
    | [z, 0, ty, p, 0, a, d, sp] => .ok (.vbcast (.ofNat 3 sp) (.ofNat 5 d) (.ofNat 5 a) (.ofNat 3 p) (.ofNat 3 ty) (.ofNat 1 z))
    | _ => .error (.unusedField "VBCAST")
  | 0x29 =>
    match unpack [1, 1, 3, 3, 5, 5, 5, 3] w with
    | [0, nat, ty, 0, b, a, d, sp] => .ok (.vext (.ofNat 3 sp) (.ofNat 5 d) (.ofNat 5 a) (.ofNat 5 b) (.ofNat 3 ty) (.ofNat 1 nat))
    | _ => .error (.unusedField "VEXT")
  | 0x2A =>
    match unpack [2, 3, 3, 5, 5, 5, 3] w with
    | [0, ty, 0, b, a, d, sp] => .ok (.vins (.ofNat 3 sp) (.ofNat 5 d) (.ofNat 5 a) (.ofNat 5 b) (.ofNat 3 ty))
    | _ => .error (.unusedField "VINS")
  | 0x2B =>
    match unpack [1, 1, 3, 3, 5, 5, 5, 3] w with
    | [z, oz, ty, p, b, a, d, sp] => .ok (.vperm (.ofNat 3 sp) (.ofNat 5 d) (.ofNat 5 a) (.ofNat 5 b) (.ofNat 3 p) (.ofNat 3 ty) (.ofNat 1 oz) (.ofNat 1 z))
    | _ => .error (.unusedField "VPERM")
  | 0x2C =>
    match unpack [1, 1, 3, 3, 5, 5, 5, 3] w with
    | [z, 0, ty, p, b, a, d, sp] => .ok (.vrot (.ofNat 3 sp) (.ofNat 5 d) (.ofNat 5 a) (.ofNat 5 b) (.ofNat 3 p) (.ofNat 3 ty) (.ofNat 1 z))
    | _ => .error (.unusedField "VROT")
  | 0x2D =>
    match unpack [2, 3, 3, 5, 5, 5, 3] w with
    | [0, ty, 0, b, a, d, sp] => .ok (.vmerge (.ofNat 3 sp) (.ofNat 5 d) (.ofNat 5 a) (.ofNat 5 b) (.ofNat 3 ty))
    | _ => .error (.unusedField "VMERGE")
  | 0x2E =>
    match unpack [1, 1, 3, 3, 5, 5, 5, 3] w with
    | [z, 0, ty, p, 0, a, d, sp] => .ok (.viota (.ofNat 3 sp) (.ofNat 5 d) (.ofNat 5 a) (.ofNat 3 p) (.ofNat 3 ty) (.ofNat 1 z))
    | _ => .error (.unusedField "VIOTA")
  | 0x30 =>
    match unpack [1, 1, 3, 3, 5, 5, 5, 3] w with
    | [0, nat, ty, p, 0, a, d, sp] => .ok (.vredadd (.ofNat 3 sp) (.ofNat 5 d) (.ofNat 5 a) (.ofNat 3 p) (.ofNat 3 ty) (.ofNat 1 nat))
    | _ => .error (.unusedField "VREDADD")
  | 0x31 =>
    match unpack [1, 1, 3, 3, 5, 5, 5, 3] w with
    | [0, nat, ty, p, 0, a, d, sp] => .ok (.vredmax (.ofNat 3 sp) (.ofNat 5 d) (.ofNat 5 a) (.ofNat 3 p) (.ofNat 3 ty) (.ofNat 1 nat))
    | _ => .error (.unusedField "VREDMAX")
  | 0x32 =>
    match unpack [1, 1, 3, 3, 5, 5, 5, 3] w with
    | [0, nat, ty, p, 0, a, d, sp] => .ok (.vredmin (.ofNat 3 sp) (.ofNat 5 d) (.ofNat 5 a) (.ofNat 3 p) (.ofNat 3 ty) (.ofNat 1 nat))
    | _ => .error (.unusedField "VREDMIN")
  | 0x33 =>
    match unpack [1, 1, 3, 3, 5, 5, 5, 3] w with
    | [z, 0, ty, p, 0, a, d, sp] => .ok (.vscan (.ofNat 3 sp) (.ofNat 5 d) (.ofNat 5 a) (.ofNat 3 p) (.ofNat 3 ty) (.ofNat 1 z))
    | _ => .error (.unusedField "VSCAN")
  | 0x34 =>
    match unpack [1, 1, 3, 3, 3, 1, 1, 5, 5, 3] w with
    | [z, dmod, ty, h, sty, 0, smod, a, d, sp] => .ok (.vcvt (.ofNat 3 sp) (.ofNat 5 d) (.ofNat 5 a) (.ofNat 1 smod) (.ofNat 3 sty) (.ofNat 3 h) (.ofNat 3 ty) (.ofNat 1 dmod) (.ofNat 1 z))
    | _ => .error (.unusedField "VCVT")
  | 0x35 =>
    match unpack [2, 3, 3, 5, 5, 5, 3] w with
    | [bt, ty, h, b, a, d, sp] => .ok (.vpack4 (.ofNat 3 sp) (.ofNat 5 d) (.ofNat 5 a) (.ofNat 5 b) (.ofNat 3 h) (.ofNat 3 ty) (.ofNat 2 bt))
    | _ => .error (.unusedField "VPACK4")
  | 0x36 =>
    match unpack [2, 3, 3, 5, 5, 5, 3] w with
    | [0, ty, h, b, a, d, sp] => .ok (.vunpk4 (.ofNat 3 sp) (.ofNat 5 d) (.ofNat 5 a) (.ofNat 5 b) (.ofNat 3 h) (.ofNat 3 ty))
    | _ => .error (.unusedField "VUNPK4")
  | 0x37 =>
    match unpack [2, 3, 3, 5, 5, 5, 3] w with
    | [0, ty, func, n, a, d, sp] => .ok (.vcord (.ofNat 3 sp) (.ofNat 5 d) (.ofNat 5 a) (.ofNat 5 n) (.ofNat 3 func) (.ofNat 3 ty))
    | _ => .error (.unusedField "VCORD")
  | 0x38 =>
    match unpack [8, 5, 5, 5, 3] w with
    | [0, b, a, d, sp] => .ok (.pand (.ofNat 3 sp) (.ofNat 5 d) (.ofNat 5 a) (.ofNat 5 b))
    | _ => .error (.unusedField "PAND")
  | 0x39 =>
    match unpack [8, 5, 5, 5, 3] w with
    | [0, b, a, d, sp] => .ok (.por (.ofNat 3 sp) (.ofNat 5 d) (.ofNat 5 a) (.ofNat 5 b))
    | _ => .error (.unusedField "POR")
  | 0x3A =>
    match unpack [8, 5, 5, 5, 3] w with
    | [0, b, a, d, sp] => .ok (.pxor (.ofNat 3 sp) (.ofNat 5 d) (.ofNat 5 a) (.ofNat 5 b))
    | _ => .error (.unusedField "PXOR")
  | 0x3B =>
    match unpack [8, 5, 5, 5, 3] w with
    | [0, 0, a, d, sp] => .ok (.pnot (.ofNat 3 sp) (.ofNat 5 d) (.ofNat 5 a))
    | _ => .error (.unusedField "PNOT")
  | 0x3C =>
    match unpack [2, 3, 3, 5, 5, 5, 3] w with
    | [0, ty, 0, 0, a, d, sp] => .ok (.pcnt (.ofNat 3 sp) (.ofNat 5 d) (.ofNat 5 a) (.ofNat 3 ty))
    | _ => .error (.unusedField "PCNT")
  | 0x3D =>
    match unpack [2, 3, 3, 5, 5, 5, 3] w with
    | [0, ty, 0, 0, a, d, sp] => .ok (.pfirst (.ofNat 3 sp) (.ofNat 5 d) (.ofNat 5 a) (.ofNat 3 ty))
    | _ => .error (.unusedField "PFIRST")
  | 0x3E =>
    match unpack [2, 3, 3, 5, 5, 5, 3] w with
    | [0, ty, 0, 0, a, d, sp] => .ok (.ptail (.ofNat 3 sp) (.ofNat 5 d) (.ofNat 5 a) (.ofNat 3 ty))
    | _ => .error (.unusedField "PTAIL")
  | op => .error (.unassigned op)

/-- The opcodes of the matrix slots (R34) with their field layouts; a bit of an unused field that is 1 refuses the word (R27). -/
def decodeMatrix (w : Nat) : Except Reject Instr :=
  match w / 2 ^ 58 with
  | 0x00 =>
    match unpack [18, 1, 4, 4, 4, 4, 3, 10, 5, 2, 3] w with
    | [0, z, fmtB, fmtA, kgm1, bk, ws, aoff, a, acc, sp] => .ok (.mma (.ofNat 3 sp) (.ofNat 2 acc) (.ofNat 5 a) (.ofNat 10 aoff) (.ofNat 3 ws) (.ofNat 4 bk) (.ofNat 4 kgm1) (.ofNat 4 fmtA) (.ofNat 4 fmtB) (.ofNat 1 z))
    | _ => .error (.unusedField "MMA")
  | 0x01 =>
    match unpack [18, 1, 3, 1, 4, 4, 4, 3, 10, 5, 2, 3] w with
    | [0, z, 0, lvl, ftoff, kgm1, bk, ws, aoff, a, acc, sp] => .ok (.mmat (.ofNat 3 sp) (.ofNat 2 acc) (.ofNat 5 a) (.ofNat 10 aoff) (.ofNat 3 ws) (.ofNat 4 bk) (.ofNat 4 kgm1) (.ofNat 4 ftoff) (.ofNat 1 lvl) (.ofNat 1 z))
    | _ => .error (.unusedField "MMAT")
  | 0x02 =>
    match unpack [18, 1, 3, 1, 4, 4, 4, 3, 10, 5, 2, 3] w with
    | [0, z, 0, lvl, ftoff, kgm1, bk, ws, aoff, a, acc, sp] => .ok (.mmae (.ofNat 3 sp) (.ofNat 2 acc) (.ofNat 5 a) (.ofNat 10 aoff) (.ofNat 3 ws) (.ofNat 4 bk) (.ofNat 4 kgm1) (.ofNat 4 ftoff) (.ofNat 1 lvl) (.ofNat 1 z))
    | _ => .error (.unusedField "MMAE")
  | 0x04 =>
    match unpack [6, 2, 1, 1, 7, 4, 4, 2, 5, 5, 10, 5, 3, 3] w with
    | [0, scope, aq, tg, tag, xfmt, fmt, kind, nrm1, srow, roff, a, ws, sp] => .ok (.wbld (.ofNat 3 sp) (.ofNat 3 ws) (.ofNat 5 a) (.ofNat 10 roff) (.ofNat 5 srow) (.ofNat 5 nrm1) (.ofNat 2 kind) (.ofNat 4 fmt) (.ofNat 4 xfmt) (.ofNat 7 tag) (.ofNat 1 tg) (.ofNat 1 aq) (.ofNat 2 scope))
    | _ => .error (.unusedField "WBLD")
  | 0x05 =>
    match unpack [9, 1, 7, 30, 8, 3] w with
    | [0, tg, tag, 0, mask, sp] => .ok (.wbclr (.ofNat 3 sp) (.ofNat 8 mask) (.ofNat 7 tag) (.ofNat 1 tg))
    | _ => .error (.unusedField "WBCLR")
  | 0x08 =>
    match unpack [51, 4, 3] w with
    | [0, mask, sp] => .ok (.accz (.ofNat 3 sp) (.ofNat 4 mask))
    | _ => .error (.unusedField "ACCZ")
  | 0x09 =>
    match unpack [44, 4, 5, 2, 3] w with
    | [0, q, d, acc, sp] => .ok (.accrd (.ofNat 3 sp) (.ofNat 2 acc) (.ofNat 5 d) (.ofNat 4 q))
    | _ => .error (.unusedField "ACCRD")
  | 0x0A =>
    match unpack [44, 4, 5, 2, 3] w with
    | [0, q, a, acc, sp] => .ok (.accwr (.ofNat 3 sp) (.ofNat 2 acc) (.ofNat 5 a) (.ofNat 4 q))
    | _ => .error (.unusedField "ACCWR")
  | 0x0B =>
    match unpack [48, 5, 2, 3] w with
    | [0, a, acc, sp] => .ok (.accbias (.ofNat 3 sp) (.ofNat 2 acc) (.ofNat 5 a))
    | _ => .error (.unusedField "ACCBIAS")
  | 0x0C =>
    match unpack [14, 2, 1, 5, 1, 1, 7, 3, 4, 10, 5, 2, 3] w with
    | [0, scope, rel, s, tw, tg, tag, rm, ofmt, roff, a, acc, sp] => .ok (.accst (.ofNat 3 sp) (.ofNat 2 acc) (.ofNat 5 a) (.ofNat 10 roff) (.ofNat 4 ofmt) (.ofNat 3 rm) (.ofNat 7 tag) (.ofNat 1 tg) (.ofNat 1 tw) (.ofNat 5 s) (.ofNat 1 rel) (.ofNat 2 scope))
    | _ => .error (.unusedField "ACCST")
  | 0x10 =>
    match unpack [46, 5, 4, 3] w with
    | [0, a, e, sp] => .ok (.ftset (.ofNat 3 sp) (.ofNat 4 e) (.ofNat 5 a))
    | _ => .error (.unusedField "FTSET")
  | 0x11 =>
    match unpack [46, 5, 4, 3] w with
    | [0, d, e, sp] => .ok (.ftget (.ofNat 3 sp) (.ofNat 4 e) (.ofNat 5 d))
    | _ => .error (.unusedField "FTGET")
  | 0x12 =>
    match unpack [47, 3, 5, 3] w with
    | [0, which, d, sp] => .ok (.monrd (.ofNat 3 sp) (.ofNat 5 d) (.ofNat 3 which))
    | _ => .error (.unusedField "MONRD")
  | 0x13 =>
    match unpack [52, 3, 3] w with
    | [0, mask, sp] => .ok (.monclr (.ofNat 3 sp) (.ofNat 3 mask))
    | _ => .error (.unusedField "MONCLR")
  | 0x14 =>
    match unpack [50, 5, 3] w with
    | [0, a, sp] => .ok (.mbset (.ofNat 3 sp) (.ofNat 5 a))
    | _ => .error (.unusedField "MBSET")
  | op => .error (.unassigned op)

/-- The opcodes of the engine slots (R34) with their field layouts; a bit of an unused field that is 1 refuses the word (R27). -/
def decodeEngine (w : Nat) : Except Reject Instr :=
  match w / 2 ^ 58 with
  | 0x00 =>
    match unpack [4, 1, 2, 1, 1, 1, 7, 2, 1, 5, 8, 10, 5, 5, 2, 3] w with
    | [0, fe, scope, rl, aq, tg, tag, 0, tw, s, nrm1, roff, a, g, dir, sp] => .ok (.cpy (.ofNat 3 sp) (.ofNat 2 dir) (.ofNat 5 g) (.ofNat 5 a) (.ofNat 10 roff) (.ofNat 8 nrm1) (.ofNat 5 s) (.ofNat 1 tw) (.ofNat 7 tag) (.ofNat 1 tg) (.ofNat 1 aq) (.ofNat 1 rl) (.ofNat 2 scope) (.ofNat 1 fe))
    | _ => .error (.unusedField "CPY")
  | 0x01 =>
    match unpack [4, 1, 2, 1, 1, 1, 7, 3, 5, 8, 10, 5, 5, 2, 3] w with
    | [0, fe, scope, rl, aq, tg, tag, 0, st, nrm1, roff, a, g, dir, sp] => .ok (.cpy2 (.ofNat 3 sp) (.ofNat 2 dir) (.ofNat 5 g) (.ofNat 5 a) (.ofNat 10 roff) (.ofNat 8 nrm1) (.ofNat 5 st) (.ofNat 7 tag) (.ofNat 1 tg) (.ofNat 1 aq) (.ofNat 1 rl) (.ofNat 2 scope) (.ofNat 1 fe))
    | _ => .error (.unusedField "CPY2")
  | 0x02 =>
    match unpack [4, 1, 2, 1, 1, 1, 7, 8, 8, 10, 5, 5, 2, 3] w with
    | [0, fe, scope, rl, aq, tg, tag, 0, nrm1, roff, a, l, 0, sp] => .ok (.cpyg (.ofNat 3 sp) (.ofNat 5 l) (.ofNat 5 a) (.ofNat 10 roff) (.ofNat 8 nrm1) (.ofNat 7 tag) (.ofNat 1 tg) (.ofNat 1 aq) (.ofNat 1 rl) (.ofNat 2 scope) (.ofNat 1 fe))
    | _ => .error (.unusedField "CPYG")
  | 0x03 =>
    match unpack [4, 1, 2, 1, 1, 1, 7, 8, 8, 10, 5, 5, 2, 3] w with
    | [0, fe, scope, rl, aq, tg, tag, 0, nrm1, roff, a, l, 0, sp] => .ok (.cpys (.ofNat 3 sp) (.ofNat 5 l) (.ofNat 5 a) (.ofNat 10 roff) (.ofNat 8 nrm1) (.ofNat 7 tag) (.ofNat 1 tg) (.ofNat 1 aq) (.ofNat 1 rl) (.ofNat 2 scope) (.ofNat 1 fe))
    | _ => .error (.unusedField "CPYS")
  | 0x04 =>
    match unpack [4, 1, 2, 1, 1, 1, 7, 1, 8, 6, 8, 5, 5, 5, 3] w with
    | [0, fe, scope, rl, aq, tg, tag, 0, sn, sem, nrm1, a, g, w, sp] => .ok (.cpyr (.ofNat 3 sp) (.ofNat 5 w) (.ofNat 5 g) (.ofNat 5 a) (.ofNat 8 nrm1) (.ofNat 6 sem) (.ofNat 8 sn) (.ofNat 7 tag) (.ofNat 1 tg) (.ofNat 1 aq) (.ofNat 1 rl) (.ofNat 2 scope) (.ofNat 1 fe))
    | _ => .error (.unusedField "CPYR")
  | 0x05 =>
    match unpack [4, 1, 2, 1, 1, 1, 7, 3, 5, 8, 10, 5, 5, 2, 3] w with
    | [0, fe, scope, rl, aq, tg, tag, 0, tm, nrm1, roff, a, g, dir, sp] => .ok (.cpyt (.ofNat 3 sp) (.ofNat 2 dir) (.ofNat 5 g) (.ofNat 5 a) (.ofNat 10 roff) (.ofNat 8 nrm1) (.ofNat 5 tm) (.ofNat 7 tag) (.ofNat 1 tg) (.ofNat 1 aq) (.ofNat 1 rl) (.ofNat 2 scope) (.ofNat 1 fe))
    | _ => .error (.unusedField "CPYT")
  | 0x06 =>
    match unpack [4, 1, 2, 1, 1, 1, 7, 1, 8, 6, 8, 5, 5, 5, 3] w with
    | [0, fe, scope, rl, aq, tg, tag, 0, sn, sem, nrm1, a, b, t, sp] => .ok (.cpyx (.ofNat 3 sp) (.ofNat 5 t) (.ofNat 5 b) (.ofNat 5 a) (.ofNat 8 nrm1) (.ofNat 6 sem) (.ofNat 8 sn) (.ofNat 7 tag) (.ofNat 1 tg) (.ofNat 1 aq) (.ofNat 1 rl) (.ofNat 2 scope) (.ofNat 1 fe))
    | _ => .error (.unusedField "CPYX")
  | 0x08 =>
    match unpack [45, 5, 5, 3] w with
    | [0, m, d, sp] => .ok (.twany (.ofNat 3 sp) (.ofNat 5 d) (.ofNat 5 m))
    | _ => .error (.unusedField "TWANY")
  | 0x09 =>
    match unpack [45, 5, 5, 3] w with
    | [0, m, d, sp] => .ok (.twall (.ofNat 3 sp) (.ofNat 5 d) (.ofNat 5 m))
    | _ => .error (.unusedField "TWALL")
  | 0x0A =>
    match unpack [45, 5, 5, 3] w with
    | [0, m, d, sp] => .ok (.tffr (.ofNat 3 sp) (.ofNat 5 d) (.ofNat 5 m))
    | _ => .error (.unusedField "TFFR")
  | 0x0B =>
    match unpack [45, 5, 5, 3] w with
    | [0, m, 0, sp] => .ok (.tclr (.ofNat 3 sp) (.ofNat 5 m))
    | _ => .error (.unusedField "TCLR")
  | 0x0C =>
    match unpack [44, 7, 4, 3] w with
    | [0, lim, cm, sp] => .ok (.wait (.ofNat 3 sp) (.ofNat 4 cm) (.ofNat 7 lim))
    | _ => .error (.unusedField "WAIT")
  | 0x10 =>
    match unpack [5, 2, 27, 1, 8, 6, 1, 5, 3] w with
    | [0, scope, 0, md, n, sem, loc, t, sp] => .ok (.semsig (.ofNat 3 sp) (.ofNat 5 t) (.ofNat 1 loc) (.ofNat 6 sem) (.ofNat 8 n) (.ofNat 1 md) (.ofNat 2 scope))
    | _ => .error (.unusedField "SEMSIG")
  | 0x11 =>
    match unpack [5, 2, 27, 1, 8, 6, 6, 3] w with
    | [0, scope, 0, nd, n, sem, 0, sp] => .ok (.semwait (.ofNat 3 sp) (.ofNat 6 sem) (.ofNat 8 n) (.ofNat 1 nd) (.ofNat 2 scope))
    | _ => .error (.unusedField "SEMWAIT")
  | 0x12 =>
    match unpack [5, 2, 36, 6, 1, 5, 3] w with
    | [0, scope, 0, sem, 0, d, sp] => .ok (.semrd (.ofNat 3 sp) (.ofNat 5 d) (.ofNat 6 sem) (.ofNat 2 scope))
    | _ => .error (.unusedField "SEMRD")
  | 0x13 =>
    match unpack [5, 2, 27, 1, 8, 6, 1, 5, 3] w with
    | [0, scope, 0, md, n, bar, loc, r, sp] => .ok (.bararv (.ofNat 3 sp) (.ofNat 5 r) (.ofNat 1 loc) (.ofNat 6 bar) (.ofNat 8 n) (.ofNat 1 md) (.ofNat 2 scope))
    | _ => .error (.unusedField "BARARV")
  | 0x14 =>
    match unpack [5, 2, 36, 6, 1, 5, 3] w with
    | [0, scope, 0, bar, 0, g, sp] => .ok (.barwt (.ofNat 3 sp) (.ofNat 5 g) (.ofNat 6 bar) (.ofNat 2 scope))
    | _ => .error (.unusedField "BARWT")
  | 0x15 =>
    match unpack [5, 2, 35, 3, 5, 5, 3] w with
    | [0, scope, 0, tr, 0, d, sp] => .ok (.treearv (.ofNat 3 sp) (.ofNat 5 d) (.ofNat 3 tr) (.ofNat 2 scope))
    | _ => .error (.unusedField "TREEARV")
  | 0x16 =>
    match unpack [5, 2, 35, 3, 5, 5, 3] w with
    | [0, scope, 0, tr, 0, g, sp] => .ok (.treewt (.ofNat 3 sp) (.ofNat 5 g) (.ofNat 3 tr) (.ofNat 2 scope))
    | _ => .error (.unusedField "TREEWT")
  | 0x17 =>
    match unpack [42, 3, 5, 5, 3] w with
    | [0, tr, b, a, sp] => .ok (.treemask (.ofNat 3 sp) (.ofNat 5 a) (.ofNat 5 b) (.ofNat 3 tr))
    | _ => .error (.unusedField "TREEMASK")
  | 0x18 =>
    match unpack [55, 3] w with
    | [0, sp] => .ok (.next (.ofNat 3 sp))
    | _ => .error (.unusedField "NEXT")
  | 0x19 =>
    match unpack [19, 1, 5, 16, 4, 5, 5, 3] w with
    | [0, oj, j, dep, slot, a, d, sp] => .ok (.launch (.ofNat 3 sp) (.ofNat 5 d) (.ofNat 5 a) (.ofNat 4 slot) (.ofNat 16 dep) (.ofNat 5 j) (.ofNat 1 oj))
    | _ => .error (.unusedField "LAUNCH")
  | 0x1A =>
    match unpack [13, 16, 4, 2, 5, 5, 5, 5, 3] w with
    | [0, dep, slot, n, c, b, a, d, sp] => .ok (.task (.ofNat 3 sp) (.ofNat 5 d) (.ofNat 5 a) (.ofNat 5 b) (.ofNat 5 c) (.ofNat 2 n) (.ofNat 4 slot) (.ofNat 16 dep))
    | _ => .error (.unusedField "TASK")
  | 0x1B =>
    match unpack [49, 5, 1, 3] w with
    | [0, 0, 0, sp] => .ok (.doneUnit (.ofNat 3 sp))
    | [0, a, 1, sp] => .ok (.doneItem (.ofNat 3 sp) (.ofNat 5 a))
    | _ => .error (.unusedField "DONE")
  | 0x1C =>
    match unpack [48, 2, 5, 3] w with
    | [0, lvl, a, sp] => .ok (.cancel (.ofNat 3 sp) (.ofNat 5 a) (.ofNat 2 lvl))
    | _ => .error (.unusedField "CANCEL")
  | 0x1D =>
    match unpack [41, 2, 2, 5, 5, 3] w with
    | [0, q, md, a, d, sp] => .ok (.slabtag (.ofNat 3 sp) (.ofNat 5 d) (.ofNat 5 a) (.ofNat 2 md) (.ofNat 2 q))
    | _ => .error (.unusedField "SLABTAG")
  | 0x20 =>
    match unpack [30, 5, 4, 4, 4, 4, 4, 3] w with
    | [0, d, 0, fy, fm, fv, fc, sp] => .ok (.clkdiv (.ofNat 3 sp) (.ofNat 4 fc) (.ofNat 4 fv) (.ofNat 4 fm) (.ofNat 4 fy) (.ofNat 5 d))
    | _ => .error (.unusedField "CLKDIV")
  | 0x21 =>
    match unpack [50, 5, 3] w with
    | [0, a, sp] => .ok (.timewt (.ofNat 3 sp) (.ofNat 5 a))
    | _ => .error (.unusedField "TIMEWT")
  | op => .error (.unassigned op)

/-- The opcodes of the control slots (R34) with their field layouts; a bit of an unused field that is 1 refuses the word (R27). -/
def decodeControl (w : Nat) : Except Reject Instr :=
  match w / 2 ^ 26 with
  | 0x00 =>
    match unpack [18, 5, 3] w with
    | [off, 0, sp] => .ok (.bra (.ofNat 3 sp) (.ofNat 18 off))
    | _ => .error (.unusedField "BRA")
  | 0x01 =>
    match unpack [18, 5, 3] w with
    | [off, c, sp] => .ok (.bz (.ofNat 3 sp) (.ofNat 5 c) (.ofNat 18 off))
    | _ => .error (.unusedField "BZ")
  | 0x02 =>
    match unpack [18, 5, 3] w with
    | [off, c, sp] => .ok (.bnz (.ofNat 3 sp) (.ofNat 5 c) (.ofNat 18 off))
    | _ => .error (.unusedField "BNZ")
  | 0x03 =>
    match unpack [18, 5, 3] w with
    | [off, c, sp] => .ok (.bltz (.ofNat 3 sp) (.ofNat 5 c) (.ofNat 18 off))
    | _ => .error (.unusedField "BLTZ")
  | 0x04 =>
    match unpack [18, 5, 3] w with
    | [off, c, sp] => .ok (.bgez (.ofNat 3 sp) (.ofNat 5 c) (.ofNat 18 off))
    | _ => .error (.unusedField "BGEZ")
  | 0x05 =>
    match unpack [18, 4, 1, 3] w with
    | [off, 0, lvl, sp] => .ok (.loopb (.ofNat 3 sp) (.ofNat 1 lvl) (.ofNat 18 off))
    | _ => .error (.unusedField "LOOPB")
  | 0x06 =>
    match unpack [13, 5, 4, 1, 3] w with
    | [n, a, 0, lvl, sp] => .ok (.loopset (.ofNat 3 sp) (.ofNat 1 lvl) (.ofNat 5 a) (.ofNat 13 n))
    | _ => .error (.unusedField "LOOPSET")
  | 0x07 =>
    match unpack [18, 5, 3] w with
    | [off, 0, sp] => .ok (.call (.ofNat 3 sp) (.ofNat 18 off))
    | _ => .error (.unusedField "CALL")
  | 0x08 =>
    match unpack [13, 5, 5, 3] w with
    | [0, a, 0, sp] => .ok (.jr (.ofNat 3 sp) (.ofNat 5 a))
    | _ => .error (.unusedField "JR")
  | 0x09 =>
    match unpack [13, 5, 5, 3] w with
    | [0, a, d, sp] => .ok (.jalr (.ofNat 3 sp) (.ofNat 5 d) (.ofNat 5 a))
    | _ => .error (.unusedField "JALR")
  | 0x0A =>
    match unpack [12, 1, 5, 5, 3] w with
    | [n, 0, 0, 0, sp] => .ok (.trap (.ofNat 3 sp) (.ofNat 12 n))
    | _ => .error (.unusedField "TRAP")
  | 0x0B =>
    match unpack [23, 3] w with
    | [0, sp] => .ok (.eret (.ofNat 3 sp))
    | _ => .error (.unusedField "ERET")
  | 0x0C =>
    match unpack [12, 1, 5, 5, 3] w with
    | [reg, 0, 0, d, sp] => .ok (.srd (.ofNat 3 sp) (.ofNat 5 d) (.ofNat 12 reg))
    | _ => .error (.unusedField "SRD")
  | 0x0D =>
    match unpack [12, 1, 5, 5, 3] w with
    | [reg, 0, a, 0, sp] => .ok (.swr (.ofNat 3 sp) (.ofNat 5 a) (.ofNat 12 reg))
    | _ => .error (.unusedField "SWR")
  | 0x0E =>
    match unpack [2, 2, 9, 5, 5, 3] w with
    | [scope, kind, 0, 0, 0, sp] => .ok (.fence (.ofNat 3 sp) (.ofNat 2 kind) (.ofNat 2 scope))
    | _ => .error (.unusedField "FENCE")
  | 0x0F =>
    match unpack [23, 3] w with
    | [0, sp] => .ok (.halt (.ofNat 3 sp))
    | _ => .error (.unusedField "HALT")
  | 0x10 =>
    match unpack [13, 5, 5, 3] w with
    | [0, a, d, sp] => .ok (.locq (.ofNat 3 sp) (.ofNat 5 d) (.ofNat 5 a))
    | _ => .error (.unusedField "LOCQ")
  | 0x11 =>
    match unpack [18, 5, 3] w with
    | [0, d, sp] => .ok (.tsr (.ofNat 3 sp) (.ofNat 5 d))
    | _ => .error (.unusedField "TSR")
  | 0x12 =>
    match unpack [1, 17, 5, 3] w with
    | [n, 0, d, sp] => .ok (.cyc (.ofNat 3 sp) (.ofNat 5 d) (.ofNat 1 n))
    | _ => .error (.unusedField "CYC")
  | op => .error (.unassigned op)

/-- The decoder of one opcode table, before the values of the fields are checked. -/
def SlotUnit.decode (u : SlotUnit) (w : Nat) : Except Reject Instr :=
  match u with
  | .arith => decodeArith w
  | .access => decodeAccess w
  | .vector => decodeVector w
  | .matrix => decodeMatrix w
  | .engine => decodeEngine w
  | .control => decodeControl w

/-- A0-only opcodes 0x18 to 0x1E and LD-only opcodes 0x10 to 0x1B (R34, R83, R161). -/
def slotMayHold (c : SlotClass) (op : Nat) : Bool :=
  match c with
  | .a1 => !(0x18 ≤ op && op ≤ 0x1E)
  | .ls => !(0x10 ≤ op && op ≤ 0x1B)
  | .a0 | .ld | .vx | .mx | .ec | .br => true

/-- CheckSlot of R27 on one slot word: the operation, or the reason of the illegal-instruction trap. -/
def decodeSlot (c : SlotClass) (w : Nat) : Except Reject Instr :=
  let op := w / 2 ^ c.unit.low
  if slotMayHold c op then
    match c.unit.decode w with
    | .ok i => if i.wf then .ok i else .error .badValue
    | .error e => .error e
  else .error (.wrongSlot op)

/-- BundleLength of R24. -/
def bundleLength (pm : Nat) : Nat :=
  let bit (i : Nat) := pm / 2 ^ i % 2
  2 + 4 * (bit 0 + bit 1 + bit 2 + bit 3 + bit 4 + bit 7) + 8 * (bit 5 + bit 6)

/-- The little-endian value of bytes (R3). -/
def leNat : List (BitVec 8) → Nat
  | [] => 0
  | b :: bs => b.toNat + 256 * leNat bs

/-- The n low bytes of a number, little-endian (R3). -/
def leBytes : Nat → Nat → List (BitVec 8)
  | 0, _ => []
  | n + 1, v => BitVec.ofNat 8 v :: leBytes n (v / 256)

/-- The slots of a bundle from PM bit i upwards (n classes left), read from the bytes after the header (R23).
The lowest PM bit that fails is reported (R27). -/
def decodeSlots : Nat → Nat → Nat → List (BitVec 8) → Except (Nat × Reject) (List (SlotClass × Instr))
  | 0, _, _, _ => .ok []
  | n + 1, i, pm, bs =>
    if pm / 2 ^ i % 2 = 1 then
      let c := SlotClass.ofPm i
      let k := c.bits / 8
      match decodeSlot c (leNat (bs.take k)) with
      | .error e => .error (i, e)
      | .ok ins =>
        match decodeSlots n (i + 1) pm (bs.drop k) with
        | .error e => .error e
        | .ok r => .ok ((c, ins) :: r)
    else decodeSlots n (i + 1) pm bs

/-- What a header and the bytes after it are (R22, R25, R26). -/
inductive Fetched where
  /-- A halfword 0x0000: fetch goes on at the next line. -/
  | linePad
  | bundle (b : Bundle)
  /-- Malformed-bundle trap. -/
  | malformed
  /-- Illegal-instruction trap of the slot with this PM bit. -/
  | illegal (pm : Nat) (why : Reject)
  deriving DecidableEq, Repr

/-- The encoding checks of R26 in their order. `room` is the number of bytes from the header to the end of its line,
`arrived` whether a transfer of control led here; `bs` holds the bytes from the header on. -/
def decodeBundle (room : Nat) (arrived : Bool) (bs : List (BitVec 8)) : Fetched :=
  let h := leNat (bs.take 2)
  if bitsOf h 10 5 ≠ 0 then .malformed else
  let pm := h % 256
  if pm = 0 then
    if bitOf h 15 then .bundle ⟨bitOf h 9, bitOf h 8, 2, []⟩
    else if bitsOf h 8 2 ≠ 0 ∨ arrived then .malformed
    else .linePad
  else if bitOf h 15 then .malformed
  else if room < bundleLength pm then .malformed
  else
    match decodeSlots 8 0 pm (bs.drop 2) with
    | .error (i, e) => .illegal i e
    | .ok slots => .bundle ⟨bitOf h 9, bitOf h 8, bundleLength pm, slots⟩

/-- The unit of slot classes, the opcode and the fields (low field first, with widths; `none` is an unused field) of an operation (R31, R33, R34 and the
entries' layouts); an event and the empty bundle have none. -/
def Instr.layout : Instr → Option (SlotUnit × Nat × List (Nat × Option Nat))
  | .add sp d a b => some (.arith, 0x00, [(8, none), (5, some b.toNat), (5, some a.toNat), (5, some d.toNat), (3, some sp.toNat)])
  | .sub sp d a b => some (.arith, 0x01, [(8, none), (5, some b.toNat), (5, some a.toNat), (5, some d.toNat), (3, some sp.toNat)])
  | .and sp d a b => some (.arith, 0x02, [(8, none), (5, some b.toNat), (5, some a.toNat), (5, some d.toNat), (3, some sp.toNat)])
  | .or sp d a b => some (.arith, 0x03, [(8, none), (5, some b.toNat), (5, some a.toNat), (5, some d.toNat), (3, some sp.toNat)])
  | .xor sp d a b => some (.arith, 0x04, [(8, none), (5, some b.toNat), (5, some a.toNat), (5, some d.toNat), (3, some sp.toNat)])
  | .andn sp d a b => some (.arith, 0x05, [(8, none), (5, some b.toNat), (5, some a.toNat), (5, some d.toNat), (3, some sp.toNat)])
  | .shl sp d a b => some (.arith, 0x06, [(8, none), (5, some b.toNat), (5, some a.toNat), (5, some d.toNat), (3, some sp.toNat)])
  | .shr sp d a b => some (.arith, 0x07, [(8, none), (5, some b.toNat), (5, some a.toNat), (5, some d.toNat), (3, some sp.toNat)])
  | .sar sp d a b => some (.arith, 0x08, [(8, none), (5, some b.toNat), (5, some a.toNat), (5, some d.toNat), (3, some sp.toNat)])
  | .rol sp d a b => some (.arith, 0x09, [(8, none), (5, some b.toNat), (5, some a.toNat), (5, some d.toNat), (3, some sp.toNat)])
  | .min sp d a b => some (.arith, 0x0A, [(8, none), (5, some b.toNat), (5, some a.toNat), (5, some d.toNat), (3, some sp.toNat)])
  | .max sp d a b => some (.arith, 0x0B, [(8, none), (5, some b.toNat), (5, some a.toNat), (5, some d.toNat), (3, some sp.toNat)])
  | .minn sp d a b => some (.arith, 0x0C, [(8, none), (5, some b.toNat), (5, some a.toNat), (5, some d.toNat), (3, some sp.toNat)])
  | .maxn sp d a b => some (.arith, 0x0D, [(8, none), (5, some b.toNat), (5, some a.toNat), (5, some d.toNat), (3, some sp.toNat)])
  | .seq sp d a b => some (.arith, 0x0E, [(8, none), (5, some b.toNat), (5, some a.toNat), (5, some d.toNat), (3, some sp.toNat)])
  | .slt sp d a b => some (.arith, 0x0F, [(8, none), (5, some b.toNat), (5, some a.toNat), (5, some d.toNat), (3, some sp.toNat)])
  | .sltn sp d a b => some (.arith, 0x10, [(8, none), (5, some b.toNat), (5, some a.toNat), (5, some d.toNat), (3, some sp.toNat)])
  | .sel sp d a b c => some (.arith, 0x11, [(5, some c.toNat), (3, none), (5, some b.toNat), (5, some a.toNat), (5, some d.toNat), (3, some sp.toNat)])
  | .clz sp d a w => some (.arith, 0x12, [(2, some w.toNat), (6, none), (5, none), (5, some a.toNat), (5, some d.toNat), (3, some sp.toNat)])
  | .popc sp d a w => some (.arith, 0x13, [(2, some w.toNat), (6, none), (5, none), (5, some a.toNat), (5, some d.toNat), (3, some sp.toNat)])
  | .addsh sp d a b sh => some (.arith, 0x14, [(4, some sh.toNat), (4, none), (5, some b.toNat), (5, some a.toNat), (5, some d.toNat), (3, some sp.toNat)])
  | .addw sp d a b => some (.arith, 0x15, [(8, none), (5, some b.toNat), (5, some a.toNat), (5, some d.toNat), (3, some sp.toNat)])
  | .bext sp d a sg len pos => some (.arith, 0x16, [(6, some pos.toNat), (6, some len.toNat), (1, some sg.toNat), (5, some a.toNat), (5, some d.toNat), (3, some sp.toNat)])
  | .bins sp d a len pos => some (.arith, 0x17, [(6, some pos.toNat), (6, some len.toNat), (1, none), (5, some a.toNat), (5, some d.toNat), (3, some sp.toNat)])
  | .mul sp d a b => some (.arith, 0x18, [(8, none), (5, some b.toNat), (5, some a.toNat), (5, some d.toNat), (3, some sp.toNat)])
  | .mulh sp d a b => some (.arith, 0x19, [(8, none), (5, some b.toNat), (5, some a.toNat), (5, some d.toNat), (3, some sp.toNat)])
  | .mulhn sp d a b => some (.arith, 0x1A, [(8, none), (5, some b.toNat), (5, some a.toNat), (5, some d.toNat), (3, some sp.toNat)])
  | .div sp d a b => some (.arith, 0x1B, [(8, none), (5, some b.toNat), (5, some a.toNat), (5, some d.toNat), (3, some sp.toNat)])
  | .divn sp d a b => some (.arith, 0x1C, [(8, none), (5, some b.toNat), (5, some a.toNat), (5, some d.toNat), (3, some sp.toNat)])
  | .rem sp d a b => some (.arith, 0x1D, [(8, none), (5, some b.toNat), (5, some a.toNat), (5, some d.toNat), (3, some sp.toNat)])
  | .remn sp d a b => some (.arith, 0x1E, [(8, none), (5, some b.toNat), (5, some a.toNat), (5, some d.toNat), (3, some sp.toNat)])
  | .addi sp d a imm => some (.arith, 0x20, [(13, some imm.toNat), (5, some a.toNat), (5, some d.toNat), (3, some sp.toNat)])
  | .andi sp d a imm => some (.arith, 0x21, [(13, some imm.toNat), (5, some a.toNat), (5, some d.toNat), (3, some sp.toNat)])
  | .ori sp d a imm => some (.arith, 0x22, [(13, some imm.toNat), (5, some a.toNat), (5, some d.toNat), (3, some sp.toNat)])
  | .xori sp d a imm => some (.arith, 0x23, [(13, some imm.toNat), (5, some a.toNat), (5, some d.toNat), (3, some sp.toNat)])
  | .shli sp d a n => some (.arith, 0x24, [(6, some n.toNat), (7, none), (5, some a.toNat), (5, some d.toNat), (3, some sp.toNat)])
  | .shri sp d a n => some (.arith, 0x25, [(6, some n.toNat), (7, none), (5, some a.toNat), (5, some d.toNat), (3, some sp.toNat)])
  | .sari sp d a n => some (.arith, 0x26, [(6, some n.toNat), (7, none), (5, some a.toNat), (5, some d.toNat), (3, some sp.toNat)])
  | .slti sp d a imm => some (.arith, 0x27, [(13, some imm.toNat), (5, some a.toNat), (5, some d.toNat), (3, some sp.toNat)])
  | .sltni sp d a imm => some (.arith, 0x28, [(13, some imm.toNat), (5, some a.toNat), (5, some d.toNat), (3, some sp.toNat)])
  | .seqi sp d a imm => some (.arith, 0x29, [(13, some imm.toNat), (5, some a.toNat), (5, some d.toNat), (3, some sp.toNat)])
  | .movl sp d imm => some (.arith, 0x2A, [(18, some imm.toNat), (5, some d.toNat), (3, some sp.toNat)])
  | .cati sp d imm => some (.arith, 0x2B, [(18, some imm.toNat), (5, some d.toNat), (3, some sp.toNat)])
  | .ldx sp t base off => some (.access, 0x00, [(13, some off.toNat), (5, some base.toNat), (5, some t.toNat), (3, some sp.toNat)])
  | .stx sp t base off => some (.access, 0x01, [(13, some off.toNat), (5, some base.toNat), (5, some t.toNat), (3, some sp.toNat)])
  | .ldv sp t base off => some (.access, 0x02, [(13, some off.toNat), (5, some base.toNat), (5, some t.toNat), (3, some sp.toNat)])
  | .stv sp t base off => some (.access, 0x03, [(13, some off.toNat), (5, some base.toNat), (5, some t.toNat), (3, some sp.toNat)])
  | .stvp sp t base p off => some (.access, 0x04, [(10, some off.toNat), (3, some p.toNat), (5, some base.toNat), (5, some t.toNat), (3, some sp.toNat)])
  | .ldxf sp t base off => some (.access, 0x05, [(13, some off.toNat), (5, some base.toNat), (5, some t.toNat), (3, some sp.toNat)])
  | .stxe sp t base off => some (.access, 0x06, [(13, some off.toNat), (5, some base.toNat), (5, some t.toNat), (3, some sp.toNat)])
  | .ldvf sp t base off => some (.access, 0x07, [(13, some off.toNat), (5, some base.toNat), (5, some t.toNat), (3, some sp.toNat)])
  | .stve sp t base off => some (.access, 0x08, [(13, some off.toNat), (5, some base.toNat), (5, some t.toNat), (3, some sp.toNat)])
  | .setfe sp t base off => some (.access, 0x09, [(13, some off.toNat), (5, some base.toNat), (5, some t.toNat), (3, some sp.toNat)])
  | .getfe sp t base off => some (.access, 0x0A, [(13, some off.toNat), (5, some base.toNat), (5, some t.toNat), (3, some sp.toNat)])
  | .ldsp sp t k => some (.access, 0x0B, [(11, some k.toNat), (7, none), (5, some t.toNat), (3, some sp.toNat)])
  | .stsp sp t k => some (.access, 0x0C, [(11, some k.toNat), (7, none), (5, some t.toNat), (3, some sp.toNat)])
  | .ldspv sp t k => some (.access, 0x0D, [(6, some k.toNat), (12, none), (5, some t.toNat), (3, some sp.toNat)])
  | .stspv sp t k => some (.access, 0x0E, [(6, some k.toNat), (12, none), (5, some t.toNat), (3, some sp.toNat)])
  | .aadd sp t base b off => some (.access, 0x10, [(8, some off.toNat), (5, some b.toNat), (5, some base.toNat), (5, some t.toNat), (3, some sp.toNat)])
  | .amin sp t base b off => some (.access, 0x11, [(8, some off.toNat), (5, some b.toNat), (5, some base.toNat), (5, some t.toNat), (3, some sp.toNat)])
  | .amax sp t base b off => some (.access, 0x12, [(8, some off.toNat), (5, some b.toNat), (5, some base.toNat), (5, some t.toNat), (3, some sp.toNat)])
  | .aminn sp t base b off => some (.access, 0x13, [(8, some off.toNat), (5, some b.toNat), (5, some base.toNat), (5, some t.toNat), (3, some sp.toNat)])
  | .amaxn sp t base b off => some (.access, 0x14, [(8, some off.toNat), (5, some b.toNat), (5, some base.toNat), (5, some t.toNat), (3, some sp.toNat)])
  | .aand sp t base b off => some (.access, 0x15, [(8, some off.toNat), (5, some b.toNat), (5, some base.toNat), (5, some t.toNat), (3, some sp.toNat)])
  | .aor sp t base b off => some (.access, 0x16, [(8, some off.toNat), (5, some b.toNat), (5, some base.toNat), (5, some t.toNat), (3, some sp.toNat)])
  | .axor sp t base b off => some (.access, 0x17, [(8, some off.toNat), (5, some b.toNat), (5, some base.toNat), (5, some t.toNat), (3, some sp.toNat)])
  | .aswp sp t base b off => some (.access, 0x18, [(8, some off.toNat), (5, some b.toNat), (5, some base.toNat), (5, some t.toNat), (3, some sp.toNat)])
  | .acas sp t base b off => some (.access, 0x19, [(8, some off.toNat), (5, some b.toNat), (5, some base.toNat), (5, some t.toNat), (3, some sp.toNat)])
  | .vaor sp t base off => some (.access, 0x1A, [(13, some off.toNat), (5, some base.toNat), (5, some t.toNat), (3, some sp.toNat)])
  | .vaadd sp t base off => some (.access, 0x1B, [(13, some off.toNat), (5, some base.toNat), (5, some t.toNat), (3, some sp.toNat)])
  | .gldx sp t base q off => some (.access, 0x20, [(11, some off.toNat), (2, some q.toNat), (5, some base.toNat), (5, some t.toNat), (3, some sp.toNat)])
  | .gstx sp t base q off => some (.access, 0x21, [(11, some off.toNat), (2, some q.toNat), (5, some base.toNat), (5, some t.toNat), (3, some sp.toNat)])
  | .gldv sp t base q off => some (.access, 0x22, [(11, some off.toNat), (2, some q.toNat), (5, some base.toNat), (5, some t.toNat), (3, some sp.toNat)])
  | .gstv sp t base q off => some (.access, 0x23, [(11, some off.toNat), (2, some q.toNat), (5, some base.toNat), (5, some t.toNat), (3, some sp.toNat)])
  | .gamo sp d a b ret q aop => some (.access, 0x24, [(4, some aop.toNat), (2, some q.toNat), (1, some ret.toNat), (1, none), (5, some b.toNat), (5, some a.toNat), (5, some d.toNat), (3, some sp.toNat)])
  | .gred sp a b q aop => some (.access, 0x25, [(4, some aop.toNat), (2, some q.toNat), (2, none), (5, some b.toNat), (5, some a.toNat), (5, none), (3, some sp.toNat)])
  | .drain sp scope mask => some (.access, 0x26, [(4, some mask.toNat), (2, some scope.toNat), (7, none), (5, none), (5, none), (3, some sp.toNat)])
  | .vadd sp d a b p ty z => some (.vector, 0x00, [(1, some z.toNat), (1, none), (3, some ty.toNat), (3, some p.toNat), (5, some b.toNat), (5, some a.toNat), (5, some d.toNat), (3, some sp.toNat)])
  | .vsub sp d a b p ty z => some (.vector, 0x01, [(1, some z.toNat), (1, none), (3, some ty.toNat), (3, some p.toNat), (5, some b.toNat), (5, some a.toNat), (5, some d.toNat), (3, some sp.toNat)])
  | .vmul sp d a b p ty z => some (.vector, 0x02, [(1, some z.toNat), (1, none), (3, some ty.toNat), (3, some p.toNat), (5, some b.toNat), (5, some a.toNat), (5, some d.toNat), (3, some sp.toNat)])
  | .vfma sp d a b p ty z => some (.vector, 0x03, [(1, some z.toNat), (1, none), (3, some ty.toNat), (3, some p.toNat), (5, some b.toNat), (5, some a.toNat), (5, some d.toNat), (3, some sp.toNat)])
  | .vfms sp d a b p ty z => some (.vector, 0x04, [(1, some z.toNat), (1, none), (3, some ty.toNat), (3, some p.toNat), (5, some b.toNat), (5, some a.toNat), (5, some d.toNat), (3, some sp.toNat)])
  | .vmin sp d a b p ty z => some (.vector, 0x05, [(1, some z.toNat), (1, none), (3, some ty.toNat), (3, some p.toNat), (5, some b.toNat), (5, some a.toNat), (5, some d.toNat), (3, some sp.toNat)])
  | .vmax sp d a b p ty z => some (.vector, 0x06, [(1, some z.toNat), (1, none), (3, some ty.toNat), (3, some p.toNat), (5, some b.toNat), (5, some a.toNat), (5, some d.toNat), (3, some sp.toNat)])
  | .vminn sp d a b p ty z => some (.vector, 0x07, [(1, some z.toNat), (1, none), (3, some ty.toNat), (3, some p.toNat), (5, some b.toNat), (5, some a.toNat), (5, some d.toNat), (3, some sp.toNat)])
  | .vmaxn sp d a b p ty z => some (.vector, 0x08, [(1, some z.toNat), (1, none), (3, some ty.toNat), (3, some p.toNat), (5, some b.toNat), (5, some a.toNat), (5, some d.toNat), (3, some sp.toNat)])
  | .vabs sp d a p ty z => some (.vector, 0x09, [(1, some z.toNat), (1, none), (3, some ty.toNat), (3, some p.toNat), (5, none), (5, some a.toNat), (5, some d.toNat), (3, some sp.toNat)])
  | .vneg sp d a p ty z => some (.vector, 0x0A, [(1, some z.toNat), (1, none), (3, some ty.toNat), (3, some p.toNat), (5, none), (5, some a.toNat), (5, some d.toNat), (3, some sp.toNat)])
  | .vadds sp d a b p ty nat z => some (.vector, 0x0B, [(1, some z.toNat), (1, some nat.toNat), (3, some ty.toNat), (3, some p.toNat), (5, some b.toNat), (5, some a.toNat), (5, some d.toNat), (3, some sp.toNat)])
  | .vsubs sp d a b p ty nat z => some (.vector, 0x0C, [(1, some z.toNat), (1, some nat.toNat), (3, some ty.toNat), (3, some p.toNat), (5, some b.toNat), (5, some a.toNat), (5, some d.toNat), (3, some sp.toNat)])
  | .vmulh sp d a b p ty z => some (.vector, 0x0D, [(1, some z.toNat), (1, none), (3, some ty.toNat), (3, some p.toNat), (5, some b.toNat), (5, some a.toNat), (5, some d.toNat), (3, some sp.toNat)])
  | .vmulhn sp d a b p ty z => some (.vector, 0x0E, [(1, some z.toNat), (1, none), (3, some ty.toNat), (3, some p.toNat), (5, some b.toNat), (5, some a.toNat), (5, some d.toNat), (3, some sp.toNat)])
  | .vdot sp d a b p ty nat z => some (.vector, 0x0F, [(1, some z.toNat), (1, some nat.toNat), (3, some ty.toNat), (3, some p.toNat), (5, some b.toNat), (5, some a.toNat), (5, some d.toNat), (3, some sp.toNat)])
  | .vand sp d a b p ty z => some (.vector, 0x10, [(1, some z.toNat), (1, none), (3, some ty.toNat), (3, some p.toNat), (5, some b.toNat), (5, some a.toNat), (5, some d.toNat), (3, some sp.toNat)])
  | .vor sp d a b p ty z => some (.vector, 0x11, [(1, some z.toNat), (1, none), (3, some ty.toNat), (3, some p.toNat), (5, some b.toNat), (5, some a.toNat), (5, some d.toNat), (3, some sp.toNat)])
  | .vxor sp d a b p ty z => some (.vector, 0x12, [(1, some z.toNat), (1, none), (3, some ty.toNat), (3, some p.toNat), (5, some b.toNat), (5, some a.toNat), (5, some d.toNat), (3, some sp.toNat)])
  | .vandn sp d a b p ty z => some (.vector, 0x13, [(1, some z.toNat), (1, none), (3, some ty.toNat), (3, some p.toNat), (5, some b.toNat), (5, some a.toNat), (5, some d.toNat), (3, some sp.toNat)])
  | .vshl sp d a b p ty z => some (.vector, 0x14, [(1, some z.toNat), (1, none), (3, some ty.toNat), (3, some p.toNat), (5, some b.toNat), (5, some a.toNat), (5, some d.toNat), (3, some sp.toNat)])
  | .vshr sp d a b p ty z => some (.vector, 0x15, [(1, some z.toNat), (1, none), (3, some ty.toNat), (3, some p.toNat), (5, some b.toNat), (5, some a.toNat), (5, some d.toNat), (3, some sp.toNat)])
  | .vsar sp d a b p ty z => some (.vector, 0x16, [(1, some z.toNat), (1, none), (3, some ty.toNat), (3, some p.toNat), (5, some b.toNat), (5, some a.toNat), (5, some d.toNat), (3, some sp.toNat)])
  | .vshli sp d a n p ty z => some (.vector, 0x17, [(1, some z.toNat), (1, none), (3, some ty.toNat), (3, some p.toNat), (5, some n.toNat), (5, some a.toNat), (5, some d.toNat), (3, some sp.toNat)])
  | .vshri sp d a n p ty nat z => some (.vector, 0x18, [(1, some z.toNat), (1, some nat.toNat), (3, some ty.toNat), (3, some p.toNat), (5, some n.toNat), (5, some a.toNat), (5, some d.toNat), (3, some sp.toNat)])
  | .vpopc sp d a p ty z => some (.vector, 0x19, [(1, some z.toNat), (1, none), (3, some ty.toNat), (3, some p.toNat), (5, none), (5, some a.toNat), (5, some d.toNat), (3, some sp.toNat)])
  | .vclz sp d a p ty z => some (.vector, 0x1A, [(1, some z.toNat), (1, none), (3, some ty.toNat), (3, some p.toNat), (5, none), (5, some a.toNat), (5, some d.toNat), (3, some sp.toNat)])
  | .vcmpeq sp d a b p ty z => some (.vector, 0x20, [(1, some z.toNat), (1, none), (3, some ty.toNat), (3, some p.toNat), (5, some b.toNat), (5, some a.toNat), (5, some d.toNat), (3, some sp.toNat)])
  | .vcmpne sp d a b p ty z => some (.vector, 0x21, [(1, some z.toNat), (1, none), (3, some ty.toNat), (3, some p.toNat), (5, some b.toNat), (5, some a.toNat), (5, some d.toNat), (3, some sp.toNat)])
  | .vcmplt sp d a b p ty z => some (.vector, 0x22, [(1, some z.toNat), (1, none), (3, some ty.toNat), (3, some p.toNat), (5, some b.toNat), (5, some a.toNat), (5, some d.toNat), (3, some sp.toNat)])
  | .vcmple sp d a b p ty z => some (.vector, 0x23, [(1, some z.toNat), (1, none), (3, some ty.toNat), (3, some p.toNat), (5, some b.toNat), (5, some a.toNat), (5, some d.toNat), (3, some sp.toNat)])
  | .vcmpltn sp d a b p ty z => some (.vector, 0x24, [(1, some z.toNat), (1, none), (3, some ty.toNat), (3, some p.toNat), (5, some b.toNat), (5, some a.toNat), (5, some d.toNat), (3, some sp.toNat)])
  | .vcmpun sp d a b p ty z => some (.vector, 0x25, [(1, some z.toNat), (1, none), (3, some ty.toNat), (3, some p.toNat), (5, some b.toNat), (5, some a.toNat), (5, some d.toNat), (3, some sp.toNat)])
  | .vsel sp d a b p ty => some (.vector, 0x26, [(2, none), (3, some ty.toNat), (3, some p.toNat), (5, some b.toNat), (5, some a.toNat), (5, some d.toNat), (3, some sp.toNat)])
  | .vmov sp d a p ty z => some (.vector, 0x27, [(1, some z.toNat), (1, none), (3, some ty.toNat), (3, some p.toNat), (5, none), (5, some a.toNat), (5, some d.toNat), (3, some sp.toNat)])
  | .vbcast sp d a p ty z => some (.vector, 0x28, [(1, some z.toNat), (1, none), (3, some ty.toNat), (3, some p.toNat), (5, none), (5, some a.toNat), (5, some d.toNat), (3, some sp.toNat)])
  | .vext sp d a b ty nat => some (.vector, 0x29, [(1, none), (1, some nat.toNat), (3, some ty.toNat), (3, none), (5, some b.toNat), (5, some a.toNat), (5, some d.toNat), (3, some sp.toNat)])
  | .vins sp d a b ty => some (.vector, 0x2A, [(2, none), (3, some ty.toNat), (3, none), (5, some b.toNat), (5, some a.toNat), (5, some d.toNat), (3, some sp.toNat)])
  | .vperm sp d a b p ty oz z => some (.vector, 0x2B, [(1, some z.toNat), (1, some oz.toNat), (3, some ty.toNat), (3, some p.toNat), (5, some b.toNat), (5, some a.toNat), (5, some d.toNat), (3, some sp.toNat)])
  | .vrot sp d a b p ty z => some (.vector, 0x2C, [(1, some z.toNat), (1, none), (3, some ty.toNat), (3, some p.toNat), (5, some b.toNat), (5, some a.toNat), (5, some d.toNat), (3, some sp.toNat)])
  | .vmerge sp d a b ty => some (.vector, 0x2D, [(2, none), (3, some ty.toNat), (3, none), (5, some b.toNat), (5, some a.toNat), (5, some d.toNat), (3, some sp.toNat)])
  | .viota sp d a p ty z => some (.vector, 0x2E, [(1, some z.toNat), (1, none), (3, some ty.toNat), (3, some p.toNat), (5, none), (5, some a.toNat), (5, some d.toNat), (3, some sp.toNat)])
  | .vredadd sp d a p ty nat => some (.vector, 0x30, [(1, none), (1, some nat.toNat), (3, some ty.toNat), (3, some p.toNat), (5, none), (5, some a.toNat), (5, some d.toNat), (3, some sp.toNat)])
  | .vredmax sp d a p ty nat => some (.vector, 0x31, [(1, none), (1, some nat.toNat), (3, some ty.toNat), (3, some p.toNat), (5, none), (5, some a.toNat), (5, some d.toNat), (3, some sp.toNat)])
  | .vredmin sp d a p ty nat => some (.vector, 0x32, [(1, none), (1, some nat.toNat), (3, some ty.toNat), (3, some p.toNat), (5, none), (5, some a.toNat), (5, some d.toNat), (3, some sp.toNat)])
  | .vscan sp d a p ty z => some (.vector, 0x33, [(1, some z.toNat), (1, none), (3, some ty.toNat), (3, some p.toNat), (5, none), (5, some a.toNat), (5, some d.toNat), (3, some sp.toNat)])
  | .vcvt sp d a smod sty h ty dmod z => some (.vector, 0x34, [(1, some z.toNat), (1, some dmod.toNat), (3, some ty.toNat), (3, some h.toNat), (3, some sty.toNat), (1, none), (1, some smod.toNat), (5, some a.toNat), (5, some d.toNat), (3, some sp.toNat)])
  | .vpack4 sp d a b h ty bt => some (.vector, 0x35, [(2, some bt.toNat), (3, some ty.toNat), (3, some h.toNat), (5, some b.toNat), (5, some a.toNat), (5, some d.toNat), (3, some sp.toNat)])
  | .vunpk4 sp d a b h ty => some (.vector, 0x36, [(2, none), (3, some ty.toNat), (3, some h.toNat), (5, some b.toNat), (5, some a.toNat), (5, some d.toNat), (3, some sp.toNat)])
  | .vcord sp d a n func ty => some (.vector, 0x37, [(2, none), (3, some ty.toNat), (3, some func.toNat), (5, some n.toNat), (5, some a.toNat), (5, some d.toNat), (3, some sp.toNat)])
  | .pand sp d a b => some (.vector, 0x38, [(8, none), (5, some b.toNat), (5, some a.toNat), (5, some d.toNat), (3, some sp.toNat)])
  | .por sp d a b => some (.vector, 0x39, [(8, none), (5, some b.toNat), (5, some a.toNat), (5, some d.toNat), (3, some sp.toNat)])
  | .pxor sp d a b => some (.vector, 0x3A, [(8, none), (5, some b.toNat), (5, some a.toNat), (5, some d.toNat), (3, some sp.toNat)])
  | .pnot sp d a => some (.vector, 0x3B, [(8, none), (5, none), (5, some a.toNat), (5, some d.toNat), (3, some sp.toNat)])
  | .pcnt sp d a ty => some (.vector, 0x3C, [(2, none), (3, some ty.toNat), (3, none), (5, none), (5, some a.toNat), (5, some d.toNat), (3, some sp.toNat)])
  | .pfirst sp d a ty => some (.vector, 0x3D, [(2, none), (3, some ty.toNat), (3, none), (5, none), (5, some a.toNat), (5, some d.toNat), (3, some sp.toNat)])
  | .ptail sp d a ty => some (.vector, 0x3E, [(2, none), (3, some ty.toNat), (3, none), (5, none), (5, some a.toNat), (5, some d.toNat), (3, some sp.toNat)])
  | .mma sp acc a aoff ws bk kgm1 fmtA fmtB z => some (.matrix, 0x00, [(18, none), (1, some z.toNat), (4, some fmtB.toNat), (4, some fmtA.toNat), (4, some kgm1.toNat), (4, some bk.toNat), (3, some ws.toNat), (10, some aoff.toNat), (5, some a.toNat), (2, some acc.toNat), (3, some sp.toNat)])
  | .mmat sp acc a aoff ws bk kgm1 ftoff lvl z => some (.matrix, 0x01, [(18, none), (1, some z.toNat), (3, none), (1, some lvl.toNat), (4, some ftoff.toNat), (4, some kgm1.toNat), (4, some bk.toNat), (3, some ws.toNat), (10, some aoff.toNat), (5, some a.toNat), (2, some acc.toNat), (3, some sp.toNat)])
  | .mmae sp acc a aoff ws bk kgm1 ftoff lvl z => some (.matrix, 0x02, [(18, none), (1, some z.toNat), (3, none), (1, some lvl.toNat), (4, some ftoff.toNat), (4, some kgm1.toNat), (4, some bk.toNat), (3, some ws.toNat), (10, some aoff.toNat), (5, some a.toNat), (2, some acc.toNat), (3, some sp.toNat)])
  | .wbld sp ws a roff srow nrm1 kind fmt xfmt tag tg aq scope => some (.matrix, 0x04, [(6, none), (2, some scope.toNat), (1, some aq.toNat), (1, some tg.toNat), (7, some tag.toNat), (4, some xfmt.toNat), (4, some fmt.toNat), (2, some kind.toNat), (5, some nrm1.toNat), (5, some srow.toNat), (10, some roff.toNat), (5, some a.toNat), (3, some ws.toNat), (3, some sp.toNat)])
  | .wbclr sp mask tag tg => some (.matrix, 0x05, [(9, none), (1, some tg.toNat), (7, some tag.toNat), (30, none), (8, some mask.toNat), (3, some sp.toNat)])
  | .accz sp mask => some (.matrix, 0x08, [(51, none), (4, some mask.toNat), (3, some sp.toNat)])
  | .accrd sp acc d q => some (.matrix, 0x09, [(44, none), (4, some q.toNat), (5, some d.toNat), (2, some acc.toNat), (3, some sp.toNat)])
  | .accwr sp acc a q => some (.matrix, 0x0A, [(44, none), (4, some q.toNat), (5, some a.toNat), (2, some acc.toNat), (3, some sp.toNat)])
  | .accbias sp acc a => some (.matrix, 0x0B, [(48, none), (5, some a.toNat), (2, some acc.toNat), (3, some sp.toNat)])
  | .accst sp acc a roff ofmt rm tag tg tw s rel scope => some (.matrix, 0x0C, [(14, none), (2, some scope.toNat), (1, some rel.toNat), (5, some s.toNat), (1, some tw.toNat), (1, some tg.toNat), (7, some tag.toNat), (3, some rm.toNat), (4, some ofmt.toNat), (10, some roff.toNat), (5, some a.toNat), (2, some acc.toNat), (3, some sp.toNat)])
  | .ftset sp e a => some (.matrix, 0x10, [(46, none), (5, some a.toNat), (4, some e.toNat), (3, some sp.toNat)])
  | .ftget sp e d => some (.matrix, 0x11, [(46, none), (5, some d.toNat), (4, some e.toNat), (3, some sp.toNat)])
  | .monrd sp d which => some (.matrix, 0x12, [(47, none), (3, some which.toNat), (5, some d.toNat), (3, some sp.toNat)])
  | .monclr sp mask => some (.matrix, 0x13, [(52, none), (3, some mask.toNat), (3, some sp.toNat)])
  | .mbset sp a => some (.matrix, 0x14, [(50, none), (5, some a.toNat), (3, some sp.toNat)])
  | .cpy sp dir g a roff nrm1 s tw tag tg aq rl scope fe => some (.engine, 0x00, [(4, none), (1, some fe.toNat), (2, some scope.toNat), (1, some rl.toNat), (1, some aq.toNat), (1, some tg.toNat), (7, some tag.toNat), (2, none), (1, some tw.toNat), (5, some s.toNat), (8, some nrm1.toNat), (10, some roff.toNat), (5, some a.toNat), (5, some g.toNat), (2, some dir.toNat), (3, some sp.toNat)])
  | .cpy2 sp dir g a roff nrm1 st tag tg aq rl scope fe => some (.engine, 0x01, [(4, none), (1, some fe.toNat), (2, some scope.toNat), (1, some rl.toNat), (1, some aq.toNat), (1, some tg.toNat), (7, some tag.toNat), (3, none), (5, some st.toNat), (8, some nrm1.toNat), (10, some roff.toNat), (5, some a.toNat), (5, some g.toNat), (2, some dir.toNat), (3, some sp.toNat)])
  | .cpyg sp l a roff nrm1 tag tg aq rl scope fe => some (.engine, 0x02, [(4, none), (1, some fe.toNat), (2, some scope.toNat), (1, some rl.toNat), (1, some aq.toNat), (1, some tg.toNat), (7, some tag.toNat), (8, none), (8, some nrm1.toNat), (10, some roff.toNat), (5, some a.toNat), (5, some l.toNat), (2, none), (3, some sp.toNat)])
  | .cpys sp l a roff nrm1 tag tg aq rl scope fe => some (.engine, 0x03, [(4, none), (1, some fe.toNat), (2, some scope.toNat), (1, some rl.toNat), (1, some aq.toNat), (1, some tg.toNat), (7, some tag.toNat), (8, none), (8, some nrm1.toNat), (10, some roff.toNat), (5, some a.toNat), (5, some l.toNat), (2, none), (3, some sp.toNat)])
  | .cpyr sp w g a nrm1 sem sn tag tg aq rl scope fe => some (.engine, 0x04, [(4, none), (1, some fe.toNat), (2, some scope.toNat), (1, some rl.toNat), (1, some aq.toNat), (1, some tg.toNat), (7, some tag.toNat), (1, none), (8, some sn.toNat), (6, some sem.toNat), (8, some nrm1.toNat), (5, some a.toNat), (5, some g.toNat), (5, some w.toNat), (3, some sp.toNat)])
  | .cpyt sp dir g a roff nrm1 tm tag tg aq rl scope fe => some (.engine, 0x05, [(4, none), (1, some fe.toNat), (2, some scope.toNat), (1, some rl.toNat), (1, some aq.toNat), (1, some tg.toNat), (7, some tag.toNat), (3, none), (5, some tm.toNat), (8, some nrm1.toNat), (10, some roff.toNat), (5, some a.toNat), (5, some g.toNat), (2, some dir.toNat), (3, some sp.toNat)])
  | .cpyx sp t b a nrm1 sem sn tag tg aq rl scope fe => some (.engine, 0x06, [(4, none), (1, some fe.toNat), (2, some scope.toNat), (1, some rl.toNat), (1, some aq.toNat), (1, some tg.toNat), (7, some tag.toNat), (1, none), (8, some sn.toNat), (6, some sem.toNat), (8, some nrm1.toNat), (5, some a.toNat), (5, some b.toNat), (5, some t.toNat), (3, some sp.toNat)])
  | .twany sp d m => some (.engine, 0x08, [(45, none), (5, some m.toNat), (5, some d.toNat), (3, some sp.toNat)])
  | .twall sp d m => some (.engine, 0x09, [(45, none), (5, some m.toNat), (5, some d.toNat), (3, some sp.toNat)])
  | .tffr sp d m => some (.engine, 0x0A, [(45, none), (5, some m.toNat), (5, some d.toNat), (3, some sp.toNat)])
  | .tclr sp m => some (.engine, 0x0B, [(45, none), (5, some m.toNat), (5, none), (3, some sp.toNat)])
  | .wait sp cm lim => some (.engine, 0x0C, [(44, none), (7, some lim.toNat), (4, some cm.toNat), (3, some sp.toNat)])
  | .semsig sp t loc sem n md scope => some (.engine, 0x10, [(5, none), (2, some scope.toNat), (27, none), (1, some md.toNat), (8, some n.toNat), (6, some sem.toNat), (1, some loc.toNat), (5, some t.toNat), (3, some sp.toNat)])
  | .semwait sp sem n nd scope => some (.engine, 0x11, [(5, none), (2, some scope.toNat), (27, none), (1, some nd.toNat), (8, some n.toNat), (6, some sem.toNat), (6, none), (3, some sp.toNat)])
  | .semrd sp d sem scope => some (.engine, 0x12, [(5, none), (2, some scope.toNat), (36, none), (6, some sem.toNat), (1, none), (5, some d.toNat), (3, some sp.toNat)])
  | .bararv sp r loc bar n md scope => some (.engine, 0x13, [(5, none), (2, some scope.toNat), (27, none), (1, some md.toNat), (8, some n.toNat), (6, some bar.toNat), (1, some loc.toNat), (5, some r.toNat), (3, some sp.toNat)])
  | .barwt sp g bar scope => some (.engine, 0x14, [(5, none), (2, some scope.toNat), (36, none), (6, some bar.toNat), (1, none), (5, some g.toNat), (3, some sp.toNat)])
  | .treearv sp d tr scope => some (.engine, 0x15, [(5, none), (2, some scope.toNat), (35, none), (3, some tr.toNat), (5, none), (5, some d.toNat), (3, some sp.toNat)])
  | .treewt sp g tr scope => some (.engine, 0x16, [(5, none), (2, some scope.toNat), (35, none), (3, some tr.toNat), (5, none), (5, some g.toNat), (3, some sp.toNat)])
  | .treemask sp a b tr => some (.engine, 0x17, [(42, none), (3, some tr.toNat), (5, some b.toNat), (5, some a.toNat), (3, some sp.toNat)])
  | .next sp => some (.engine, 0x18, [(55, none), (3, some sp.toNat)])
  | .launch sp d a slot dep j oj => some (.engine, 0x19, [(19, none), (1, some oj.toNat), (5, some j.toNat), (16, some dep.toNat), (4, some slot.toNat), (5, some a.toNat), (5, some d.toNat), (3, some sp.toNat)])
  | .task sp d a b c n slot dep => some (.engine, 0x1A, [(13, none), (16, some dep.toNat), (4, some slot.toNat), (2, some n.toNat), (5, some c.toNat), (5, some b.toNat), (5, some a.toNat), (5, some d.toNat), (3, some sp.toNat)])
  | .doneUnit sp => some (.engine, 0x1B, [(49, none), (5, none), (1, some 0), (3, some sp.toNat)])
  | .doneItem sp a => some (.engine, 0x1B, [(49, none), (5, some a.toNat), (1, some 1), (3, some sp.toNat)])
  | .cancel sp a lvl => some (.engine, 0x1C, [(48, none), (2, some lvl.toNat), (5, some a.toNat), (3, some sp.toNat)])
  | .slabtag sp d a md q => some (.engine, 0x1D, [(41, none), (2, some q.toNat), (2, some md.toNat), (5, some a.toNat), (5, some d.toNat), (3, some sp.toNat)])
  | .clkdiv sp fc fv fm fy d => some (.engine, 0x20, [(30, none), (5, some d.toNat), (4, none), (4, some fy.toNat), (4, some fm.toNat), (4, some fv.toNat), (4, some fc.toNat), (3, some sp.toNat)])
  | .timewt sp a => some (.engine, 0x21, [(50, none), (5, some a.toNat), (3, some sp.toNat)])
  | .bra sp off => some (.control, 0x00, [(18, some off.toNat), (5, none), (3, some sp.toNat)])
  | .bz sp c off => some (.control, 0x01, [(18, some off.toNat), (5, some c.toNat), (3, some sp.toNat)])
  | .bnz sp c off => some (.control, 0x02, [(18, some off.toNat), (5, some c.toNat), (3, some sp.toNat)])
  | .bltz sp c off => some (.control, 0x03, [(18, some off.toNat), (5, some c.toNat), (3, some sp.toNat)])
  | .bgez sp c off => some (.control, 0x04, [(18, some off.toNat), (5, some c.toNat), (3, some sp.toNat)])
  | .loopb sp lvl off => some (.control, 0x05, [(18, some off.toNat), (4, none), (1, some lvl.toNat), (3, some sp.toNat)])
  | .loopset sp lvl a n => some (.control, 0x06, [(13, some n.toNat), (5, some a.toNat), (4, none), (1, some lvl.toNat), (3, some sp.toNat)])
  | .call sp off => some (.control, 0x07, [(18, some off.toNat), (5, none), (3, some sp.toNat)])
  | .jr sp a => some (.control, 0x08, [(13, none), (5, some a.toNat), (5, none), (3, some sp.toNat)])
  | .jalr sp d a => some (.control, 0x09, [(13, none), (5, some a.toNat), (5, some d.toNat), (3, some sp.toNat)])
  | .trap sp n => some (.control, 0x0A, [(12, some n.toNat), (1, none), (5, none), (5, none), (3, some sp.toNat)])
  | .eret sp => some (.control, 0x0B, [(23, none), (3, some sp.toNat)])
  | .srd sp d reg => some (.control, 0x0C, [(12, some reg.toNat), (1, none), (5, none), (5, some d.toNat), (3, some sp.toNat)])
  | .swr sp a reg => some (.control, 0x0D, [(12, some reg.toNat), (1, none), (5, some a.toNat), (5, none), (3, some sp.toNat)])
  | .fence sp kind scope => some (.control, 0x0E, [(2, some scope.toNat), (2, some kind.toNat), (9, none), (5, none), (5, none), (3, some sp.toNat)])
  | .halt sp => some (.control, 0x0F, [(23, none), (3, some sp.toNat)])
  | .locq sp d a => some (.control, 0x10, [(13, none), (5, some a.toNat), (5, some d.toNat), (3, some sp.toNat)])
  | .tsr sp d => some (.control, 0x11, [(18, none), (5, some d.toNat), (3, some sp.toNat)])
  | .cyc sp d n => some (.control, 0x12, [(1, some n.toNat), (17, none), (5, some d.toNat), (3, some sp.toNat)])
  | .emptyBundle _ _ => none
  | .resultDue _ _ => none
  | .clkdivApply _ => none
  | .arrayPhaseStart _ => none
  | .mmaeEscalation _ => none
  | .arrayOperationDue _ => none
  | .matrixCommandCompletion _ _ => none
  | .copyCommandStart _ => none
  | .cpytStart _ _ => none
  | .copyRowLand _ => none
  | .copyCompletion _ _ => none
  | .globalLoadCompletion _ => none
  | .globalAckArrival _ => none
  | .globalAccessError _ _ => none
  | .translationWalk _ _ => none
  | .homePortAccess _ _ => none
  | .reductionApply _ => none
  | .packetArrival _ _ => none
  | .mergeEntrySend _ _ => none
  | .retransmitTimeout _ _ _ => none
  | .linkLevelRetry _ _ _ _ => none
  | .moduleOutOfService _ _ => none
  | .moduleRetrainEnd _ _ _ _ => none
  | .edgeFailure _ => none
  | .nodeReset _ _ => none
  | .routeTableAdoption _ => none
  | .scaleOutRetrain _ _ => none
  | .ptcAlignment _ _ => none
  | .semaphoreUpdate _ => none
  | .barrierUpdate _ => none
  | .treeArrivalAtRoot _ _ _ => none
  | .treeMaskAtRoot _ _ _ _ _ => none
  | .tgenIncrement _ _ _ => none
  | .nextRotate _ _ => none
  | .nextReplyArrival _ _ => none
  | .nextRequestService _ _ => none
  | .itemReport _ => none
  | .launchReady _ _ => none
  | .launchSpecRead _ _ => none
  | .unitPlacement _ _ => none
  | .unitEnd _ _ => none
  | .launchComplete _ _ => none
  | .taskDispatch _ _ => none
  | .graphInstanceStart _ => none
  | .graphInstanceComplete _ _ => none
  | .phaseComplete _ => none
  | .jobClearing _ => none
  | .jobClearingEnd _ => none
  | .checkpointCommit _ => none
  | .timingReplay _ _ _ => none
  | .kgroupReplay _ _ => none
  | .dataErrorRollback _ _ => none
  | .trapEntry _ _ => none
  | .preEmption _ => none
  | .restore _ => none
  | .predictiveLeak _ => none
  | .chinookWindowEnd _ => none
  | .chinookFlashWrite _ => none
  | .throttleStep _ _ _ => none
  | .droopAlarm _ _ _ => none
  | .droopStretchRelax _ => none
  | .powerCapEvaluation _ => none
  | .pacingEvaluation _ _ => none
  | .temperatureRead _ _ => none
  | .inputSag _ => none
  | .sagRecovery _ => none
  | .sagTimeout => none
  | .internalBusLow => none
  | .emergencySequence _ => none
  | .powerEnableLow _ => none
  | .inputRemoval => none
  | .moduleReset _ _ => none
  | .flashWrite _ _ _ => none
  | .commandRecordWrite _ _ _ _ => none
  | .recordAccept _ => none
  | .createJob _ => none
  | .loadRange _ => none
  | .loadInval _ => none
  | .loadMethod _ => none
  | .loadGraph _ => none
  | .runGraph _ => none
  | .cancelRecord _ => none
  | .query _ _ => none
  | .selfTest _ _ => none
  | .setPolicyTree _ => none
  | .setPolicyPcap _ => none
  | .setPolicyCslr _ => none
  | .setPolicyMarks _ => none
  | .completionRecord _ => none
  | .hsemClaim _ _ _ => none
  | .hsemRelease _ _ => none
  | .hostLinkDown _ => none
  | .apertureRead _ _ _ => none
  | .apertureWrite _ _ _ => none
  | .registerWrite _ _ _ => none
  | .acknowledgementDeparture _ _ _ => none

/-- The word of an operation: its fields below its opcode (R31, R33). -/
def Instr.encode (i : Instr) : Option (SlotUnit × Nat) :=
  match i.layout with
  | some (u, op, fs) => some (u, pack (fs ++ [(6, some op)]))
  | none => none

/-- The first slot class of a unit, in which every one of its opcodes may stand. -/
def SlotUnit.home : SlotUnit → SlotClass
  | .arith => .a0 | .access => .ld | .vector => .vx | .matrix => .mx | .engine => .ec | .control => .br

/-- The bytes of the bundle that holds slot words at PM bits (R22, R23); the flags are CKPT and SOLO. -/
def encodeBundle (ckpt solo : Bool) (slots : List (SlotClass × Nat)) : List (BitVec 8) :=
  let pm := slots.foldl (fun a p => a + 2 ^ p.1.pm) 0
  leBytes 2 (pm + 256 * b2n solo + 512 * b2n ckpt) ++
    slots.foldl (fun bs p => bs ++ leBytes (p.1.bits / 8) p.2) []

/-- The header of an empty bundle (R25). -/
def encodeEmpty (ckpt solo : BitVec 1) : List (BitVec 8) := leBytes 2 (0x8000 + 256 * solo.toNat + 512 * ckpt.toNat)

/-- The slot classes a bare word of the given length may belong to; a slot word does not name its class (R22, R23). -/
def tableClasses (nbits : Nat) : List SlotClass :=
  if nbits = 64 then [.mx, .ec] else [.br, .ld, .a0, .vx]

/-- The class under which a bare slot word is read: among the classes whose table holds a valid operation for the word, one whose
entry leaves the fewest bits free, by the order of `tableClasses` among equals (log 7). -/
def tableClass (nbits w : Nat) : Option SlotClass :=
  (tableClasses nbits).foldl (fun best c =>
    match decodeSlot c w with
    | .error _ => best
    | .ok i =>
      match best with
      | none => some c
      | some b =>
        match decodeSlot b w with
        | .ok j => if freeBits j < freeBits i then some b else if freeBits i < freeBits j then some c else some b
        | .error _ => some c) none
where
  /-- The bits of the fields of an operation. -/
  freeBits (i : Instr) : Nat :=
    match i.layout with
    | some (_, _, fs) => (fs.filter (fun f => f.2.isSome)).foldl (fun a f => a + f.1) 0
    | none => 0

/-- The operation that the decoder reads from an instruction given by its bits: a 16-bit row is a bundle header, a longer one a slot
word, read under the class of `tableClass`. -/
def decodeTableWord (nbits w : Nat) : Option Instr :=
  if nbits = 16 then
    match decodeBundle 64 true (leBytes 2 w) with
    | .bundle ⟨ckpt, solo, _, []⟩ => some (.emptyBundle (BitVec.ofNat 1 (b2n ckpt)) (BitVec.ofNat 1 (b2n solo)))
    | _ => none
  else
    match tableClass nbits w with
    | some c => (decodeSlot c w).toOption
    | none => none

end Sys2Proof
end

