-- ==== Sys2Proof/Config.lean ====
section
/-! DEFINITION. What one DXS-4040 fixes and the values that the manual leaves open. An opaque constant has no value that anything can
evaluate: a claim about it holds whatever it is. -/

namespace Sys2Proof.Config

/-- The unspecified values of the manual (log 4): width, the place that asks, and the count of free values drawn so far. -/
opaque freeBits : (w : Nat) → Nat → Nat → BitVec w

/-- The entry of the firmware trap handler (R371), which the manual does not give (log 8). -/
opaque trapEntry : BitVec 64

/-- The bits of a core value of VCORD inside its error bound (R112, R113; log 12): function, iterations and reduced argument give an offset that the
model clamps to the bound. -/
opaque cordicOffset : Nat → Nat → Int → Int

/-- The fused voltage point Vf(d, b) of a tile in steps of 2.5 mV (R386; log 16). -/
opaque fusedVoltage : Nat → Nat → Nat → Nat

/-- The ML-DSA-65 signature of the identity key over a 32-byte digest (R321; log 14). -/
opaque identitySign : List (BitVec 8) → List (BitVec 8)

/-- Whether the signature of a flash slot with these bytes verifies under the fused Derxis key (R319; log 14). -/
opaque slotSigned : List (Nat × BitVec 8) → Bool

/-- The security version in the header of a flash slot (R319; log 14). -/
opaque slotVersion : List (Nat × BitVec 8) → Nat

/-- The SHA3-256 digest of the header and image of a flash slot (R319; log 14). -/
opaque slotDigest : List (Nat × BitVec 8) → List (BitVec 8)

/-- The SHA3-256 digest of the boot ROM (R320; log 14). -/
opaque romDigest : List (BitVec 8)

/-- SHA3-256 (R319, R320), a published function whose definition the manual does not repeat (log 14). -/
opaque sha3 : List (BitVec 8) → List (BitVec 8)

/-- The public identity key with its certificate chain (R321; log 14). -/
opaque identityCertificates : List (BitVec 8)

/-- The module serial number of 16 bytes (R321; log 14). -/
opaque serialNumber : List (BitVec 8)

/-- The fused minimum security version of firmware (R319; log 14). -/
opaque fusedVersion : Nat

/-- The dword of one write in a commit record (R335): the write's destination number followed by the CRC of its data, in a layout that the manual does
not give (log 20). -/
opaque commitWord : Nat → BitVec 64 → BitVec 64

/-- What places the journal within the reserved region of MS24 and MS39 (R19), which the manual does not give (log 14). -/
opaque journalPage : Nat

/-- What places the measurement log within the reserved region of MS24 (R320), which the manual does not give (log 14). -/
opaque logPage : Nat

/-- The bank of a stack that holds a physical address (R342), which the manual does not give (log 15). -/
opaque hbmBank : Nat → Nat

/-- Ticks by which a run of work that the manual gives no bound for takes longer than nothing (log 5): the place that asks and the
count of free values drawn so far. -/
opaque freeDelay : Nat → Nat → Nat

/-- The longest acknowledgement delay ACKD (R351), in ticks. -/
def ackd : Nat := 128
/-- The time TRT from declaration to adoption of routes (R351), in ticks. -/
def trt : Nat := 4096
/-- The age RTO at which a packet is sent again (R351), in ticks. -/
def rto : Nat := 16384
/-- The longest hold MW of a merge entry (R351), in ticks. -/
def mw : Nat := 32
/-- The unacknowledged packets WIN of a stream (R351). -/
def win : Nat := 1024
/-- The reset value of PTCSKEW (R214). -/
def ptcSkew : BitVec 64 := 0x00380008
/-- The value of LATBAND (R177). -/
def latBand : BitVec 64 := 0x000A0401
/-- The value of PCAP that the firmware loads at boot (R394). -/
def pcapBoot : BitVec 64 := 0x00000BB880641111
/-- The value of CSLR that the firmware loads at boot: the field resets of R393. -/
def cslrBoot : BitVec 64 := 0x80400040
/-- The first local address of the reduction window RWBASE (R356). -/
def rwBase : Nat := 0x900000000
/-- The first local address beyond the reduction window RWLIM (R356). -/
def rwLim : Nat := 0xA00000000
/-- The first local address beyond job memory (R296). -/
def jobMemEnd : Nat := 0xB00000000
/-- The first absent local address (R296). -/
def stackEnd : Nat := 0xB2D05E000
/-- The entries of the journal (R318). -/
def journalSize : Nat := 49152
/-- The 4 KiB pages of the reserved region (R296). -/
def reservedPages : Nat := (stackEnd - jobMemEnd) / 4096
/-- The pages of the journal, 64 bytes for an entry (R317). -/
def journalPages : Nat := journalSize / 64
/-- The pages of the measurement log, 4,096 entries of 64 bytes (R320). -/
def logPages : Nat := 64
/-- The page of the reserved region at which the journal begins: some page from which it fits. -/
def journalStart : Nat := journalPage % (reservedPages - journalPages + 1)
/-- The page of the reserved region at which the measurement log begins: some page from which it fits, before the journal or after it. -/
def logStart : Nat :=
  let p := logPage % (reservedPages - journalPages - 2 * logPages + 2)
  if p + logPages ≤ journalStart then p else p + journalPages + logPages - 1
/-- The local address in the reserved region at which the journal stands on MS24 and MS39 (R19). -/
def journalPlace : Nat := jobMemEnd + 4096 * journalStart
/-- The local address in the reserved region of MS24 at which the measurement log stands (R320). -/
def logPlace : Nat := jobMemEnd + 4096 * logStart

end Sys2Proof.Config
end

