-- ==== Sys2Proof/Machine/Num.lean ====
section
/-! DEFINITION. Number formats, exact values, rounding and conversion (R58 to R78). -/

namespace Sys2Proof.Machine

/-- A binary floating format (R59): exponent bits, fraction bits, bias, and whether it is E4M3 (no infinities, R60). -/
structure Fmt where
  e : Nat
  m : Nat
  bias : Nat
  sat : Bool
  deriving DecidableEq, Repr

/-- FP32 (R59). -/
def fmt32 : Fmt := ⟨8, 23, 127, false⟩
/-- BF16 (R59). -/
def fmtBf16 : Fmt := ⟨8, 7, 127, false⟩
/-- FP16 (R59). -/
def fmt16 : Fmt := ⟨5, 10, 15, false⟩
/-- E4M3 (R59). -/
def fmtE4 : Fmt := ⟨4, 3, 7, true⟩
/-- E5M2 (R59). -/
def fmtE5 : Fmt := ⟨5, 2, 15, false⟩
/-- FP64 (R173). -/
def fmt64 : Fmt := ⟨11, 52, 1023, false⟩

/-- The width of a format in bits. -/
def Fmt.width (f : Fmt) : Nat := 1 + f.e + f.m

/-- An exact value (R36): NaN, a signed infinity, or a signed dyadic `mag × 2^exp` (a signed zero when `mag` is 0). -/
inductive FV where
  | nan
  | inf (neg : Bool)
  | fin (neg : Bool) (mag : Nat) (exp : Int)
  deriving DecidableEq, Repr

/-- The value of an integer. -/
def FV.ofInt (i : Int) : FV := .fin (i < 0) i.natAbs 0

/-- Value of R60. -/
def fvalue (f : Fmt) (b : Nat) : FV :=
  let neg := bitOf b (f.e + f.m)
  let e := bitsOf b f.m f.e
  let t := b % 2 ^ f.m
  if f.sat then
    if e = 15 ∧ t = 7 then .nan
    else if e = 0 then .fin neg t (1 - f.bias - f.m) else .fin neg (2 ^ f.m + t) (e - f.bias - f.m)
  else if e = 2 ^ f.e - 1 then (if t = 0 then .inf neg else .nan)
  else if e = 0 then .fin neg t (1 - f.bias - f.m)
  else .fin neg (2 ^ f.m + t) (e - f.bias - f.m)

/-- The canonical NaN of a format (R62). -/
def Fmt.canonNan (f : Fmt) : Nat :=
  if f.sat then (2 ^ f.e - 1) * 2 ^ f.m + (2 ^ f.m - 1) else (2 ^ f.e - 1) * 2 ^ f.m + 2 ^ (f.m - 1)

/-- The pattern of the largest finite magnitude MAXF (R59). -/
def Fmt.maxf (f : Fmt) : Nat := if f.sat then (2 ^ f.e - 1) * 2 ^ f.m + (2 ^ f.m - 2) else (2 ^ f.e - 1) * 2 ^ f.m - 1

/-- A pattern with its sign bit. -/
def Fmt.signed (f : Fmt) (neg : Bool) (p : Nat) : Nat := (if neg then 2 ^ (f.e + f.m) else 0) + p

/-- The flag NV of R68, as a bit of the six flags from NV up. -/
def flNV : BitVec 6 := 1
/-- The flag DZ. -/
def flDZ : BitVec 6 := 2
/-- The flag OF. -/
def flOF : BitVec 6 := 4
/-- The flag UF. -/
def flUF : BitVec 6 := 8
/-- The flag NX. -/
def flNX : BitVec 6 := 16
/-- The flag ESCX. -/
def flESCX : BitVec 6 := 32

/-- A rounding in progress: mode, LFSR and the flags raised so far. -/
structure Rnd where
  mode : Nat
  lfsr : BitVec 32
  flags : BitVec 6
  deriving DecidableEq, Repr

/-- One step of the LFSR (R74). -/
def lfsrStep (l : BitVec 32) : BitVec 32 :=
  let n := l.toNat
  let nb := (bitsOf n 31 1 + bitsOf n 21 1 + bitsOf n 1 1 + bitsOf n 0 1) % 2
  BitVec.ofNat 32 (n * 2 + nb)

/-- Each rounding under RSR steps the LFSR once (R74). -/
def Rnd.step (r : Rnd) : Rnd := if r.mode = 4 then { r with lfsr := lfsrStep r.lfsr } else r

/-- Raises flags. -/
def Rnd.raise (r : Rnd) (f : BitVec 6) : Rnd := { r with flags := r.flags ||| f }

/-- The choice between lo and hi (R71, R74): `num / den` is the distance from lo in steps, `even` says that lo is even. -/
def roundUp (r : Rnd) (neg even : Bool) (num den : Nat) : Bool :=
  match r.mode with
  | 1 => false
  | 2 => !neg
  | 3 => neg
  | 4 => r.lfsr.toNat < num * 2 ^ 32 / den
  | _ => den < 2 * num || (2 * num == den && !even)

/-- A magnitude `mag × 2^exp` rounded to a multiple of `2^q`: the multiple, and whether it is exact. -/
def roundAt (r : Rnd) (neg : Bool) (mag : Nat) (exp q : Int) : Nat × Bool :=
  if q ≤ exp then (mag * 2 ^ (exp - q).toNat, true)
  else
    let s := (q - exp).toNat
    let lo := mag / 2 ^ s
    let rem := mag % 2 ^ s
    if rem = 0 then (lo, true) else (if roundUp r neg (lo % 2 == 0) rem (2 ^ s) then lo + 1 else lo, false)

/-- The result on overflow (R72). -/
def Fmt.overflow (f : Fmt) (mode : Nat) (neg : Bool) : Nat :=
  let big := f.signed neg f.maxf
  if f.sat then big
  else
    let inf := f.signed neg ((2 ^ f.e - 1) * 2 ^ f.m)
    match mode with
    | 1 => big
    | 2 => if neg then big else inf
    | 3 => if neg then inf else big
    | _ => inf

/-- Round of a finite non-zero value (R71 to R73), without the LFSR step. -/
def roundFin (f : Fmt) (r : Rnd) (neg : Bool) (mag : Nat) (exp : Int) : Nat × Rnd :=
  let emin : Int := 1 - f.bias - f.m
  let top : Int := mag.log2 + exp
  let q := max (top - f.m) emin
  let (sig, exact) := roundAt r neg mag exp q
  let p := (q - emin).toNat * 2 ^ f.m + sig
  if f.maxf < p then (f.overflow r.mode neg, r.raise (flOF ||| flNX))
  else
    let (usig, _) := roundAt r neg mag exp (top - f.m)
    let tiny : Bool := top - f.m < emin && (usig.log2 : Int) + (top - f.m) < emin + f.m
    (f.signed neg p, if exact then r else r.raise (if tiny then flUF ||| flNX else flNX))

/-- Round of R36 into a floating format, with the LFSR step of R74. An infinity that the format cannot hold gives NaN with NV (R76). -/
def fround (f : Fmt) (r0 : Rnd) (x : FV) : Nat × Rnd :=
  let r := r0.step
  match x with
  | .nan => (f.canonNan, r)
  | .inf neg => if f.sat then (f.canonNan, r.raise flNV) else (f.signed neg ((2 ^ f.e - 1) * 2 ^ f.m), r)
  | .fin neg mag exp => if mag = 0 then (f.signed neg 0, r) else roundFin f r neg mag exp

/-- The negation of a value. -/
def FV.negate : FV → FV
  | .nan => .nan
  | .inf n => .inf !n
  | .fin n m e => .fin (!n) m e

/-- The magnitude of a value. -/
def FV.abs : FV → FV
  | .nan => .nan
  | .inf _ => .inf false
  | .fin _ m e => .fin false m e

/-- A value is NaN. -/
def FV.isNan : FV → Bool
  | .nan => true
  | .inf _ => false
  | .fin _ _ _ => false

/-- The exact product, and whether it is invalid (R101). -/
def FV.mul (a b : FV) : FV × Bool :=
  match a, b with
  | .nan, _ => (.nan, false)
  | _, .nan => (.nan, false)
  | .inf x, .inf y => (.inf (x != y), false)
  | .inf x, .fin y m _ => if m = 0 then (.nan, true) else (.inf (x != y), false)
  | .fin x m _, .inf y => if m = 0 then (.nan, true) else (.inf (x != y), false)
  | .fin x m e, .fin y n k => (.fin (x != y) (m * n) (e + k), false)

/-- The signed integer of a finite value in units of `2^q`, `q` at most its exponent. -/
def FV.units (q : Int) : FV → Int
  | .nan => 0
  | .inf _ => 0
  | .fin n m e => (if n then -1 else 1) * (m * 2 ^ (e - q).toNat : Nat)

/-- The exponent of a finite non-zero value; other values do not count. -/
def FV.lowExp : FV → Option Int
  | .fin _ m e => if m = 0 then none else some e
  | _ => none

/-- The lowest exponent among finite non-zero values. -/
def lowestExp (xs : List FV) : Int :=
  match xs.filterMap FV.lowExp with
  | [] => 0
  | e :: es => es.foldl min e

/-- A value with the given units of `2^q`, a zero positive. -/
def FV.ofUnits (u q : Int) : FV := .fin (u < 0) u.natAbs q

/-- The exact sum (R63, R101, R119): NaN and NV of infinities of both signs, beside a NaN too (R119; log 28 for VDOT), NaN, an infinity, or the
finite sum with the zero signs of R63 in the mode. -/
def fsum (mode : Nat) (xs : List FV) : FV × Bool :=
  let pos := xs.any fun x => x == .inf false
  let neg := xs.any fun x => x == .inf true
  let bad := pos && neg
  if bad || xs.any FV.isNan then (.nan, bad)
  else if pos then (.inf false, false)
  else if neg then (.inf true, false)
  else
    let q := lowestExp xs
    let u : Int := (xs.map fun x => match x.lowExp with | some _ => x.units q | none => (0 : Int)).foldl (· + ·) 0
    if u = 0 then
      let zero (s : Bool) := xs.all fun x => match x with | .fin n m _ => m == 0 && n == s | _ => false
      (.fin (if zero true then true else if zero false then false else mode == 3) 0 0, false)
    else (.ofUnits u q, false)

/-- A sum rounded once, with NV where it is invalid (`bad` where a product was). -/
def roundSum (f : Fmt) (r : Rnd) (bad : Bool) (xs : List FV) : Nat × Rnd :=
  let (s, b) := fsum r.mode xs
  let s := if bad then .nan else s
  let (p, r) := fround f r s
  (p, if bad || b then r.raise flNV else r)

/-- Order of two values that are not NaN: `a < b` as reals, and with `zeros` also −0 < +0. -/
def FV.less (zeros : Bool) (a b : FV) : Bool :=
  match a, b with
  | .nan, _ => false
  | _, .nan => false
  | .inf x, .inf y => x && !y
  | .inf x, .fin _ _ _ => x
  | .fin _ _ _, .inf y => !y
  | .fin x m e, .fin y n k =>
    let q := lowestExp [.fin x m e, .fin y n k]
    let u := if m = 0 then 0 else FV.units q (.fin x m e)
    let w := if n = 0 then 0 else FV.units q (.fin y n k)
    u < w || (zeros && m == 0 && n == 0 && x && !y)

/-- Equality of two values as reals: +0 equals −0, NaN equals nothing (R104). -/
def FV.same (a b : FV) : Bool := !a.isNan && !b.isNan && !a.less false b && !b.less false a

/-- Floating minimum of patterns under R101; `hi` selects the maximum. -/
def fminmax (f : Fmt) (hi : Bool) (a b : Nat) : Nat :=
  let x := fvalue f a
  let y := fvalue f b
  if x.isNan then (if y.isNan then f.canonNan else b)
  else if y.isNan then a
  else if hi then (if x.less true y then b else a) else (if y.less true x then b else a)

/-- The signed reading of a w-bit pattern (R36). -/
def asSigned (w n : Nat) : Int := if n % 2 ^ w < 2 ^ (w - 1) then (n % 2 ^ w : Nat) else (n % 2 ^ w : Nat) - (2 ^ w : Nat)

/-- The pattern of an integer modulo 2^w (Trunc of R36). -/
def truncInt (w : Nat) (i : Int) : Nat := (i % (2 ^ w : Nat)).toNat

/-- SatS of R36. -/
def satS (w : Nat) (i : Int) : Nat :=
  truncInt w (max (-(2 ^ (w - 1) : Nat)) (min i ((2 ^ (w - 1) : Nat) - 1)))

/-- SatN of R36. -/
def satN (w : Nat) (i : Int) : Nat := truncInt w (max 0 (min i ((2 ^ w : Nat) - 1)))

/-- Floating to integer (R77). -/
def fToInt (w : Nat) (natural : Bool) (r0 : Rnd) (x : FV) : Nat × Rnd :=
  let r := r0.step
  let lo : Int := if natural then 0 else -(2 ^ (w - 1) : Nat)
  let hi : Int := if natural then (2 ^ w : Nat) - 1 else (2 ^ (w - 1) : Nat) - 1
  match x with
  | .nan => (0, r.raise flNV)
  | .inf neg => (truncInt w (if neg then lo else hi), r.raise flNV)
  | .fin neg mag exp =>
    let (u, exact) := roundAt r neg mag exp 0
    let i : Int := if neg then -(u : Int) else u
    if i < lo then (truncInt w lo, r.raise flNV)
    else if hi < i then (truncInt w hi, r.raise flNV)
    else (truncInt w i, if exact then r else r.raise flNX)

/-- A format of VCVT (R108): an integer of a width, signed or natural, or a floating format. -/
inductive NumFmt where
  | int (w : Nat) (natural : Bool)
  | flt (f : Fmt)
  deriving DecidableEq, Repr

/-- The format of a type code and its modifier (R108). -/
def NumFmt.ofCode (ty : Nat) (m : Bool) : NumFmt :=
  match ty with
  | 0 => .int 8 m
  | 1 => .int 16 m
  | 2 => .int 32 m
  | 3 => .int 64 m
  | 4 => .flt (if m then fmtE5 else fmtE4)
  | 5 => .flt fmtBf16
  | 6 => .flt fmt16
  | _ => .flt fmt32

/-- The value of a pattern in a format. -/
def NumFmt.value (f : NumFmt) (b : Nat) : FV :=
  match f with
  | .int w n => if n then .ofInt (b % 2 ^ w : Nat) else .ofInt (asSigned w b)
  | .flt f => fvalue f b

/-- The floating pairs that convert exactly and do not round (R76). -/
def exactPair (src dst : Fmt) : Bool :=
  (dst == fmt32 && src != fmt32) || ((src == fmtE4 || src == fmtE5) && (dst == fmtBf16 || dst == fmt16))

/-- Conv of R76 and R77. -/
def convert (src dst : NumFmt) (r : Rnd) (b : Nat) : Nat × Rnd :=
  match src, dst with
  | .int sw sn, .int dw dn =>
    let i : Int := if sn then (b % 2 ^ sw : Nat) else asSigned sw b
    (if dn then satN dw i else satS dw i, r)
  | .int _ _, .flt f => fround f r (src.value b)
  | .flt s, .int w n => fToInt w n r (fvalue s b)
  | .flt s, .flt f => if exactPair s f then ((fround f { r with mode := 0 } (fvalue s b)).1, r) else fround f r (fvalue s b)

/-- The magnitude of a 4-bit code in eighths (R65). -/
def blockMag (t code : Nat) : Nat :=
  match t, code % 8 with
  | _, 0 => 0
  | 0, c => 8 * c
  | 1, c => [0, 4, 8, 12, 16, 24, 32, 48].getD c 0
  | 2, c => 2 ^ (c - 1)
  | _, c => [0, 8, 16, 24, 32, 48, 64, 96].getD c 0

/-- A code that its block type reserves (R65). -/
def blockReserved (t code : Nat) : Bool := code == 8 && t != 1

/-- The value of an element code under a scale byte, and whether it is reserved (R64 to R66). -/
def blockValue (scale code : Nat) : FV × Bool :=
  let t := scale / 64 % 4
  let s := scale % 64
  if s = 63 ∨ blockReserved t code then (.nan, true)
  else (.fin (8 ≤ code) (blockMag t code) (s - 35), false)

/-- The rounding of R78 onto the grid of a type: `num / den` is the magnitude in eighths. The magnitude code, inexactness. -/
def blockGrid (t : Nat) (r : Rnd) (neg : Bool) (num den : Nat) : Nat × Bool :=
  let lo := ((List.range 8).filter fun c => blockMag t c * den ≤ num).length - 1
  let l := blockMag t lo
  if l * den = num ∨ lo = 7 then (lo, l * den == num)
  else
    let h := blockMag t (lo + 1)
    (if roundUp r neg (lo % 2 == 0) (num - l * den) ((h - l) * den) then lo + 1 else lo, false)

/-- One element of PackBlock (R78) at scale exponent s. -/
def packElem (t s : Nat) (r0 : Rnd) (x : FV) : Nat × Rnd :=
  let r := r0.step
  match x with
  | .nan => (if t = 1 then 0 else 8, r.raise flNV)
  | .inf neg => ((if neg then 15 else 7), r.raise flNV)
  | .fin neg mag exp =>
    let e := exp + 35 - s
    let num := if 0 ≤ e then mag * 2 ^ e.toNat else mag
    let den := if 0 ≤ e then 1 else 2 ^ (-e).toNat
    let (c, exact) := blockGrid t r neg num den
    let beyond := blockMag t 7 * den < num
    let code := if c = 0 then (if neg && t == 1 then 8 else 0) else c + (if neg then 8 else 0)
    let r := if exact then r else r.raise flNX
    let r := if beyond then r.raise (flOF ||| flNX) else r
    (code, if mag ≠ 0 ∧ c = 0 then r.raise (flUF ||| flNX) else r)

/-- The scale exponent s of R78 for the finite sources of a block; mm is 0 where it has none (log 66). -/
def blockScale (t : Nat) (xs : List FV) : Nat :=
  let fits (s : Nat) : Bool := xs.all fun x => match x with
    | .fin _ mag exp =>
      let e := exp + 35 - s
      if 0 ≤ e then mag * 2 ^ e.toNat ≤ blockMag t 7 else mag ≤ blockMag t 7 * 2 ^ (-e).toNat
    | _ => true
  let zero := xs.all fun x => match x with | .fin _ m _ => m == 0 | _ => true
  if zero then 32 else (((List.range 63).find? fits).getD 62)

/-- A list of roundings in order. -/
def mapRnd {α β : Type} (f : Rnd → α → β × Rnd) : Rnd → List α → List β × Rnd
  | r, [] => ([], r)
  | r, x :: xs =>
    let (y, r) := f r x
    let (ys, r) := mapRnd f r xs
    (y :: ys, r)

/-- PackBlock of R78: the scale byte and the codes. -/
def packBlock (t : Nat) (r : Rnd) (xs : List FV) : Nat × List Nat × Rnd :=
  let s := blockScale t xs
  let (codes, r) := mapRnd (packElem t s) r xs
  (t * 64 + s, codes, r)

end Sys2Proof.Machine
end

