-- ==== Sys2Proof/Machine/Sparse.lean ====
section
/-! DEFINITION. Sparse tables: lists of key and value with strictly rising keys, and the bytes of device memory held so. -/

namespace Sys2Proof.Machine

/-- A table by number. An unlisted key has the table's default. -/
abbrev Sparse (α : Type) := List (Nat × α)

/-- The value at a key; `d` where none is listed. -/
def sget {α : Type} (d : α) : Sparse α → Nat → α
  | [], _ => d
  | (k, v) :: r, a => if a = k then v else sget d r a

/-- The value at a key where one is listed. -/
def sfind {α : Type} : Sparse α → Nat → Option α
  | [], _ => none
  | (k, v) :: r, a => if a = k then some v else sfind r a

/-- The table with one key set; a table with rising keys keeps them rising. -/
def sput {α : Type} (a : Nat) (x : α) : Sparse α → Sparse α
  | [] => [(a, x)]
  | (k, v) :: r => if a < k then (a, x) :: (k, v) :: r else if a = k then (a, x) :: r else (k, v) :: sput a x r

/-- The table without one key. -/
def sdel {α : Type} (a : Nat) : Sparse α → Sparse α
  | [] => []
  | (k, v) :: r => if a = k then r else (k, v) :: sdel a r

/-- The table after a write: a key that takes the default `d` is not listed. -/
def sset {α : Type} [DecidableEq α] (d : α) (a : Nat) (x : α) (m : Sparse α) : Sparse α :=
  if x = d then sdel a m else sput a x m

/-- The keys of a table rise strictly. -/
def rising {α : Type} : Sparse α → Bool
  | [] => true
  | [_] => true
  | (a, _) :: (b, y) :: r => a < b && rising ((b, y) :: r)

/-- What a byte of device memory that nothing has written reads as (log 1). -/
def Memory.empty : Byte := 0

/-- The canonical form of memory: rising addresses, and no byte equal to what an unlisted address reads as. -/
def Memory.wf (m : List Host.Cell) : Bool := rising m && m.all (fun c => c.2 != Memory.empty)

/-- One byte of device memory at a physical address (R296). -/
def Memory.read (m : List Host.Cell) (pa : Nat) : Byte := sget Memory.empty m pa

/-- Memory after one byte is written. -/
def Memory.write (m : List Host.Cell) (pa : Nat) (b : Byte) : List Host.Cell := sset Memory.empty pa b m

/-- Memory after bytes are written at rising addresses from `pa` on. -/
def Memory.writeBytes : List Host.Cell → Nat → List Byte → List Host.Cell
  | m, _, [] => m
  | m, pa, b :: bs => Memory.writeBytes (Memory.write m pa b) (pa + 1) bs

/-- `n` bytes of memory from `pa` on. -/
def Memory.readBytes (m : List Host.Cell) : Nat → Nat → List Byte
  | _, 0 => []
  | pa, n + 1 => Memory.read m pa :: Memory.readBytes m (pa + 1) n

/-- A little-endian number in memory (R3). -/
def Memory.readNat (m : List Host.Cell) : Nat → Nat → Nat
  | _, 0 => 0
  | pa, n + 1 => (Memory.read m pa).toNat + 256 * Memory.readNat m (pa + 1) n

/-- The low `n` bytes of a number, little-endian (R3). -/
def natBytes : Nat → Nat → List Byte
  | 0, _ => []
  | n + 1, v => BitVec.ofNat 8 v :: natBytes n (v / 256)

end Sys2Proof.Machine
end

