-- ==== Sys2Proof/Machine/State.lean ====
section
/-! DEFINITION. Everything the manual gives the DXS-4040 to hold (INVENTORY.md, State), and the module after reset. -/

namespace Sys2Proof.Machine

/-- Why a step stops with a fault. -/
inductive Fault where
  /-- HOME_PORT_ACCESS on a request whose physical address lies in no part of a stack (R296, absent). Safe: translation gives no such
  address, so no run reaches it. -/
  | absentAddress (pa : Nat)
  deriving DecidableEq, Repr

/-- Why a step has no meaning. -/
inductive Refusal where
  /-- An arm of `exec` without a meaning yet. Safe: nothing follows about the instruction. -/
  | notModelled (mnemonic : String)
  deriving DecidableEq, Repr

/-- A timed event or input still to come: one constructor for each event of the opcode table, with its operands. `Event.run` gives each
the meaning of the operation of the same name. -/
inductive Event where
  | resultDue (t : Nat) (h : Nat)
  | clkdivApply (t : Nat)
  | arrayPhaseStart (t : Nat)
  | mmaeEscalation (t : Nat)
  | arrayOperationDue (t : Nat)
  | matrixCommandCompletion (t : Nat) (id : Nat)
  | copyCommandStart (t : Nat)
  | cpytStart (t : Nat) (id : Nat)
  | copyRowLand (rid : Nat)
  | copyCompletion (t : Nat) (id : Nat)
  | globalLoadCompletion (rid : Nat)
  | globalAckArrival (pid : Nat)
  | globalAccessError (rid : Nat) (cause : Nat)
  | translationWalk (die : Nat) (rid : Nat)
  | homePortAccess (rid : Nat) (corrected : Bool)
  | reductionApply (pid : Nat)
  | packetArrival (pid : Nat) (noise : Nat)
  | mergeEntrySend (node : Nat) (e : Nat)
  | retransmitTimeout (node : Nat) (dest : Nat) (cls : Nat)
  | linkLevelRetry (edge : Nat) (m : Nat) (lane : Nat) (failed : Bool)
  | moduleOutOfService (edge : Nat) (m : Nat)
  | moduleRetrainEnd (edge : Nat) (m : Nat) (ok : Bool) (lanes : (List Nat))
  | edgeFailure (edge : Nat)
  | nodeReset (node : Nat) (enter : Bool)
  | routeTableAdoption (node : Nat)
  | scaleOutRetrain (port : Nat) (up : Bool)
  | ptcAlignment (node : Nat) (skip : Bool)
  | semaphoreUpdate (t : Nat)
  | barrierUpdate (t : Nat)
  | treeArrivalAtRoot (job : Nat) (tree : Nat) (t : Nat)
  | treeMaskAtRoot (job : Nat) (tree : Nat) (row : Nat) (k : Nat) (mask : (BitVec 25))
  | tgenIncrement (job : Nat) (tree : Nat) (die : Nat)
  | nextRotate (t : Nat) (h : Nat)
  | nextReplyArrival (t : Nat) (h : Nat)
  | nextRequestService (t : Nat) (h : Nat)
  | itemReport (rid : Nat)
  | launchReady (job : Nat) (lid : Nat)
  | launchSpecRead (job : Nat) (lid : Nat)
  | unitPlacement (job : Nat) (lid : Nat)
  | unitEnd (job : Nat) (uid : Nat)
  | launchComplete (job : Nat) (lid : Nat)
  | taskDispatch (job : Nat) (lid : Nat)
  | graphInstanceStart (seq : Nat)
  | graphInstanceComplete (job : Nat) (inst : Nat)
  | phaseComplete (job : Nat)
  | jobClearing (job : Nat)
  | jobClearingEnd (job : Nat)
  | checkpointCommit (t : Nat)
  | timingReplay (t : Nat) (back : Nat) (restarts : (List Nat))
  | kgroupReplay (t : Nat) (restarts : (List Nat))
  | dataErrorRollback (t : Nat) (kind : Nat)
  | trapEntry (t : Nat) (h : Nat)
  | preEmption (job : Nat)
  | restore (job : Nat)
  | predictiveLeak (node : Nat)
  | chinookWindowEnd (t : Nat)
  | chinookFlashWrite (t : Nat)
  | throttleStep (region : Nat) (ik : Nat) (i0 : Nat)
  | droopAlarm (region : Nat) (begun : Bool) (lasts : Nat)
  | droopStretchRelax (region : Nat)
  | powerCapEvaluation (power : Nat)
  | pacingEvaluation (job : Nat) (slacks : (List (Nat × Nat)))
  | temperatureRead (die : Nat) (temps : (List Nat))
  | inputSag (volt : Nat)
  | sagRecovery (volt : Nat)
  | sagTimeout
  | internalBusLow
  | emergencySequence (thermal : Bool)
  | powerEnableLow (micros : Nat)
  | inputRemoval
  | moduleReset (recovery : Bool) (cd24ok : Bool)
  | flashWrite (port : Nat) (off : Nat) (bytes : (List (BitVec 8)))
  | commandRecordWrite (port : Nat) (off : Nat) (size : Nat) (data : (BitVec 512))
  | recordAccept (port : Nat)
  | createJob (seq : Nat)
  | loadRange (seq : Nat)
  | loadInval (seq : Nat)
  | loadMethod (seq : Nat)
  | loadGraph (seq : Nat)
  | runGraph (seq : Nat)
  | cancelRecord (seq : Nat)
  | query (seq : Nat) (hostOk : Bool)
  | selfTest (seq : Nat) (fails : (List Nat))
  | setPolicyTree (seq : Nat)
  | setPolicyPcap (seq : Nat)
  | setPolicyCslr (seq : Nat)
  | setPolicyMarks (seq : Nat)
  | completionRecord (seq : Nat)
  | hsemClaim (port : Nat) (idx : Nat) (p : Nat)
  | hsemRelease (port : Nat) (idx : Nat)
  | hostLinkDown (port : Nat)
  | apertureRead (port : Nat) (off : Nat) (len : Nat)
  | apertureWrite (port : Nat) (off : Nat) (bytes : (List (BitVec 8)))
  | registerWrite (port : Nat) (off : Nat) (value : (BitVec 64))
  | acknowledgementDeparture (node : Nat) (src : Nat) (cls : Nat)
  deriving DecidableEq, Repr

/-- A register that a due write may name. -/
inductive Reg where
  | x (n : Nat) | v (n : Nat) | p (n : Nat) | none
  deriving DecidableEq, Repr

/-- A write of Due (R36, R262): when it falls due, from which issue cycle and PM bit (R30), its flags (R57), the domain and domain
time that produce it (R259, R261), and the load that had made its register pending when it issued (R171). -/
structure Pending where
  due : Nat
  issue : Nat
  pm : Nat
  dst : Reg
  val : Row
  flags : BitVec 6
  dom : Nat
  ready : Nat
  clash : Option Nat
  deriving DecidableEq, Repr

/-- A pending destination of a global load, LOCQ or SLABTAG (R171): since which issue cycle, the request, its queue, and whether another
source wrote it. -/
structure PendDest where
  reg : Reg
  issue : Nat
  rid : Nat
  q : Nat
  tainted : Bool
  deriving DecidableEq, Repr

/-- What an error completion reports (R366, R369): class, cause, AUX, words 2 and 3, and for class 2 the command's index. -/
structure Err where
  cls : Nat
  code : Nat
  aux : Nat
  w2 : BitVec 32
  w3 : BitVec 32
  cmdix : BitVec 32
  deriving DecidableEq, Repr

/-- A NEXT in flight (R240): the issue cycle of its step, and its reply once that has arrived. -/
structure NextReq where
  id : Nat
  due : Nat
  reply : Option Dword
  deriving DecidableEq, Repr

/-- A FENCE that orders later accesses (R205): its kind and the accesses before it. -/
structure FenceMark where
  kind : Nat
  loads : List Nat
  stores : List Nat
  deriving DecidableEq, Repr

/-- What a context belongs to (R230). -/
inductive Owner where
  | idle
  | unit (uid : Nat)
  | graph (inst : Nat)
  | firmware
  deriving DecidableEq, Repr

/-- The firmware trap handler running in a context (R371): issue cycles left, and its disposition (R368). -/
structure Handler where
  left : Nat
  disp : Nat
  deriving DecidableEq, Repr

/-- A leaf that a page TLB caches (R304): job, range entry, first offset, size, output and permissions. -/
structure TlbEntry where
  job : Nat
  range : Nat
  off : Nat
  size : Nat
  out : Nat
  perm : Nat
  deriving DecidableEq, Repr

/-- A request to stop a context at its next engine-command boundary (R248, R379). -/
inductive StopReq where
  | run | cancel | preempt | doneUnit
  deriving DecidableEq, Repr

/-- One hardware context (R37), with the state the other chapters give it. `nqw` holds writes of SWR to NQ registers, which take effect in
the next cycle after its rotation (R240); `raised` the flags of the results that fall due in the running issue cycle, which enter FCR at its end (R57);
`froze` marks that its bundle has frozen the tile and so issues without a partner (R147), and `sync` that its waiting bundle waits in BARWT, TREEWT or
SEMWAIT (R396). `fetchErr` holds the code line whose page walk has failed, and
the code of R302, until the context fetches it again (R304). -/
structure Ctx where
  owner : Owner
  job : Nat
  pc : Dword
  xs : Sparse Dword
  vs : Sparse Row
  ps : Sparse Pred
  sp : BitVec 8
  lc0 : Dword
  lc1 : Dword
  dc : BitVec 13
  nq0 : Dword
  nq1 : Dword
  nq2 : Dword
  nq3 : Dword
  old : Nat
  ost : Nat
  ocp : Nat
  omx : Nat
  fcr : Dword
  lfsr : BitVec 32
  cause : Dword
  epc : Dword
  tr0 : Dword
  tr1 : Dword
  tr2 : Dword
  tr3 : Dword
  status : Dword
  unitid : Dword
  grpidx : Dword
  launchid : Dword
  spill : Sparse Row
  due : List Pending
  pend : List PendDest
  arrived : Bool
  pause : Nat
  held : Bool
  halted : Bool
  haltPc : Dword
  nexts : List NextReq
  nqw : List (Nat × Dword)
  errs : List Err
  cmdix : BitVec 32
  fences : List FenceMark
  stop : StopReq
  stopAge : Nat
  stopped : Bool
  handler : Option Handler
  fetchWait : Bool
  fetchErr : Option (Dword × Nat)
  slotk : Sparse Nat
  raised : BitVec 6
  froze : Bool
  sync : Bool
  deriving DecidableEq, Repr

/-- A context that belongs to nothing. x, v, p registers, LC0, LC1, LFSR and the spill store have no reset value in R40: log 2, log 3. -/
def Ctx.reset : Ctx where
  owner := .idle
  job := 0
  pc := 0
  xs := []
  vs := []
  ps := []
  sp := 1
  lc0 := 0
  lc1 := 0
  dc := 0
  nq0 := 0
  nq1 := 0
  nq2 := 0
  nq3 := 0
  old := 0
  ost := 0
  ocp := 0
  omx := 0
  fcr := 0
  lfsr := 1
  cause := 0
  epc := 0
  tr0 := 0
  tr1 := 0
  tr2 := 0
  tr3 := 0
  status := 0
  unitid := 0
  grpidx := 0
  launchid := 0
  spill := []
  due := []
  pend := []
  arrived := false
  pause := 0
  held := false
  halted := false
  haltPc := 0
  nexts := []
  nqw := []
  errs := []
  cmdix := 0
  fences := []
  stop := .run
  stopAge := 0
  stopped := false
  handler := none
  fetchWait := false
  fetchErr := none
  slotk := []
  raised := 0
  froze := false
  sync := false

/-- An accumulator: 1,024 FP32 values of 32 rows by 32 columns (R117). -/
abbrev Acc := BitVec 32768

/-- A weight-buffer slot of 8 KiB with its descriptor (R120). -/
structure WSlot where
  kind : Nat
  fmt : Nat
  xfmt : Nat
  cleared : Bool
  data : BitVec 65536
  deriving DecidableEq, Repr

/-- A cleared slot (R120). -/
def WSlot.clear : WSlot := ⟨0, 0, 0, true, 0⟩

/-- An array operation in the matrix queue (R126, R144, R146): what was read at issue, its nominal start and due issue cycles, its
start, end and due in cycles of the array's clock, its matrix cycles so far under the divisors of its issue, and the state of its
passes. In the running pass, `before` counts the matrix cycles of the passes before it, `next` the k-groups read (R130), `res`, `flags`, `ps`, `pu` and
`pc` hold what they give; `again` marks a pass whose counts ask for the next entry. `stale` lists the accumulators that an operation issued later has
already written (R261); `reported` marks a fault whose trap is pending, and `kept` an operation of an earlier region whose passes a rollback keeps (R148). -/
structure ArrayOp where
  id : Nat
  op : Instr
  hw : Nat
  cmdix : BitVec 32
  issue : Nat
  row : Nat
  entry : Nat
  ft : Sparse Dword
  mbud : Dword
  data : Row
  nomStart : Nat
  nomEnd : Nat
  nomDue : Nat
  phase : Nat
  dm : Nat
  dc : Nat
  started : Bool
  actStart : Nat
  actEnd : Nat
  actDue : Nat
  curEntry : Nat
  curRow : Nat
  curSlot : Nat
  used : List Nat
  snap : Acc
  before : Nat
  next : Nat
  res : Acc
  flags : BitVec 6
  ps : Nat
  pu : Nat
  pc : Nat
  ts : Nat
  tu : Nat
  tc : Nat
  esc : Nat
  exhausted : Bool
  again : Bool
  fault : Option Nat
  stale : List Nat
  reported : Bool
  kept : Bool
  deriving DecidableEq, Repr

/-- A WBLD, WBCLR or ACCST (R129, R422): operands and LFSR read at issue (R79), the accesses its acquire or release waits for, whether its region has
committed and whether it has begun, the accumulator as an ACCST read it when it began, rows moved, the kind of its error, and its tag write: 0 none,
1 asked for, 2 made. -/
structure MatCmd where
  id : Nat
  op : Instr
  hw : Nat
  cmdix : BitVec 32
  row : Nat
  slab : Dword
  rm : Nat
  lfsr : BitVec 32
  after : List Nat
  deferred : Bool
  begun : Bool
  acc : Acc
  moved : Nat
  flags : BitVec 6
  err : Option (BitVec 32)
  tagWrite : Nat
  deriving DecidableEq, Repr

/-- Where a copy command stands (R178). -/
inductive CopyState where
  | deferred | queued | timed | active | finishing
  deriving DecidableEq, Repr

/-- A copy command in flight (R178, R187): operands read at issue (`third` is x[s], x[st], x[tm], x[w] or x[t]), the accesses its acquire
or release waits for, the tiles it writes, rows begun, whether its semaphore adds have been sent, its tag write as for a matrix command,
and its error (word 3 of R368). -/
structure CopyCmd where
  id : Nat
  op : Instr
  hw : Nat
  cmdix : BitVec 32
  g : Dword
  row : Nat
  src : Nat
  third : Dword
  after : List Nat
  state : CopyState
  targets : List Nat
  next : Nat
  signals : Bool
  tagWrite : Nat
  err : Option (BitVec 32)
  deriving DecidableEq, Repr

/-- A counted semaphore (R206). -/
structure Sem where
  count : BitVec 32
  ovf : Bool
  deriving DecidableEq, Repr

/-- A named barrier (R265). -/
structure Bar where
  exp : BitVec 8
  cnt : BitVec 32
  gen : BitVec 16
  deriving DecidableEq, Repr

/-- An add, arrival or set that has reached a semaphore or barrier in the running control cycle (R206, R265). -/
structure Arrival where
  k : Nat
  n : Nat
  set : Bool
  deriving DecidableEq, Repr

/-- Divisors that CLKDIV has scheduled (R260): the issue cycle and the four fields. -/
structure DivChange where
  at_ : Nat
  fc : Nat
  fv : Nat
  fm : Nat
  fy : Nat
  deriving DecidableEq, Repr

/-- An entry of a die's trap queue (R374, R376): the four words, EPC, job, context, tile, state, the access it parks, and its place in the order of arrival. -/
structure TrapEntry where
  w0 : BitVec 32
  w1 : BitVec 32
  w2 : BitVec 32
  w3 : BitVec 32
  epc : Dword
  job : Nat
  hw : Nat
  tile : Nat
  state : Nat
  rid : Option Nat
  order : Nat
  deriving DecidableEq, Repr

/-- What a checkpoint region defers until its commit (R328). -/
inductive Deferred where
  | copy (id : Nat)
  | matrix (id : Nat)
  | access (rid : Nat)
  | signal (rid : Nat)
  | work (job lid : Nat)
  | cancel (hw lvl ident : Nat)
  | doneUnit (hw : Nat)
  | item (rid : Nat)
  | mask (job tree row k : Nat) (mask : BitVec 25) (at_ : Nat)
  | trap (e : TrapEntry) (journals : Bool)
  | device (n : Nat) (v : Dword)
  deriving DecidableEq, Repr

/-- An entry of the undo log (R329): a scratch row with its full/empty bits, or a spill block of a context. -/
inductive Undo where
  | row (n : Nat) (old : Row) (fe : BitVec 32)
  | spill (hw n : Nat) (old : Row)
  deriving DecidableEq, Repr

/-- An input that reaches a tile from outside its issue port, as the input log holds it (R331): a load's value, a load that failed, a
counter that falls, a NEXT reply, the issue of a waiting bundle, a row, an add, an arrival, a tree release, the completion of an engine
command, an error, the end of a page walk for fetch with the line, the leaf found or the code of R302. -/
inductive Input where
  | load (hw rid : Nat) (reg : Reg) (val : Row)
  | failed (hw rid : Nat)
  | counted (hw : Nat) (old : Bool)
  | reply (hw id : Nat) (val : Dword)
  | waitIssue (hw : Nat)
  | row (n : Nat) (val : Row) (fe : Bool)
  | sem (k n : Nat) (set : Bool)
  | bar (k n : Nat) (set : Bool)
  | tgen (tree : Nat)
  | err (hw : Nat) (e : Err)
  | cmdDone (hw : Nat) (copy : Bool) (tag : Option Nat) (failed : Bool) (trap : Option Err) (flags : BitVec 6)
  | fetched (hw : Nat) (line : Dword) (leaf : Option TlbEntry) (code : Nat)
  deriving DecidableEq, Repr

/-- The part of a tile that a rollback restores (R330), with the scratchpad and the engine queues. `satNow`, `unfNow` and `canNow` are the
counts applied in the running cycle (R151); `matAt` the part of a matrix cycle that has passed, in units of `domainUnit` (R422); `banks` the banks whose
Y port has served a row in the running control cycle (R155, R422); `outAt`, `inAt` and `rowAt` the copy-domain times at which the router may next take a
row out and in and the scratchpad side a row out, and `landAt` the pulse at which the scratchpad side takes a row in (R179). `ctlb` is the part of the page
TLB that holds leaves of code, which a rollback restores so that fetch takes the same time again. -/
structure Core where
  ctxs : Sparse Ctx
  isscnt : Dword
  esccnt : Dword
  bcnt : Dword
  ccnt : Dword
  satc : Dword
  unfc : Dword
  canc : Dword
  satNow : Nat
  unfNow : Nat
  canNow : Nat
  mbud : Dword
  tb : BitVec 128
  te : BitVec 128
  cnt : Sparse Nat
  accs : Sparse Acc
  wslots : Sparse WSlot
  ft : Sparse Dword
  aq : List ArrayOp
  nomEnd : Nat
  actEnd : Nat
  arrClk : Nat
  matAt : Nat
  banks : List Nat
  mcmds : List MatCmd
  copies : List CopyCmd
  outAt : Nat
  inAt : Nat
  rowAt : Nat
  landAt : Nat
  rows : Sparse Row
  fe : Sparse (BitVec 32)
  bad : Sparse (BitVec 32)
  sems : Sparse Sem
  semIn : List Arrival
  bars : Sparse Bar
  barIn : List Arrival
  tgenLag : Sparse Nat
  dC : Nat
  dV : Nat
  dM : Nat
  dY : Nat
  divs : List DivChange
  units : Sparse Nat
  ctlb : List TlbEntry
  primary : Nat
  rrp : Nat
  deriving DecidableEq, Repr

/-- The rollback part of a tile after module reset. -/
def Core.reset : Core where
  ctxs := []
  isscnt := 0
  esccnt := 0
  bcnt := 0
  ccnt := 0
  satc := 0
  unfc := 0
  canc := 0
  satNow := 0
  unfNow := 0
  canNow := 0
  mbud := 0
  tb := 0
  te := 0
  cnt := []
  accs := []
  wslots := []
  ft := []
  aq := []
  nomEnd := 0
  actEnd := 0
  arrClk := 0
  matAt := 0
  banks := []
  mcmds := []
  copies := []
  outAt := 0
  inAt := 0
  rowAt := 0
  landAt := 0
  rows := []
  fe := []
  bad := []
  sems := []
  semIn := []
  bars := []
  barIn := []
  tgenLag := []
  dC := 2
  dV := 2
  dM := 2
  dY := 4
  divs := []
  units := []
  ctlb := []
  primary := 0
  rrp := 0

/-- The checkpoint region of a tile (R327 to R335). `run` is 0 in a first run, 1 and 2 in the reruns of a rollback; `sent` lists what
the first run took from outside at once, by key (`takeKey`) and number, and `reuse` what a rerun, or the run after a rollback that a cancel has ended, has not
reached again. `logEnd` is the issue cycle up to which such a run takes its inputs from the log. `held` lists what has
arrived while a rerun holds it back (R333). `escs` lists what the region added to the
escalation counters of launches: job, launch and count. `commitDue` marks that the region commits at
the end of the issue cycle. `record` holds the dwords of the writes of the running issue cycle for its commit record (R335), and `fallen` the array
operations of earlier regions that have fallen due in this one (R148). -/
structure Region where
  bundles : Nat
  undo : List Undo
  inputs : List (Nat × Input)
  replayed : List (Nat × Input)
  deferred : List Deferred
  start : Core
  sent : List (Nat × Nat)
  reuse : List (Nat × Nat)
  sig : Dword
  firstSig : Dword
  firstEnd : Dword
  logEnd : Nat
  run : Nat
  disagree : Bool
  held : List Input
  escs : List (Nat × Nat × Nat)
  commitDue : Bool
  record : List Dword
  fallen : List ArrayOp
  deriving DecidableEq, Repr

/-- The region that begins after module reset. The signature starts from all ones (R335). -/
def Region.reset : Region := ⟨0, [], [], [], [], Core.reset, [], [], -1, 0, 0, 0, 0, false, [], [], false, [], []⟩

/-- Chinook's account of one tile (R386, R387): voltage in steps below Vf, bundles and replays of the running window, when the window
began, the pair it judges, its last flash write in ticks of powered time, and whether it has taken what the last transport test found (R403). -/
structure Chinook where
  below : Nat
  bundles : Nat
  replays : Nat
  began : Nat
  div : Nat
  band : Nat
  lastFlash : Option Nat
  learned : Sparse Nat
  history : List (Nat × Nat × Nat)
  primed : Bool
  deriving DecidableEq, Repr

/-- Chinook at the fused voltage, nothing learned (R388). -/
def Chinook.reset : Chinook := ⟨0, 0, 0, 0, 2, 0, none, [], [], false⟩

/-- What the dirty bits of a tile name (R382). -/
inductive Dirty where
  | row (n : Nat)
  | spill (hw n : Nat)
  | wslot (n : Nat)
  | acc (n : Nat)
  | xbank (hw : Nat)
  | vbank (hw : Nat)
  | pbank (hw : Nat)
  | ctx (hw : Nat)
  | rest
  deriving DecidableEq, Repr

/-- A freeze of a tile by recovery (R258): at which of the pulses that the tile receives it begins and ends, its control cycles, and those up to the last
in which a replay holds. -/
structure Freeze where
  start : Nat
  ends : Nat
  cycles : Nat
  replays : Nat
  deriving DecidableEq, Repr

/-- A store of a bundle that may not yet have passed CM (R322, R323): the identifier counter and the issue cycle at it, and the row as it stood before,
with its uncorrectable words. -/
structure Fresh where
  id : Nat
  at_ : Nat
  row : Nat
  old : Row
  bad : BitVec 32
  deriving DecidableEq, Repr

/-- One tile (R38): its core, its region, and what no rollback restores. `clock` counts the pulses of RCLK that it has received when its next control
cycle begins, the model's own (log 5), and `froze` the last freeze of recovery. `still` marks a tile whose control cycle now running is frozen, and `ice`
holds what has arrived since, oldest first (R257). `clean` lists what the dirty bits hold clear. `pair` names the leader of which the tile is the
follower, and `trail` holds, for a leader, its core at the end of its last three issue cycles (R337). `ctxCycles` counts the issue cycles of its live user
contexts and `waitCycles` those that they spent in BARWT, TREEWT or SEMWAIT (R396). `fresh` lists the stores of the last issue cycles, oldest first. -/
structure Tile where
  core : Core
  region : Region
  rplcnt : Dword
  repcnt : Dword
  clock : Nat
  froze : Option Freeze
  still : Bool
  ice : List Input
  live : Bool
  replayBuf : List (List Nat)
  retired : Bool
  grans : Sparse Nat
  barsUsed : Sparse Nat
  clean : List Dirty
  rtlb : List (Nat × Nat)
  ptlb : List TlbEntry
  chinook : Chinook
  pair : Option Nat
  trail : List Core
  ctxCycles : Nat
  waitCycles : Nat
  fresh : List Fresh
  deriving DecidableEq, Repr

/-- A tile after module reset. -/
def Tile.reset : Tile := ⟨Core.reset, Region.reset, 0, 0, 0, none, false, [], false, [], false, [], [], [], [], [], Chinook.reset, none, [], 0, 0, []⟩

/-- What a request of the fabric asks for (R348, R170, R278). -/
inductive ReqKind where
  | load | store | loadRow | storeRow
  | amo (aop : Nat) (ret : Bool)
  | red (aop : Nat)
  | slabtag (md : Nat)
  | locq
  | copyIn (cmd row : Nat) (fe : Bool)
  | copyOut (cmd : Nat)
  | copyTo (cmd tile row : Nat) (fe : Bool)
  | tagWrite (cmd : Nat) (copy : Bool)
  | sem (tile k n : Nat) (set : Bool) (cmd : Option Nat)
  | bar (tile k n : Nat) (set : Bool)
  | tree (t : Nat)
  | item (reply : Dword)
  | spec (job lid : Nat)
  | fetch
  | cancel (lvl ident : Nat)
  deriving DecidableEq, Repr

/-- Where a request stands; `remote` is one that its border site has forwarded to the peer module (R363), `failing` one whose home has answered with an
error that has not reached the tile (R172). -/
inductive ReqState where
  | deferred | waiting | walking | sent | remote | failing | performed | done | parked
  deriving DecidableEq, Repr

/-- A request of a context or of an engine (R169, R348): its address, its operands, its data, which accesses must be performed before it is sent, and
the issue cycle from which it may leave a protected pair (R337). -/
structure Req where
  id : Nat
  kind : ReqKind
  job : Nat
  tile : Nat
  hw : Nat
  q : Nat
  ea : Dword
  pa : Nat
  reg : Reg
  opnd : Dword
  aux : Dword
  data : Row
  cmdix : BitVec 32
  after : List Nat
  state : ReqState
  ready : Nat
  deriving DecidableEq, Repr

/-- One GRED as a reduction packet lists it (R357): source node, its sequence number, its request, operand. -/
structure Constituent where
  src : Nat
  seq : Nat
  rid : Nat
  opnd : Dword
  deriving DecidableEq, Repr

/-- What a packet carries: a request to its target, a reply, an abort, reductions (`via` lists the packets, as source and stamp (destination and number),
that a switch merged into it), an acknowledgement, or a message of the alignment exchange. -/
inductive Payload where
  | request (rid : Nat)
  | reply (rid : Nat) (val : Row)
  | error (rid cause : Nat)
  | reduction (pa aop job : Nat) (cs : List Constituent) (via : List (Nat × Nat))
  | ack (cls upTo : Nat) (reds : List Nat)
  | control
  deriving DecidableEq, Repr

/-- A packet (R348): stream class, sequence number, payload, payload beats, when it was last sent and when it reaches its next node, and
the edges still ahead with the tick at which it crosses each. `lost` marks one lost with a failed edge. -/
structure Packet where
  id : Nat
  src : Nat
  dst : Nat
  cls : Nat
  seq : Nat
  beats : Nat
  load : Payload
  sentAt : Nat
  lost : Bool
  deriving DecidableEq, Repr

/-- One copy of a packet in flight: the packet, the node it left, the tick at which it reaches the node at the end of these hops, the hops, and the
ticks at which it crosses their edges (R351). -/
structure Flight where
  id : Nat
  pid : Nat
  start : Nat
  at_ : Nat
  node : Nat
  route : List Nat
  ticks : List Nat
  deriving DecidableEq, Repr

/-- An outgoing stream of one node to one other node in one class (R352): next sequence number, packets waiting for room, packets
unacknowledged, and the tick of its last delivery (R419). -/
structure Stream where
  seq : Nat
  waiting : List Packet
  unacked : List Packet
  last : Nat
  deriving DecidableEq, Repr

/-- A merge entry of a memory-site switch (R357); `via` lists the packets it holds, as source and stamp (destination and number). -/
structure MergeEntry where
  e : Nat
  pa : Nat
  aop : Nat
  job : Nat
  dst : Nat
  cs : List Constituent
  via : List (Nat × Nat)
  first : Nat
  deriving DecidableEq, Repr

/-- The reduction window of one source at a home (R358): base and bits set. -/
structure RedWindow where
  base : Nat
  bits : List Nat
  deriving DecidableEq, Repr

/-- One node of the fabric: 0 to 63 compute dies, 64 to 127 memory sites (R348). The adopted routes are named by the edges and nodes that
are down in them (R349, R350); `redAcks` lists, by source, the stamps (destination and number) of the reduction packets still to be acknowledged; `step` is the last alignment step of its counter, which
counts after tick `lastStep` (R213). -/
structure Node where
  down : Bool
  skew : Int
  downEdges : List Nat
  downNodes : List Nat
  streams : Sparse Stream
  ne : Sparse Nat
  windows : Sparse RedWindow
  entries : List MergeEntry
  redAcks : Sparse (List Nat)
  lastStep : Nat
  step : Int
  deriving DecidableEq, Repr

/-- A node after module reset: every edge and node up, every stream at sequence number 0. -/
def Node.reset : Node := ⟨false, 0, [], [], [], [], [], [], [], 0, 0⟩

/-- A UCIe module of an edge (R347): `fails` counts the failures to retrain in a row, `retries` the failures of link-level retry in a row. -/
structure LinkModule where
  active : Bool
  stays : Bool
  fails : Nat
  retries : Nat
  deriving DecidableEq, Repr

/-- A module in service. -/
def LinkModule.up : LinkModule := ⟨true, false, 0, 0⟩

/-- A graph kernel of a job (R315). -/
structure Graph where
  entry : Dword
  serial : Bool
  strict : Bool
  deriving DecidableEq, Repr

/-- Where a launch or task stands (R233 to R237, R282). -/
inductive WorkState where
  | deferred | waiting | ready | reading | placing | ended | done
  deriving DecidableEq, Repr

/-- A work item in a pipeline (R243): its number, its source tile, and the stage it waits for. -/
structure Item where
  num : Nat
  tile : Nat
  stage : Nat
  deriving DecidableEq, Repr

/-- A launch or task (R235, R282): what it was issued with (`job` is the issuing context's), its dependences as `workKey`s, its spec, its
progress, and its account. `specReq` stands for its spec read among the accesses of its context (R236); `again` lists units to place again
with the count of placements (R339), and `nulled` the stages that have received NUL (R244). `readyAt` is one more than the tick at which its last dependence completed, 0 before
(R238). -/
structure Work where
  lid : Nat
  isTask : Bool
  job : Nat
  tile : Nat
  hw : Nat
  inst : Option Nat
  cmdix : BitVec 32
  slot : Nat
  specAddr : Dword
  waits : List Nat
  after : List Nat
  specReq : Option Nat
  spec : List Dword
  state : WorkState
  readyAt : Nat
  cursor : Nat
  nextUnit : Nat
  again : List (Nat × Nat)
  ended : Nat
  uok : Nat
  ufail : Nat
  esc : Dword
  err : Nat
  outcome : Nat
  nextItem : Nat
  given : List Item
  queues : Sparse (List Item)
  oper : Nat
  nops : Nat
  handles : List Nat
  depth : Nat
  parent : Option Nat
  convHandle : Nat
  badJob : Bool
  order : Nat
  nulled : List Nat
  deriving DecidableEq, Repr

/-- A placed unit (R239, R243, R339). `asked` lists its NEXT requests on their way to the dispatcher, context and NEXT; `onWay` lists the replies to its NEXTs that have not reached the tile: context, NEXT and reply. -/
structure WorkUnit where
  uid : Nat
  lid : Nat
  grp : Nat
  tile : Nat
  ctxs : List Nat
  gran : Nat
  ngran : Nat
  bar : Nat
  nbar : Nat
  stage : Nat
  replies : Nat
  items : List Item
  asked : List (Nat × Nat)
  onWay : List (Nat × Nat × Dword)
  ending : Bool
  fatal : Bool
  cancelled : Bool
  moves : Nat
  nul : Bool
  deriving DecidableEq, Repr

/-- A graph instance (R230, R246): record, number, graph, phase, context, its slot counters, and its state: 0 waiting to start,
1 running, 2 context halted, 3 completed, 4 cancelled. -/
structure Inst where
  seq : Nat
  num : Nat
  graph : Nat
  phase : Nat
  args : List Dword
  tile : Nat
  hw : Nat
  k : Sparse Nat
  state : Nat
  cancelled : Bool
  deriving DecidableEq, Repr

/-- A job (R306): partition, range entries of five dwords, method table, graphs, phases, work, units, trees. `frozen` marks one that a
pre-emption stops or has saved (R379). -/
structure Job where
  num : Nat
  seq : Nat
  part : BitVec 64
  ranges : Sparse (List Dword)
  mtAddr : Dword
  mtCount : Option Nat
  graphs : Sparse Graph
  phase : Option Nat
  closed : Bool
  nextLid : Nat
  nextInst : Nat
  nextUid : Nat
  nextOrder : Nat
  insts : List Inst
  works : List Work
  units : List WorkUnit
  masks : Sparse (BitVec 25)
  arv : Sparse (List Nat)
  tgen : Sparse (BitVec 16)
  treeDone : Sparse (BitVec 16)
  cancelled : Bool
  clearing : Bool
  cleared : Bool
  frozen : Bool
  deriving DecidableEq, Repr

/-- A new job: every range entry invalid, no method table, no graphs, tree masks and generations zero (R306). -/
def Job.create (num seq : Nat) (part : BitVec 64) : Job :=
  ⟨num, seq, part, [], 0, none, [], none, false, 1, 1, 1, 0, [], [], [], [], [], [], [], false, false, false, false⟩

/-- A journal entry (R317). -/
structure Journal where
  seq : Nat
  job : Nat
  state : Nat
  port : Nat
  sub : Nat
  type : Nat
  tag : Dword
  acc : Dword
  last : Dword
  status : Dword
  deriving DecidableEq, Repr

/-- A page walk (R304): the job, the range entry by index and as it stood when the walk was asked for, the 4 KiB page and the requests that wait. -/
structure Walk where
  job : Nat
  range : Nat
  entry : List Dword
  page : Nat
  rids : List Nat
  deriving DecidableEq, Repr

/-- One compute die beside its tiles: trap queue with drop count (R374), walker (R304), the last reading of its 25 cluster sensors, and whether it has
reached 95 °C and not come back to 85 °C since (R397). -/
structure Die where
  traps : Sparse TrapEntry
  drops : Nat
  walks : List Walk
  fifo : List Walk
  temps : List Nat
  warned : Bool
  deriving DecidableEq, Repr

/-- A die after module reset. -/
def Die.reset : Die := ⟨[], 0, [], [], [], false⟩

/-- A power region (R391 to R398). `allowed` is the allowed current of the last step, once one has been; `firstOp` and `stepAt` are PTC values of its
first die, at the first array operation of its tiles and at the start of the last step (R414); `passed` counts the parts of pulses that its tiles had
received at the time `mark`, since when its rate has not changed. `samples` holds, for the last 50 µs, when they were taken and the counts of its tiles that
give its slack, oldest first (R396). The marks of the evaluations are the model's own. -/
structure PowerRegion where
  n : Nat
  capLimit : Nat
  stepLimit : Nat
  thermal : Nat
  pacing : Nat
  sag : Nat
  stretch : Nat
  droops : BitVec 32
  allowed : Option Nat
  ballast : Bool
  lastAlarm : Nat
  alarmSince : Option Nat
  cslr : Dword
  cslrNext : Option Dword
  lastThermal : Nat
  firstOp : Option Nat
  stepAt : Option Nat
  passed : Nat
  mark : Nat
  samples : List (Nat × Nat × Nat)
  deriving DecidableEq, Repr

/-- A region after module reset: no limit below 64 (R391), CSLR as R393 resets it. -/
def PowerRegion.reset : PowerRegion :=
  ⟨64, 64, 64, 64, 64, 64, 0, 0, none, false, 0, none, Config.cslrBoot, none, 0, none, none, 0, 0, []⟩

/-- The pacing of one region for one job (R396): its limit, for how many evaluations in a row its slack has been high and low, and when
the limit last changed. -/
structure Pace where
  limit : Nat
  high : Nat
  low : Nat
  change : Option Nat
  deriving DecidableEq, Repr

/-- The module's supply and power account (R385, R395, R398 to R402). `toSave` lists the jobs that the emergency sequence has still to
save, in order, `lost` those that lost their tile state with the compute rails, which `tripped` marks as removed without a save, until they have been
cleared; `pacing` holds the pacing of each job and region. `passed` says that a SELF-TEST has passed since module reset (R315), and `enableLow` holds a low
pulse of power-enable that waits for the end of the emergency sequence: its length in microseconds and the tick at which it takes effect (R401, R402). -/
structure Power where
  mstate : Nat
  involt : Nat
  modpwr : Nat
  tmax : Nat
  tmaxDie : Nat
  flags : BitVec 5
  stresult : Dword
  computeRails : Bool
  memoryRail : Bool
  tripped : Bool
  sagging : Bool
  emergency : Bool
  lastCap : Nat
  below95 : Option Nat
  overSince : Option Nat
  toSave : List Nat
  lost : List Nat
  pacing : Sparse Pace
  passed : Bool
  enableLow : Option (Nat × Nat)
  deriving DecidableEq, Repr

/-- Supply and power after module reset: rails up, booting (R318); the input reads 54 V until it is measured (log 15). -/
def Power.reset : Power := ⟨0, 5400, 0, 0, 0, 0, 0, true, true, false, false, false, 0, none, none, [], [], [], false, none⟩

/-- A host port (R310 to R314). -/
structure Port where
  intake : List (List Dword)
  drops : Dword
  apctl : Dword
  apbase : Dword
  cmpbase : Dword
  cmpcfg : Nat
  k : Nat
  msix : Sparse Byte
  pending : BitVec 64
  deriving DecidableEq, Repr

/-- A host port after module reset. -/
def Port.reset : Port := ⟨[], 0, 0, 0, 0, 6, 0, [], 0⟩

/-- What the module sends to a host: a write into its memory, a signal, a read completion, an abort completion. -/
inductive HostOut where
  | write (port : Nat) (addr : Dword) (bytes : List Byte)
  | signal (port vector : Nat)
  | data (port : Nat) (bytes : List Byte)
  | abort (port : Nat)
  deriving DecidableEq, Repr

/-- A hardware semaphore (R312). -/
structure HSem where
  held : Bool
  owner : Nat
  deriving DecidableEq, Repr

/-- The policy of one kind of predictive-failure counter (R342). -/
structure Policy where
  fill : Nat
  leak : Nat
  mark : Nat
  deriving DecidableEq, Repr

/-- The defaults of R342. -/
def Policy.default : Nat → Policy
  | 0 => ⟨16, 1, 1024⟩
  | 1 => ⟨1, 64, 32768⟩
  | _ => ⟨256, 1, 4096⟩

/-- A predictive-failure counter (R342, R343): level, and whether it may raise an event. -/
structure Bucket where
  level : Nat
  spent : Bool
  deriving DecidableEq, Repr

/-- The saved image of a partition (R379, R383): its tiles, and its contexts in the order in which they were saved (R378), as tile and context. -/
structure Shadow where
  job : Nat
  tiles : Sparse Core
  order : List (Nat × Nat)
  deriving DecidableEq, Repr

/-- An entry of the measurement log (R320). -/
structure Measurement where
  kind : Nat
  digest : List Byte
  version : Nat
  ptc : Dword
  deriving DecidableEq, Repr

/-- The two host ports, the journal, and what the firmware keeps (R310 to R321, R340, R388, R405). `learned` and `history` are Chinook's
learned tables in the flash; `powered` counts the ticks of powered time before the last module reset. `loads` gives, for a LOAD record that
waits for accesses, the identifier before which they were made (R305). `swaps` gives, for a job whose partition is on its way to or from the shadow
regions, the tick at which that ends (R383), and `bootDie` the die whose supervisor tile runs the boot ROM and keeps the journal (R319, log 22).
`tested` stands for the learned points that the last transport test has left on every tile: the count of free values then, and the readings of the dies'
clusters (R403). -/
structure Control where
  ports : Sparse Port
  hsems : Sparse HSem
  records : Sparse (List Dword)
  loads : Sparse Nat
  journal : Sparse Journal
  jnext : Nat
  joldest : Nat
  log : List Measurement
  bootSlot : Nat
  bootVersion : Nat
  flashA : Sparse Byte
  flashB : Sparse Byte
  erased : List Nat
  retireMap : List Nat
  policies : Sparse Policy
  buckets : Sparse Bucket
  shadows : List Shadow
  swaps : Sparse Nat
  bootDie : Nat
  learned : Sparse (Sparse Nat)
  history : Sparse (List (Nat × Nat × Nat))
  tested : Option (Nat × Sparse (List Nat))
  powered : Nat
  pcap : Dword
  out : List HostOut
  deriving DecidableEq, Repr

/-- Control after module reset; flash contents are the model's choice (log 14). -/
def Control.reset : Control :=
  ⟨[], [], [], [], [], 1, 1, [], 0, 0, [], [], [], [], [], [], [], [], 24, [], [], none, 0, Config.pcapBoot, []⟩

/-- The registers that an SRD or MONRD of a tile may find changed by the bundles of its own issue cycle, as they stood at its start (R56, R151). -/
structure Sample where
  bcnt : Dword
  ccnt : Dword
  satc : Dword
  unfc : Dword
  canc : Dword
  esccnt : Dword
  mbud : Dword
  tb : BitVec 128
  pcap : Dword
  deriving DecidableEq, Repr

/-- The issue frame (the model's own): which tile and context act, the bundle's header address, the link value (R51), the PM bit of the
slot, whether the bundle's checks have passed, whether the LD slot's write is discarded (R156), TB and TE as they stood when the
bundle issued (R195), and what stood at the start of the issue cycle (R56). -/
structure Frame where
  tile : Nat
  hw : Nat
  pc : Dword
  link : Dword
  pm : Nat
  checked : Bool
  ldDiscard : Bool
  tb : BitVec 128
  te : BitVec 128
  sample : Sample
  deriving DecidableEq, Repr

/-- The frame before any bundle. -/
def Frame.reset : Frame := ⟨0, 0, 0, 0, 0, false, false, 0, 0, ⟨0, 0, 0, 0, 0, 0, 0, 0, 0⟩⟩

/-- A packet's crossing of an edge in one direction (R351, R419): the edge and direction, the tick, the stream, and whether it is a header alone. -/
structure Crossing where
  edge : Nat
  tick : Nat
  stream : Nat
  alone : Bool
  deriving DecidableEq, Repr

/-- The fabric: nodes, edges, packets and requests (chapter 19). `decls` lists the declared route changes: when they are adopted, on the
counters, and what is down then (R350). `crossings` holds the crossings to come, `trees` the arrivals, masks and releases of AND-trees that wait for a
route from one node to another (R269), `remotes` the streams of the border sites to their peers (R363), and `portRetries` how often in a row the retry
of a scale-out port has failed (R362). -/
structure Fabric where
  nodes : Sparse Node
  modules : Sparse LinkModule
  edgesDown : List Nat
  decls : List (Nat × List Nat × List Nat)
  flights : List Flight
  packets : List Packet
  reqs : List Req
  crossings : List Crossing
  trees : List (Nat × Nat × Event)
  scalePorts : Sparse Bool
  portRetries : Sparse Nat
  remotes : Sparse Stream
  deriving DecidableEq, Repr

/-- The fabric after module reset. -/
def Fabric.reset : Fabric := ⟨[], [], [], [], [], [], [], [], [], [], [], []⟩

/-- The whole module. `time` is the reference time in pulses of RCLK, `agenda` the timed events and inputs still to come in rising order
of time, `free` the count of free values drawn, `ids` the count of identifiers given: the model's own (log 4, log 5). -/
structure State where
  mem : List Host.Cell
  badMem : List Nat
  tiles : Sparse Tile
  dies : Sparse Die
  regions : Sparse PowerRegion
  fab : Fabric
  jobs : List Job
  ctl : Control
  power : Power
  cur : Frame
  time : Nat
  ptcBase : Nat
  agenda : List (Nat × Event)
  free : Nat
  ids : Nat
  deriving DecidableEq, Repr

/-- The module right after reset: MSTATE 0, no job, memory with nothing listed. -/
def State.reset : State where
  mem := []
  badMem := []
  tiles := []
  dies := []
  regions := []
  fab := Fabric.reset
  jobs := []
  ctl := Control.reset
  power := Power.reset
  cur := Frame.reset
  time := 0
  ptcBase := 0
  agenda := []
  free := 0
  ids := 0

end Sys2Proof.Machine
end

