-- ==== Sys2Proof/Machine/Flags.lean ====
section
/-! DEFINITION. FCR (R68 to R70): its rounding mode, its sticky flags, and what a write stores. -/

namespace Sys2Proof.Machine

/-- The rounding mode RM of FCR (R68). -/
def fcrRm (fcr : Dword) : Nat := (fcr.extractLsb' 0 3).toNat

/-- FCR with flags ORed in (R57, R68). -/
def fcrRaise (fcr : Dword) (f : BitVec 6) : Dword := fcr ||| (f.zeroExtend 64 <<< 8)

/-- FCR after a write (R68, R69): reserved bits read zero, a reserved RM leaves RM. -/
def fcrWrite (old new : Dword) : Dword :=
  let rm := if 5 ≤ fcrRm new then fcrRm old else fcrRm new
  (new &&& 0x3F00) ||| BitVec.ofNat 64 rm

/-- A rounding under the context's FCR (R70). -/
def Ctx.rnd (c : Ctx) : Rnd := ⟨fcrRm c.fcr, c.lfsr, 0⟩

/-- A rounding in RNE whatever FCR holds (R70, R118, R173). -/
def rndRne : Rnd := ⟨0, 1, 0⟩

/-- The seed of LFSR when a context starts (R75). -/
def lfsrSeed (tile ctxNum lid : Nat) : BitVec 32 :=
  let n := (tile / 256) * 2 ^ 24 + (tile % 256) * 2 ^ 16 + ctxNum * 2 ^ 14 + lid % 2 ^ 14
  if n % 2 ^ 32 = 0 then 1 else BitVec.ofNat 32 n

end Sys2Proof.Machine
end

