-- ==== Sys2Proof/Machine/Lanes.lean ====
section
/-! DEFINITION. Lanes of vector patterns and bytes of rows (R36, R95, R96). -/

namespace Sys2Proof.Machine

/-- The first `n` fields of width `w` of a number, the lowest first. -/
def cut (w : Nat) : Nat → Nat → List Nat
  | 0, _ => []
  | n + 1, v => v % 2 ^ w :: cut w n (v / 2 ^ w)

/-- A number from fields of width `w`, the lowest first. -/
def join (w : Nat) : List Nat → Nat
  | [] => 0
  | x :: xs => x % 2 ^ w + 2 ^ w * join w xs

/-- Lane of R36. -/
def lane (w : Nat) (v : Row) (i : Nat) : Nat := v.toNat / 2 ^ (w * i) % 2 ^ w

/-- All lanes of a register at width `w`. -/
def lanes (w : Nat) (v : Row) : List Nat := cut w (2048 / w) v.toNat

/-- The register with the given lanes. -/
def ofLanes (w : Nat) (xs : List Nat) : Row := BitVec.ofNat 2048 (join w xs)

/-- SetLane of R36. -/
def setLane (w : Nat) (v : Row) (i x : Nat) : Row :=
  ofLanes w ((lanes w v).set i x)

/-- Active of R36: the predicate bit of the lane's lowest byte. -/
def active (p : Pred) (w i : Nat) : Bool := p.getLsbD (i * (w / 8))

/-- The predicate whose lanes at width `w` are the given Booleans, each over all its bits (R96). -/
def ofLaneBits (w : Nat) (bs : List Bool) : Pred :=
  BitVec.ofNat 256 (join (w / 8) (bs.map fun b => if b then 2 ^ (w / 8) - 1 else 0))

/-- The bytes of a row, the lowest first. -/
def rowBytes (r : Row) : List Byte := natBytes 256 r.toNat

/-- The row of bytes. -/
def rowOfBytes (bs : List Byte) : Row := BitVec.ofNat 2048 (join 8 (bs.map (·.toNat)))

/-- Dword `w` of a row (R152). -/
def rowWord (r : Row) (w : Nat) : Dword := BitVec.ofNat 64 (lane 64 r w)

/-- A row with one dword replaced. -/
def setRowWord (r : Row) (w : Nat) (d : Dword) : Row := setLane 64 r w d.toNat

/-- A dword as the low bits of a register-wide value. -/
def wide (d : Dword) : Row := d.zeroExtend 2048

end Sys2Proof.Machine
end

