-- ==== Sys2Proof/Machine/Ops.lean ====
section
/-! DEFINITION. The named operations over the state: tiles, contexts, registers, Due, the scratchpad, time and the agenda, and taking
a trap and returning from one. -/

namespace Sys2Proof.Machine

/-! ### Tiles and contexts -/

/-- The tile with a TILEID value (R42). -/
def State.tile (s : State) (t : Nat) : Tile := sget Tile.reset s.tiles t

/-- One tile changed. -/
def State.updTile (s : State) (t : Nat) (f : Tile → Tile) : State := { s with tiles := sput t (f (s.tile t)) s.tiles }

/-- One tile's core changed. -/
def State.updCore (s : State) (t : Nat) (f : Core → Core) : State := s.updTile t fun x => { x with core := f x.core }

/-- A context of a core. -/
def Core.ctx (c : Core) (h : Nat) : Ctx := sget Ctx.reset c.ctxs h

/-- One context changed. -/
def Core.updCtx (c : Core) (h : Nat) (f : Ctx → Ctx) : Core := { c with ctxs := sput h (f (c.ctx h)) c.ctxs }

/-- A context of a tile. -/
def State.ctxAt (s : State) (t h : Nat) : Ctx := (s.tile t).core.ctx h

/-- One context of a tile changed. -/
def State.updCtx (s : State) (t h : Nat) (f : Ctx → Ctx) : State := s.updCore t fun c => c.updCtx h f

/-- The tile that acts. -/
def State.me (s : State) : Tile := s.tile s.cur.tile

/-- The context that acts. -/
def State.ctx (s : State) : Ctx := s.me.core.ctx s.cur.hw

/-- The acting tile changed. -/
def State.updMe (s : State) (f : Tile → Tile) : State := s.updTile s.cur.tile f

/-- The acting tile's core changed. -/
def State.updMyCore (s : State) (f : Core → Core) : State := s.updCore s.cur.tile f

/-- The acting context changed. -/
def State.updSelf (s : State) (f : Ctx → Ctx) : State := s.updCtx s.cur.tile s.cur.hw f

/-- The four contexts of a tile (R37). -/
def hwNumbers : List Nat := [0, 1, 2, 3]

/-- A context is live: placed, not halted (R251), and not stopped by a cancel or a pre-emption. -/
def Ctx.live (c : Ctx) : Bool := c.owner != .idle && !c.halted && !c.stopped

/-! ### The panel (R9 to R14) -/

/-- The logical row of a TILEID value. -/
def tileRow (t : Nat) : Nat := t / 256
/-- The logical column of a TILEID value. -/
def tileCol (t : Nat) : Nat := t % 256
/-- The TILEID value of a logical coordinate (R42). -/
def tileAt (r c : Nat) : Nat := r * 256 + c
/-- A TILEID value names a tile of the grid (R6). -/
def tileExists (t : Nat) : Bool := tileRow t < 200 && tileCol t < 200
/-- The compute die of a tile (R12). -/
def dieOf (t : Nat) : Nat := 8 * (tileRow t / 25) + tileCol t / 25
/-- The place of a tile within its die, 25 × local row + local column (R6). -/
def localIndex (t : Nat) : Nat := 25 * (tileRow t % 25) + tileCol t % 25
/-- The tile at a place of a die (R12). -/
def tileOfDie (d i : Nat) : Nat := tileAt (25 * (d / 8) + i / 25) (25 * (d % 8) + i % 25)
/-- The tiles of a die. -/
def dieTiles (d : Nat) : List Nat := (List.range 625).map (tileOfDie d)
/-- A supervisor tile (R13). -/
def isSupervisor (t : Nat) : Bool := tileRow t % 25 == 12 && tileCol t % 25 == 12
/-- The supervisor tile of a die (R13). -/
def supervisorOf (d : Nat) : Nat := tileOfDie d 312
/-- The power region of a tile (R14). -/
def regionOf (t : Nat) : Nat := 4 * (tileRow t / 50) + tileCol t / 50
/-- The first die of a power region (R391). -/
def regionDie (r : Nat) : Nat := 16 * (r / 4) + 2 * (r % 4)
/-- The site column and row of a node (R9, R348). -/
def nodeSite (n : Nat) : Nat × Nat :=
  let k := n % 64
  let r := k / 8
  let par := if n < 64 then r % 2 else 1 - r % 2
  (2 * (k % 8) + par, r)
/-- The node at a site (R9). -/
def siteNode (c r : Nat) : Nat := 8 * r + c / 2 + (if (c + r) % 2 = 0 then 0 else 64)

/-- A die belongs to a partition mask (R306). -/
def inPart (part : BitVec 64) (d : Nat) : Bool := part.getLsbD d

/-! ### Jobs -/

/-- The live job with a number: neither completed nor cancelled. -/
def State.job (s : State) (n : Nat) : Option Job := s.jobs.find? fun j => j.num == n && !j.clearing

/-- One job changed. -/
def State.updJob (s : State) (n : Nat) (f : Job → Job) : State :=
  { s with jobs := s.jobs.map fun j => if j.num = n ∧ ¬ j.clearing then f j else j }

/-- The job of a tile's die. -/
def State.jobOfDie (s : State) (d : Nat) : Option Job := s.jobs.find? fun j => inPart j.part d

/-- A TILEID value names a valid target for a job's remote accesses (R192, R208, R266): a user tile of its partition, not retired. -/
def State.validTarget (s : State) (jobNum t : Nat) : Bool :=
  tileExists t && !isSupervisor t && !(s.tile t).retired &&
    (match s.job jobNum with | some j => inPart j.part (dieOf t) | none => false)

/-! ### Time (R5, R213) -/

/-- The reference time in ticks: a tick is two pulses of RCLK. -/
def State.now (s : State) : Nat := s.time / 2

/-- The PTC of a node: the reference, its module's base, its difference and its last alignment step (R213). -/
def State.ptc (s : State) (node : Nat) : Nat :=
  let n := sget Node.reset s.fab.nodes node
  (Int.ofNat (s.ptcBase + s.now) + n.skew + (if n.lastStep < s.now then n.step else 0)).toNat

/-- The PTC of a node as a dword. -/
def State.ptcWord (s : State) (node : Nat) : Dword := BitVec.ofNat 64 (s.ptc node)

/-- A host write into window 0 comes from a port: the port, for the order of two that arrive together (R312). -/
def Event.port : Event → Option Nat
  | .registerWrite p _ _ => some p
  | .hsemClaim p _ _ => some p
  | .hsemRelease p _ => some p
  | _ => none

/-- A tree's generation reaches a die. -/
def Event.isTgen : Event → Bool
  | .tgenIncrement _ _ _ => true
  | _ => false

/-- Two events of one time act in an order that the manual fixes: a mask change before an arrival at the root (R270), port 0 before port 1 (R312). A
generation goes before everything else of its tick, so that the bundles of that tick see it (R269, R412). -/
def Event.before : Event → Event → Bool
  | .treeMaskAtRoot _ _ _ _ _, .treeArrivalAtRoot _ _ _ => true
  | i, j => (i.isTgen && !j.isTgen) || (i.port == some 0 && j.port == some 1)

/-- An agenda with one more event, after those of the same time that need not follow it. -/
def insertEvent (t : Nat) (i : Event) : List (Nat × Event) → List (Nat × Event)
  | [] => [(t, i)]
  | (u, j) :: r => if t < u ∨ (t = u ∧ i.before j) then (t, i) :: (u, j) :: r else (u, j) :: insertEvent t i r

/-- An event scheduled some ticks from now. -/
def State.after (s : State) (ticks : Nat) (i : Event) : State :=
  { s with agenda := insertEvent (s.time + 2 * ticks) i s.agenda }

/-- An event scheduled for the start of a tick. -/
def State.atTick (s : State) (tick : Nat) (e : Event) : State := { s with agenda := insertEvent (2 * tick) e s.agenda }

/-- An event scheduled unless it is already to come. -/
def State.once (s : State) (ticks : Nat) (e : Event) : State := if s.agenda.any (fun p => p.2 == e) then s else s.after ticks e

/-- A data error that a tile has detected in its running region asks for a rollback, once (R332). -/
def State.askRollback (s : State) (t : Nat) : State := s.once 0 (.dataErrorRollback t 0)

/-- A rollback of a tile is about to begin. -/
def State.rollbackAsked (s : State) (t : Nat) : Bool := s.agenda.any fun p => p.1 ≤ s.time && p.2 == .dataErrorRollback t 0

/-- A fresh identifier. -/
def State.fresh (s : State) : Nat × State := (s.ids, { s with ids := s.ids + 1 })

/-- A free value of a width for a place that asks (log 4). -/
def State.freeVal (s : State) (w site : Nat) : BitVec w := Config.freeBits w site s.free

/-- A free time in ticks for a place that asks (log 5). -/
def State.freeTime (s : State) (site : Nat) : Nat := Config.freeDelay site s.free

/-- The time MINPATH of the shortest path between two dies, in ticks (R216). -/
def minPath : Nat := 56

/-- The time that the dispatcher takes for something it has heard of. Its parts stand on several dies, so that what follows from it elsewhere comes at
least MINPATH later (R216); where it stays on one die that least time is the model's own (log 5). -/
def State.dispatchTime (s : State) (site : Nat) : Nat := s.freeTime site + minPath

/-- The parts into which a pulse of RCLK is cut: every throttle level and every stretch passes a whole number of them (R391, R392). -/
def pulseParts : Nat := 31680

/-- The parts that a region's tiles receive in one pulse of RCLK: N of 64, with a period stretched by eighths (R391, R392). -/
def PowerRegion.rate (p : PowerRegion) : Nat := p.n * (3960 / (8 + p.stretch))

/-- The parts that a region's tiles have received by a time. -/
def PowerRegion.received (p : PowerRegion) (time : Nat) : Nat := p.passed + (time - p.mark) * p.rate

/-- The time at which a region's tiles will have received a count of pulses. -/
def PowerRegion.timeOf (p : PowerRegion) (pulses : Nat) : Nat := p.mark + ceilDiv (pulses * pulseParts - p.passed) p.rate

/-- The power region of a tile. -/
def State.regionAt (s : State) (t : Nat) : PowerRegion := sget PowerRegion.reset s.regions (regionOf t)

/-- The whole pulses that a tile has received by now. -/
def State.pulsesAt (s : State) (t : Nat) : Nat := (s.regionAt t).received s.time / pulseParts

/-- The time of a tile's next control cycle. -/
def State.cycleTime (s : State) (t : Nat) : Nat := (s.regionAt t).timeOf (s.tile t).clock

/-- One power region changed; the pulses that its tiles receive are counted up to now where its rate changes. -/
def State.updRegion (s : State) (r : Nat) (f : PowerRegion → PowerRegion) : State :=
  let p := sget PowerRegion.reset s.regions r
  let q := f p
  { s with regions := sput r (if q.rate = p.rate then q else { q with passed := p.received s.time, mark := s.time }) s.regions }

/-- A power region. -/
def State.region (s : State) (r : Nat) : PowerRegion := sget PowerRegion.reset s.regions r

/-- N: the smallest limit (R391). -/
def PowerRegion.level (p : PowerRegion) : Nat := min (min (min p.capLimit p.stepLimit) (min p.thermal p.pacing)) p.sag

/-- The place that asks for what a region estimates at the start of a step. -/
def siteStep : Nat := 900020

/-- The next step of a region to come (R414). What the region estimates then is not given (log 58). -/
def State.nextStep (s : State) (r : Nat) : State :=
  let wait := 320 - s.ptc (regionDie r) % 320
  s.after wait (.throttleStep r (s.freeVal 12 (siteStep + r)).toNat (s.freeVal 12 (siteStep + 16 + r)).toNat)

/-- The step of a region that an event is. -/
def Event.stepOf : Event → Option Nat
  | .throttleStep r _ _ => some r
  | _ => none

/-- The next step of a region to come, unless one is. -/
def State.awaitStep (s : State) (r : Nat) : State := if s.agenda.any fun p => p.2.stepOf == some r then s else s.nextStep r

/-- A region whose N or CSLR is to change does so at its next step boundary (R391, R393, R398). -/
def State.followLimit (r : Nat) (s : State) : State :=
  let p := s.region r
  if p.n = p.level ∧ p.cslrNext = none then s else s.awaitStep r

/-- Every region follows its limits. -/
def State.followLimits (s : State) : State := (List.range 16).foldl (fun s r => s.followLimit r) s

/-! ### Registers (R37, R262) -/

/-- An x register; x0 reads as zero (R37). -/
def Ctx.x (c : Ctx) (n : Nat) : Dword := if n = 0 then 0 else sget 0 c.xs n

/-- A v register. -/
def Ctx.v (c : Ctx) (n : Nat) : Row := sget 0 c.vs n

/-- A predicate register; p0 reads as all ones (R37, R96). -/
def Ctx.p (c : Ctx) (n : Nat) : Pred := if n = 0 then BitVec.allOnes 256 else sget 0 c.ps n

/-- A register written; x0 and p0 discard (R30). -/
def Ctx.write (c : Ctx) (r : Reg) (val : Row) : Ctx :=
  match r with
  | .x n => if n = 0 then c else { c with xs := sput n (val.truncate 64) c.xs }
  | .v n => { c with vs := sput n val c.vs }
  | .p n => if n = 0 then c else { c with ps := sput n (val.truncate 256) c.ps }
  | .none => c

/-- The hard-wired registers x0 and p0. -/
def Reg.wired : Reg → Bool
  | .x n => n == 0
  | .p n => n == 0
  | .v _ => false
  | .none => true

/-- A register has an unpredictable value in an issue cycle: a bundle of an earlier cycle has a write due or a load pending (R171, R262). -/
def Ctx.early (c : Ctx) (now : Nat) (r : Reg) : Bool :=
  !r.wired && (c.due.any (fun d => d.dst == r && d.issue < now) || c.pend.any (fun d => d.reg == r && d.issue < now))

/-- The issue cycle of a tile as a count. -/
def Core.cycle (c : Core) : Nat := c.isscnt.toNat

/-- A read of a register by the acting context would be early (R262). -/
def State.early (s : State) (r : Reg) : Bool := s.ctx.early s.me.core.cycle r

/-- The number that tells free values of one bundle apart: PM bit and register. -/
def Reg.site (pm : Nat) : Reg → Nat
  | .x n => 1024 * pm + n
  | .v n => 1024 * pm + 32 + n
  | .p n => 1024 * pm + 64 + n
  | .none => 1024 * pm + 96

/-- An x operand as the acting slot reads it: an early read gives an unspecified value (R262). -/
def State.rx (s : State) (n : BitVec 5) : Dword :=
  if s.early (.x n.toNat) then s.freeVal 64 (Reg.site s.cur.pm (.x n.toNat)) else s.ctx.x n.toNat

/-- A v operand as the acting slot reads it. -/
def State.rv (s : State) (n : BitVec 5) : Row :=
  if s.early (.v n.toNat) then s.freeVal 2048 (Reg.site s.cur.pm (.v n.toNat)) else s.ctx.v n.toNat

/-- A p operand as the acting slot reads it. -/
def State.rp (s : State) (n : Nat) : Pred :=
  if s.early (.p n) then s.freeVal 256 (Reg.site s.cur.pm (.p n)) else s.ctx.p n

/-- A write from another source leaves a pending destination unspecified once its load completes (R171). -/
def taint (r : Reg) (ps : List PendDest) : List PendDest :=
  ps.map fun d => if d.reg = r ∧ ¬ r.wired then { d with tainted := true } else d

/-- The request of a load whose destination a write names while it is pending: what the write then leaves is unspecified (R171). -/
def Ctx.clashes (c : Ctx) (r : Reg) : Option Nat := if r.wired then none else (c.pend.find? fun d => d.reg == r).map (·.rid)

/-! ### Exposed latencies (R259, R262) -/

/-- The common multiple in which domain cycles are counted. -/
def domainUnit : Nat := 720720

/-- The divisor of a domain: 0 control, 1 vector, 2 matrix, 3 copy (R259). -/
def Core.div (c : Core) : Nat → Nat
  | 0 => c.dC
  | 1 => c.dV
  | 2 => c.dM
  | _ => c.dY

/-- A latency of L cycles of a domain in issue cycles (R259). -/
def Core.latency (c : Core) (dom l : Nat) : Nat := max 1 (ceilDiv (l * c.div dom) c.dC)

/-- Due of R36 with flags: the write of a value to a register, L cycles of a domain after issue. -/
def State.dueFlags (s : State) (dst : Reg) (val : Row) (dom l : Nat) (flags : BitVec 6) : State :=
  let c := s.me.core
  let p : Pending := ⟨c.cycle + c.latency dom l, c.cycle, s.cur.pm, dst, val, flags, dom, sget 0 c.units dom + l * domainUnit, s.ctx.clashes dst⟩
  s.updSelf fun k => { k with due := k.due ++ [p], pend := taint dst k.pend }

/-- Due of R36 without flags. -/
def State.due (s : State) (dst : Reg) (val : Row) (dom l : Nat) : State := s.dueFlags dst val dom l 0

/-- Due of an x register in the control domain. -/
def State.dueX (s : State) (d : BitVec 5) (val : Dword) (l : Nat) : State := s.due (.x d.toNat) (wide val) 0 l

/-! ### The commit signature (R335) -/

/-- One byte of the CRC of R335, most significant bit first. -/
def crc64Byte (c : Dword) (b : Byte) : Dword :=
  (List.range 8).foldl (fun c _ => if c.getLsbD 63 then (c <<< 1) ^^^ 0x42F0E1EBA9EA3693 else c <<< 1) (c ^^^ (b.zeroExtend 64 <<< 56))

/-- A dword taken into the CRC, bytes in ascending order. -/
def crc64 (c w : Dword) : Dword := (natBytes 8 w.toNat).foldl crc64Byte c

/-- The CRC of some bytes of a number, from all ones. -/
def crcOf (bytes n : Nat) : Dword := (natBytes bytes n).foldl crc64Byte (-1)

/-- The header of a bundle that issues, taken into the region's signature (R335). -/
def Tile.sign (t : Tile) (w : Dword) : Tile := { t with region := { t.region with sig := crc64 t.region.sig w } }

/-- A write of the running issue cycle put into its commit record: its destination and the CRC of its data (R335). -/
def Tile.enter (t : Tile) (dst : Nat) (crc : Dword) : Tile :=
  { t with region := { t.region with record := t.region.record ++ [Config.commitWord dst crc] } }

/-- The commit record of an issue cycle ends: its writes follow the headers into the signature (R335). -/
def Tile.closeRecord (t : Tile) : Tile :=
  { t with region := { t.region with sig := t.region.record.foldl crc64 t.region.sig, record := [] } }

/-- The destination number of a register in a commit record (the numbering is the model's own, log 20). -/
def Reg.number (h : Nat) : Reg → Nat
  | .x n => 128 * h + n
  | .v n => 128 * h + 32 + n
  | .p n => 128 * h + 64 + n
  | .none => 128 * h + 96

/-- The bytes of a register in a commit record. -/
def Reg.bytes : Reg → Nat
  | .x _ => 8
  | .v _ => 256
  | .p _ => 32
  | .none => 0

/-- The destination number of an accumulator in a commit record, and of the entry of the final pass of an MMAE (R148, R335). -/
def accNumber (a : Nat) : Nat := 1024 + a

/-! ### Dirty bits, undo log and the scratchpad (R152, R329, R382) -/

/-- What is written becomes dirty (R382). -/
def Tile.soil (t : Tile) (d : Dirty) : Tile := { t with clean := t.clean.filter fun x => x != d }

/-- A write to the rest of the acting tile's state (R38), which becomes dirty whatever the value (R382). -/
def State.updRest (s : State) (f : Core → Core) : State := s.updMe fun t => { t.soil .rest with core := f t.core }

/-- A scratch row. -/
def Core.row (c : Core) (n : Nat) : Row := sget 0 c.rows (n % 1024)

/-- The full/empty bits of a row (R158). -/
def Core.feBits (c : Core) (n : Nat) : BitVec 32 := sget 0 c.fe (n % 1024)

/-- The words of a row that hold uncorrectable data (R157). -/
def Core.badBits (c : Core) (n : Nat) : BitVec 32 := sget 0 c.bad (n % 1024)

/-- The running region has written a row, so that a rollback recovers it (R332). -/
def Tile.ownRow (t : Tile) (n : Nat) : Bool :=
  t.region.undo.any fun u => match u with | .row m _ _ => m == n % 1024 | .spill _ _ _ => false

/-- The undo log after the first write of a region to a row (R329). -/
def Tile.logRow (t : Tile) (n : Nat) : Tile :=
  if t.ownRow n then t
  else { t with region := { t.region with undo := t.region.undo ++ [.row (n % 1024) (t.core.row n) (t.core.feBits n)] } }

/-- The undo log after the first write of a region to a spill block (R329). -/
def Tile.logSpill (t : Tile) (h n : Nat) : Tile :=
  let seen := t.region.undo.any fun u => match u with | .spill k m _ => k == h && m == n | .row _ _ _ => false
  if seen then t
  else { t with region := { t.region with undo := t.region.undo ++ [.spill h n (sget 0 (t.core.ctx h).spill n)] } }

/-- A write to a row: data, full/empty bits, and the words written with fresh ECC (R156, R157). -/
def Tile.writeRow (t : Tile) (n : Nat) (data : Row) (fe : BitVec 32) (fresh : BitVec 32) : Tile :=
  let t := ((t.logRow n).soil (.row (n % 1024))).enter (4096 + n % 1024) (crcOf 256 data.toNat)
  { t with core := { t.core with
      rows := sput (n % 1024) data t.core.rows
      fe := sput (n % 1024) fe t.core.fe
      bad := sput (n % 1024) (t.core.badBits n &&& ~~~fresh) t.core.bad } }

/-- A store has not passed CM at an issue cycle (R322): its bundle issued in this cycle or in one of the four before it. -/
def Fresh.inFlight (f : Fresh) (cycle : Nat) : Bool := f.at_ ≤ cycle && cycle ≤ f.at_ + 4

/-- A tile that is about to make a store. -/
def Tile.noteStore (t : Tile) (id n : Nat) : Tile :=
  { t with fresh := t.fresh ++ [⟨id, t.core.cycle, n % 1024, t.core.row n, t.core.badBits n⟩] }

/-- The core as an engine reads its rows for a command: it sees every store of a bundle that issued before the command, and a later one once it has
passed CM (R130, R183, R323; log 69). -/
def Tile.engineView (t : Tile) (id : Nat) : Core :=
  (t.fresh.filter fun f => id < f.id && f.inFlight t.core.cycle).foldr
    (fun f k => { k with rows := sput f.row f.old k.rows, bad := sput f.row f.bad k.bad }) t.core

/-- A write of the acting slot to a row; the LD slot's is lost when the LS slot writes the row too (R156). -/
def State.storeRow (s : State) (n : Nat) (data : Row) (fe fresh : BitVec 32) : State :=
  if s.cur.ldDiscard ∧ s.cur.pm = 2 then s else s.updMe fun t => (t.noteStore s.ids n).writeRow n data fe fresh

/-- A write to a spill block of the acting context (R160, R165). -/
def State.storeSpill (s : State) (n : Nat) (data : Row) : State :=
  s.updMe fun t =>
    let t := (t.logSpill s.cur.hw n).soil (.spill s.cur.hw n)
    { t with core := t.core.updCtx s.cur.hw fun c => { c with spill := sput n data c.spill } }

/-! ### Signals to the hosts, the journal and the trap queues (R314, R317, R374) -/

/-- A port. -/
def State.port (s : State) (p : Nat) : Port := sget Port.reset s.ctl.ports p

/-- One port changed. -/
def State.updPort (s : State) (p : Nat) (f : Port → Port) : State :=
  { s with ctl := { s.ctl with ports := sput p (f (s.port p)) s.ctl.ports } }

/-- Something sent to a host. -/
def State.emit (s : State) (o : HostOut) : State := { s with ctl := { s.ctl with out := s.ctl.out ++ [o] } }

/-- A vector is masked in its MSI-X table entry (R309; the mask bit of PCI Express). -/
def Port.masked (p : Port) (v : Nat) : Bool := (sget 0 p.msix (16 * v + 12)).getLsbD 0

/-- An MSI-X vector signalled at a port, or left pending while masked (R310, R314). -/
def State.signal (s : State) (port v : Nat) : State :=
  if (s.port port).masked v then s.updPort port fun p => { p with pending := p.pending ||| BitVec.ofNat 64 (2 ^ v) }
  else s.emit (.signal port v)

/-- A vector signalled at both ports. -/
def State.signalBoth (s : State) (v : Nat) : State := (s.signal 0 v).signal 1 v

/-- A journal entry appended; the entry `journalSize` before it is overwritten (R317, R318). One whose record has not ended, or whose completion record is
still to come, is no longer seen but kept until that has been written (R314). -/
def State.journal (s : State) (job port sub type state : Nat) (tag status ptc : Dword) : State :=
  let n := s.ctl.jnext
  let e : Journal := ⟨n, job, state, port, sub, type, tag, ptc, ptc, status⟩
  { s with ctl := { s.ctl with
      journal := sput n e (s.ctl.journal.filter fun p => n < p.1 + Config.journalSize || p.2.state < 3 || s.agenda.any fun q => q.2 == .completionRecord p.1)
      jnext := n + 1
      joldest := max s.ctl.joldest (n + 1 - Config.journalSize) } }

/-- The PTC of the die whose supervisor tile keeps the journal (log 22). -/
def State.journalPtc (s : State) : Dword := s.ptcWord s.ctl.bootDie

/-! ### Predictive-failure counters (R342, R343) -/

/-- The policy of a kind of counter. -/
def State.policy (s : State) (kind : Nat) : Policy := sget (Policy.default kind) s.ctl.policies kind

/-- The key of a counter among all. -/
def bucketKey (kind source : Nat) : Nat := kind * 2 ^ 24 + source

/-- A predictive-failure event (R343), journalled with the PTC of the die that keeps the journal (the manual names none, log 22). -/
def State.predictEvent (s : State) (sub source level : Nat) : State :=
  (s.journal 0 3 sub 0x80 3 (BitVec.ofNat 64 source) (BitVec.ofNat 64 level) s.journalPtc).signalBoth 2

/-- A counter set to a level; rising to MARK raises its event once (R343). -/
def State.setLevel (s : State) (kind source level : Nat) : State :=
  let b := sget ⟨0, false⟩ s.ctl.buckets (bucketKey kind source)
  let mark := (s.policy kind).mark
  let v := min 0xFFFF level
  let fires := b.level < mark && mark ≤ v && !b.spent
  let s := { s with ctl := { s.ctl with buckets := sput (bucketKey kind source) ⟨v, b.spent || fires⟩ s.ctl.buckets } }
  if fires then s.predictEvent kind source v else s

/-- A counted event adds to a counter. -/
def State.predict (s : State) (kind source amount : Nat) : State :=
  s.setLevel kind source ((sget ⟨0, false⟩ s.ctl.buckets (bucketKey kind source)).level + amount)

/-! ### Drops -/

/-- The drop count of a die raised, with its signal (R374). -/
def State.dropTrap (s : State) (d : Nat) : State :=
  let die := sget Die.reset s.dies d
  { s with dies := sput d { die with drops := die.drops + 1 } s.dies }.signalBoth 4

/-- A replayable record placed in the trap queue of a die, or dropped (R374). -/
def State.holdTrap (s : State) (d : Nat) (e : TrapEntry) : State :=
  let die := sget Die.reset s.dies d
  match (List.range 60).find? fun i => (sfind die.traps i).isNone with
  | some i => { s with dies := sput d { die with traps := sput i { e with order := s.ids } die.traps } s.dies, ids := s.ids + 1 }
  | none => s.dropTrap d

/-- A terminal or resume record in the trap queue of a die while the firmware journals it, where a place is free (R374). -/
def State.showTrap (s : State) (d : Nat) (e : TrapEntry) : State :=
  let die := sget Die.reset s.dies d
  match (List.range 60).find? fun i => (sfind die.traps i).isNone with
  | some i => { s with dies := sput d { die with traps := sput i { e with order := s.ids, state := 2 } die.traps } s.dies, ids := s.ids + 1 }
  | none => s

/-- The records of a context in its die's trap queue removed, held ones with the others or not; fatal ones stay (R374, R375). -/
def State.clearTraps (s : State) (t h : Nat) (heldToo : Bool) : State :=
  let die := sget Die.reset s.dies (dieOf t)
  let mine (p : Nat × TrapEntry) : Bool := p.2.tile == t && p.2.hw == h && (p.2.state == 2 || (heldToo && p.2.state == 1))
  if die.traps.any mine then { s with dies := sput (dieOf t) { die with traps := die.traps.filter fun p => !mine p } s.dies } else s

/-- A fatal record placed in the trap queue of a die (R374): it displaces the oldest replayable record when the queue is full. -/
def State.fatalTrap (s : State) (d : Nat) (e : TrapEntry) : State :=
  let die := sget Die.reset s.dies d
  let e := { e with order := s.ids, state := 3 }
  let s := { s with ids := s.ids + 1 }
  match (List.range 64).find? fun i => (sfind die.traps i).isNone with
  | some i => { s with dies := sput d { die with traps := sput i e die.traps } s.dies }
  | none =>
    let oldest := die.traps.foldl (fun (b : Option (Nat × TrapEntry)) p =>
      if p.2.state != 1 then b else match b with
        | none => some p
        | some q => if p.2.order < q.2.order then some p else some q) none
    match oldest with
    | some p => { s with dies := sput d { die with traps := sput p.1 e die.traps } s.dies }.dropTrap d
    | none => s

/-- A trap record journalled (R377). -/
def State.journalTrap (s : State) (fatal : Bool) (t h job : Nat) (w0 w1 w2 w3 : BitVec 32) : State :=
  let aux := bitsOf w0.toNat 12 12
  let tag : Dword := BitVec.ofNat 64 (w1.toNat * 2 ^ 32 + aux * 2 ^ 20 + h % 4 * 2 ^ 16 + t % 65536)
  let status : Dword := BitVec.ofNat 64 (w3.toNat * 2 ^ 32 + w2.toNat)
  let s := s.journal job 3 (w0.toNat % 256) (if fatal then 0x82 else 0x81) 3 tag status (s.ptcWord (dieOf t))
  if fatal then s.signalBoth 4 else s

/-! ### Traps (R366 to R373) -/

/-- Word 0 of a trap record (R369). -/
def trapWord0 (cls disp aux code : Nat) : BitVec 32 :=
  BitVec.ofNat 32 (cls % 4 * 2 ^ 30 + disp % 4 * 2 ^ 28 + aux % 4096 * 2 ^ 12 + code % 256)

/-- A trap before it is taken: class, disposition, AUX, code and words 1 to 3 (R368, R369). -/
structure TrapInfo where
  cls : Nat
  disp : Nat
  aux : Nat
  code : Nat
  w1 : BitVec 32
  w2 : BitVec 32
  w3 : BitVec 32
  deriving DecidableEq, Repr

/-- A context in which a work error or no-method trap resumes (R368): a graph context, or a supervisor context outside any unit. -/
def Ctx.resumesWork (c : Ctx) : Bool :=
  match c.owner with
  | .graph _ => true
  | .firmware => true
  | .unit _ => false
  | .idle => false

/-- The disposition of a cause (R368): `npg` says that word 3 carries NPG on a replayable form. -/
def trapDisp (c : Ctx) (code : Nat) (npg : Bool) : Nat :=
  match code with
  | 0x01 => if npg then 2 else 1
  | 0x09 => 0
  | 0x10 => if npg then 2 else 1
  | 0x14 => if c.resumesWork then 0 else 1
  | 0x15 => if c.resumesWork then 0 else 1
  | 0x21 => 3
  | 0x22 => 3
  | _ => 1

/-- What an SRD of a tile reads as it stands now (R56). -/
def State.sample (s : State) (t : Nat) : Sample :=
  let k := (s.tile t).core
  ⟨k.bcnt, k.ccnt, k.satc, k.unfc, k.canc, k.esccnt, k.mbud, k.tb, s.ctl.pcap⟩

/-- STATUS.SUP or INH: the context counts as a supervisor context (R35, R371). -/
def Ctx.supervisor (c : Ctx) : Bool := c.status.getLsbD 0 || c.status.getLsbD 3

/-- STATUS.STRICT (R41). -/
def Ctx.strict (c : Ctx) : Bool := c.status.getLsbD 1

/-- STATUS.INH (R41). -/
def Ctx.inh (c : Ctx) : Bool := c.status.getLsbD 3

/-- Trap entry (R371) in a context: a trap inside the handler becomes DOUBLE. `epc` is R366's. The firmware then runs for at most 400
issue cycles (`left`) and applies the disposition. -/
def Ctx.enterTrap (c : Ctx) (i : TrapInfo) (epc : Dword) (left : Nat) : Ctx :=
  let dbl := c.inh
  let w0 := if dbl then trapWord0 0 1 (c.cause.toNat % 256) 0x20 else trapWord0 i.cls i.disp i.aux i.code
  let w2 := if dbl then 0 else i.w2
  let w3 := if dbl then BitVec.ofNat 32 i.code else i.w3
  { c with
    cause := w0.zeroExtend 64
    tr0 := w0.zeroExtend 64
    tr1 := (if dbl then c.cmdix else i.w1).zeroExtend 64
    tr2 := w2.zeroExtend 64
    tr3 := w3.zeroExtend 64
    epc := epc
    status := c.status ||| 8
    pc := Config.trapEntry
    arrived := true
    held := false
    pause := 0
    halted := false
    froze := false
    handler := some ⟨left, if dbl then 1 else i.disp⟩ }

/-- The place that asks for the issue cycles of a handler. -/
def siteHandler : Nat := 900001

/-- The region of a tile commits at the end of the issue cycle (R327). -/
def State.mustCommit (s : State) (t : Nat) : State :=
  s.updTile t fun x => { x with region := { x.region with commitDue := true } }

/-- Defers a command of a tile until its region commits (R328). -/
def State.deferAt (s : State) (t : Nat) (d : Deferred) : State :=
  s.updTile t fun x => { x with region := { x.region with deferred := x.region.deferred ++ [d] } }

/-- A record takes a place of the trap queue until its handler ends, and that of a terminal or software trap is journalled (R374, R377; log 8). -/
def State.recordTrap (s : State) (t : Nat) (e : TrapEntry) (journals : Bool) : State :=
  let s := s.showTrap (dieOf t) e
  if journals then s.journalTrap false t e.hw e.job e.w0 e.w1 e.w2 e.w3 else s

/-- A trap taken by a context of a tile (R371): the context enters the handler, and its region commits, with which its record is made (R333). -/
def State.takeTrap (s : State) (t h : Nat) (i : TrapInfo) (epc : Dword) : State :=
  let c := (s.ctxAt t h).enterTrap i epc (s.freeTime siteHandler % 401)
  let s := (s.mustCommit t).updCtx t h fun _ => c
  let w0 : BitVec 32 := c.cause.truncate 32
  s.deferAt t (.trap ⟨w0, c.tr1.truncate 32, c.tr2.truncate 32, c.tr3.truncate 32, epc, c.job, h, t, 2, none, 0⟩
    (bitsOf w0.toNat 28 2 == 1 || i.code == 0x09))

/-- A precise trap of the acting slot (R28, R366): EPC holds the bundle's header. -/
def State.precise (s : State) (code aux w3 w2 : Nat) : State :=
  let c := s.ctx
  s.takeTrap s.cur.tile s.cur.hw
    ⟨0, trapDisp c code false, aux, code, c.cmdix, BitVec.ofNat 32 w2, BitVec.ofNat 32 w3⟩ s.cur.pc

/-- Return from a handler (R372): PC is EPC and INH is cleared; a taken transfer. -/
def Ctx.eret (c : Ctx) : Ctx :=
  { c with pc := c.epc, status := c.status &&& ~~~8, arrived := true, pause := 3, handler := none }

/-- An error that waits for its boundary (R366, R367), in the order of arrival. -/
def State.pendErr (s : State) (t h : Nat) (e : Err) : State :=
  s.updCtx t h fun c => { c with errs := c.errs ++ [e] }

/-! ### Device registers that a tile writes (R333, R393, R394) -/

/-- `v` with the field that `mask` covers set to the field's value 1, `one`, where it is 0. -/
def fieldOrOne (v mask one : Dword) : Dword := if v &&& mask = 0 then v ||| one else v

/-- PCAP as a write leaves it (R394): reserved bits zero, an RTGT of 0 stored as 1, and a floor of 0, which reads as 1, held as 1. -/
def pcapStored (v : Dword) : Dword :=
  let v := fieldOrOne (v &&& 0x0000FFFF8FFFFFFF) 0x0FFF0000 0x00010000
  fieldOrOne (fieldOrOne (fieldOrOne (fieldOrOne v 0xF000 0x1000) 0xF00 0x100) 0xF0 0x10) 0xF 1

/-- CSLR of a region scheduled from a write (R393, R404): it takes effect at the region's next throttle step. -/
def State.scheduleCslr (s : State) (region : Nat) (v : Dword) : State :=
  State.followLimit region { s with regions := sput region { sget PowerRegion.reset s.regions region with cslrNext := some v } s.regions }

/-- A device register written once the region of a tile commits (R333): CSLR of its power region, or PCAP. -/
def State.writeDevice (s : State) (t n : Nat) (v : Dword) : State :=
  if n = 0x081 then s.scheduleCslr (regionOf t) v else { s with ctl := { s.ctl with pcap := pcapStored v } }

/-! ### Transfers of control (R51, R52) -/

/-- A taken transfer of the acting context: the target, and the extra issue cycles in which it issues nothing. -/
def State.jump (s : State) (target : Dword) (extra : Nat) : State :=
  s.updSelf fun c => { c with pc := target, arrived := true, pause := extra }

/-- A branch target (R32): halfwords from the header of the bundle. -/
def State.branchTarget (s : State) (off : BitVec 18) : Dword := s.cur.pc + (off.signExtend 64 <<< 1)

/-! ### Engine commands (R366) -/

/-- Counts an engine command of the acting context and gives its index. -/
def State.countCommand (s : State) : State := s.updSelf fun c => { c with cmdix := c.cmdix + 1 }

/-- Defers a command of the acting tile until its region commits (R328). -/
def State.defer (s : State) (d : Deferred) : State := s.deferAt s.cur.tile d

end Sys2Proof.Machine
end

