-- ==== Sys2Proof/Machine/Margin.lean ====
section
/-! DEFINITION. Chinook's account of a tile and its learned tables (R386 to R390). -/

namespace Sys2Proof.Machine

/-- The key of a pair of smallest divisor and temperature band (R386). -/
def pairKey (d b : Nat) : Nat := 4 * d + b

/-- A temperature band (R386). -/
def tempBand (c : Nat) : Nat := if c < 45 then 0 else if c < 65 then 1 else if c < 85 then 2 else 3

/-- The cluster of a tile within its die (R342). -/
def clusterOf (t : Nat) : Nat := 5 * (tileRow t % 25 / 5) + tileCol t % 25 / 5

/-- The temperature band of a tile: that of its cluster's last reading, 0 before the first (log 15). -/
def State.bandOf (s : State) (t : Nat) : Nat := tempBand ((sget Die.reset s.dies (dieOf t)).temps.getD (clusterOf t) 0)

/-- The smallest divisor of a tile (R386). -/
def Core.smallest (k : Core) : Nat := min (min k.dC k.dV) (min k.dM k.dY)

/-- A window begins for a pair (R387, R388): a learned pair four steps above its learned point, an unlearned one at Vf. -/
def Chinook.start (c : Chinook) (d b now : Nat) : Chinook :=
  { c with
    div := d
    band := b
    below := (sget 0 c.learned (pairKey d b)) - 4
    bundles := 0
    replays := 0
    began := now }

/-- A tile whose pair has changed: its window is cut short and another begins (R387). -/
def Tile.repair (x : Tile) (b now : Nat) : Tile :=
  if x.core.smallest = x.chinook.div ∧ b = x.chinook.band then x
  else { x with chinook := x.chinook.start x.core.smallest b now }

/-- The place that asks for the learned point of a transport test on a tile (R403). -/
def siteTest (t : Nat) : Nat := 6000000 + t

/-- A tile that has not yet taken what the last transport test found takes it, for the default divisors and the band of the test: the step below Vf of the
first window that failed, which the manual does not give, or the point that it had learned, where the test stops first (R403, log 16). -/
def State.prime (s : State) (t : Nat) (x : Tile) : Tile :=
  match s.ctl.tested with
  | none => x
  | some (free, temps) =>
    if x.chinook.primed then x
    else
      let fails := (Config.freeBits 6 (siteTest t) free).toNat + 1
      let key := pairKey 2 (tempBand ((sget [] temps (dieOf t)).getD (clusterOf t) 0))
      let point := match sfind x.chinook.learned key with
        | some l => min l fails
        | none => fails
      let learned := sput key point x.chinook.learned
      { x with chinook := { x.chinook with learned := learned, primed := true }.start x.core.smallest (s.bandOf t) s.now }

/-- The ticks of an hour. -/
def hour : Nat := 5760000000000

/-- The slope of `y` over `x` by least squares, as a fraction whose denominator is not negative. -/
def fitSlope (ps : List (Nat × Nat)) : Int × Nat :=
  let n := ps.length
  let sx := (ps.map (·.1)).sum
  let sy := (ps.map (·.2)).sum
  let sxy := (ps.map fun p => p.1 * p.2).sum
  let sxx := (ps.map fun p => p.1 * p.1).sum
  ((n * sxy : Nat) - (sx * sy : Nat), n * sxx - sx * sx)

/-- The predicted time to end of life of a tile for a divisor in units of 4 hours, 0xFFFF with no positive slope (R390, R400): `powered`
is the powered time in ticks, and a point of the history is its time, its pair and its learned point in steps below Vf. -/
def endOfLife (learned : Sparse Nat) (history : List (Nat × Nat × Nat)) (powered d : Nat) : Nat :=
  let mine := history.filter fun p => p.2.1 / 4 == d
  let band := mine.foldl (fun m p => max m (p.2.1 % 4)) 0
  let pts := (mine.filter fun p => p.2.1 == pairKey d band && powered ≤ p.1 + 1000 * hour).map fun p => (p.1, p.2.2)
  let (num, den) := fitSlope pts
  if num < 0 then min 0xFFFF (sget 0 learned (pairKey d band) * den / num.natAbs / (4 * hour)) else 0xFFFF

/-- EOLH of a tile (R400): the soonest over its divisors, 0 for a retired tile. -/
def State.eolh (s : State) (t : Nat) : Nat :=
  if s.ctl.retireMap.contains t then 0
  else
    let l := sget [] s.ctl.learned t
    let h := sget [] s.ctl.history t
    ((List.range 15).map fun i => endOfLife l h (s.ctl.powered + s.now) (i + 2)).foldl min 0xFFFF

end Sys2Proof.Machine
end

