-- ==== Sys2Proof/Machine/Inputs.lean ====
section
/-! DEFINITION. Inputs that reach a tile from outside its issue port (R257, R331, R333), and what each does there. -/

namespace Sys2Proof.Machine

/-! ### Completion tags (R180, R181) -/

/-- The bit of a tag. -/
def tagBit (t : Nat) : BitVec 128 := 1 <<< (t % 128)

/-- A command counted under a tag at issue (R180). -/
def Core.tagIssue (c : Core) (tag : Option Nat) : Core :=
  match tag with
  | none => c
  | some t =>
    let n := sget 0 c.cnt t
    { c with
      te := if n = 0 then c.te &&& ~~~tagBit t else c.te
      cnt := sput t (n + 1) c.cnt
      tb := c.tb &&& ~~~tagBit t }

/-- A command completed under a tag (R180). -/
def Core.tagDone (c : Core) (tag : Option Nat) (failed : Bool) : Core :=
  match tag with
  | none => c
  | some t =>
    let n := sget 0 c.cnt t - 1
    { c with
      cnt := sput t n c.cnt
      te := if failed then c.te ||| tagBit t else c.te
      tb := if n = 0 then c.tb ||| tagBit t else c.tb }

/-- What the completion of a command does to its context and tag (R129, R180, R182, R185). -/
def Core.commandDone (c : Core) (h : Nat) (copy : Bool) (tag : Option Nat) (failed : Bool) (trap : Option Err) (flags : BitVec 6) : Core :=
  (c.tagDone tag failed).updCtx h fun k =>
    { k with
      ocp := if copy then k.ocp - 1 else k.ocp
      omx := if copy then k.omx else k.omx - 1
      fcr := fcrRaise k.fcr flags
      errs := match trap with
        | some e => k.errs ++ [e]
        | none => k.errs }

/-! ### What a region takes from outside at once (R328, R333) -/

/-- What a bundle may take from outside at once: a number of an access, of a NEXT, a LAUNCHID, or the PTC. -/
inductive Taken where
  | access | next | lid | ptc
  deriving DecidableEq, Repr

/-- The key under which a context's region notes what it takes. -/
def takeKey (k : Taken) (h : Nat) : Nat :=
  match k with
  | .access => h
  | .next => 4 + h
  | .lid => 8 + h
  | .ptc => 12 + h

/-- The key of something taken that a rollback has taken back, as it had not left the tile: the rerun takes it anew in its place. -/
def goneKey (key : Nat) : Nat := 16 + key

/-- A list with the first occurrence of a pair replaced. -/
def replaceFirst (p q : Nat × Nat) : List (Nat × Nat) → List (Nat × Nat)
  | [] => []
  | x :: xs => if x = p then q :: xs else x :: replaceFirst p q xs

/-- A number that the acting bundle takes from outside: in a rerun the one that its context took in the first run. -/
def State.recall (s : State) (kind : Taken) (take : State → Nat × State) : Nat × State :=
  let key := takeKey kind s.cur.hw
  match s.me.region.reuse.find? fun p => p.1 == key || p.1 == goneKey key with
  | some p =>
    let s := s.updMe fun t => { t with region := { t.region with reuse := t.region.reuse.erase p } }
    if p.1 = key then (p.2, s)
    else
      let (v, s) := take s
      (v, s.updMe fun t => { t with region := { t.region with sent := replaceFirst p (key, v) t.region.sent } })
  | none =>
    let (v, s) := take s
    (v, s.updMe fun t => { t with region := { t.region with sent := t.region.sent ++ [(key, v)] } })

/-! ### Inputs -/

/-- The place that asks for the value of a tainted destination. -/
def siteTaint : Nat := 900002

/-- A destination that stops being pending: the value written unless another source wrote it meanwhile, when it is unspecified (R171). -/
def Ctx.land (c : Ctx) (rid : Nat) (reg : Reg) (val : Row) : Ctx :=
  let bad := c.pend.any fun d => d.rid == rid && d.tainted
  { c.write reg (if bad then Config.freeBits 2048 siteTaint rid else val) with pend := c.pend.filter fun d => d.rid != rid }

/-- A reply put beside its NEXT (R240). -/
def Ctx.putReply (c : Ctx) (id : Nat) (v : Dword) : Ctx :=
  { c with nexts := c.nexts.map fun n => if n.id = id ∧ n.reply = none then { n with reply := some v } else n }

/-- OLD or OST falls (R169). -/
def Ctx.counted (c : Ctx) (old : Bool) : Ctx := if old then { c with old := c.old - 1 } else { c with ost := c.ost - 1 }

/-- The bank of a register (R382). -/
def Reg.bank (h : Nat) : Reg → Dirty
  | .x _ => .xbank h
  | .v _ => .vbank h
  | .p _ => .pbank h
  | .none => .ctx h

/-- One context of a tile changed. -/
def Tile.updCtx (x : Tile) (h : Nat) (f : Ctx → Ctx) : Tile := { x with core := x.core.updCtx h f }

/-- A page walk for fetch ends (R304): the leaf is cached among those of code, the oldest leaving where 16 are held (log 18), and the context fetches
again; with neither leaf nor code it only looks again. -/
def Tile.walked (x : Tile) (h : Nat) (line : Dword) (leaf : Option TlbEntry) (code : Nat) : Tile :=
  let keep := x.core.ctlb.drop (x.core.ctlb.length - 15)
  { x with core := { x.core with ctlb := match leaf with | some l => keep ++ [l] | none => x.core.ctlb } }.updCtx h fun c =>
    { c with fetchWait := false, fetchErr := if leaf.isSome || code == 0 then none else some (line, code) }

/-- What an input does when it takes effect. -/
def Tile.applyInput (x : Tile) (i : Input) : Tile :=
  match i with
  | .load h rid reg val => (x.soil (reg.bank h)).updCtx h fun c => (c.land rid reg val).counted true
  | .failed h rid => x.updCtx h fun c => { c.counted true with pend := c.pend.filter fun d => d.rid != rid }
  | .counted h old => x.updCtx h fun c => c.counted old
  | .reply h id v => x.updCtx h fun c => c.putReply id v
  | .waitIssue _ => x
  | .row n v fe =>
    { x with fresh := x.fresh.filter fun f => f.row != n % 1024 }.writeRow n v (if fe then BitVec.allOnes 32 else x.core.feBits n) (BitVec.allOnes 32)
  | .sem k n set => { x with core := { x.core with semIn := x.core.semIn ++ [⟨k, n, set⟩] } }
  | .bar k n set => { x with core := { x.core with barIn := x.core.barIn ++ [⟨k, n, set⟩] } }
  | .tgen tree => { x with core := { x.core with tgenLag := sput tree (sget 0 x.core.tgenLag tree - 1) x.core.tgenLag } }
  | .err h e => x.updCtx h fun c => { c with errs := c.errs ++ [e] }
  | .cmdDone h copy tag failed trap flags => { x with core := x.core.commandDone h copy tag failed trap flags }
  | .fetched h line leaf code => x.walked h line leaf code

/-- The input notes the issue of a waiting bundle. -/
def Input.isWait (i : Input) : Bool :=
  match i with
  | .waitIssue _ => true
  | _ => false

/-- A tile holds back what arrives while it runs a region again (R333), until the first rerun, or the run after a rollback that a cancel has ended, is past
the end of the log (R332, R336). -/
def Tile.reruns (x : Tile) : Bool := x.region.run == 2 || x.core.cycle < x.region.logEnd

/-- An input noted in the log of the running region (R331). -/
def Tile.note (x : Tile) (i : Input) : Tile :=
  { x with region := { x.region with inputs := x.region.inputs ++ [(x.core.cycle, i)] } }

/-- An input that the router of a frozen tile keeps in its buffers (R257). A NEXT reply waits beside its NEXT in any case (R240), and a completion on
the load path comes from the tile itself. -/
def Input.buffered (i : Input) : Bool :=
  match i with
  | .load _ _ _ _ | .failed _ _ | .counted _ _ | .row _ _ _ | .sem _ _ _ | .bar _ _ _ | .tgen _ | .err _ _ => true
  | .reply _ _ _ | .waitIssue _ | .cmdDone _ _ _ _ _ _ | .fetched _ _ _ _ => false

/-- An input reaches a tile: it takes effect and is logged, or is held until the rerun commits, or is kept until the end of a freeze. -/
def Tile.input (x : Tile) (i : Input) : Tile :=
  if x.reruns then { x with region := { x.region with held := x.region.held ++ [i] } }
  else if x.still && i.buffered then { x with ice := x.ice ++ [i] }
  else (x.note i).applyInput i

/-- The core as the snapshot of a region holds it: the tree releases still on ice are not yet among those that the tile lags behind. -/
def Tile.snapshot (x : Tile) : Core :=
  let release (m : Sparse Nat) (i : Input) : Sparse Nat :=
    match i with
    | .tgen tree => sput tree (sget 0 m tree - 1) m
    | _ => m
  { x.core with tgenLag := x.ice.foldl release x.core.tgenLag }

/-- A context's state apart from its registers and its spill store, as one dirty bit covers it (R382). -/
def Ctx.plain (c : Ctx) : Ctx := { c with xs := [], vs := [], ps := [], spill := [] }

/-- The rest of a tile's state that a swap saves, as one dirty bit covers it (R38, R379, R382). -/
def Core.rest (k : Core) : Core :=
  { Core.reset with
    esccnt := k.esccnt, mbud := k.mbud, tb := k.tb, te := k.te, cnt := k.cnt, ft := k.ft, aq := k.aq, mcmds := k.mcmds, copies := k.copies
    sems := k.sems, bars := k.bars, tgenLag := k.tgenLag, dC := k.dC, dV := k.dV, dM := k.dM, dY := k.dY, divs := k.divs
    primary := k.primary, rrp := k.rrp }

/-- What has changed in a tile since an earlier state of it becomes dirty where no write has said so (R382). -/
def Tile.soilFrom (x : Tile) (was : Core) : Tile :=
  if x.clean.isEmpty then x
  else
    let x := hwNumbers.foldl (fun x h => if (x.core.ctx h).plain = (was.ctx h).plain then x else x.soil (.ctx h)) x
    if x.core.rest = was.rest then x else x.soil .rest

/-- An idle tile's clock brought up to the parts of pulses that it has received (R391): the control cycles that have passed count as issue cycles
(R5, R44). -/
def Tile.catchUp (t : Tile) (parts : Nat) : Tile :=
  if t.live then t
  else
    let k := ceilDiv (parts - t.clock * pulseParts) (t.core.dC * pulseParts)
    { t with clock := t.clock + k * t.core.dC
             core := { t.core with isscnt := t.core.isscnt + BitVec.ofNat 64 k, arrClk := t.core.arrClk + k } }

/-- A tile that becomes busy. -/
def State.wake (s : State) (t : Nat) : State :=
  s.updTile t fun x => if x.live then x else { (s.prime t x).catchUp ((s.regionAt t).received s.time) with live := true, still := false }

/-- An input reaches a tile, which becomes busy; a retired tile takes none (R339). -/
def State.input (s : State) (t : Nat) (i : Input) : State :=
  if (s.tile t).retired then s else (s.wake t).updTile t fun x => (x.input i).soilFrom x.core

end Sys2Proof.Machine
end

