-- ==== Sys2Proof/Machine/Translate.lean ====
section
/-! DEFINITION. Translation (R296 to R303) and reads of device memory through a job's view. -/

namespace Sys2Proof.Machine

/-- The answer of translation: a PA, or a fault code of R302. -/
inductive Trans where
  | ok (pa : Nat)
  | fault (code : Nat)
  deriving DecidableEq, Repr

/-- A dword field of a range entry (R298). -/
def rangeWord (e : List Dword) (i : Nat) : Nat := (e.getD i 0).toNat

/-- V of a range entry. -/
def rangeValid (e : List Dword) : Bool := bitOf (rangeWord e 0) 63
/-- BASE. -/
def rangeBase (e : List Dword) : Nat := bitsOf (rangeWord e 0) 0 57
/-- LIMIT. -/
def rangeLimit (e : List Dword) : Nat := bitsOf (rangeWord e 1) 0 57
/-- RD, W and X as bits 0, 1 and 2. -/
def rangePerm (e : List Dword) : Nat := bitsOf (rangeWord e 2) 57 3
/-- PG. -/
def rangePaged (e : List Dword) : Bool := bitOf (rangeWord e 2) 56
/-- IL. -/
def rangePool (e : List Dword) : Bool := bitOf (rangeWord e 2) 55
/-- SITE. -/
def rangeSite (e : List Dword) : Nat := bitsOf (rangeWord e 2) 48 6
/-- OFF. -/
def rangeOff (e : List Dword) : Nat := bitsOf (rangeWord e 2) 0 42

/-- Permission bits: RD 1, W 2, X 4. -/
def permRd : Nat := 1
/-- Write permission. -/
def permW : Nat := 2
/-- Execute permission. -/
def permX : Nat := 4

/-- `need` lies within `have_`, as bits. -/
def permOk (need have_ : Nat) : Bool := (need &&& have_) == need

/-- The end of a range's output space (R297). -/
def spaceEnd (pool : Bool) : Nat := if pool then 0x2C000000000 else Config.jobMemEnd

/-- The pool mapping (R297). -/
def poolPa (q : Nat) : Nat :=
  let n := q / 4096
  (n % 64 ^^^ n / 64 % 64) * 2 ^ 36 + n / 64 * 4096 + q % 4096

/-- The PA of an output address of a range (R299). -/
def outputPa (e : List Dword) (out : Nat) : Nat := if rangePool e then poolPa out else rangeSite e * 2 ^ 36 + out

/-- The lowest index of a valid entry that holds the address (R299). -/
def findRange (ranges : Sparse (List Dword)) (ea : Nat) : Option (Nat × List Dword) :=
  ranges.find? fun p => rangeValid p.2 && rangeBase p.2 ≤ ea && ea < rangeLimit p.2

/-- The memory site of a PA (R296). -/
def paSite (pa : Nat) : Nat := pa / 2 ^ 36
/-- The local address of a PA (R296). -/
def paLocal (pa : Nat) : Nat := pa % 2 ^ 36

/-! ### The outbound window (R20, R363) -/

/-- A border memory site and its local addresses of the outbound window (R20, R363). -/
def outbound (pa : Nat) : Bool :=
  (paSite pa < 8 || 56 ≤ paSite pa) && 0xA00000000 ≤ paLocal pa && paLocal pa < 0xA80000000

/-- The first scale-out port of a border site (R20). -/
def sitePort (site : Nat) : Nat := if site < 8 then 2 * site else 16 + 2 * (site - 56)

/-- The path of a border site to its peer module has failed (R362): both its ports are down. Every port is up at module reset (log 13). -/
def State.pathDown (s : State) (site : Nat) : Bool :=
  let p := sitePort site
  !(sget true s.fab.scalePorts p) && !(sget true s.fab.scalePorts (p + 1))

/-- An access goes to a peer module over a path that has failed. -/
def State.pathFailed (s : State) (pa : Nat) : Bool := outbound pa && s.pathDown (paSite pa)

/-- The place that asks for what the peer module's memory holds. -/
def siteAway : Nat := 2 ^ 61

/-- Bytes read at a PA: of the stack, or behind the outbound window of the peer module, whose memory is not this module's (R363, log 13). -/
def State.bytesAt (s : State) (pa n : Nat) : List Byte :=
  if outbound pa then (List.range n).map fun i => s.freeVal 8 (siteAway + pa + i) else Memory.readBytes s.mem pa n

/-- A dword of a page table, read in the same way. -/
def State.wordAt (s : State) (pa : Nat) : Nat := if outbound pa then (s.freeVal 64 (siteAway + pa)).toNat else Memory.readNat s.mem pa 8

/-- What a walk ends in: a leaf with output, size and permissions, or a fault with its code and the PA of the table entry. -/
inductive Leaf where
  | leaf (out size perm : Nat)
  | fault (code pa : Nat)
  deriving DecidableEq, Repr

/-- Walk of R300 from level `n - 1` on, `t` the table's PA. -/
def walkFrom (s : State) (pool : Bool) (off : Nat) : Nat → Nat → Leaf
  | 0, t => .fault 5 t
  | l + 1, t =>
    let pa := t + 8 * bitsOf off (12 + 9 * l) 9
    let e := s.wordAt pa
    if s.badMem.contains pa then .fault 6 pa
    else if bitOf e 0 = false then .fault 4 pa
    else if bitsOf e 42 22 ≠ 0 ∨ bitsOf e 6 6 ≠ 0 then .fault 5 pa
    else
      let oa := bitsOf e 12 30 * 4096
      if bitOf e 1 = false then
        if l = 0 ∨ Config.jobMemEnd ≤ oa % 2 ^ 36 then .fault 5 pa else walkFrom s pool off l oa
      else if l = 3 ∨ (bitOf e 5 = true ∧ l ≠ 0) then .fault 5 pa
      else
        let size := if l = 0 ∧ bitOf e 5 = true then 65536 else 2 ^ (12 + 9 * l)
        if oa % size ≠ 0 ∨ spaceEnd pool < oa + size then .fault 5 pa else .leaf oa size (bitsOf e 2 3)

/-- Walk of R300 for a range entry and an offset. -/
def walkRange (s : State) (e : List Dword) (off : Nat) : Leaf := walkFrom s (rangePool e) off 4 (rangeOff e)

/-- Translation of R299 with every table entry read now. -/
def translate (s : State) (ranges : Sparse (List Dword)) (ea : Dword) (need : Nat) : Trans :=
  let a := ea.toNat
  if bitsOf a 57 7 ≠ 0 then .fault 1
  else
    match findRange ranges a with
    | none => .fault 2
    | some (_, e) =>
      if !permOk need (rangePerm e) then .fault 3
      else
        let off := a - rangeBase e
        if !rangePaged e then .ok (outputPa e (rangeOff e + off))
        else
          match walkRange s e off with
          | .fault c _ => .fault c
          | .leaf out size perm => if permOk need perm then .ok (outputPa e (out + off % size)) else .fault 3

/-- The range entries of a job; a job that is gone has none. -/
def State.ranges (s : State) (jobNum : Nat) : Sparse (List Dword) :=
  match s.job jobNum with
  | some j => j.ranges
  | none => []

/-- Translation in a job. -/
def State.translateIn (s : State) (jobNum : Nat) (ea : Dword) (need : Nat) : Trans := translate s (s.ranges jobNum) ea need

/-- Translation with cached leaves in place of the walk (R304, R305). `none`: a walk is needed. -/
def State.translateWith (s : State) (tlb : List TlbEntry) (jobNum : Nat) (ea : Dword) (need : Nat) : Option Trans :=
  let a := ea.toNat
  if bitsOf a 57 7 ≠ 0 then some (.fault 1)
  else
    match findRange (s.ranges jobNum) a with
    | none => some (.fault 2)
    | some (i, e) =>
      if !permOk need (rangePerm e) then some (.fault 3)
      else
        let off := a - rangeBase e
        if !rangePaged e then some (.ok (outputPa e (rangeOff e + off)))
        else
          match tlb.find? (fun l => l.job == jobNum && l.range == i && l.off ≤ off && off < l.off + l.size) with
          | none => none
          | some l => if permOk need l.perm then some (.ok (outputPa e (l.out + (off - l.off)))) else some (.fault 3)

/-- Translation of a data access as a tile makes it. -/
def State.translateAt (s : State) (t jobNum : Nat) (ea : Dword) (need : Nat) : Option Trans :=
  s.translateWith (s.tile t).ptlb jobNum ea need

/-- The bank of a PA as a source of predictive failures (R343). -/
def bankSource (pa : Nat) : Nat := 4096 * paSite pa + Config.hbmBank pa % 4096

/-- Uncorrectable data read at a home port: its bank's counter goes to MARK and the error interrupt is raised (R341, R342). -/
def State.badRead (s : State) (pa : Nat) : State := (s.setLevel 0 (bankSource pa) (s.policy 0).mark).signalBoth 1

/-- The PA of the uncorrectable data that a read of `n` bytes of job memory meets: in a table entry on its walk or among the bytes. -/
def State.badPath (s : State) (jobNum : Nat) (ea : Dword) (n : Nat) : Option Nat :=
  let data (pa : Nat) : Option Nat := s.badMem.find? fun b => 0 < n && pa ≤ b + 7 && b < pa + n
  match findRange (s.ranges jobNum) ea.toNat with
  | none => none
  | some (_, e) =>
    let off := ea.toNat - rangeBase e
    if !rangePaged e then data (outputPa e (rangeOff e + off))
    else
      match walkRange s e off with
      | .fault c pa => if c = 6 then some pa else none
      | .leaf out size _ => data (outputPa e (out + off % size))

/-- What a read that meets uncorrectable data leaves at its home port (R302, R341, R342). -/
def State.noteBad (s : State) (jobNum : Nat) (ea : Dword) (n : Nat) : State :=
  match s.badPath jobNum ea n with
  | some pa => s.badRead pa
  | none => s

/-- Bytes of job memory as an agent of the job reads them now, or the fault code; code 7 is uncorrectable data, and 8 an abort from a peer module that cannot
be reached (R363, R370). -/
def State.readJob (s : State) (jobNum : Nat) (ea : Dword) (n : Nat) : Except Nat (List Byte) :=
  match s.translateIn jobNum ea permRd with
  | .fault c => .error c
  | .ok pa =>
    if s.badMem.any fun b => pa ≤ b + 7 && b < pa + n then .error 7 else if s.pathFailed pa then .error 8 else .ok (s.bytesAt pa n)

/-- A dword read in the same way. -/
def State.readJobWord (s : State) (jobNum : Nat) (ea : Dword) : Except Nat Dword :=
  match s.readJob jobNum ea 8 with
  | .error c => .error c
  | .ok bs => .ok (BitVec.ofNat 64 (leNat bs))

/-- Bytes stored in device memory: the one operation that changes memory. Words written hold good data again. -/
def State.storeBytes (s : State) (pa : Nat) (bs : List Byte) : State :=
  { s with
    mem := Memory.writeBytes s.mem pa bs
    badMem := s.badMem.filter fun b => !(pa ≤ b && b + 8 ≤ pa + bs.length) }

/-- Bytes stored at a PA: behind the outbound window they go to the peer module (R363). -/
def State.storeAt (s : State) (pa : Nat) (bs : List Byte) : State := if outbound pa then s else s.storeBytes pa bs

/-- The slab tag table entry of a handle (R273): the address of its first byte, when the range entry gives one. -/
def slabEntry (ranges : Sparse (List Dword)) (handle : Nat) : Option Dword :=
  let e := sget [] ranges (handle / 2 ^ 24 % 256)
  let six := handle % 2 ^ 24
  if rangeValid e ∧ six < bitsOf (rangeWord e 4) 0 24 then
    some (BitVec.ofNat 64 (bitsOf (rangeWord e 3) 0 57 + 32 * six))
  else none

/-- A slab as the dispatcher reads it (R273, R282): base and tag of a valid handle; an entry that is unreadable or not valid gives none, with whether the
data of any of its four dwords was uncorrectable. -/
def State.readSlab (s : State) (jobNum handle : Nat) : Option (Dword × BitVec 32) × Bool :=
  match slabEntry (s.ranges jobNum) handle with
  | none => (none, false)
  | some a =>
    match s.readJob jobNum a 32 with
    | .error c => (none, c == 7 || c == 6)
    | .ok bs =>
      let b : Dword := BitVec.ofNat 64 (leNat (bs.take 8))
      let d : Dword := BitVec.ofNat 64 (leNat ((bs.drop 16).take 8))
      (if d.getLsbD 63 then some (b &&& (2 ^ 57 - 1), d.truncate 32) else none, false)

/-- What a read of a slab tag table entry leaves where it meets uncorrectable data (R282, R341). -/
def State.noteSlab (s : State) (jobNum handle : Nat) : State :=
  match slabEntry (s.ranges jobNum) handle with
  | none => s
  | some a => if (s.readSlab jobNum handle).2 then s.noteBad jobNum a 32 else s

end Sys2Proof.Machine
end

