-- ==== Sys2Proof/Machine/Fabric.lean ====
section
/-! DEFINITION. The fabric (R345 to R361): edges, routes, streams, packets, and the requests they carry. -/

namespace Sys2Proof.Machine

/-! ### Edges and routes -/

/-- The number of the edge between two neighbouring sites (R346). -/
def edgeBetween (a b : Nat × Nat) : Nat :=
  if a.2 = b.2 then 15 * a.2 + min a.1 b.1 else 120 + 16 * min a.2 b.2 + a.1

/-- The two nodes of an edge. -/
def edgeEnds (e : Nat) : Nat × Nat :=
  if e < 120 then (siteNode (e % 15) (e / 15), siteNode (e % 15 + 1) (e / 15))
  else (siteNode ((e - 120) % 16) ((e - 120) / 16), siteNode ((e - 120) % 16) ((e - 120) / 16 + 1))

/-- The neighbours of a node with the edges to them: column moves to lower and higher columns, then row moves. -/
def neighbours (n : Nat) : List (Nat × Nat) :=
  let (c, r) := nodeSite n
  let hop (ok : Bool) (c' r' : Nat) : List (Nat × Nat) := if ok then [(siteNode c' r', edgeBetween (c, r) (c', r'))] else []
  hop (0 < c) (c - 1) r ++ hop (c < 15) (c + 1) r ++ hop (0 < r) c (r - 1) ++ hop (r < 7) c (r + 1)

/-- An edge is live under a table (R350): up, and neither end down. -/
def edgeLive (downEdges downNodes : List Nat) (e : Nat) : Bool :=
  !downEdges.contains e && !downNodes.contains (edgeEnds e).1 && !downNodes.contains (edgeEnds e).2

/-- Hop counts to a destination over the live edges, breadth first; nodes not listed are unreachable. -/
def hopsFrom (downEdges downNodes : List Nat) (dst : Nat) : Sparse Nat :=
  let grow (fr : List Nat × Sparse Nat × Nat) : List Nat × Sparse Nat × Nat :=
    let next := fr.1.foldl (fun (acc : List Nat × Sparse Nat) n =>
      (neighbours n).foldl (fun (acc : List Nat × Sparse Nat) p =>
        if edgeLive downEdges downNodes p.2 && (sfind acc.2 p.1).isNone then (p.1 :: acc.1, sput p.1 fr.2.2 acc.2) else acc) acc)
      ([], fr.2.1)
    (next.1, next.2, fr.2.2 + 1)
  ((List.range 127).foldl (fun fr _ => if fr.1.isEmpty then fr else grow fr) ([dst], [(dst, 0)], 1)).2.1

/-- The preference of R350 for a move from a node to a neighbour: the class, then the lower node number. -/
def moveRank (n m dst : Nat) : Nat :=
  let (c, r) := nodeSite n
  let (c', r') := nodeSite m
  let (dc, dr) := nodeSite dst
  let toward (a a' b : Nat) : Bool := (a < b && a < a') || (b < a && a' < a)
  let cls := if r = r' then (if toward c c' dc then 0 else 1) else (if toward r r' dr then 2 else 3)
  128 * cls + m

/-- A route as R350 chooses it hop by hop, given the hop counts to the destination. -/
def followRoute (downEdges downNodes : List Nat) (hops : Sparse Nat) (dst : Nat) : Nat → Nat → List Nat
  | 0, _ => []
  | fuel + 1, n =>
    if n = dst then []
    else
      let d := sget 0 hops n
      let moves := (neighbours n).filter fun p =>
        edgeLive downEdges downNodes p.2 && (match sfind hops p.1 with | some k => k + 1 == d | none => false)
      match moves with
      | [] => []
      | p :: ps =>
        let best := ps.foldl (fun b q => if moveRank n q.1 dst < moveRank n b.1 dst then q else b) p
        best.1 :: followRoute downEdges downNodes hops dst fuel best.1

/-- The column-first route of R349. -/
def columnFirst (dst : Nat) : Nat → Nat → List Nat
  | 0, _ => []
  | fuel + 1, n =>
    let (c, r) := nodeSite n
    let (dc, dr) := nodeSite dst
    if c < dc then siteNode (c + 1) r :: columnFirst dst fuel (siteNode (c + 1) r)
    else if dc < c then siteNode (c - 1) r :: columnFirst dst fuel (siteNode (c - 1) r)
    else if r < dr then siteNode c (r + 1) :: columnFirst dst fuel (siteNode c (r + 1))
    else if dr < r then siteNode c (r - 1) :: columnFirst dst fuel (siteNode c (r - 1))
    else []

/-- A node of the fabric. -/
def State.node (s : State) (n : Nat) : Node := sget Node.reset s.fab.nodes n

/-- One node changed. -/
def State.updNode (s : State) (n : Nat) (f : Node → Node) : State :=
  { s with fab := { s.fab with nodes := sput n (f (s.node n)) s.fab.nodes } }

/-- The fabric changed. -/
def State.updFab (s : State) (f : Fabric → Fabric) : State := { s with fab := f s.fab }

/-- The nodes passed after the source on the route that a node's adopted table gives (R349, R350); `none` where no route leads. -/
def State.route (s : State) (src dst : Nat) : Option (List Nat) :=
  let n := s.node src
  if n.downEdges.isEmpty && n.downNodes.isEmpty then some (columnFirst dst 24 src)
  else if src = dst then some []
  else
    let hops := hopsFrom n.downEdges n.downNodes dst
    if (sfind hops src).isNone then none else some (followRoute n.downEdges n.downNodes hops dst 128 src)

/-- The edges of a route. -/
def routeEdges : Nat → List Nat → List Nat
  | _, [] => []
  | n, m :: ms => edgeBetween (nodeSite n) (nodeSite m) :: routeEdges m ms

/-- A node is unreachable from another (R360): no live route, or in reset. -/
def State.unreachable (s : State) (src dst : Nat) : Bool :=
  src != dst && ((s.route src dst).isNone || (s.node src).downNodes.contains dst)

/-- The hop count of a route (R349), 0xFF where there is none (R176). -/
def State.hopCount (s : State) (src dst : Nat) : Nat :=
  match s.route src dst with
  | some r => if s.unreachable src dst then 0xFF else r.length
  | none => 0xFF

/-- The latency band of a hop count (R177). -/
def latBandOf (hops : Nat) : Nat := if hops ≤ 1 then 0 else if hops ≤ 4 then 1 else if hops ≤ 10 then 2 else 3

/-- up(b) and down(b) of R269, in ticks. -/
def treeTicks (band : Nat) : Nat := if band = 0 then 16 else if band = 1 then 48 else if band = 2 then 80 else 128

/-- The place that asks for the errors that a packet meets on its way. -/
def siteNoise : Nat := 4000000000

/-- The unloaded latency L(h, b) of R351, in ticks. -/
def pathLatency (hops beats : Nat) : Nat := 24 + 16 * hops + 2 * beats

/-! ### Streams and packets -/

/-- The key of a stream at its source: destination and class (R352). -/
def streamKey (dst cls : Nat) : Nat := 2 * dst + cls

/-- A stream before its first packet. -/
def Stream.reset : Stream := ⟨0, [], [], 0⟩

/-- A stream of a node. -/
def Node.stream (n : Node) (k : Nat) : Stream := sget Stream.reset n.streams k

/-- One stream changed. -/
def Node.updStream (n : Node) (k : Nat) (f : Stream → Stream) : Node := { n with streams := sput k (f (n.stream k)) n.streams }

/-- The retry-buffer beats a node's unacknowledged packets hold (R352): a header beat and the payload each. -/
def Node.retryBeats (n : Node) : Nat :=
  n.streams.foldl (fun a p => p.2.unacked.foldl (fun a q => a + 1 + q.beats) a) 0

/-- The number of a stream among those of every node: its source, destination and class. -/
def Packet.streamNo (p : Packet) : Nat := 512 * p.src + 4 * p.dst + p.cls

/-- An edge as it is crossed from one node to a neighbour. -/
def edgeWay (n m : Nat) : Nat := 2 * edgeBetween (nodeSite n) (nodeSite m) + b2n (n < m)

/-- The first tick from a given one at which a packet may cross an edge (R351, R419): 2 ticks after the last packet of its stream, and for a header
alone 2 ticks apart from every other header alone. -/
def crossAt (cs : List Crossing) (way stream : Nat) (alone : Bool) (from_ : Nat) : Nat :=
  let here := cs.filter fun c => c.edge == way
  let after := here.foldl (fun m c => if c.stream = stream then max m (c.tick + 2) else m) from_
  let clash (t : Nat) : Option Nat := (here.find? fun c => alone && c.alone && c.tick < t + 2 && t < c.tick + 2).map (·.tick)
  here.foldl (fun t _ => match clash t with | some u => u + 2 | none => t) after

/-- The ticks at which a packet crosses the edges of a route, the first no earlier than a given tick (R351). -/
def crossTicks (cs : List Crossing) (stream : Nat) (alone : Bool) : Nat → Nat → List Nat → List Nat
  | _, _, [] => []
  | n, from_, m :: ms =>
    let t := crossAt cs (edgeWay n m) stream alone from_
    t :: crossTicks cs stream alone m (t + 16) ms

/-- The crossings of a route at some ticks. -/
def crossingsOf (stream : Nat) (alone : Bool) : Nat → List Nat → List Nat → List Crossing
  | n, m :: ms, t :: ts => ⟨edgeWay n m, t, stream, alone⟩ :: crossingsOf stream alone m ms ts
  | _, _, _ => []

/-- A copy of a packet that leaves a node some ticks from now (R350, R351, R357), and the tick at which it arrives: it reaches its destination, or for the
reduction class the first memory-site switch that may merge it, at the tick that R351 and R419 give. A route over a failed edge or a failed node loses
it. -/
def State.launchLater (s : State) (wait : Nat) (p : Packet) (src : Nat) (ready : Nat) : Nat × State :=
  match s.route src p.dst with
  | none => (ready, s)
  | some r =>
    let stopAt := if p.cls = 1 then (match r.findIdx? (fun n => 64 ≤ n && n != p.dst) with | some i => i + 1 | none => r.length) else r.length
    let legs := r.take stopAt
    let lost := (routeEdges src legs).any (fun e => s.fab.edgesDown.contains e) || (src :: legs).any fun n => (s.node n).down
    let alone : Bool := p.beats == 0
    let ticks := crossTicks s.fab.crossings p.streamNo alone src (s.now + wait + 40 + 2 * p.beats) legs
    let arrive := max ((ticks.getLast?).getD (s.now + wait + pathLatency 0 p.beats)) ready
    if lost then (arrive, s)
    else
      let (fid, s) := s.fresh
      let fl : Flight := ⟨fid, p.id, src, arrive, (legs.getLast?).getD p.dst, legs, ticks⟩
      let s := s.updFab fun f =>
        { f with
          flights := f.flights ++ [fl]
          packets := (f.packets.filter fun q => q.id != p.id) ++ [p]
          crossings := (f.crossings.filter fun c => s.now < c.tick + 2) ++ crossingsOf p.streamNo alone src legs ticks }
      (arrive, s.after (arrive - s.now) (.packetArrival fid (s.freeVal 2560 (siteNoise + fid)).toNat))

/-- A copy of a packet sent on its way now. -/
def State.launchFlight (s : State) (p : Packet) (src : Nat) (ready : Nat) : Nat × State := s.launchLater 0 p src ready

/-- A packet of a stream sent on its way; its stream delivers the next one later (R419). -/
def State.sendOn (s : State) (p : Packet) (key : Nat) : State :=
  let (arrive, s) := s.launchFlight p p.src (((s.node p.src).stream key).last + 2)
  s.updNode p.src fun n => n.updStream key fun st => { st with last := max arrive st.last }

/-- A stream has room for one more packet in WIN (R352): of the ordered class by count; of the reduction class, whose packets are acknowledged one by one,
by the distance from the oldest unacknowledged, as the home keeps no more than WIN numbers (R358). -/
def Stream.room (st : Stream) (cls seq : Nat) : Bool :=
  match st.unacked with
  | [] => true
  | p :: _ => st.unacked.length < Config.win && (cls != 1 || (seq + 65536 - p.seq) % 65536 < Config.win)

/-- A packet enters its stream (R352): sent at once, or held while WIN packets or the retry buffer are taken. Class 2 is not sequenced,
and class 3 stands for a packet that stays on its node, in order with the others there (R419). Its age counts on its source's counter (R213, R354). -/
def State.sendPacket (s : State) (src dst cls beats : Nat) (load : Payload) : State :=
  let (pid, s) := s.fresh
  if src = dst then s.sendOn ⟨pid, src, dst, 3, 0, beats, load, s.ptc src, false⟩ (streamKey dst 0)
  else if 2 ≤ cls then (s.launchFlight ⟨pid, src, dst, cls, 0, beats, load, s.ptc src, false⟩ src 0).2
  else
    let k := streamKey dst cls
    let st := (s.node src).stream k
    let p : Packet := ⟨pid, src, dst, cls, st.seq, beats, load, s.ptc src, false⟩
    let full := !st.room cls st.seq || !st.waiting.isEmpty || 16384 < (s.node src).retryBeats + 1 + beats
    let s := s.updNode src fun n => n.updStream k fun st =>
      if full then { st with seq := (st.seq + 1) % 65536, waiting := st.waiting ++ [p] }
      else { st with seq := (st.seq + 1) % 65536, unacked := st.unacked ++ [p] }
    if full then s
    else
      let s := s.sendOn p k
      if st.unacked.isEmpty then s.after Config.rto (.retransmitTimeout src dst cls) else s

/-! ### Requests -/

/-- A request by number. -/
def State.req (s : State) (rid : Nat) : Option Req := s.fab.reqs.find? fun r => r.id == rid

/-- One request changed. -/
def State.updReq (s : State) (rid : Nat) (f : Req → Req) : State :=
  s.updFab fun x => { x with reqs := x.reqs.map fun r => if r.id = rid then f r else r }

/-- A request that is over. -/
def State.dropReq (s : State) (rid : Nat) : State := s.updFab fun x => { x with reqs := x.reqs.filter fun r => r.id != rid }

/-- A global access of a context, as against a row, an add or an arrival (R170, R278). -/
def ReqKind.isAccess : ReqKind → Bool
  | .load | .store | .loadRow | .storeRow | .amo _ _ | .red _ | .slabtag _ => true
  | .locq | .copyIn _ _ _ | .copyOut _ | .copyTo _ _ _ _ | .tagWrite _ _ | .sem _ _ _ _ _ | .bar _ _ _ _ | .tree _ | .item _ | .spec _ _ | .fetch | .cancel _ _ => false

/-- A SLABTAG. -/
def ReqKind.isTag : ReqKind → Bool
  | .slabtag _ => true
  | _ => false

/-- An access that FENCE counts as a load (R205, R278). -/
def ReqKind.isLoad : ReqKind → Bool
  | .load | .loadRow | .slabtag _ => true
  | .amo _ ret => ret
  | _ => false

/-- An access that FENCE counts as a store (R205, R278). -/
def ReqKind.isStore : ReqKind → Bool
  | .store | .storeRow | .amo _ _ | .red _ | .slabtag _ => true
  | _ => false

/-- An access that counts in OLD; the others of a context count in OST (R169, R278). -/
def ReqKind.countsOld : ReqKind → Bool
  | .load | .loadRow | .slabtag _ | .locq => true
  | .amo _ ret => ret
  | _ => false

/-- The permissions of R299. -/
def ReqKind.need : ReqKind → Nat
  | .load | .loadRow | .locq | .copyIn _ _ _ => permRd
  | .store | .storeRow | .copyOut _ => permW
  | .slabtag md => if md = 0 then permRd else 3
  | .fetch => permX
  | _ => 3

/-- The bytes a request reads or writes from its address (R168, R198). -/
def ReqKind.size : ReqKind → Nat
  | .loadRow | .storeRow | .copyIn _ _ _ | .copyOut _ => 256
  | .amo aop _ => if aop = 10 then 4 else 8
  | .red aop => if aop = 10 then 4 else 8
  | _ => 8

/-- An address aligned down to a size (R168). -/
def alignDown (a n : Nat) : Nat := a / n * n

/-- A PA not yet known. -/
def noPa : Nat := 2 ^ 42

/-- The access is a GRED inside the reduction window (R356). -/
def Req.inWindow (r : Req) : Bool :=
  match r.kind with
  | .red _ => r.pa != noPa && Config.rwBase ≤ paLocal r.pa && paLocal r.pa < Config.rwLim
  | _ => false

/-- Two intervals share a byte. -/
def overlaps (a n b m : Nat) : Bool := a < b + m && b < a + n

/-- The bytes around which an access orders others of its queue: an in-window GRED orders its whole dword (R200, R359). -/
def Req.span (r : Req) : Nat := if r.inWindow then 8 else r.kind.size

/-- Two accesses of one context reach one location (R200, R359): by PA where both are known, else by address. -/
def Req.sameLocation (a b : Req) : Bool :=
  if a.pa ≠ noPa ∧ b.pa ≠ noPa then overlaps (alignDown a.pa a.span) a.span (alignDown b.pa b.span) b.span
  else overlaps (alignDown a.ea.toNat a.kind.size) a.kind.size (alignDown b.ea.toNat b.kind.size) b.kind.size

/-- An access has been performed, as far as a later one must wait for it; an in-window GRED only once acknowledged (R359). -/
def Req.settled (r : Req) : Bool :=
  match r.state with
  | .performed => !r.inWindow
  | .done => true
  | .deferred | .waiting | .walking | .sent | .remote | .failing | .parked => false

/-- The access with a number is settled or gone. -/
def State.settled (s : State) (rid : Nat) : Bool :=
  match s.req rid with
  | some r => r.settled
  | none => true

/-- The global accesses of a context that have not been performed; those that a rerun has not come to again do not count among them (R333). -/
def State.unsettled (s : State) (t h : Nat) : List Req :=
  let ahead := (s.tile t).region.reuse
  s.fab.reqs.filter fun r => r.tile == t && r.hw == h && r.kind.isAccess && !r.settled && !ahead.contains (takeKey .access h, r.id)

/-- The accesses that a new access of its context waits for: those of its queue to its location (R200), those that a FENCE orders
before it (R205), and the spec reads of its LAUNCHes (R236). -/
def State.mustFollow (s : State) (r : Req) : List Nat :=
  let open_ := s.unsettled r.tile r.hw
  let same := (open_.filter fun e => e.q == r.q && e.sameLocation r).map (·.id)
  let fenced := (s.ctxAt r.tile r.hw).fences.flatMap fun f =>
    (if (f.kind = 0 ∨ f.kind = 2) then f.loads else []) ++
    (if f.kind = 0 ∨ (f.kind = 1 ∧ r.kind.isStore) then f.stores else [])
  let specs := (s.fab.reqs.filter fun e => e.tile == r.tile && e.hw == r.hw && (match e.kind with | .spec _ _ => e.opnd == 0 | _ => false)).map (·.id)
  same ++ (fenced.filter fun i => !same.contains i && !s.settled i) ++ specs

/-- The PA that an address has now: as the page TLB of its tile gives it, else as its page tables do. The order of two accesses follows their PAs
whether or not a walk has ended (R200). -/
def State.knownPa (s : State) (t job : Nat) (ea : Dword) (need size : Nat) : Nat :=
  match s.translateAt t job ea need with
  | some (.ok pa) => alignDown pa size
  | some (.fault _) => noPa
  | none => match s.translateIn job ea need with
    | .ok pa => alignDown pa size
    | .fault _ => noPa

/-- A request with the PA that it has now, where none is known yet. -/
def State.placed (s : State) (r : Req) : Req :=
  if r.pa = noPa then { r with pa := s.knownPa r.tile r.job r.ea r.kind.need r.kind.size } else r

/-- An earlier access of the queue to the same location has not been performed (R200, R359), whichever addresses name it. -/
def State.behind (s : State) (r : Req) : Bool :=
  let r := s.placed r
  s.fab.reqs.any fun e => e.tile == r.tile && e.hw == r.hw && e.q == r.q && e.kind.isAccess && e.id < r.id && !e.settled && (s.placed e).sameLocation r

/-- The issue cycle from which what a context issues now may leave its tile: two later in a protected pair, whose commit records are compared first
(R337, log 24). -/
def State.releaseCycle (s : State) (t h : Nat) : Nat :=
  if (s.ctxAt t h).status.getLsbD 2 then (s.tile t).core.cycle + 2 else 0

/-- A request that never leaves its tile, or the pair of which the tile is the leader (R337): a local signal, and LOCQ, which makes no access. -/
def ReqKind.local_ (k : ReqKind) (t : Nat) (loc : Bool) : Bool :=
  match k with
  | .locq => true
  | .sem d _ _ _ _ => loc || d == t
  | .bar d _ _ _ => loc || d == t
  | _ => false

/-- A request stays in its tile for now (R337). -/
def State.withheld (s : State) (r : Req) : Bool := !(s.tile r.tile).retired && (s.tile r.tile).core.cycle < r.ready

/-- A new request of the acting context in a state, with what it must follow. -/
def State.newReq (s : State) (kind : ReqKind) (q : Nat) (ea : Dword) (reg : Reg) (opnd aux : Dword) (data : Row) (st : ReqState) :
    Nat × State :=
  let (rid, s) := s.fresh
  let c := s.ctx
  let r : Req := ⟨rid, kind, c.job, s.cur.tile, s.cur.hw, q, ea, s.knownPa s.cur.tile c.job ea kind.need kind.size, reg, opnd, aux, data,
    c.cmdix, [], st, if kind.local_ s.cur.tile (aux == 1) then 0 else s.releaseCycle s.cur.tile s.cur.hw⟩
  let r := { r with after := if kind.isAccess then s.mustFollow r else if kind = .locq then [] else (s.unsettled s.cur.tile s.cur.hw).map (·.id) }
  (rid, s.updFab fun f => { f with reqs := f.reqs ++ [r] })

/-- OLD or OST raised by the acting context (R169). -/
def State.countAccess (s : State) (old : Bool) : State :=
  s.updSelf fun c => if old then { c with old := c.old + 1 } else { c with ost := c.ost + 1 }

/-- OLD or OST lowered in the context of a request (R169, R353). -/
def State.uncount (s : State) (r : Req) : State :=
  s.input r.tile (.counted r.hw r.kind.countsOld)

/-- The number of the form in word 3 of a GLOBAL record (R370). -/
def ReqKind.form : ReqKind → Nat
  | .load => 0
  | .store => 1
  | .loadRow => 2
  | .storeRow => 3
  | .amo _ _ => 4
  | .red _ => 5
  | .slabtag _ => 6
  | _ => 7

/-- Word 2 of a GLOBAL record (R369). -/
def globalWord2 (ea : Dword) : BitVec 32 := BitVec.ofNat 32 (3 * 2 ^ 28 + bitsOf ea.toNat 8 28)

/-- Word 3 of a GLOBAL record (R370). A LOCQ names no queue; its record holds 0 there (log 62). -/
def globalWord3 (ea : Dword) (q form cause : Nat) : BitVec 32 :=
  BitVec.ofNat 32 (bitsOf ea.toNat 36 21 * 2 ^ 11 + q % 4 * 2 ^ 9 + form * 2 ^ 6 + cause)

/-- The load, atomic or copy target node of a PA: its memory site (R348). -/
def homeNode (pa : Nat) : Nat := 64 + paSite pa

/-- The payload beats of a request packet (R348). -/
def ReqKind.beats : ReqKind → Nat
  | .storeRow | .copyOut _ | .copyTo _ _ _ _ => 4
  | _ => 0

/-- The payload beats of the reply to a request (R348). -/
def ReqKind.replyBeats : ReqKind → Nat
  | .loadRow | .copyIn _ _ _ => 4
  | _ => 0

/-- The node a request goes to. -/
def Req.target (r : Req) : Nat :=
  match r.kind with
  | .copyTo _ t _ _ => dieOf t
  | .sem t _ _ _ _ => dieOf t
  | .bar t _ _ _ => dieOf t
  | _ => homeNode r.pa

/-- A request sent to its node, or completed with an abort at once where the node is unreachable (R360). -/
def State.dispatchReq (s : State) (r : Req) : State :=
  let src := dieOf r.tile
  let s := s.updReq r.id fun _ => { r with state := .sent }
  if s.unreachable src r.target then s.after 0 (.globalAccessError r.id 8)
  else
    match r.kind with
    | .red aop =>
      if r.inWindow then
        let k := streamKey r.target 1
        s.sendPacket src r.target 1 0 (.reduction r.pa aop r.job [⟨src, ((s.node src).stream k).seq, r.id, r.opnd⟩] [])
      else s.sendPacket src r.target 0 0 (.request r.id)
    | _ => s.sendPacket src r.target 0 r.kind.beats (.request r.id)

/-- The error of a global access of a queue (R370): no other error carries the queue. -/
def Err.ofQueue (e : Err) (q : Nat) : Bool := e.code == 0x10 && bitsOf e.w3.toNat 6 3 != 7 && bitsOf e.w3.toNat 9 2 == q

/-- An input is the error of a global access of a queue of a context. -/
def Input.fails (i : Input) (h q : Nat) : Bool :=
  match i with
  | .err k e => k == h && e.ofQueue q
  | _ => false

/-- The error of an access of the queue has reached the tile and has not been taken as a trap, be it that it still waits for the end of a freeze or of a
rerun (R172). -/
def State.queueFailed (s : State) (r : Req) : Bool :=
  (s.ctxAt r.tile r.hw).errs.any (fun e => e.ofQueue r.q) ||
  ((s.tile r.tile).ice ++ (s.tile r.tile).region.held).any fun i => i.fails r.hw r.q

/-- An earlier access of the queue keeps a later one back (R172, R375): it is being translated or parked, its home will answer with an error or has done
so, or its error has not been taken as a trap. -/
def State.queueHeld (s : State) (r : Req) : Bool :=
  s.queueFailed r || (s.fab.reqs.any fun e => e.tile == r.tile && e.hw == r.hw && e.q == r.q && e.kind.isAccess && e.id < r.id &&
    (match e.state with
     | .walking => true
     | .parked => true
     | .failing => true
     | .sent => s.badMem.any (fun b => overlaps e.pa e.kind.size b 8) || s.unreachable (dieOf e.tile) e.target || s.pathFailed e.pa
     | .remote => s.pathFailed e.pa
     | .deferred | .waiting | .performed | .done => false))

/-- A page walk asked for (R304): it joins a running walk of the page, starts, or waits in the die's FIFO. -/
def State.askWalk (s : State) (r : Req) : State :=
  let d := dieOf r.tile
  match findRange (s.ranges r.job) r.ea.toNat with
  | none => s
  | some (i, e) =>
    let page := (r.ea.toNat - rangeBase e) / 4096
    let die := sget Die.reset s.dies d
    let hit (w : Walk) : Bool := w.job == r.job && w.range == i && w.entry == e && w.page == page
    let join := fun w : Walk => if hit w then { w with rids := w.rids ++ [r.id] } else w
    let die' :=
      if die.walks.any hit then { die with walks := die.walks.map join }
      else if die.fifo.any hit then { die with fifo := die.fifo.map join }
      else if die.walks.length < 64 then { die with walks := die.walks ++ [⟨r.job, i, e, page, [r.id]⟩] }
      else { die with fifo := die.fifo ++ [⟨r.job, i, e, page, [r.id]⟩] }
    let s := { s with dies := sput d die' s.dies }
    if die.walks.any hit || die.fifo.any hit || 64 ≤ die.walks.length then s
    else s.after (4 * (2 * pathLatency 1 0)) (.translationWalk d r.id)

/-- A translation fault of a request without a walk (R302). The request holds its queue from now on (R172). -/
def State.faultReq (s : State) (r : Req) (code : Nat) : State :=
  (s.updReq r.id fun x => { x with state := .walking }).after 0 (.globalAccessError r.id code)

/-- The address of the tag dword of a SLABTAG or tag write (R273, R275): `none` where the handle names no table entry. -/
def State.tagAddress (s : State) (job : Nat) (handle : Nat) : Option Dword :=
  (slabEntry (s.ranges job) handle).map fun a => a + 16

/-- An add, arrival or set handed to a tile: it applies at the end of the control cycle (R206, R265). -/
def State.arriveSem (s : State) (t k n : Nat) (set : Bool) : State :=
  s.input t (.sem k n set)

/-- An arrival at a named barrier (R265). -/
def State.arriveBar (s : State) (t k n : Nat) (set : Bool) : State :=
  s.input t (.bar k n set)

/-- A request performed at a tile of a die (R353): over where it never left its own die, else once its acknowledgement has come back. A
signal of a context counts in OST until then. -/
def State.performedAt (s : State) (r : Req) : State :=
  if dieOf r.tile = r.target then
    (match r.kind with
     | .sem _ _ _ _ none => s.uncount r
     | .bar _ _ _ _ => s.uncount r
     | _ => s).dropReq r.id
  else s.updReq r.id fun x => { x with state := .performed }

/-- The signal-error trap of a context (R208, R368). -/
def State.signalError (s : State) (r : Req) (target : Nat) : State :=
  (s.uncount r).input r.tile (.err r.hw ⟨2, 0x13, 0, BitVec.ofNat 32 (4 * 2 ^ 28), BitVec.ofNat 32 target, r.cmdix⟩)

/-- A signal to a tile whose earlier accesses have been performed (R208): local ones perform at once, and an invalid target fails. `aux`
is 1 for a local form. -/
def State.sendSignal (s : State) (r : Req) (target : Nat) (perform : State → State) : State :=
  if r.aux = 1 then ((perform s).uncount r).dropReq r.id
  else if s.validTarget r.job target then s.dispatchReq r
  else (s.signalError r target).dropReq r.id

/-- The root die of a job's trees (R268). -/
def Job.root (j : Job) : Nat := ((List.range 64).find? fun d => inPart j.part d).getD 0

/-- No way leads from one node to another now: the node's table has none, or the way that it gives passes what has failed and no new table has been
adopted yet (R269, R350). -/
def State.cutOff (s : State) (src dst : Nat) : Bool :=
  s.unreachable src dst ||
    let way := (s.route src dst).getD []
    (routeEdges src way).any (fun e => s.fab.edgesDown.contains e) || (src :: way).any fun n => (s.node n).down

/-- An arrival, a mask or a release of a tree on its way from one node to another (R269, R271): it takes the time of the band, some of
which may have passed, or waits for a route, which it takes once that is adopted. Its times are whole ticks. -/
def State.sendAlong (s : State) (src dst : Nat) (e : Event) (spent : Nat) : State :=
  if s.cutOff src dst then s.updFab fun f => { f with trees := f.trees ++ [(src, dst, e)] }
  else s.atTick (s.now + (treeTicks (latBandOf (s.hopCount src dst)) - spent)) e

/-- A tree arrival performed at a tile (R269, R270). -/
def State.sendTree (s : State) (r : Req) (tree : Nat) : State :=
  match s.job r.job with
  | none => s.dropReq r.id
  | some j => (s.dropReq r.id).sendAlong (dieOf r.tile) j.root (.treeArrivalAtRoot r.job tree r.tile) 0

/-- The address that stands for a handle which names no table entry: a table address has fewer bits (R273). -/
def badHandle : Dword := -1

/-- A request answered without an access: its value is written at once (R176, R278). -/
def State.answer (s : State) (rid : Nat) (v : Dword) : State :=
  (s.updReq rid fun x => { x with state := .performed, data := wide v }).after 0 (.globalLoadCompletion rid)

/-- The result of LOCQ for a mapped, readable address (R176). -/
def State.locate (s : State) (r : Req) (pa : Nat) : Dword :=
  let hops := s.hopCount (dieOf r.tile) (homeNode pa)
  let bound := match findRange (s.ranges r.job) r.ea.toNat with
    | some (_, e) => !rangePool e
    | none => false
  BitVec.ofNat 64 (latBandOf hops * 2 ^ 24 + hops * 2 ^ 16 + b2n bound * 2 ^ 6 + paSite pa)

/-- The place that asks for the dispatcher's times. -/
def siteWork : Nat := 5000000

/-- A request that may go: translated and sent, or walked, or failed (R168, R299, R304). -/
def State.tryReq (s : State) (r : Req) : State :=
  match r.kind with
  | .sem t k n set none => s.sendSignal r t fun s => s.arriveSem t k n set
  | .bar t k n set => s.sendSignal r t fun s => s.arriveBar t k n set
  | .sem _ _ _ _ (some _) | .copyTo _ _ _ _ => s.dispatchReq r
  | .tree tree => (s.uncount r).sendTree r tree
  | .item _ => (s.updReq r.id fun x => { x with state := .sent }).after 0 (.itemReport r.id)
  | .spec job lid =>
    if r.opnd = 0 then (s.updReq r.id fun x => { x with state := .sent }).after (s.freeTime (siteWork + lid)) (.launchSpecRead job lid)
    else (s.dropReq r.id).after 0 (.launchReady job lid)
  | .fetch | .cancel _ _ => s
  | _ =>
    if r.ea = badHandle && r.kind.isTag then s.answer r.id 0x8000000000000000
    else
      match s.translateAt r.tile r.job r.ea r.kind.need with
      | none => (s.updReq r.id fun x => { x with state := .walking }).askWalk r
      | some (.fault c) => if r.kind = .locq ∧ c ≠ 6 then s.answer r.id 0x8000000000000000 else s.faultReq r c
      | some (.ok pa) => if r.kind = .locq then s.answer r.id (s.locate r pa) else s.dispatchReq { r with pa := alignDown pa r.kind.size }

/-- Every waiting request of a tile that may go is sent, in the order of issue. -/
def State.kick (s : State) (t : Nat) : State :=
  let mine := s.fab.reqs.filter fun r => r.tile == t && r.state == .waiting
  mine.foldl (fun s r =>
    if !s.withheld r && r.after.all s.settled && !(r.kind.isAccess && (s.queueHeld r || s.behind r)) then s.tryReq r else s) s

/-! ### Pending destinations (R171) -/

/-- A load, LOCQ or SLABTAG makes its destination pending (R171, R176, R278); a load through another queue into it leaves it
unspecified, and so does a LOCQ, which goes through none. -/
def Ctx.makePending (c : Ctx) (now rid : Nat) (reg : Reg) (q : Nat) : Ctx :=
  if reg.wired then c
  else
    let other (d : PendDest) : Bool := d.reg == reg && (d.q != q || q == 4)
    let clash := c.pend.any other
    let old := c.pend.map fun d => if other d then { d with tainted := true } else d
    { c with pend := old ++ [⟨reg, now, rid, q, clash⟩] }

end Sys2Proof.Machine
end

