-- ==== Sys2Proof/Machine/Operands.lean ====
section
/-! DEFINITION. The operands of every slot operation: the registers it reads, those its wait condition names, those it writes, its
scratch access, and what it counts in OLD and OST (R97, R153, R169, R262). -/

namespace Sys2Proof.Machine

/-- An x register field as a register. -/
abbrev rX (n : BitVec 5) : Reg := .x n.toNat
/-- A v register field as a register. -/
abbrev rV (n : BitVec 5) : Reg := .v n.toNat
/-- A p register field as a register. -/
abbrev rP (n : BitVec 3) : Reg := .p n.toNat
/-- A 5-bit field that names a p register (R32). -/
abbrev rP5 (n : BitVec 5) : Reg := .p n.toNat
/-- The mask pair of R194: x[m] and x[m + 1]. -/
def maskPair (m : BitVec 5) : List Reg := [.x m.toNat, .x (m.toNat + 1)]

/-- The old destination of a gated lane instruction, read when m[0] = 0 and the gate is not p0 (R97). -/
def gateReads (dst : Reg) (p : BitVec 3) (z : BitVec 1) : List Reg :=
  if p = 0 then [] else if z = 0 then [rP p, dst] else [rP p]

/-- A scratch effective address (R153). -/
def scratchEa (s : State) (base : BitVec 5) (off : Int) (unit : Nat) : Dword :=
  s.rx base + BitVec.ofInt 64 (off * unit)

/-- RowOf of R36. -/
def rowOf (ea : Dword) : Nat := bitsOf ea.toNat 8 10

/-- The word of a row that an address names (R153). -/
def wordOf (ea : Dword) : Nat := bitsOf ea.toNat 3 5

/-! ### Format-table entries (R123) -/

/-- A format-table entry. -/
def ftEntry (ft : Sparse Dword) (e : Nat) : Nat := (sget 0 ft (e % 16)).toNat
/-- FMTA. -/
def ftA (e : Nat) : Nat := bitsOf e 0 4
/-- FMTB. -/
def ftB (e : Nat) : Nat := bitsOf e 4 4
/-- NEXTE. -/
def ftNext (e : Nat) : Nat := bitsOf e 8 4
/-- HASNEXT. -/
def ftHasNext (e : Nat) : Bool := bitOf e 12
/-- WDELTA. -/
def ftDelta (e : Nat) : Int := asSigned 16 (bitsOf e 16 16)
/-- WSLOT. -/
def ftSlot (e : Nat) : Nat := bitsOf e 32 3

/-- The stage guard of a slot is on (R29). -/
def State.guardOn (s : State) (sp : BitVec 3) : Bool := sp == 0 || s.ctx.sp.getLsbD sp.toNat

end Sys2Proof.Machine

namespace Sys2Proof

open Sys2Proof.Machine

/-- The registers that the wait condition of an operation names (R262). -/
def Instr.condRegs (i : Instr) : List Reg :=
  match i with
  | .ldxf _ _ base _ | .stxe _ _ base _ | .ldvf _ _ base _ | .stve _ _ base _ => [rX base]
  | .twany _ _ m | .twall _ _ m => maskPair m
  | .barwt _ g _ _ | .treewt _ g _ _ => [rX g]
  | .timewt _ a => [rX a]
  | _ => []

/-- The registers that an operation reads besides those of its wait condition (R262). -/
def Instr.reads (i : Instr) : List Reg :=
  match i with
  | .add _ _ a b | .sub _ _ a b | .and _ _ a b | .or _ _ a b | .xor _ _ a b | .andn _ _ a b | .shl _ _ a b | .shr _ _ a b
  | .sar _ _ a b | .rol _ _ a b | .min _ _ a b | .max _ _ a b | .minn _ _ a b | .maxn _ _ a b | .seq _ _ a b | .slt _ _ a b
  | .sltn _ _ a b | .addw _ _ a b | .addsh _ _ a b _ | .mul _ _ a b | .mulh _ _ a b | .mulhn _ _ a b | .div _ _ a b
  | .divn _ _ a b | .rem _ _ a b | .remn _ _ a b => [rX a, rX b]
  | .sel _ _ a b c => [rX a, rX b, rX c]
  | .clz _ _ a _ | .popc _ _ a _ | .bext _ _ a _ _ _ => [rX a]
  | .bins _ d a _ _ => [rX a, rX d]
  | .addi _ _ a _ | .andi _ _ a _ | .ori _ _ a _ | .xori _ _ a _ | .slti _ _ a _ | .sltni _ _ a _ | .seqi _ _ a _ => [rX a]
  | .shli _ _ a _ | .shri _ _ a _ | .sari _ _ a _ => [rX a]
  | .cati _ d _ => [rX d]
  | .ldx _ _ base _ | .ldv _ _ base _ | .getfe _ _ base _ => [rX base]
  | .stx _ t base _ | .setfe _ t base _ => [rX base, rX t]
  | .stv _ t base _ | .vaor _ t base _ | .vaadd _ t base _ => [rX base, rV t]
  | .stvp _ t base p _ => [rX base, rV t, rP p]
  | .stxe _ t _ _ => [rX t]
  | .stve _ t _ _ => [rV t]
  | .stsp _ t _ => [rX t]
  | .stspv _ t _ => [rV t]
  | .aadd _ _ base b _ | .amin _ _ base b _ | .amax _ _ base b _ | .aminn _ _ base b _ | .amaxn _ _ base b _ | .aand _ _ base b _
  | .aor _ _ base b _ | .axor _ _ base b _ | .aswp _ _ base b _ => [rX base, rX b]
  | .acas _ t base b _ => [rX base, rX b, rX t]
  | .gldx _ _ base _ _ | .gldv _ _ base _ _ => [rX base]
  | .gstx _ t base _ _ => [rX base, rX t]
  | .gstv _ t base _ _ => [rX base, rV t]
  | .gamo _ d a b _ _ aop => if aop = 9 then [rX a, rX b, rX d] else [rX a, rX b]
  | .gred _ a b _ _ => [rX a, rX b]
  | .vadd _ d a b p _ z | .vsub _ d a b p _ z | .vmul _ d a b p _ z | .vmin _ d a b p _ z | .vmax _ d a b p _ z
  | .vminn _ d a b p _ z | .vmaxn _ d a b p _ z | .vmulh _ d a b p _ z | .vmulhn _ d a b p _ z | .vand _ d a b p _ z
  | .vor _ d a b p _ z | .vxor _ d a b p _ z | .vandn _ d a b p _ z | .vshl _ d a b p _ z | .vshr _ d a b p _ z
  | .vsar _ d a b p _ z | .vadds _ d a b p _ _ z | .vsubs _ d a b p _ _ z | .vperm _ d a b p _ _ z =>
      [rV a, rV b] ++ gateReads (rV d) p z
  | .vfma _ d a b p _ _ | .vfms _ d a b p _ _ => [rV a, rV b, rP p, rV d]
  | .vdot _ d a b p _ _ _ => [rV a, rV b, rP p, rV d]
  | .vabs _ d a p _ z | .vneg _ d a p _ z | .vpopc _ d a p _ z | .vclz _ d a p _ z | .vmov _ d a p _ z | .vscan _ d a p _ z =>
      rV a :: gateReads (rV d) p z
  | .vshli _ d a _ p _ z | .vshri _ d a _ p _ _ z => rV a :: gateReads (rV d) p z
  | .vbcast _ d a p _ z | .viota _ d a p _ z => rX a :: gateReads (rV d) p z
  | .vrot _ d a b p _ z => [rV a, rX b] ++ gateReads (rV d) p z
  | .vcmpeq _ d a b p _ z | .vcmpne _ d a b p _ z | .vcmplt _ d a b p _ z | .vcmple _ d a b p _ z | .vcmpltn _ d a b p _ z
  | .vcmpun _ d a b p _ z => [rV a, rV b] ++ gateReads (rP5 d) p z
  | .vsel _ _ a b p _ => [rV a, rV b, rP p]
  | .vext _ _ a b _ _ => [rV a, rX b]
  | .vins _ d a b _ => [rX a, rX b, rV d]
  | .vmerge _ d a b _ => [rV a, rX b, rV d]
  | .vredadd _ _ a p _ _ | .vredmax _ _ a p _ _ | .vredmin _ _ a p _ _ => [rV a, rP p]
  | .vcvt _ d a _ sty _ ty _ z => if z = 0 ∧ tyWidth ty < tyWidth sty then [rV a, rV d] else [rV a]
  | .vpack4 _ d a b _ _ _ => [rV a, rV b, rV d]
  | .vunpk4 _ _ a b _ _ => [rV a, rV b]
  | .vcord _ _ a _ _ _ => [rV a]
  | .pand _ _ a b | .por _ _ a b | .pxor _ _ a b => [rP5 a, rP5 b]
  | .pnot _ _ a => [rP5 a]
  | .pcnt _ _ a _ | .pfirst _ _ a _ => [rP5 a]
  | .ptail _ _ a _ => [rX a]
  | .mma _ _ a _ _ _ _ _ _ _ | .mmat _ _ a _ _ _ _ _ _ _ | .mmae _ _ a _ _ _ _ _ _ _ => [rX a]
  | .wbld _ _ a _ _ _ _ _ _ _ _ _ _ => [rX a]
  | .accwr _ _ a _ | .accbias _ _ a => [rV a]
  | .accst _ _ a _ _ _ _ _ tw s _ _ => if tw = 1 then [rX a, rX s] else [rX a]
  | .ftset _ _ a | .mbset _ a => [rX a]
  | .cpy _ _ g a _ _ s tw _ _ _ _ _ _ => if tw = 1 then [rX g, rX a, rX s] else [rX g, rX a]
  | .cpy2 _ _ g a _ _ st _ _ _ _ _ _ => [rX g, rX a, rX st]
  | .cpyg _ l a _ _ _ _ _ _ _ _ | .cpys _ l a _ _ _ _ _ _ _ _ => [rX l, rX a]
  | .cpyr _ w g a _ _ _ _ _ _ _ _ _ => [rX w, rX g, rX a]
  | .cpyt _ _ g a _ _ tm _ _ _ _ _ _ => [rX g, rX a, rX tm]
  | .cpyx _ t b a _ _ _ _ _ _ _ _ _ => [rX t, rX b, rX a]
  | .tffr _ _ m | .tclr _ m => maskPair m
  | .semsig _ t loc _ _ _ _ => if loc = 0 then [rX t] else []
  | .bararv _ r loc _ _ _ _ => if loc = 0 then [rX r] else []
  | .treemask _ a b _ => [rX a, rX b]
  | .launch _ _ a _ _ j oj => if oj = 1 then [rX a, rX j] else [rX a]
  | .task _ _ a b c _ _ _ => [rX a, rX b, rX c]
  | .doneItem _ a | .cancel _ a _ => [rX a]
  | .slabtag _ _ a _ _ => [rX a]
  | .bz _ c _ | .bnz _ c _ | .bltz _ c _ | .bgez _ c _ => [rX c]
  | .loopset _ _ a _ | .jr _ a | .jalr _ _ a | .swr _ a _ | .locq _ _ a => [rX a]
  | _ => []

/-- The registers that an operation writes (R30). -/
def Instr.dests (i : Instr) : List Reg :=
  match i with
  | .add _ d _ _ | .sub _ d _ _ | .and _ d _ _ | .or _ d _ _ | .xor _ d _ _ | .andn _ d _ _ | .shl _ d _ _ | .shr _ d _ _
  | .sar _ d _ _ | .rol _ d _ _ | .min _ d _ _ | .max _ d _ _ | .minn _ d _ _ | .maxn _ d _ _ | .seq _ d _ _ | .slt _ d _ _
  | .sltn _ d _ _ | .addw _ d _ _ | .mul _ d _ _ | .mulh _ d _ _ | .mulhn _ d _ _ | .div _ d _ _ | .divn _ d _ _ | .rem _ d _ _
  | .remn _ d _ _ | .sel _ d _ _ _ | .addsh _ d _ _ _ | .clz _ d _ _ | .popc _ d _ _ | .bext _ d _ _ _ _ | .bins _ d _ _ _
  | .addi _ d _ _ | .andi _ d _ _ | .ori _ d _ _ | .xori _ d _ _ | .slti _ d _ _ | .sltni _ d _ _ | .seqi _ d _ _
  | .shli _ d _ _ | .shri _ d _ _ | .sari _ d _ _ | .movl _ d _ | .cati _ d _ => [rX d]
  | .ldx _ t _ _ | .ldxf _ t _ _ | .getfe _ t _ _ | .ldsp _ t _ | .aadd _ t _ _ _ | .amin _ t _ _ _ | .amax _ t _ _ _
  | .aminn _ t _ _ _ | .amaxn _ t _ _ _ | .aand _ t _ _ _ | .aor _ t _ _ _ | .axor _ t _ _ _ | .aswp _ t _ _ _
  | .acas _ t _ _ _ | .gldx _ t _ _ _ => [rX t]
  | .ldv _ t _ _ | .ldvf _ t _ _ | .ldspv _ t _ | .vaor _ t _ _ | .vaadd _ t _ _ | .gldv _ t _ _ _ => [rV t]
  | .gamo _ d _ _ ret _ _ => if ret = 1 then [rX d] else []
  | .vadd _ d _ _ _ _ _ | .vsub _ d _ _ _ _ _ | .vmul _ d _ _ _ _ _ | .vfma _ d _ _ _ _ _ | .vfms _ d _ _ _ _ _
  | .vmin _ d _ _ _ _ _ | .vmax _ d _ _ _ _ _ | .vminn _ d _ _ _ _ _ | .vmaxn _ d _ _ _ _ _ | .vmulh _ d _ _ _ _ _
  | .vmulhn _ d _ _ _ _ _ | .vand _ d _ _ _ _ _ | .vor _ d _ _ _ _ _ | .vxor _ d _ _ _ _ _ | .vandn _ d _ _ _ _ _
  | .vshl _ d _ _ _ _ _ | .vshr _ d _ _ _ _ _ | .vsar _ d _ _ _ _ _ | .vadds _ d _ _ _ _ _ _ | .vsubs _ d _ _ _ _ _ _
  | .vperm _ d _ _ _ _ _ _ | .vdot _ d _ _ _ _ _ _ | .vabs _ d _ _ _ _ | .vneg _ d _ _ _ _ | .vpopc _ d _ _ _ _
  | .vclz _ d _ _ _ _ | .vmov _ d _ _ _ _ | .vscan _ d _ _ _ _ | .vshli _ d _ _ _ _ _ | .vshri _ d _ _ _ _ _ _
  | .vbcast _ d _ _ _ _ | .viota _ d _ _ _ _ | .vrot _ d _ _ _ _ _ | .vsel _ d _ _ _ _ | .vins _ d _ _ _
  | .vmerge _ d _ _ _ | .vcvt _ d _ _ _ _ _ _ _ | .vunpk4 _ d _ _ _ _ | .vcord _ d _ _ _ _ => [rV d]
  | .vpack4 _ d _ b _ _ _ => [rV d, rV b]
  | .vcmpeq _ d _ _ _ _ _ | .vcmpne _ d _ _ _ _ _ | .vcmplt _ d _ _ _ _ _ | .vcmple _ d _ _ _ _ _ | .vcmpltn _ d _ _ _ _ _
  | .vcmpun _ d _ _ _ _ _ | .pand _ d _ _ | .por _ d _ _ | .pxor _ d _ _ | .pnot _ d _ | .ptail _ d _ _ => [rP5 d]
  | .vext _ d _ _ _ _ | .vredadd _ d _ _ _ _ | .vredmax _ d _ _ _ _ | .vredmin _ d _ _ _ _ | .pcnt _ d _ _
  | .pfirst _ d _ _ => [rX d]
  | .accrd _ _ d _ => [rV d]
  | .ftget _ _ d | .monrd _ d _ => [rX d]
  | .twany _ d _ | .twall _ d _ | .tffr _ d _ | .semrd _ d _ _ | .treearv _ d _ _ | .launch _ d _ _ _ _ _
  | .task _ d _ _ _ _ _ _ | .slabtag _ d _ _ _ | .clkdiv _ _ _ _ _ d | .jalr _ d _ | .srd _ d _ | .locq _ d _ | .tsr _ d
  | .cyc _ d _ => [rX d]
  | .bararv _ r loc _ _ _ _ => if loc = 1 then [rX r] else []
  | .call _ _ => [.x 31]
  | _ => []

/-- The effective address of an X-port access (R153, R155). -/
def Instr.scratch (i : Instr) (s : State) : Option Dword :=
  match i with
  | .ldx _ _ base off | .stx _ _ base off | .ldxf _ _ base off | .stxe _ _ base off => some (scratchEa s base off.toInt 8)
  | .ldv _ _ base off | .stv _ _ base off | .ldvf _ _ base off | .stve _ _ base off | .setfe _ _ base off | .getfe _ _ base off
  | .vaor _ _ base off | .vaadd _ _ base off => some (scratchEa s base off.toInt 256)
  | .stvp _ _ base _ off => some (scratchEa s base off.toInt 256)
  | .aadd _ _ base _ off | .amin _ _ base _ off | .amax _ _ base _ off | .aminn _ _ base _ off | .amaxn _ _ base _ off
  | .aand _ _ base _ off | .aor _ _ base _ off | .axor _ _ base _ off | .aswp _ _ base _ off | .acas _ _ base _ off =>
      some (scratchEa s base off.toInt 8)
  | _ => none

/-- The operation writes its scratch row's data or full/empty bits (R156), whether or not a bit changes (log 67). -/
def Instr.writesRow (i : Instr) : Bool :=
  match i with
  | .stx _ _ _ _ | .stv _ _ _ _ | .stvp _ _ _ _ _ | .ldxf _ _ _ _ | .stxe _ _ _ _ | .ldvf _ _ _ _ | .stve _ _ _ _
  | .setfe _ _ _ _ | .aadd _ _ _ _ _ | .amin _ _ _ _ _ | .amax _ _ _ _ _ | .aminn _ _ _ _ _ | .amaxn _ _ _ _ _
  | .aand _ _ _ _ _ | .aor _ _ _ _ _ | .axor _ _ _ _ _ | .aswp _ _ _ _ _ | .acas _ _ _ _ _ | .vaor _ _ _ _
  | .vaadd _ _ _ _ => true
  | _ => false

/-- The words of its row whose data an operation uses, as 32 bits (R157; a bad word elsewhere in the row is no abort, log 68). -/
def Instr.wordsRead (i : Instr) (s : State) (ea : Dword) : BitVec 32 :=
  match i with
  | .ldx _ _ _ _ | .ldxf _ _ _ _ | .aadd _ _ _ _ _ | .amin _ _ _ _ _ | .amax _ _ _ _ _ | .aminn _ _ _ _ _ | .amaxn _ _ _ _ _
  | .aand _ _ _ _ _ | .aor _ _ _ _ _ | .axor _ _ _ _ _ | .aswp _ _ _ _ _ | .acas _ _ _ _ _ => 1 <<< wordOf ea
  | .ldv _ _ _ _ | .ldvf _ _ _ _ | .vaor _ _ _ _ | .vaadd _ _ _ _ => BitVec.allOnes 32
  | .stvp _ _ _ p _ =>
    let pr := s.rp p.toNat
    BitVec.ofNat 32 (join 1 ((cut 8 32 pr.toNat).map fun b => if b = 0 ∨ b = 255 then 0 else 1))
  | _ => 0

/-- The scratch addresses of an engine operand, which strict mode checks like any other (R153, R187). -/
def Instr.engineEa (i : Instr) (s : State) : List Dword :=
  match i with
  | .mma _ _ a _ _ _ _ _ _ _ | .mmat _ _ a _ _ _ _ _ _ _ | .mmae _ _ a _ _ _ _ _ _ _ => [s.rx a]
  | .wbld _ _ a _ _ _ _ _ _ _ _ _ _ | .accst _ _ a _ _ _ _ _ _ _ _ _ => [s.rx a]
  | .cpy _ dir g a _ _ _ _ _ _ _ _ _ _ => if dir = 2 then [s.rx a, s.rx g] else [s.rx a]
  | .cpyt _ dir g a _ _ _ _ _ _ _ _ _ => if dir = 2 then [s.rx a, s.rx g] else [s.rx a]
  | .cpy2 _ _ _ a _ _ _ _ _ _ _ _ _ => [s.rx a]
  | .cpyg _ l a _ _ _ _ _ _ _ _ | .cpys _ l a _ _ _ _ _ _ _ _ => [s.rx l, s.rx a]
  | .cpyr _ _ _ a _ _ _ _ _ _ _ _ _ => [s.rx a]
  | .cpyx _ _ b a _ _ _ _ _ _ _ _ _ => [s.rx b, s.rx a]
  | _ => []

/-- What an operation adds to OLD (R169, R278). -/
def Instr.oldAdds (i : Instr) : Nat :=
  match i with
  | .gldx _ _ _ _ _ | .gldv _ _ _ _ _ | .locq _ _ _ | .slabtag _ _ _ _ _ => 1
  | .gamo _ _ _ _ ret _ _ => ret.toNat
  | _ => 0

/-- What an operation adds to OST (R169, R208, R245, R266, R270). -/
def Instr.ostAdds (i : Instr) : Nat :=
  match i with
  | .gstx _ _ _ _ _ | .gstv _ _ _ _ _ | .gred _ _ _ _ _ | .semsig _ _ _ _ _ _ _ | .bararv _ _ _ _ _ _ _ | .treearv _ _ _ _
  | .doneItem _ _ => 1
  | .gamo _ _ _ _ ret _ _ => 1 - ret.toNat
  | _ => 0

/-- An array operation (R126). -/
def Instr.isArray (i : Instr) : Bool :=
  match i with
  | .mma _ _ _ _ _ _ _ _ _ _ | .mmat _ _ _ _ _ _ _ _ _ _ | .mmae _ _ _ _ _ _ _ _ _ _ | .accz _ _ | .accwr _ _ _ _
  | .accbias _ _ _ => true
  | _ => false

/-- A copy command (R187). -/
def Instr.isCopy (i : Instr) : Bool :=
  match i with
  | .cpy _ _ _ _ _ _ _ _ _ _ _ _ _ _ | .cpy2 _ _ _ _ _ _ _ _ _ _ _ _ _ | .cpyg _ _ _ _ _ _ _ _ _ _ _
  | .cpys _ _ _ _ _ _ _ _ _ _ _ | .cpyr _ _ _ _ _ _ _ _ _ _ _ _ _ | .cpyt _ _ _ _ _ _ _ _ _ _ _ _ _
  | .cpyx _ _ _ _ _ _ _ _ _ _ _ _ _ => true
  | _ => false

/-- A CPYT. -/
def Instr.isTimed (i : Instr) : Bool :=
  match i with
  | .cpyt _ _ _ _ _ _ _ _ _ _ _ _ _ => true
  | _ => false

/-- A WBLD, WBCLR or ACCST (R129). -/
def Instr.isMatCmd (i : Instr) : Bool :=
  match i with
  | .wbld _ _ _ _ _ _ _ _ _ _ _ _ _ | .wbclr _ _ _ _ | .accst _ _ _ _ _ _ _ _ _ _ _ _ => true
  | _ => false

/-- The accumulators that an array operation writes. -/
def Instr.accs (i : Instr) : List Nat :=
  match i with
  | .mma _ acc _ _ _ _ _ _ _ _ | .mmat _ acc _ _ _ _ _ _ _ _ | .mmae _ acc _ _ _ _ _ _ _ _ => [acc.toNat]
  | .accwr _ acc _ _ | .accbias _ acc _ => [acc.toNat]
  | .accz _ mask => (List.range 4).filter fun k => mask.getLsbD k
  | _ => []

/-- kg of a product form. -/
def Instr.kg (i : Instr) : Nat :=
  match i with
  | .mma _ _ _ _ _ _ k _ _ _ | .mmat _ _ _ _ _ _ k _ _ _ | .mmae _ _ _ _ _ _ k _ _ _ => k.toNat + 1
  | _ => 1

/-- bk of a product form. -/
def Instr.bk (i : Instr) : Nat :=
  match i with
  | .mma _ _ _ _ _ bk _ _ _ _ | .mmat _ _ _ _ _ bk _ _ _ _ | .mmae _ _ _ _ _ bk _ _ _ _ => bk.toNat
  | _ => 0

/-- ws of a product form. -/
def Instr.ws (i : Instr) : Nat :=
  match i with
  | .mma _ _ _ _ ws _ _ _ _ _ | .mmat _ _ _ _ ws _ _ _ _ _ | .mmae _ _ _ _ ws _ _ _ _ _ => ws.toNat
  | _ => 0

/-- The Z field of a product form (R134). -/
def Instr.zeroAcc (i : Instr) : Bool :=
  match i with
  | .mma _ _ _ _ _ _ _ _ _ z | .mmat _ _ _ _ _ _ _ _ _ z | .mmae _ _ _ _ _ _ _ _ _ z => z == 1
  | _ => false

/-- A product form. -/
def Instr.isProduct (i : Instr) : Bool :=
  match i with
  | .mma _ _ _ _ _ _ _ _ _ _ | .mmat _ _ _ _ _ _ _ _ _ _ | .mmae _ _ _ _ _ _ _ _ _ _ => true
  | _ => false

/-- The formats of a product form with a selected entry (R124, R134). -/
def Instr.formats (i : Instr) (entry : Nat) : Nat × Nat :=
  match i with
  | .mma _ _ _ _ _ _ _ fa fb _ => (fa.toNat, fb.toNat)
  | _ => (ftA entry, ftB entry)

/-- The entry that MMAT and MMAE select (R124). -/
def Instr.ftIndex (i : Instr) (c : Ctx) : Nat :=
  match i with
  | .mmat _ _ _ _ _ _ _ off lvl _ | .mmae _ _ _ _ _ _ _ off lvl _ =>
    ((if lvl = 0 then c.lc0 else c.lc1).toNat + off.toNat) % 16
  | _ => 0

end Sys2Proof
end

