-- ==== Sys2Proof/Machine/Array.lean ====
section
/-! DEFINITION. The matrix array: formats, operands, one pass of a product, and the queue with its nominal and actual times
(R115 to R147). -/

namespace Sys2Proof.Machine

/-! ### Formats and operands -/

/-- Cycles per k-group of a matrix format code (R115); a reserved code, which faults, counts 16 (log 65). -/
def fmtCpg : Nat → Nat
  | 0 => 128
  | 1 => 32
  | 2 => 32
  | 5 => 8
  | _ => 16

/-- cpg of an operation: the larger of its two entries (R115). -/
def opCpg (fa fb : Nat) : Nat := max (fmtCpg fa) (fmtCpg fb)

/-- Bits per element of a matrix format code (R115). -/
def fmtBits : Nat → Nat
  | 0 => 32
  | 1 => 16
  | 2 => 16
  | 5 => 4
  | _ => 8

/-- The value of an element of a dense format (R118). -/
def denseValue (fmt b : Nat) : FV :=
  match fmt with
  | 0 => fvalue fmt32 b
  | 1 => fvalue fmtBf16 b
  | 2 => fvalue fmt16 b
  | 3 => fvalue fmtE4 b
  | 4 => fvalue fmtE5 b
  | _ => .ofInt (asSigned 8 b)

/-- A code of the SATC column (R140). -/
def satCode (fmt b : Nat) : Bool :=
  match fmt with
  | 0 => b % 2 ^ 31 == 0x7F7FFFFF || b % 2 ^ 31 == 0x7F800000
  | 1 => b % 2 ^ 15 == 0x7F7F || b % 2 ^ 15 == 0x7F80
  | 2 => b % 2 ^ 15 == 0x7BFF || b % 2 ^ 15 == 0x7C00
  | 3 => b % 128 == 0x7E
  | 4 => b % 128 == 0x7B || b % 128 == 0x7C
  | 5 => b % 8 == 7
  | _ => b == 0x7F || b == 0x80 || b == 0x81

/-- A code of the UNFC column (R140). -/
def unfCode (fmt b : Nat) : Bool :=
  match fmt with
  | 0 => b % 2 ^ 31 == 1
  | 1 => b % 2 ^ 15 == 1
  | 2 => b % 2 ^ 15 == 1
  | 3 => b % 128 == 1
  | 4 => b % 128 == 1
  | 5 => b % 8 == 1
  | _ => b == 0x01 || b == 0xFF

/-- One m-row of A or one column of B in a k-group: its 32 values before scaling, the exponent of its block scale, what it counts for the
monitors, and the flags that reading it raises. -/
structure Vec32 where
  vals : List FV
  scale : Int
  cs : Nat
  cu : Nat
  flags : BitVec 6
  deriving DecidableEq, Repr

/-- 32 elements of a dense format. -/
def denseVec (fmt : Nat) (bs : List Nat) : Vec32 :=
  ⟨bs.map (denseValue fmt), 0, (bs.filter (satCode fmt)).length, (bs.filter (unfCode fmt)).length, 0⟩

/-- 32 codes of a B4 block with its scale byte (R65, R66, R140). -/
def blockVec (scale : Nat) (codes : List Nat) : Vec32 :=
  let t := scale / 64 % 4
  let dead := scale % 64 == 63
  let bad (c : Nat) : Bool := dead || blockReserved t c
  ⟨codes.map fun c => if bad c then .nan else .fin (8 ≤ c) (blockMag t c) (-3), (scale % 64 : Nat) - 32,
   (codes.filter fun c => !bad c && satCode 5 c).length, (codes.filter fun c => !bad c && unfCode 5 c).length,
   if codes.any bad then flNV else 0⟩

/-- A B4 block expanded into a floating format (R121): counted on its codes, rounded in RNE. -/
def expandVec (xfmt scale : Nat) (codes : List Nat) : Vec32 :=
  let f := match xfmt with | 0 => fmt32 | 1 => fmtBf16 | 2 => fmt16 | 3 => fmtE4 | _ => fmtE5
  let b := blockVec scale codes
  let (ps, r) := mapRnd (fun r c =>
    let (v, bad) := blockValue scale c
    if bad then (f.canonNan, r) else fround f r v) rndRne codes
  { b with vals := ps.map (fvalue f), scale := 0, flags := b.flags ||| r.flags }

/-- The bytes of consecutive scratch rows, modulo 1,024, as one number (R116). -/
def Core.rowsAt (c : Core) (row n : Nat) : Nat :=
  join 2048 ((List.range n).map fun i => (c.row (row + i)).toNat)

/-- The 32 m-rows of k-group g of A (R116). -/
def Core.groupA (c : Core) (fmt row kg g : Nat) : List Vec32 :=
  if fmt = 5 then
    let codes := c.rowsAt (row + 2 * g) 2
    let srow := (c.row (row + 2 * kg + g / 8)).toNat
    (List.range 32).map fun m =>
      blockVec (bitsOf srow (8 * (32 * (g % 8) + m)) 8) (cut 4 32 (bitsOf codes (128 * m) 128))
  else
    let w := fmtBits fmt
    let data := c.rowsAt (row + w / 2 * g) (w / 2)
    (List.range 32).map fun m => denseVec fmt (cut w 32 (bitsOf data (32 * w * m) (32 * w)))

/-- The rows that k-group g of A occupies. -/
def groupRows (fmt row kg g : Nat) : List Nat :=
  if fmt = 5 then [(row + 2 * g) % 1024, (row + 2 * g + 1) % 1024, (row + 2 * kg + g / 8) % 1024]
  else (List.range (fmtBits fmt / 2)).map fun i => (row + fmtBits fmt / 2 * g + i) % 1024

/-- A weight-buffer slot. -/
def Core.wslot (c : Core) (n : Nat) : WSlot := sget WSlot.clear c.wslots (n % 8)

/-- G of a kind and stored format (R121). -/
def layoutG (kind fmt : Nat) : Nat :=
  if kind = 1 then (match fmtBits fmt with | 32 => 3 | 16 => 7 | _ => 12)
  else match fmtBits fmt with | 32 => 2 | 16 => 4 | 4 => 15 | _ => 8

/-- G of a slot for an operation whose B is in `fmtB` (R120, R121). -/
def WSlot.groups (w : WSlot) (fmtB : Nat) : Nat := if w.cleared then layoutG 0 fmtB else layoutG w.kind w.fmt

/-- A slot holds B in a format (R122). -/
def WSlot.holds (w : WSlot) (fmtB : Nat) : Bool := w.cleared || (if w.kind = 2 then w.xfmt else w.fmt) == fmtB

/-- Expansion of a 2:4 column (R121). -/
def expandQuads (kept : List Nat) (idx : Nat) : List Nat :=
  (List.range 8).flatMap fun q =>
    let i0 := bitsOf idx (4 * q) 2
    let i1 := bitsOf idx (4 * q + 2) 2
    (List.range 4).map fun i => if i = i1 then kept.getD (2 * q + 1) 0 else if i = i0 then kept.getD (2 * q) 0 else 0

/-- The 32 columns of a k-group at a position of a slot (R121); a slot with a cleared descriptor reads as kind 0 of the format asked
for (R120). -/
def WSlot.columns (w : WSlot) (fmtB pos : Nat) : List Vec32 :=
  let w := if w.cleared then { w with kind := 0, fmt := fmtB } else w
  let n := w.data.toNat
  (List.range 32).map fun j =>
    if w.fmt = 5 then
      let codes := cut 4 32 (bitsOf n (8 * (512 * pos + 16 * j)) 128)
      let scale := bitsOf n (8 * (7680 + 32 * pos + j)) 8
      if w.kind = 2 then expandVec w.xfmt scale codes else blockVec scale codes
    else
      let b := fmtBits w.fmt
      if w.kind = 1 then
        let base := 8 * pos * (64 * b + 128)
        let kept := cut b 16 (bitsOf n (base + 16 * b * j) (16 * b))
        let v := denseVec w.fmt kept
        { v with vals := (expandQuads kept (bitsOf n (base + 512 * b + 32 * j) 32)).map (denseValue w.fmt) }
      else denseVec w.fmt (cut b 32 (bitsOf n (8 * 128 * b * pos + 32 * b * j) (32 * b)))

/-- The slot and position of each k-group (R122). -/
def groupPlaces (c : Core) (ws bk kg fmtB : Nat) : List (Nat × Nat) :=
  let g := (c.wslot ws).groups fmtB
  (List.range kg).map fun i => ((ws + (bk + i) / g) % 8, (bk + i) % g)

/-- The matrix operand fault of an operation, the lowest kind (R122, R124, R132). -/
def operandFault (c : Core) (fmtA fmtB ws bk kg : Nat) : Option Nat :=
  if 7 ≤ fmtA ∨ 7 ≤ fmtB then some 1
  else
    let places := groupPlaces c ws bk kg fmtB
    let g := (c.wslot ws).groups fmtB
    if places.any fun p => !(c.wslot p.1).holds fmtB then some 2
    else if places.any fun p => (c.wslot p.1).groups fmtB != g then some 3
    else if g ≤ bk then some 4
    else none

/-! ### A pass -/

/-- A pass in progress: accumulator patterns, flags, and the three counts (R118, R140, R141). -/
structure Pass where
  acc : List Nat
  flags : BitVec 6
  cs : Nat
  cu : Nat
  cc : Nat
  deriving DecidableEq, Repr

/-- A value with its exponent moved. -/
def FV.scaleBy (x : FV) (k : Int) : FV :=
  match x with
  | .fin n m e => .fin n m (e + k)
  | .inf n => .inf n
  | .nan => .nan

/-- A zero sum adds as +0 (R119). -/
def FV.plusZero : FV → FV
  | .fin n m e => if m = 0 then .fin false 0 0 else .fin n m e
  | x => x

/-- The exact sum of one output in one k-group before scaling, whether it is invalid, and whether it cancels (R118, R119, R141). -/
def groupSum (csh : Nat) (a b : Vec32) : FV × Bool × Bool :=
  let ps := List.zipWith FV.mul a.vals b.vals
  let (s, bad) := fsum 0 (ps.map (·.1))
  let bad := bad || ps.any (·.2)
  let s := if bad then .nan else s
  let big := ps.foldl (fun m p => if m.less false p.1.abs then p.1.abs else m) (.fin false 0 0)
  let cancels : Bool := match s with
    | .fin _ _ _ => FV.less false (.fin false 0 0) big && s.abs.less false (big.scaleBy (-(csh : Int)))
    | _ => false
  (s, bad, cancels)

/-- One k-group applied to a pass. -/
def Pass.group (csh : Nat) (p : Pass) (as bs : List Vec32) : Pass :=
  let outs := List.zipWith (fun (mj : Vec32 × Vec32) (old : Nat) =>
    let (s, bad, cc) := groupSum csh mj.1 mj.2
    let s := (s.scaleBy (mj.1.scale + mj.2.scale)).plusZero
    let (r, q) := roundSum fmt32 rndRne bad [fvalue fmt32 old, s]
    (r, q.flags, b2n cc)) (as.flatMap fun a => bs.map fun b => (a, b)) p.acc
  { acc := outs.map (·.1)
    flags := (as ++ bs).foldl (fun f v => f ||| v.flags) (outs.foldl (fun f o => f ||| o.2.1) p.flags)
    cs := p.cs + ((as ++ bs).map (·.cs)).sum
    cu := p.cu + ((as ++ bs).map (·.cu)).sum
    cc := p.cc + (outs.map (·.2.2)).sum }

/-- A whole pass over `kg` k-groups from an accumulator (R118). -/
def Core.pass (c : Core) (csh fmtA fmtB row ws bk kg : Nat) (snap : Acc) : Pass :=
  (List.zip (List.range kg) (groupPlaces c ws bk kg fmtB)).foldl
    (fun p g => p.group csh (c.groupA fmtA row kg g.1) ((c.wslot g.2.1).columns fmtB g.2.2)) ⟨cut 32 1024 snap.toNat, 0, 0, 0, 0⟩

/-- Accumulator patterns as an accumulator. -/
def ofPatterns (xs : List Nat) : Acc := BitVec.ofNat 32768 (join 32 xs)

/-- An accumulator (R117). -/
def Core.acc (c : Core) (n : Nat) : Acc := sget 0 c.accs (n % 4)

/-! ### The queue (R126 to R129, R146, R147) -/

/-- An interval of matrix cycles in issue cycles under the divisors of its issue (R128). -/
def ArrayOp.span (o : ArrayOp) (l : Nat) : Nat := max 1 (ceilDiv (l * o.dm) o.dc)

/-- The slots that a pass reads (R122); its first slot is among them whatever G it holds now, since G is that slot's own (R129). -/
def passSlots (c : Core) (ws bk kg fmtB : Nat) : List Nat := ws % 8 :: (groupPlaces c ws bk kg fmtB).map (·.1)

/-- The entries of an escalation chain from an entry on (R144). -/
def ftChain (ft : Sparse Dword) : Nat → Nat → List Nat → List Nat
  | 0, _, used => used
  | fuel + 1, e, used =>
    let n := ftNext (ftEntry ft e)
    if ftHasNext (ftEntry ft e) && !used.contains n then ftChain ft fuel n (used ++ [n]) else used

/-- The slots that a product may read under a format table and its first entry: those of its first pass, and of every pass of the chain of an MMAE
(R122, R129, R145; log 11). -/
def Core.productSlots (c : Core) (i : Instr) (ft : Sparse Dword) (entry : Nat) : List Nat :=
  let first := passSlots c i.ws i.bk i.kg (i.formats (ftEntry ft entry)).2
  match i with
  | .mmae _ _ _ _ _ _ _ _ _ _ =>
    first ++ (ftChain ft 16 entry [entry]).flatMap fun e =>
      let w := ftEntry ft e
      if ftHasNext w then passSlots c (ftSlot w) i.bk i.kg (ftB (ftEntry ft (ftNext w))) else []
  | _ => first

/-- The slots that an operation may read. -/
def ArrayOp.slots (o : ArrayOp) (c : Core) : List Nat := if o.op.isProduct then c.productSlots o.op o.ft o.entry else []

/-- The slots that a pending WBLD or WBCLR names. -/
def MatCmd.slots (m : MatCmd) : List Nat :=
  match m.op with
  | .wbld _ ws _ _ _ _ _ _ _ _ _ _ _ => [ws.toNat]
  | .wbclr _ mask _ _ => (List.range 8).filter fun k => mask.getLsbD k
  | _ => []

/-- A slot load issued before an identifier is still pending on one of the slots (R129). -/
def Core.loadPending (c : Core) (before : Nat) (slots : List Nat) : Bool :=
  c.mcmds.any fun m => m.id < before && m.slots.any slots.contains

/-- The operations that have not started (R126). -/
def Core.waiting (c : Core) : Nat := (c.aq.filter fun o => !o.started).length

/-- The operations that have not started under nominal timing (R146). -/
def Core.nomWaiting (c : Core) : Nat := (c.aq.filter fun o => c.cycle < o.nomStart).length

/-- An operation still waits for a slot load, so that it is not late (R146). -/
def Core.delayed (c : Core) (o : ArrayOp) : Bool :=
  c.aq.any fun e => e.id ≤ o.id && !e.started && c.loadPending e.id (e.slots c)

/-- An operation is late (R146). -/
def Core.late (c : Core) (o : ArrayOp) : Bool := o.nomDue ≤ c.cycle && !c.delayed o

/-- The last operation in the queue that writes an accumulator. -/
def Core.lastWriter (c : Core) (acc : Nat) : Option ArrayOp := (c.aq.filter fun o => o.op.accs.contains acc).getLast?

/-- An accumulator is unpredictable (R127): an operation that issued before writes it and has not fallen due. -/
def Core.accEarly (c : Core) (acc : Nat) : Bool := c.aq.any fun o => o.op.accs.contains acc && o.issue < c.cycle

/-- The tile must freeze before an operation issues (R147). -/
def Core.mustFreeze (c : Core) (i : Instr) : Bool :=
  match i with
  | .accrd _ acc _ _ => match c.lastWriter acc.toNat with
    | some o => c.late o
    | none => false
  | .monrd _ _ _ => c.aq.any c.late
  | _ => i.isArray && 4 ≤ c.waiting && c.nomWaiting < 4

/-- Queues an array operation (R126, R128, R261). Its nominal and actual times are fixed by the divisors of its issue;
`actStart` holds the earliest start until it starts. -/
def Core.enqueue (c : Core) (o : ArrayOp) (phase : Nat) : Core :=
  let o := { o with phase := phase, dm := c.dM, dc := c.dC }
  let ns := max c.cycle c.nomEnd
  let o := { o with nomStart := ns, nomEnd := ns + o.span phase, nomDue := ns + o.span (phase + 12) }
  { c with aq := c.aq ++ [{ o with actStart := c.arrClk }], nomEnd := o.nomEnd }

end Sys2Proof.Machine
end

