-- ==== Sys2Proof/Machine/Issue.lean ====
section
/-! DEFINITION. The issue of a slot: stage guard, waits, blocking, freezes and execution traps (R29, R159, R251 to R264), and the issue of
one operation as every meaning of a slot operation makes it. -/

namespace Sys2Proof.Machine

/-! ### Work and trees as the checks see them -/

/-- The instance of a graph context (R246). -/
def State.instance_ (s : State) (jobNum inst : Nat) : Option Inst :=
  match s.job jobNum with
  | some j => j.insts.find? fun i => i.num == inst && i.state < 3
  | none => none

/-- The slot counter K[slot] of a context (R235). -/
def State.slotCount (s : State) (c : Ctx) (slot : Nat) : Nat :=
  match c.owner with
  | .graph n => match s.instance_ c.job n with
    | some i => sget 0 i.k slot
    | none => 0
  | _ => sget 0 c.slotk slot

/-- TGEN of a tree as a tile sees it (R269): increments held back from a rerunning tile do not count (R333). -/
def State.tgen (s : State) (t jobNum tree : Nat) : BitVec 16 :=
  match s.job jobNum with
  | some j => sget 0 j.tgen (64 * tree + dieOf t) - BitVec.ofNat 16 (sget 0 (s.tile t).core.tgenLag tree)
  | none => 0

/-- A semaphore. -/
def Core.sem (c : Core) (k : Nat) : Sem := sget ⟨0, false⟩ c.sems (k % 64)

/-- A barrier. -/
def Core.bar (c : Core) (k : Nat) : Bar := sget ⟨0, 0, 0⟩ c.bars (k % 64)

/-- The mask of R195: x[m] low, x[m + 1] high, as the acting slot reads them. -/
def State.mask128 (s : State) (m : BitVec 5) : BitVec 128 := s.rx (m + 1) ++ s.rx m

/-- The floor of a domain's divisor field in PCAP (R260, R394): FLC, FLV, FLM, FLY from bit 12 down; 0 reads as 1. -/
def pcapFloor (pcap : Dword) (dom : Nat) : Nat := max 1 (bitsOf pcap.toNat (12 - 4 * dom) 4)

/-! ### Waits (R159, R175, R196, R209, R217, R267, R270) -/

/-- The condition of a slot's wait holds; an operation that does not wait has none. -/
def State.waitHolds (s : State) (i : Instr) : Bool :=
  let c := s.ctx
  let k := s.me.core
  match i with
  | .ldxf _ _ base off => let ea := scratchEa s base off.toInt 8; (k.feBits (rowOf ea)).getLsbD (wordOf ea)
  | .stxe _ _ base off => let ea := scratchEa s base off.toInt 8; !(k.feBits (rowOf ea)).getLsbD (wordOf ea)
  | .ldvf _ _ base off => k.feBits (rowOf (scratchEa s base off.toInt 256)) == BitVec.allOnes 32
  | .stve _ _ base off => k.feBits (rowOf (scratchEa s base off.toInt 256)) == 0
  | .twany _ _ m => s.mask128 m == 0 || (k.tb &&& s.mask128 m) != 0
  | .twall _ _ m => (k.tb &&& s.mask128 m) == s.mask128 m
  | .wait _ cm lim =>
    (!cm.getLsbD 0 || c.old ≤ lim.toNat) && (!cm.getLsbD 1 || c.ost ≤ lim.toNat) &&
    (!cm.getLsbD 2 || c.ocp ≤ lim.toNat) && (!cm.getLsbD 3 || c.omx ≤ lim.toNat)
  | .semwait _ sem n _ _ => n.toNat ≤ (k.sem sem.toNat).count.toNat
  | .barwt _ g bar _ => (k.bar bar.toNat).gen != (s.rx g).truncate 16
  | .treewt _ g tr _ => s.tgen s.cur.tile c.job tr.toNat != (s.rx g).truncate 16
  | .timewt _ a => (s.rx a).toNat ≤ s.ptc (dieOf s.cur.tile)
  | .drain _ _ mask =>
    !s.fab.reqs.any fun r => r.tile == s.cur.tile && r.hw == s.cur.hw && r.kind.isAccess && mask.getLsbD r.q && !r.settled
  | _ => true

/-! ### Forms that a context may not issue (R35, R235, R260) -/

/-- A supervisor-only form in a context that is not a supervisor (R35, R260). -/
def State.unprivileged (s : State) (i : Instr) : Bool :=
  match i with
  | .launch _ _ _ _ _ _ oj => oj == 1 && !s.ctx.supervisor
  | .cancel _ _ lvl => 2 ≤ lvl.toNat && !s.ctx.supervisor
  | .treemask _ _ _ _ => !s.ctx.supervisor
  | .eret _ => !s.ctx.supervisor
  | .swr _ _ n => ((0x014 ≤ n.toNat && n.toNat ≤ 0x017) || n == 0x081 || n == 0x082) && !s.ctx.supervisor
  | .clkdiv _ fc fv fm fy _ =>
    let low (f : BitVec 4) (d : Nat) : Bool := f != 0 && f.toNat < pcapFloor s.ctl.pcap d
    (low fc 0 || low fv 1 || low fm 2 || low fy 3) && !s.ctx.supervisor
  | _ => false

/-- LAUNCH or TASK in a context that may not issue work (R235, code 10 of R368). -/
def State.workDenied (s : State) (i : Instr) : Bool :=
  let ok : Bool := s.ctx.supervisor || (match s.ctx.owner with | .graph _ => true | .firmware => true | _ => false)
  match i with
  | .launch _ _ _ _ _ _ _ => !ok
  | .task _ _ _ _ _ _ _ _ => !ok
  | _ => false

/-! ### Blocking (R254) -/

/-- A command's own condition of R254, OLD and OST apart. The traps of a LAUNCH come before its block (R235). -/
def State.commandBlocks (s : State) (i : Instr) : Bool :=
  let c := s.ctx
  let k := s.me.core
  if i.isArray then 4 ≤ k.waiting && 4 ≤ k.nomWaiting
  else if i.isMatCmd then 7 ≤ c.omx
  else if i.isCopy then
    128 ≤ k.copies.length || 127 ≤ c.ocp ||
      (i.isTimed && 8 ≤ (k.copies.filter fun m => m.op.isTimed && (m.state == .timed || m.state == .deferred)).length)
  else
    match i with
    | .next _ => 4 ≤ c.nexts.length
    | .launch _ _ _ slot _ _ _ => !s.workDenied i && !s.unprivileged i && 0xFFFF ≤ s.slotCount c slot.toNat
    | .task _ _ _ _ _ _ slot _ => !s.workDenied i && 0xFFFF ≤ s.slotCount c slot.toNat
    | _ => false

/-- OLD or OST would pass 15 by what the slots of a bundle add together (R169). -/
def State.countersFull (s : State) (old ost : Nat) : Bool :=
  (0 < old && 15 < s.ctx.old + old) || (0 < ost && 15 < s.ctx.ost + ost)

/-! ### Execution traps -/

/-- A register of a list is unpredictable (R262). -/
def State.anyEarly (s : State) (rs : List Reg) : Bool := rs.any s.early

/-- A load through a global queue, whose destination is pending (R171, R278). -/
def Instr.queueLoad (i : Instr) : Bool :=
  match i with
  | .gldx _ _ _ _ _ | .gldv _ _ _ _ _ | .slabtag _ _ _ _ _ => true
  | .gamo _ _ _ _ ret _ _ => ret == 1
  | _ => false

/-- A write of the slot would reach a pending destination from another source (R171, R264). -/
def State.pendingClash (s : State) (i : Instr) : Bool :=
  i.dests.any fun r => !r.wired && s.ctx.pend.any fun d => d.reg == r && !(Instr.queueLoad i && d.q < 4)

/-- A slot load is pending on a slot that a product may read (R129, R145; log 11). -/
def State.slotHazard (s : State) (i : Instr) : Bool :=
  let k := s.me.core
  i.isProduct && k.loadPending s.ids (k.productSlots i k.ft (i.ftIndex s.ctx))

/-- The hazard trap of strict mode (R127, R129, R171, R263). It holds of the spill forms too, against R161 read alone (log 75, the model's choice). -/
def State.hazard (s : State) (i : Instr) : Bool :=
  s.ctx.strict &&
    (s.anyEarly i.condRegs || s.anyEarly i.reads || s.pendingClash i || s.slotHazard i ||
      (match i with
       | .accrd _ acc _ _ => s.me.core.accEarly acc.toNat
       | _ => false))

/-- The execution trap of one slot (log 21: the order within a slot): code, AUX, word 3, word 2. -/
def State.slotTrap (s : State) (i : Instr) : Option (Nat × Nat × Nat × Nat) :=
  if s.workDenied i then some (0x14, 0, 10, 5 * 2 ^ 28)
  else if s.unprivileged i then some (0x04, s.cur.pm, 0, 0)
  else if s.hazard i then some (0x05, s.cur.pm, 0, 0)
  else
    let eas := (i.scratch s).toList ++ i.engineEa s
    if s.ctx.strict && eas.any (fun ea => ea.toNat / 2 ^ 18 != 0) then some (0x07, s.cur.pm, 0, 0)
    else
      match i.scratch s with
      | none => none
      | some ea =>
        if (s.me.core.badBits (rowOf ea) &&& i.wordsRead s ea) = 0 then none else some (0x08, s.cur.pm, rowOf ea, 0)

/-- What becomes of a slot or bundle at its issue. -/
inductive Verdict where
  | go
  | trap (code aux w3 w2 : Nat)
  | hold
  | freeze
  | block
  deriving DecidableEq, Repr

/-- The verdict on an operation that issues by itself. -/
def State.verdict (s : State) (i : Instr) : Verdict :=
  if s.ctx.strict && s.anyEarly i.condRegs then .trap 0x05 s.cur.pm 0 0
  else if !s.waitHolds i then .hold
  else if s.me.core.mustFreeze i then .freeze
  else if s.commandBlocks i || s.countersFull i.oldAdds i.ostAdds then .block
  else
    match s.slotTrap i with
    | some (code, aux, w3, w2) => .trap code aux w3 w2
    | none => .go

/-- The context's bundle waits (R159). -/
def State.holdBundle (s : State) : State := s.updSelf fun c => { c with held := true }

/-- One frozen control cycle (R256), in which the array runs on or stands. -/
def Tile.frozen (x : Tile) (array : Bool) : Tile :=
  { x with clock := x.clock + x.core.dC, still := true, core := { x.core with arrClk := x.core.arrClk + b2n array } }

/-- A precise trap of the acting bundle (R28, R366), with the error interrupt of a data abort (R157). A bad word written in the running
region starts a rollback instead (R332). -/
def State.raise (s : State) (code aux w3 w2 : Nat) : State :=
  if code = 0x08 ∧ s.me.ownRow w3 then s.askRollback s.cur.tile
  else
    let s := s.precise code aux w3 w2
    if code = 0x08 then s.signalBoth 1 else s

/-- The issue of one operation: nothing when its guard is off (R29); else its verdict, and its own effect `act` when it issues. A bundle
whose checks have passed sets `checked`, and its slots act at once. -/
def issueSlot (sp : BitVec 3) (i : Instr) (s : State) (act : State → State) : Host.Outcome State Fault Refusal :=
  .next <|
    if !s.guardOn sp then s
    else if s.cur.checked then act s
    else
      match s.verdict i with
      | .go => act s
      | .trap code aux w3 w2 => s.raise code aux w3 w2
      | .hold => s.holdBundle
      | .freeze => s.updMe fun t => t.frozen true
      | .block => s

end Sys2Proof.Machine
end

