-- ==== Sys2Proof/Machine/Global.lean ====
section
/-! DEFINITION. Global accesses of the LD and LS slots (R168 to R175). -/

namespace Sys2Proof.Machine

/-- The effective address of format MG (R168). -/
def globalEa (s : State) (base : BitVec 5) (off : BitVec 11) (unit : Nat) : Dword := s.rx base + BitVec.ofInt 64 (off.toInt * unit)

/-- An access that leaves in its own issue cycle (R328): in a rerun the one that the first run sent is reused (R333). -/
def State.sendAccess (s : State) (kind : ReqKind) (q : Nat) (ea : Dword) (reg : Reg) (opnd aux : Dword) : State :=
  let (rid, s) := s.recall .access fun s => s.newReq kind q ea reg opnd aux 0 .waiting
  ((s.countAccess kind.countsOld).updSelf fun c => c.makePending s.me.core.cycle rid reg q).kick s.cur.tile

/-- An access deferred until its region commits (R328). -/
def State.deferAccess (s : State) (kind : ReqKind) (q : Nat) (ea : Dword) (reg : Reg) (opnd aux : Dword) (data : Row) : State :=
  let (rid, s) := s.newReq kind q ea reg opnd aux data .deferred
  let s := (s.countAccess kind.countsOld).defer (.access rid)
  s.updSelf fun c => c.makePending s.me.core.cycle rid reg q

/-- GLDX (R171). -/
def execGldx (sp : BitVec 3) (t base : BitVec 5) (q : BitVec 2) (off : BitVec 11) (s : State) : Host.Outcome State Fault Refusal :=
  issueSlot sp (.gldx sp t base q off) s fun s => s.sendAccess .load q.toNat (globalEa s base off 8) (.x t.toNat) 0 0

/-- GLDV (R171). -/
def execGldv (sp : BitVec 3) (t base : BitVec 5) (q : BitVec 2) (off : BitVec 11) (s : State) : Host.Outcome State Fault Refusal :=
  issueSlot sp (.gldv sp t base q off) s fun s => s.sendAccess .loadRow q.toNat (globalEa s base off 256) (.v t.toNat) 0 0

/-- GSTX (R171): x[t] is captured at issue. -/
def execGstx (sp : BitVec 3) (t base : BitVec 5) (q : BitVec 2) (off : BitVec 11) (s : State) : Host.Outcome State Fault Refusal :=
  issueSlot sp (.gstx sp t base q off) s fun s =>
    s.deferAccess .store q.toNat (globalEa s base off 8) .none 0 0 (wide (s.rx t))

/-- GSTV (R171): v[t] is captured at issue. -/
def execGstv (sp : BitVec 3) (t base : BitVec 5) (q : BitVec 2) (off : BitVec 11) (s : State) : Host.Outcome State Fault Refusal :=
  issueSlot sp (.gstv sp t base q off) s fun s =>
    s.deferAccess .storeRow q.toNat (globalEa s base off 256) .none 0 0 (s.rv t)

/-- GAMO (R173): a returning one ends its region (R327). -/
def execGamo (sp : BitVec 3) (d a b : BitVec 5) (ret : BitVec 1) (q : BitVec 2) (aop : BitVec 4) (s : State) :
    Host.Outcome State Fault Refusal :=
  issueSlot sp (.gamo sp d a b ret q aop) s fun s =>
    let r := ret == 1
    let s' := s.deferAccess (.amo aop.toNat r) q.toNat (s.rx a) (if r then .x d.toNat else .none) (s.rx b)
      (if aop = 9 then s.rx d else 0) 0
    if r then s'.mustCommit s'.cur.tile else s'

/-- GRED (R174). -/
def execGred (sp : BitVec 3) (a b : BitVec 5) (q : BitVec 2) (aop : BitVec 4) (s : State) : Host.Outcome State Fault Refusal :=
  issueSlot sp (.gred sp a b q aop) s fun s => s.deferAccess (.red aop.toNat) q.toNat (s.rx a) .none (s.rx b) 0 0

/-- DRAIN (R175): all it does is wait. -/
def execDrain (sp : BitVec 3) (scope : BitVec 2) (mask : BitVec 4) (s : State) : Host.Outcome State Fault Refusal :=
  issueSlot sp (.drain sp scope mask) s fun s => s

end Sys2Proof.Machine
end

