-- ==== Sys2Proof/Machine/Branch.lean ====
section
/-! DEFINITION. The BR slot (R48 to R56, R176, R205, R215, R372). -/

namespace Sys2Proof.Machine

/-! ### Branches and loops -/

/-- A conditional branch (R51): two extra issue cycles when taken. -/
def branchIf (sp : BitVec 3) (i : Instr) (off : BitVec 18) (test : State → Bool) (s : State) : Host.Outcome State Fault Refusal :=
  issueSlot sp i s fun s => if test s then s.jump (s.branchTarget off) 2 else s

/-- BRA (R51). -/
def execBra (sp : BitVec 3) (off : BitVec 18) (s : State) : Host.Outcome State Fault Refusal :=
  branchIf sp (.bra sp off) off (fun _ => true) s

/-- BZ (R51). -/
def execBz (sp : BitVec 3) (c : BitVec 5) (off : BitVec 18) (s : State) : Host.Outcome State Fault Refusal :=
  branchIf sp (.bz sp c off) off (fun s => s.rx c == 0) s

/-- BNZ (R51). -/
def execBnz (sp : BitVec 3) (c : BitVec 5) (off : BitVec 18) (s : State) : Host.Outcome State Fault Refusal :=
  branchIf sp (.bnz sp c off) off (fun s => s.rx c != 0) s

/-- BLTZ (R51). -/
def execBltz (sp : BitVec 3) (c : BitVec 5) (off : BitVec 18) (s : State) : Host.Outcome State Fault Refusal :=
  branchIf sp (.bltz sp c off) off (fun s => (s.rx c).toInt < 0) s

/-- BGEZ (R51). -/
def execBgez (sp : BitVec 3) (c : BitVec 5) (off : BitVec 18) (s : State) : Host.Outcome State Fault Refusal :=
  branchIf sp (.bgez sp c off) off (fun s => 0 ≤ (s.rx c).toInt) s

/-- The stage window shifted up by one, with a new stage 1 (R49). -/
def shiftStages (sp : BitVec 8) (on : Bool) : BitVec 8 :=
  (sp.extractLsb' 1 6 ++ BitVec.ofBool on ++ (1 : BitVec 1) : BitVec 8)

/-- LOOPB (R49): no extra issue cycle when taken. -/
def execLoopb (sp : BitVec 3) (lvl : BitVec 1) (off : BitVec 18) (s : State) : Host.Outcome State Fault Refusal :=
  issueSlot sp (.loopb sp lvl off) s fun s =>
    let c := s.ctx
    if lvl = 0 then
      if 1 < c.lc0.toNat then
        (s.updSelf fun c => { c with lc0 := c.lc0 - 1, sp := shiftStages c.sp true }).jump (s.branchTarget off) 0
      else if c.dc ≠ 0 then
        (s.updSelf fun c => { c with dc := c.dc - 1, sp := shiftStages c.sp false }).jump (s.branchTarget off) 0
      else s
    else if 1 < c.lc1.toNat then (s.updSelf fun c => { c with lc1 := c.lc1 - 1 }).jump (s.branchTarget off) 0
    else s

/-- LOOPSET (R48). -/
def execLoopset (sp : BitVec 3) (lvl : BitVec 1) (a : BitVec 5) (n : BitVec 13) (s : State) : Host.Outcome State Fault Refusal :=
  issueSlot sp (.loopset sp lvl a n) s fun s =>
    let x := s.rx a
    s.updSelf fun c => if lvl = 0 then { c with lc0 := x, dc := n, sp := 3 } else { c with lc1 := x }

/-- CALL (R51): x31 receives the link value. -/
def execCall (sp : BitVec 3) (off : BitVec 18) (s : State) : Host.Outcome State Fault Refusal :=
  issueSlot sp (.call sp off) s fun s => (s.dueX 31 s.cur.link 1).jump (s.branchTarget off) 2

/-- JR (R51). -/
def execJr (sp : BitVec 3) (a : BitVec 5) (s : State) : Host.Outcome State Fault Refusal :=
  issueSlot sp (.jr sp a) s fun s => s.jump (s.rx a) 3

/-- JALR (R51): the target is read before the link is written. -/
def execJalr (sp : BitVec 3) (d a : BitVec 5) (s : State) : Host.Outcome State Fault Refusal :=
  issueSlot sp (.jalr sp d a) s fun s =>
    let target := s.rx a
    (s.dueX d s.cur.link 1).jump target 3

/-! ### Traps, return and halt -/

/-- TRAP (R53): a software trap with EPC at the link value. -/
def execTrap (sp : BitVec 3) (n : BitVec 12) (s : State) : Host.Outcome State Fault Refusal :=
  issueSlot sp (.trap sp n) s fun s =>
    s.takeTrap s.cur.tile s.cur.hw ⟨0, 0, n.toNat, 0x09, s.ctx.cmdix, 0, 0⟩ s.cur.link

/-- ERET (R372): its bundle commits the region. -/
def execEret (sp : BitVec 3) (s : State) : Host.Outcome State Fault Refusal :=
  issueSlot sp (.eret sp) s fun s => (s.updSelf Ctx.eret).mustCommit s.cur.tile

/-- HALT (R54): the context issues nothing more, and its region commits. -/
def execHalt (sp : BitVec 3) (s : State) : Host.Outcome State Fault Refusal :=
  issueSlot sp (.halt sp) s fun s =>
    (s.updSelf fun c => { c with halted := true, haltPc := s.cur.pc }).mustCommit s.cur.tile

/-! ### System registers -/

/-- The tile that a tile counts as: the follower of a protected pair is the leader's (R337). -/
def State.identity (s : State) (t : Nat) : Nat :=
  match (s.tile t).pair with
  | some l => l
  | none => t

/-- Low bits of x[n] as `Dword`. -/
def natWord (n : Nat) : Dword := BitVec.ofNat 64 n

/-- The value of a system register (R40). -/
def State.sysReg (s : State) (n : Nat) : Dword :=
  let c := s.ctx
  let t := s.me
  let k := t.core
  let m : Sample := if s.cur.checked then s.cur.sample else s.sample s.cur.tile
  match n with
  | 0x000 => c.cause
  | 0x001 => c.epc
  | 0x002 => c.status
  | 0x003 => c.fcr
  | 0x004 => c.tr0
  | 0x005 => c.tr1
  | 0x006 => c.tr2
  | 0x007 => c.tr3
  | 0x008 => c.lfsr.zeroExtend 64
  | 0x010 => c.sp.zeroExtend 64
  | 0x011 => c.lc0
  | 0x012 => c.lc1
  | 0x013 => c.dc.zeroExtend 64
  | 0x014 => c.nq0
  | 0x015 => c.nq1
  | 0x016 => c.nq2
  | 0x017 => c.nq3
  | 0x018 => natWord c.old
  | 0x019 => natWord c.ost
  | 0x01A => natWord c.ocp
  | 0x01B => natWord c.omx
  | 0x020 => natWord (s.identity s.cur.tile)
  | 0x021 => c.unitid
  | 0x022 => c.grpidx
  | 0x023 => c.launchid
  | 0x040 => k.isscnt
  | 0x041 => t.rplcnt
  | 0x042 => m.esccnt
  | 0x043 => t.repcnt
  | 0x044 => m.bcnt
  | 0x045 => m.ccnt
  | 0x046 => m.satc
  | 0x047 => m.unfc
  | 0x048 => m.canc
  | 0x049 => m.mbud
  | 0x04A => m.tb.truncate 64
  | 0x04B => (m.tb >>> 64).truncate 64
  | 0x080 => Config.ptcSkew
  | 0x081 => (sget PowerRegion.reset s.regions (regionOf s.cur.tile)).cslr
  | 0x082 => m.pcap
  | _ => Config.latBand

/-- SRD (R56). -/
def execSrd (sp : BitVec 3) (d : BitVec 5) (reg : BitVec 12) (s : State) : Host.Outcome State Fault Refusal :=
  issueSlot sp (.srd sp d reg) s fun s => s.dueX d (s.sysReg reg.toNat) 1

/-- An NQ register as a write leaves it: reserved bits [60:51] zero (R56, R241). -/
def nqStored (v : Dword) : Dword := v &&& ~~~((0x3FF : Dword) <<< 51)

/-- What SWR writes (R40, R56): a write to a read-only or unwritten register changes nothing. A device register is written at the commit that its bundle
makes, as no agent outside sees an effect of a region before (R327, R333). -/
def State.sysWrite (s : State) (n : Nat) (v : Dword) : State :=
  match n with
  | 0x001 => s.updSelf fun c => { c with epc := v }
  | 0x003 => s.updSelf fun c => { c with fcr := fcrWrite c.fcr v }
  | 0x008 => s.updSelf fun c => { c with lfsr := if v.truncate 32 = (0 : BitVec 32) then 1 else v.truncate 32 }
  | 0x010 => s.updSelf fun c => { c with sp := v.truncate 8 ||| 1 }
  | 0x011 => s.updSelf fun c => { c with lc0 := v }
  | 0x012 => s.updSelf fun c => { c with lc1 := v }
  | 0x013 => s.updSelf fun c => { c with dc := v.truncate 13 }
  | 0x014 => s.updSelf fun c => { c with nqw := c.nqw ++ [(0, nqStored v)] }
  | 0x015 => s.updSelf fun c => { c with nqw := c.nqw ++ [(1, nqStored v)] }
  | 0x016 => s.updSelf fun c => { c with nqw := c.nqw ++ [(2, nqStored v)] }
  | 0x017 => s.updSelf fun c => { c with nqw := c.nqw ++ [(3, nqStored v)] }
  | 0x081 => s.defer (.device 0x081 v)
  | 0x082 => s.defer (.device 0x082 v)
  | _ => s

/-- A register that belongs to the tile or the device: an SWR to it ends the region (R327). -/
def sysRegShared (n : Nat) : Bool := n == 0x020 || 0x040 ≤ n

/-- SWR (R56). -/
def execSwr (sp : BitVec 3) (a : BitVec 5) (reg : BitVec 12) (s : State) : Host.Outcome State Fault Refusal :=
  issueSlot sp (.swr sp a reg) s fun s =>
    let s' := s.sysWrite reg.toNat (s.rx a)
    if sysRegShared reg.toNat then s'.mustCommit s.cur.tile else s'

/-! ### FENCE, LOCQ and time -/

/-- FENCE (R205): accesses that issue later wait for those that its kind names. -/
def execFence (sp : BitVec 3) (kind scope : BitVec 2) (s : State) : Host.Outcome State Fault Refusal :=
  issueSlot sp (.fence sp kind scope) s fun s =>
    let open_ := s.unsettled s.cur.tile s.cur.hw
    let mark : FenceMark := ⟨kind.toNat, (open_.filter fun r => r.kind.isLoad).map (·.id), (open_.filter fun r => r.kind.isStore).map (·.id)⟩
    s.updSelf fun c => { c with fences := c.fences ++ [mark] }

/-- LOCQ (R176): its destination is pending until it completes. -/
def execLocq (sp : BitVec 3) (d a : BitVec 5) (s : State) : Host.Outcome State Fault Refusal :=
  issueSlot sp (.locq sp d a) s fun s => s.sendAccess .locq 4 (s.rx a) (.x d.toNat) 0 0

/-- TSR (R215): the PTC of the tile's own die at the start of the control cycle; in a rerun the one that the first run read (log 23). -/
def execTsr (sp : BitVec 3) (d : BitVec 5) (s : State) : Host.Outcome State Fault Refusal :=
  issueSlot sp (.tsr sp d) s fun s =>
    let (v, s) := s.recall .ptc fun s => (s.ptc (dieOf s.cur.tile), s)
    s.dueX d (BitVec.ofNat 64 v) 1

/-- CYC (R55). -/
def execCyc (sp : BitVec 3) (d : BitVec 5) (n : BitVec 1) (s : State) : Host.Outcome State Fault Refusal :=
  issueSlot sp (.cyc sp d n) s fun s => s.dueX d (if n = 0 then s.me.core.isscnt else s.me.rplcnt) 1

/-- The empty bundle (R25): no effect but that of its CKPT bit; SOLO bears on merging alone. -/
def execEmptyBundle (ckpt _solo : BitVec 1) (s : State) : Host.Outcome State Fault Refusal :=
  .next (if ckpt = 1 then s.mustCommit s.cur.tile else s)

end Sys2Proof.Machine
end

