-- ==== Sys2Proof/Machine/Tags.lean ====
section
/-! DEFINITION. What the MX and EC slots share: the engine-command index, completion tags, the completion of a command, and the requests
of an engine (R180 to R185, R202, R366). -/

namespace Sys2Proof.Machine

/-- The issue of an MX or EC slot: an engine command, counted once it has issued (R366). -/
def issueCommand (sp : BitVec 3) (i : Instr) (s : State) (act : State → State) : Host.Outcome State Fault Refusal :=
  issueSlot sp i s fun s => (act s).countCommand

/-! ### Command fields -/

/-- The tag of a command that takes one (R133, R187). -/
def tagOf (i : Instr) : Option Nat :=
  let pick (tag : BitVec 7) (tg : BitVec 1) : Option Nat := if tg = 1 then some tag.toNat else none
  match i with
  | .wbld _ _ _ _ _ _ _ _ _ tag tg _ _ => pick tag tg
  | .wbclr _ _ tag tg => pick tag tg
  | .accst _ _ _ _ _ _ tag tg _ _ _ _ => pick tag tg
  | .cpy _ _ _ _ _ _ _ _ tag tg _ _ _ _ => pick tag tg
  | .cpy2 _ _ _ _ _ _ _ tag tg _ _ _ _ => pick tag tg
  | .cpyg _ _ _ _ _ tag tg _ _ _ _ => pick tag tg
  | .cpys _ _ _ _ _ tag tg _ _ _ _ => pick tag tg
  | .cpyr _ _ _ _ _ _ _ tag tg _ _ _ _ => pick tag tg
  | .cpyt _ _ _ _ _ _ _ tag tg _ _ _ _ => pick tag tg
  | .cpyx _ _ _ _ _ _ _ tag tg _ _ _ _ => pick tag tg
  | _ => none

/-- The acquire flag of a command (R133, R187). -/
def acquires (i : Instr) : Bool :=
  match i with
  | .wbld _ _ _ _ _ _ _ _ _ _ _ aq _ => aq == 1
  | .cpy _ _ _ _ _ _ _ _ _ _ aq _ _ _ => aq == 1
  | .cpy2 _ _ _ _ _ _ _ _ _ aq _ _ _ => aq == 1
  | .cpyg _ _ _ _ _ _ _ aq _ _ _ => aq == 1
  | .cpys _ _ _ _ _ _ _ aq _ _ _ => aq == 1
  | .cpyr _ _ _ _ _ _ _ _ _ aq _ _ _ => aq == 1
  | .cpyt _ _ _ _ _ _ _ _ _ aq _ _ _ => aq == 1
  | .cpyx _ _ _ _ _ _ _ _ _ aq _ _ _ => aq == 1
  | _ => false

/-- The release flag of a command (R133, R187). -/
def releases (i : Instr) : Bool :=
  match i with
  | .accst _ _ _ _ _ _ _ _ _ _ rel _ => rel == 1
  | .cpy _ _ _ _ _ _ _ _ _ _ _ rl _ _ => rl == 1
  | .cpy2 _ _ _ _ _ _ _ _ _ _ rl _ _ => rl == 1
  | .cpyg _ _ _ _ _ _ _ _ rl _ _ => rl == 1
  | .cpys _ _ _ _ _ _ _ _ rl _ _ => rl == 1
  | .cpyr _ _ _ _ _ _ _ _ _ _ rl _ _ => rl == 1
  | .cpyt _ _ _ _ _ _ _ _ _ _ rl _ _ => rl == 1
  | .cpyx _ _ _ _ _ _ _ _ _ _ rl _ _ => rl == 1
  | _ => false

/-- The engine code of word 2 (R368). -/
def engineCode (i : Instr) : Nat :=
  match i with
  | .wbld _ _ _ _ _ _ _ _ _ _ _ _ _ | .wbclr _ _ _ _ => 6
  | .accst _ _ _ _ _ _ _ _ _ _ _ _ => 1
  | _ => 2

/-- The COPYERR of a command (R185, R368), for a command without a tag. -/
def copyError (i : Instr) (w3 cmdix : BitVec 32) : Err :=
  ⟨2, 0x11, (tagOf i).getD 0, BitVec.ofNat 32 (engineCode i * 2 ^ 28), w3, cmdix⟩

/-! ### Completion of a command -/

/-- A completed engine command of a tile. -/
def State.commandDone (s : State) (t h : Nat) (copy : Bool) (op : Instr) (err : Option (BitVec 32)) (cmdix : BitVec 32)
    (flags : BitVec 6) : State :=
  let trap := match err with
    | some w => if (tagOf op).isNone then some (copyError op w cmdix) else none
    | none => none
  s.input t (.cmdDone h copy (tagOf op) err.isSome trap flags)

/-! ### Requests of engines -/

/-- A new request of an engine or of a context that need not act now. -/
def State.engineReq (s : State) (t h job : Nat) (kind : ReqKind) (ea : Dword) (opnd : Dword) (data : Row) (cmdix : BitVec 32)
    (after : List Nat) (st : ReqState) : Nat × State :=
  let (rid, s) := s.fresh
  let r : Req := ⟨rid, kind, job, t, h, 4, ea, noPa, .none, opnd, 0, data, cmdix, after, st, s.releaseCycle t h⟩
  (rid, s.updFab fun f => { f with reqs := f.reqs ++ [r] })

/-- The global accesses of the acting context that are still to be performed, deferred ones included (R202). -/
def State.openAccesses (s : State) : List Nat := (s.unsettled s.cur.tile s.cur.hw).map (·.id)

/-- The tag write of a command into the slab tag table (R138, R190), or its error for a handle that names no entry (kind 4). -/
def State.askTagWrite (s : State) (t h job cmd : Nat) (copy : Bool) (slab : Dword) (cmdix : BitVec 32) : Option State :=
  match s.tagAddress job (slab.toNat / 2 ^ 32) with
  | none => none
  | some ea =>
    let (_, s) := s.engineReq t h job (.tagWrite cmd copy) ea (BitVec.ofNat 64 (slab.toNat % 2 ^ 32)) 0 cmdix [] .waiting
    some (s.kick t)

/-- An uncorrectable word in a row that an engine reads: written in the running region it starts a rollback (R332), otherwise the error
interrupt is raised at once (R341). Answers whether the rollback recovers it. -/
def State.rowError (s : State) (t n : Nat) : Bool × State :=
  if (s.tile t).ownRow n then (true, s.askRollback t) else (false, s.signalBoth 1)

end Sys2Proof.Machine
end

