-- ==== Sys2Proof/Machine/Engines.lean ====
section
/-! DEFINITION. The EC slot's copy commands, tags and counters (R178 to R196). -/

namespace Sys2Proof.Machine

/-! ### Copy commands -/

/-- A copy command handed to the engine (R178, R182, R186): counted in OCP and its tag at issue, started once its region commits. -/
def State.queueCopy (s : State) (i : Instr) (g : Dword) (row src : Nat) (third : Dword) : State :=
  let (id, s) := s.fresh
  let after := if acquires i || releases i then s.openAccesses else []
  let m : CopyCmd := ⟨id, i, s.cur.hw, s.ctx.cmdix, g, row % 1024, src, third, after, .deferred, [], 0, false, 0, none⟩
  let s := s.updMyCore fun k => { k.tagIssue (tagOf i) with copies := k.copies ++ [m] }
  (s.updSelf fun c => { c with ocp := c.ocp + 1 }).defer (.copy id)

/-- CPY (R190). -/
def execCpy (sp : BitVec 3) (dir : BitVec 2) (g a : BitVec 5) (roff : BitVec 10) (nrm1 : BitVec 8) (sx : BitVec 5) (tw : BitVec 1)
    (tag : BitVec 7) (tg aq rl : BitVec 1) (scope : BitVec 2) (fe : BitVec 1) (s : State) : Host.Outcome State Fault Refusal :=
  let i := Instr.cpy sp dir g a roff nrm1 sx tw tag tg aq rl scope fe
  issueCommand sp i s fun s =>
    s.queueCopy i (s.rx g) (rowOf (s.rx a) + roff.toNat) (rowOf (s.rx g)) (if tw = 1 then s.rx sx else 0)

/-- CPY2 (R190): the stride is x[st]. -/
def execCpy2 (sp : BitVec 3) (dir : BitVec 2) (g a : BitVec 5) (roff : BitVec 10) (nrm1 : BitVec 8) (st : BitVec 5) (tag : BitVec 7)
    (tg aq rl : BitVec 1) (scope : BitVec 2) (fe : BitVec 1) (s : State) : Host.Outcome State Fault Refusal :=
  let i := Instr.cpy2 sp dir g a roff nrm1 st tag tg aq rl scope fe
  issueCommand sp i s fun s => s.queueCopy i (s.rx g) (rowOf (s.rx a) + roff.toNat) 0 (s.rx st)

/-- CPYG (R191): gathers through a list in scratch. -/
def execCpyg (sp : BitVec 3) (l a : BitVec 5) (roff : BitVec 10) (nrm1 : BitVec 8) (tag : BitVec 7) (tg aq rl : BitVec 1)
    (scope : BitVec 2) (fe : BitVec 1) (s : State) : Host.Outcome State Fault Refusal :=
  let i := Instr.cpyg sp l a roff nrm1 tag tg aq rl scope fe
  issueCommand sp i s fun s => s.queueCopy i 0 (rowOf (s.rx a) + roff.toNat) (rowOf (s.rx l)) 0

/-- CPYS (R191): scatters through a list in scratch. -/
def execCpys (sp : BitVec 3) (l a : BitVec 5) (roff : BitVec 10) (nrm1 : BitVec 8) (tag : BitVec 7) (tg aq rl : BitVec 1)
    (scope : BitVec 2) (fe : BitVec 1) (s : State) : Host.Outcome State Fault Refusal :=
  let i := Instr.cpys sp l a roff nrm1 tag tg aq rl scope fe
  issueCommand sp i s fun s => s.queueCopy i 0 (rowOf (s.rx a) + roff.toNat) (rowOf (s.rx l)) 0

/-- CPYR (R193): multicast of global rows to a window of tiles. -/
def execCpyr (sp : BitVec 3) (w g a : BitVec 5) (nrm1 : BitVec 8) (sem : BitVec 6) (sn : BitVec 8) (tag : BitVec 7) (tg aq rl : BitVec 1)
    (scope : BitVec 2) (fe : BitVec 1) (s : State) : Host.Outcome State Fault Refusal :=
  let i := Instr.cpyr sp w g a nrm1 sem sn tag tg aq rl scope fe
  issueCommand sp i s fun s => s.queueCopy i (s.rx g) (rowOf (s.rx a)) 0 (s.rx w)

/-- CPYT (R190): a CPY that starts at a time. -/
def execCpyt (sp : BitVec 3) (dir : BitVec 2) (g a : BitVec 5) (roff : BitVec 10) (nrm1 : BitVec 8) (tm : BitVec 5) (tag : BitVec 7)
    (tg aq rl : BitVec 1) (scope : BitVec 2) (fe : BitVec 1) (s : State) : Host.Outcome State Fault Refusal :=
  let i := Instr.cpyt sp dir g a roff nrm1 tm tag tg aq rl scope fe
  issueCommand sp i s fun s => s.queueCopy i (s.rx g) (rowOf (s.rx a) + roff.toNat) (rowOf (s.rx g)) (s.rx tm)

/-- CPYX (R192): copies rows to another tile. -/
def execCpyx (sp : BitVec 3) (t b a : BitVec 5) (nrm1 : BitVec 8) (sem : BitVec 6) (sn : BitVec 8) (tag : BitVec 7) (tg aq rl : BitVec 1)
    (scope : BitVec 2) (fe : BitVec 1) (s : State) : Host.Outcome State Fault Refusal :=
  let i := Instr.cpyx sp t b a nrm1 sem sn tag tg aq rl scope fe
  issueCommand sp i s fun s => s.queueCopy i 0 (rowOf (s.rx a)) (rowOf (s.rx b)) (s.rx t)

/-! ### Tags and counters -/

/-- TB as the acting bundle's tag operations read it, at the start of the issue cycle (R195). -/
def State.tagsSet (s : State) : BitVec 128 := if s.cur.checked then s.cur.tb else s.me.core.tb

/-- TE as the acting bundle's tag operations read it. -/
def State.tagErrors (s : State) : BitVec 128 := if s.cur.checked then s.cur.te else s.me.core.te

/-- The lowest set bit of a mask of tags. -/
def lowestTag (m : BitVec 128) : Option Nat := (List.range 128).find? m.getLsbD

/-- What a wait or TFFR reports of the lowest set tag (R195). -/
def tagReport (te : BitVec 128) (m : BitVec 128) : Dword :=
  match lowestTag m with
  | none => 0x8000000000000000
  | some t => BitVec.ofNat 64 (b2n (te.getLsbD t) * 128 + t)

/-- TWANY (R195). -/
def execTwany (sp : BitVec 3) (d m : BitVec 5) (s : State) : Host.Outcome State Fault Refusal :=
  issueCommand sp (.twany sp d m) s fun s => s.dueX d (tagReport s.tagErrors (s.tagsSet &&& s.mask128 m)) 1

/-- TWALL (R195). -/
def execTwall (sp : BitVec 3) (d m : BitVec 5) (s : State) : Host.Outcome State Fault Refusal :=
  issueCommand sp (.twall sp d m) s fun s =>
    let bad := s.tagErrors &&& s.mask128 m
    s.dueX d (if bad = 0 then 0 else tagReport bad bad) 1

/-- TFFR (R195): finds the first set tag and clears it. -/
def execTffr (sp : BitVec 3) (d m : BitVec 5) (s : State) : Host.Outcome State Fault Refusal :=
  issueCommand sp (.tffr sp d m) s fun s =>
    let hit := s.tagsSet &&& s.mask128 m
    let s' := s.dueX d (tagReport s.tagErrors hit) 1
    match lowestTag hit with
    | none => s'
    | some t => s'.updMyCore fun k => { k with tb := k.tb &&& ~~~tagBit t, te := k.te &&& ~~~tagBit t }

/-- TCLR (R195). -/
def execTclr (sp : BitVec 3) (m : BitVec 5) (s : State) : Host.Outcome State Fault Refusal :=
  issueCommand sp (.tclr sp m) s fun s =>
    let mask := s.mask128 m
    s.updMyCore fun k => { k with tb := k.tb &&& ~~~mask, te := k.te &&& ~~~mask }

/-- WAIT (R195, R196): all it does is wait. -/
def execWait (sp : BitVec 3) (cm : BitVec 4) (lim : BitVec 7) (s : State) : Host.Outcome State Fault Refusal :=
  issueCommand sp (.wait sp cm lim) s fun s => s

end Sys2Proof.Machine
end

