-- ==== Sys2Proof/Machine/Sync.lean ====
section
/-! DEFINITION. The EC slot's semaphores, barriers, AND-trees, divisors and timed wait (R206 to R217, R260, R265 to R271). -/

namespace Sys2Proof.Machine

/-- A signal of the acting context (R208): counted in OST at issue, released once its region commits and every earlier access has been
performed. -/
def State.queueSignal (s : State) (kind : ReqKind) (loc : Bool) : State :=
  let (rid, s) := s.newReq kind 4 0 .none 0 (if loc then 1 else 0) 0 .deferred
  (s.countAccess false).defer (.signal rid)

/-- A tile named by an x register, as TILEID does (R208). -/
def targetTile (x : Dword) : Nat := x.toNat % 65536

/-- SEMSIG (R208). -/
def execSemsig (sp : BitVec 3) (t : BitVec 5) (loc : BitVec 1) (sem : BitVec 6) (n : BitVec 8) (md : BitVec 1) (scope : BitVec 2)
    (s : State) : Host.Outcome State Fault Refusal :=
  issueCommand sp (.semsig sp t loc sem n md scope) s fun s =>
    let target := if loc = 1 then s.cur.tile else targetTile (s.rx t)
    s.queueSignal (.sem target sem.toNat n.toNat (md == 1) none) (loc == 1)

/-- SEMWAIT (R209): the decrement of the issue cycle. -/
def execSemwait (sp : BitVec 3) (sem : BitVec 6) (n : BitVec 8) (nd : BitVec 1) (scope : BitVec 2) (s : State) :
    Host.Outcome State Fault Refusal :=
  issueCommand sp (.semwait sp sem n nd scope) s fun s =>
    if nd = 1 then s
    else s.updRest fun k => { k with sems := sput sem.toNat { k.sem sem.toNat with count := (k.sem sem.toNat).count - n.zeroExtend 32 } k.sems }

/-- SEMRD (R210). -/
def execSemrd (sp : BitVec 3) (d : BitVec 5) (sem : BitVec 6) (scope : BitVec 2) (s : State) : Host.Outcome State Fault Refusal :=
  issueCommand sp (.semrd sp d sem scope) s fun s =>
    let m := s.me.core.sem sem.toNat
    s.dueX d ((if m.ovf then (0x8000000000000000 : Dword) else 0) ||| m.count.zeroExtend 64) 1

/-- BARARV (R266): with loc = 1 it also writes the generation. -/
def execBararv (sp : BitVec 3) (r : BitVec 5) (loc : BitVec 1) (bar : BitVec 6) (n : BitVec 8) (md : BitVec 1) (scope : BitVec 2)
    (s : State) : Host.Outcome State Fault Refusal :=
  issueCommand sp (.bararv sp r loc bar n md scope) s fun s =>
    let target := if loc = 1 then s.cur.tile else targetTile (s.rx r)
    let gen := (s.me.core.bar bar.toNat).gen
    let s := s.queueSignal (.bar target bar.toNat n.toNat (md == 1)) (loc == 1)
    if loc = 1 then s.dueX r (gen.zeroExtend 64) 1 else s

/-- BARWT (R267): all it does is wait. -/
def execBarwt (sp : BitVec 3) (g : BitVec 5) (bar : BitVec 6) (scope : BitVec 2) (s : State) : Host.Outcome State Fault Refusal :=
  issueCommand sp (.barwt sp g bar scope) s fun s => s

/-- TREEARV (R270). -/
def execTreearv (sp : BitVec 3) (d : BitVec 5) (tr : BitVec 3) (scope : BitVec 2) (s : State) : Host.Outcome State Fault Refusal :=
  issueCommand sp (.treearv sp d tr scope) s fun s =>
    let gen := s.tgen s.cur.tile s.ctx.job tr.toNat
    (s.queueSignal (.tree tr.toNat) true).dueX d (gen.zeroExtend 64) 1

/-- TREEWT (R270): all it does is wait. -/
def execTreewt (sp : BitVec 3) (g : BitVec 5) (tr : BitVec 3) (scope : BitVec 2) (s : State) : Host.Outcome State Fault Refusal :=
  issueCommand sp (.treewt sp g tr scope) s fun s => s

/-- A mask change on its way to the root of a job's tree (R271), which some ticks of its way have passed already. -/
def State.sendTreeMask (s : State) (d jobNum tree row k : Nat) (mask : BitVec 25) (spent : Nat) : State :=
  match s.job jobNum with
  | none => s
  | some j =>
    if 200 ≤ row ∨ !inPart j.part (8 * (row / 25) + k) then s
    else s.sendAlong d j.root (.treeMaskAtRoot jobNum tree row k mask) spent

/-- TREEMASK (R271): nothing outside the tile sees the new mask before its region commits (R333). It reaches the root up(b) after the issue, or at the
commit if that comes later. -/
def execTreemask (sp : BitVec 3) (a b : BitVec 5) (tr : BitVec 3) (s : State) : Host.Outcome State Fault Refusal :=
  issueCommand sp (.treemask sp a b tr) s fun s =>
    let seg := (s.rx a).toNat
    s.defer (.mask s.ctx.job tr.toNat (bitsOf seg 8 8) (seg % 8) ((s.rx b).truncate 25) s.now)

/-- The divisors as CLKDIV reads them (R260). -/
def Core.divisors (k : Core) : Dword := BitVec.ofNat 64 ((k.dC - 1) * 4096 + (k.dV - 1) * 256 + (k.dM - 1) * 16 + (k.dY - 1))

/-- CLKDIV (R260): the new divisors take effect 16 issue cycles later, and the region ends (R327). -/
def execClkdiv (sp : BitVec 3) (fc fv fm fy : BitVec 4) (d : BitVec 5) (s : State) : Host.Outcome State Fault Refusal :=
  issueCommand sp (.clkdiv sp fc fv fm fy d) s fun s =>
    let k := s.me.core
    let change : DivChange := ⟨k.cycle + 16, fc.toNat, fv.toNat, fm.toNat, fy.toNat⟩
    let s := if fc = 0 ∧ fv = 0 ∧ fm = 0 ∧ fy = 0 then s else s.updRest fun k => { k with divs := k.divs ++ [change] }
    (s.dueX d k.divisors 1).mustCommit s.cur.tile

/-- TIMEWT (R217): all it does is wait. -/
def execTimewt (sp : BitVec 3) (a : BitVec 5) (s : State) : Host.Outcome State Fault Refusal :=
  issueCommand sp (.timewt sp a) s fun s => s

end Sys2Proof.Machine
end

