-- ==== Sys2Proof/Machine/Work.lean ====
section
/-! DEFINITION. The EC slot's work operations: NEXT, LAUNCH, TASK, DONE, CANCEL and SLABTAG (R235 to R248, R277 to R282). -/

namespace Sys2Proof.Machine

/-- The reply NUL (R241). -/
def replyNul : Dword := 0x8000000000000000

/-- The unit that a context belongs to. -/
def State.unitOf (s : State) (c : Ctx) : Option WorkUnit :=
  match c.owner with
  | .unit u => (s.job c.job).bind fun j => j.units.find? fun w => w.uid == u
  | _ => none

/-- One unit of a job changed. -/
def State.updUnit (s : State) (jobNum uid : Nat) (f : WorkUnit → WorkUnit) : State :=
  s.updJob jobNum fun j => { j with units := j.units.map fun u => if u.uid = uid then f u else u }

/-- The unit of a context changed. -/
def State.updUnitOf (s : State) (c : Ctx) (f : WorkUnit → WorkUnit) : State :=
  match c.owner with
  | .unit u => s.updUnit c.job u f
  | _ => s

/-- A launch or task of a job that has not completed. -/
def State.work (s : State) (jobNum lid : Nat) : Option Work :=
  (s.job jobNum).bind fun j => j.works.find? fun w => w.lid == lid && w.state != .done

/-- RESIDENT of a spec (R231). -/
def specResident (spec : List Dword) : Bool := (spec.getD 1 0).getLsbD 54

/-- The context belongs to a unit of a resident launch (R240). -/
def State.resident (s : State) (c : Ctx) : Bool :=
  match s.unitOf c with
  | none => false
  | some u => match s.work c.job u.lid with
    | none => false
    | some w => specResident w.spec

/-- The place that asks when a request reaches the dispatcher. -/
def siteNext : Nat := 900003

/-- NEXT (R240): in a rerun the request of the first run is reused (R333). -/
def execNext (sp : BitVec 3) (s : State) : Host.Outcome State Fault Refusal :=
  issueCommand sp (.next sp) s fun s =>
    let due := s.me.core.cycle + 32
    if !s.resident s.ctx then s.updSelf fun c => { c with nexts := c.nexts ++ [⟨0, due, some replyNul⟩] }
    else
      let (id, s) := s.recall .next fun s =>
        let (id, s) := s.fresh
        let s := s.updUnitOf s.ctx fun u => { u with asked := u.asked ++ [(s.cur.hw, id)] }
        (id, s.after (s.freeTime siteNext) (.nextRequestService s.cur.tile s.cur.hw))
      s.updSelf fun c => { c with nexts := c.nexts ++ [⟨id, due, none⟩] }

/-! ### Launches and tasks -/

/-- A launch or task named across jobs. -/
def workKey (jobNum lid : Nat) : Nat := jobNum * 2 ^ 24 + lid

/-- The graph instance of a context. -/
def Ctx.instance_ (c : Ctx) : Option Nat :=
  match c.owner with
  | .graph n => some n
  | _ => none

/-- A slot counter of a graph instance or of a supervisor context changed (R235). -/
def State.updSlot (s : State) (jobNum t h : Nat) (inst : Option Nat) (slot : Nat) (f : Nat → Nat) : State :=
  match inst with
  | some n => s.updJob jobNum fun j =>
      { j with insts := j.insts.map fun i => if i.num = n ∧ i.state < 3 then { i with k := sput slot (f (sget 0 i.k slot)) i.k } else i }
  | none => s.updCtx t h fun c => { c with slotk := sput slot (f (sget 0 c.slotk slot)) c.slotk }

/-- The launches and tasks outstanding in the slots of a dependence mask of the acting context (R235). -/
def State.dependences (s : State) (dep : BitVec 16) : List Nat :=
  s.jobs.flatMap fun j =>
    (j.works.filter fun w => w.state != .done && w.tile == s.cur.tile && w.hw == s.cur.hw && w.inst == s.ctx.instance_ &&
      dep.getLsbD w.slot && w.parent.isNone).map fun w => workKey j.num w.lid

/-- The next LAUNCHID after one (R235). -/
def nextLid (n : Nat) : Nat := if 0xFFFFFF ≤ n then 1 else n + 1

/-- A launch before anything is known of it. -/
def Work.blank (lid slot tile hw : Nat) (cmdix : BitVec 32) : Work :=
  { lid := lid, isTask := false, job := 0, tile := tile, hw := hw, inst := none, cmdix := cmdix, slot := slot, specAddr := 0, waits := []
    after := [], specReq := none, spec := [], state := .deferred, readyAt := 0, cursor := 0, nextUnit := 0, again := [], ended := 0
    uok := 0, ufail := 0, esc := 0, err := 0, outcome := 0, nextItem := 0, given := [], queues := [], oper := 0, nops := 0, handles := []
    depth := 0, parent := none, convHandle := 0, badJob := false, order := 0, nulled := [] }

/-- The next LAUNCHID of a job, taken (R235). -/
def State.takeLid (s : State) (jobNum : Nat) : Nat × State :=
  (((s.job jobNum).map (·.nextLid)).getD 0, s.updJob jobNum fun j => { j with nextLid := nextLid j.nextLid })

/-- Adds a launch or task to a job. -/
def State.addWork (s : State) (jobNum : Nat) (w : Work) : State :=
  s.updJob jobNum fun j => { j with works := j.works ++ [w] }

/-- LAUNCH (R235, R236): the spec is read once its region commits, after the accesses before it and before those after it. A request
stands for the spec read among the accesses. -/
def execLaunch (sp : BitVec 3) (d a : BitVec 5) (slot : BitVec 4) (dep : BitVec 16) (j : BitVec 5) (oj : BitVec 1) (s : State) :
    Host.Outcome State Fault Refusal :=
  issueCommand sp (.launch sp d a slot dep j oj) s fun s =>
    let c := s.ctx
    let asked := if oj = 1 then (s.rx j).toNat % 65536 else c.job
    let bad := (s.job asked).isNone
    let jobNum := if bad then c.job else asked
    let (lid, s) := s.recall .lid fun s => s.takeLid jobNum
    let (rid, s') := s.engineReq s.cur.tile s.cur.hw c.job (.spec jobNum lid) 0 0 0 c.cmdix s.openAccesses .deferred
    let w := { Work.blank lid slot.toNat s.cur.tile s.cur.hw c.cmdix with
      job := c.job, inst := c.instance_, specAddr := s.rx a &&& ~~~127, waits := s.dependences dep, after := s.openAccesses
      specReq := some rid, badJob := bad }
    let s := (s'.addWork jobNum w).updSlot c.job s.cur.tile s.cur.hw c.instance_ slot.toNat (· + 1)
    (s.defer (.work jobNum lid)).dueX d (BitVec.ofNat 64 lid) 2

/-- TASK (R282): a request stands for its release among the accesses. -/
def execTask (sp : BitVec 3) (d a b c : BitVec 5) (n : BitVec 2) (slot : BitVec 4) (dep : BitVec 16) (s : State) :
    Host.Outcome State Fault Refusal :=
  issueCommand sp (.task sp d a b c n slot dep) s fun s =>
    let k := s.ctx
    let (lid, s) := s.recall .lid fun s => s.takeLid k.job
    let (rid, s') := s.engineReq s.cur.tile s.cur.hw k.job (.spec k.job lid) 0 1 0 k.cmdix s.openAccesses .deferred
    let ab := (s.rx b).toNat
    let handles := [ab % 2 ^ 32, ab / 2 ^ 32, (s.rx c).toNat % 2 ^ 32].take n.toNat
    let w := { Work.blank lid slot.toNat s.cur.tile s.cur.hw k.cmdix with
      isTask := true, job := k.job, inst := k.instance_, waits := s.dependences dep, after := s.openAccesses
      specReq := some rid, oper := (s.rx a).toNat % 65536, nops := n.toNat, handles := handles }
    let s := (s'.addWork k.job w).updSlot k.job s.cur.tile s.cur.hw k.instance_ slot.toNat (· + 1)
    (s.defer (.work k.job lid)).dueX d (BitVec.ofNat 64 lid) 2

/-! ### DONE, CANCEL and SLABTAG -/

/-- DONE.UNIT (R245): in a unit no context issues after this cycle; elsewhere it acts as HALT. Its bundle commits the region (R327). -/
def execDoneUnit (sp : BitVec 3) (s : State) : Host.Outcome State Fault Refusal :=
  issueCommand sp (.doneUnit sp) s fun s =>
    let me := s.ctx
    let s := match me.owner with
      | .unit _ => (s.updMyCore fun k => { k with ctxs := k.ctxs.map fun (p : Nat × Ctx) =>
          if p.2.owner = me.owner ∧ p.2.job = me.job then (p.1, { p.2 with stop := .doneUnit }) else p }).defer (.doneUnit s.cur.hw)
      | _ => s.updSelf fun c => { c with halted := true, haltPc := s.cur.pc }
    s.mustCommit s.cur.tile

/-- DONE.ITEM (R245): counted, released and performed as a SEMSIG is. -/
def execDoneItem (sp : BitVec 3) (a : BitVec 5) (s : State) : Host.Outcome State Fault Refusal :=
  issueCommand sp (.doneItem sp a) s fun s => s.queueSignal (.item (s.rx a)) false

/-- CANCEL (R248): performed once its region commits (R328). -/
def execCancel (sp : BitVec 3) (a : BitVec 5) (lvl : BitVec 2) (s : State) : Host.Outcome State Fault Refusal :=
  issueCommand sp (.cancel sp a lvl) s fun s =>
    let x := (s.rx a).toNat
    s.defer (.cancel s.cur.hw lvl.toNat (if lvl = 0 then x % 2 ^ 24 else x % 65536))

/-- SLABTAG (R278): a read is sent at once, a write ends its region (R327). The handle's entry is looked up at issue, the model's choice (log 77). -/
def execSlabtag (sp : BitVec 3) (d a : BitVec 5) (md q : BitVec 2) (s : State) : Host.Outcome State Fault Refusal :=
  issueCommand sp (.slabtag sp d a md q) s fun s =>
    let x := s.rx a
    let ea := (s.tagAddress s.ctx.job (x.toNat / 2 ^ 32)).getD badHandle
    let w : Dword := BitVec.ofNat 64 (x.toNat % 2 ^ 32)
    if md = 0 then s.sendAccess (.slabtag 0) q.toNat ea (.x d.toNat) w 0
    else (s.deferAccess (.slabtag md.toNat) q.toNat ea (.x d.toNat) w 0 0).mustCommit s.cur.tile

end Sys2Proof.Machine
end

