-- ==== Sys2Proof/Machine/TileEvents.lean ====
section
/-! DEFINITION. The timed events of one tile: results, divisors, the array, the matrix commands, the copy engine, semaphores, barriers and
NEXT (R178 to R193, R206, R240, R259 to R265, R126 to R147, R422). -/

namespace Sys2Proof.Machine

/-! ### Exposed results (R30, R261, R262) -/

/-- The order in which due writes take effect (R30). -/
def Pending.before (a b : Pending) : Bool :=
  a.due < b.due || (a.due == b.due && (a.issue < b.issue || (a.issue == b.issue && a.pm < b.pm)))

/-- A due write put into its place of a list in that order. -/
def insertPending (p : Pending) : List Pending → List Pending
  | [] => [p]
  | q :: r => if p.before q then p :: q :: r else q :: insertPending p r

/-- Due writes in order. -/
def sortPending (ps : List Pending) : List Pending := ps.foldl (fun r p => insertPending p r) []

/-- The place that asks for what a write leaves that met a load on its way into one register. -/
def siteClash : Nat := 1900000000

/-- What a due write leaves: it is unspecified where the register was pending when it issued, as the load may land after it (R171). -/
def Pending.left (p : Pending) : Row :=
  match p.clash with
  | some rid => Config.freeBits 2048 (siteClash + Reg.site p.pm p.dst) rid
  | none => p.val

/-- One due write; its flags wait for the end of the issue cycle (R57). A register that is pending then is left unspecified by its load (R171). -/
def Ctx.applyWrite (c : Ctx) (p : Pending) : Ctx := { c.write p.dst p.left with raised := c.raised ||| p.flags, pend := taint p.dst c.pend }

/-- Every write due by an issue cycle. -/
def Ctx.applyDue (c : Ctx) (now : Nat) : Ctx :=
  { (sortPending (c.due.filter fun p => p.due ≤ now)).foldl Ctx.applyWrite c with due := c.due.filter fun p => now < p.due }

/-- The domains whose results a context should have by now and does not (R261). -/
def Core.lagging (k : Core) (h : Nat) : List Nat :=
  [0, 1, 2, 3].filter fun d => (k.ctx h).due.any fun p => p.due ≤ k.cycle && p.dom == d && sget 0 k.units d < p.ready

/-- The domains for which the tile freezes (R256, R258). -/
def Core.laggards (k : Core) : List Nat := [0, 1, 2, 3].filter fun d => hwNumbers.any fun h => (k.lagging h).contains d

/-- What one control cycle adds to a domain's count of cycles. -/
def Core.domainStep (k : Core) (dom : Nat) : Nat := domainUnit * k.dC / k.div dom

/-- One domain run for a control cycle. -/
def Core.runDomain (k : Core) (dom : Nat) : Core := { k with units := sput dom (sget 0 k.units dom + k.domainStep dom) k.units }

/-- One frozen control cycle in which some domains run (R256, R258). The array's clock counts the issue cycles to which starts and due cycles are fixed, so
it stands: what the array makes up for is counted with its domain (R261). -/
def Tile.lag (x : Tile) (doms : List Nat) : Tile :=
  let y := x.frozen false
  { y with core := doms.foldl Core.runDomain y.core }

/-- The results of a context that are due take effect, or the tile freezes a control cycle in which the slower domains run. -/
def State.resultDue (s : State) (t h : Nat) : State :=
  let lag := (s.tile t).core.lagging h
  if !lag.isEmpty then s.updTile t fun x => x.lag lag
  else s.updTile t fun x =>
    let hit := (x.core.ctx h).due.filter fun p => p.due ≤ x.core.cycle && p.dst != .none
    let x := (sortPending hit).foldl (fun x p => (x.soil (p.dst.bank h)).enter (p.dst.number h) (crcOf p.dst.bytes p.left.toNat)) x
    { x with core := x.core.updCtx h fun c => c.applyDue x.core.cycle }

/-- RESULT_DUE (R262, R261). -/
def execResultDue (t h : Nat) (s : State) : Host.Outcome State Fault Refusal := .next (s.resultDue t h)

/-- A divisor field: 0 leaves the divisor, f sets f + 1 (R260). -/
def newDivisor (old f : Nat) : Nat := if f = 0 then old else f + 1

/-- The divisors after a scheduled change. -/
def Core.applyDivs (k : Core) (d : DivChange) : Core :=
  { k with dC := newDivisor k.dC d.fc, dV := newDivisor k.dV d.fv, dM := newDivisor k.dM d.fm, dY := newDivisor k.dY d.fy }

/-- CLKDIV_APPLY (R260, R387): the changes of this issue cycle, in issue order. -/
def execClkdivApply (t : Nat) (s : State) : Host.Outcome State Fault Refusal :=
  .next (if (s.tile t).core.divs.any fun d => d.at_ ≤ (s.tile t).core.cycle then
    (s.updCore t fun k =>
      { (k.divs.filter fun d => d.at_ ≤ k.cycle).foldl Core.applyDivs k with divs := k.divs.filter fun d => k.cycle < d.at_ }).updTile t
        fun x => x.repair (s.bandOf t) s.now
  else s)

/-! ### The array -/

/-- The accumulator as the queue delivers it to an operation (R126, R144): what the last earlier operation leaves. One with a fault leaves nothing
(R130, R132). -/
def Core.delivered (k : Core) (o : ArrayOp) (acc : Nat) : Acc :=
  match (k.aq.filter fun e => e.id < o.id && e.op.accs.contains acc && !e.stale.contains acc && e.fault.isNone).getLast? with
  | some e => e.res
  | none => k.acc acc

/-- One queued operation replaced. -/
def Core.setOp (k : Core) (o : ArrayOp) : Core := { k with aq := k.aq.map fun e => if e.id = o.id then o else e }

/-- The A rows that a pass reads (R116, R130). -/
def ArrayOp.rowsA (o : ArrayOp) (fmtA : Nat) : List Nat := (List.range o.op.kg).flatMap (groupRows fmtA o.curRow o.op.kg)

/-- A pass of a product begins under its current entry, row and slot; one whose operands fail ends the operation (R122, R124, R132, R144). -/
def Core.beginPass (k : Core) (o : ArrayOp) : ArrayOp :=
  let f := o.op.formats (ftEntry o.ft o.curEntry)
  let o := { o with next := 0, res := if o.op.zeroAcc then 0 else o.snap, flags := 0, ps := 0, pu := 0, pc := 0, again := false }
  match operandFault k f.1 f.2 o.curSlot o.op.bk o.op.kg with
  | some n => { o with fault := some n }
  | none => o

/-- The end of a pass: the counts of an MMAE are held to its budgets (R144). -/
def ArrayOp.endPass (o : ArrayOp) : ArrayOp :=
  match o.op with
  | .mmae _ _ _ _ _ _ _ _ _ _ =>
    let w := ftEntry o.ft o.curEntry
    let b := o.mbud.toNat
    let past := bitsOf b 0 16 < o.ps || bitsOf b 16 16 < o.pu || bitsOf b 32 16 < o.pc
    let more := ftHasNext w && !o.used.contains (ftNext w)
    { o with ts := o.ts + o.ps, tu := o.tu + o.pu, tc := o.tc + o.pc, again := past && more, exhausted := past && !more }
  | _ => o

/-- The scratch rows that the next k-group of a pass reads (R116, R130). -/
def ArrayOp.nextRows (o : ArrayOp) : List Nat :=
  groupRows (o.op.formats (ftEntry o.ft o.curEntry)).1 o.curRow o.op.kg o.next

/-- The next k-group of a pass, read and summed (R118, R130); bad data ends the operation with kind 5. -/
def Core.runGroup (k : Core) (o : ArrayOp) : ArrayOp :=
  if o.nextRows.any fun r => k.badBits r != 0 then { o with fault := some 5, again := false }
  else
    let f := o.op.formats (ftEntry o.ft o.curEntry)
    let place := (groupPlaces k o.curSlot o.op.bk o.op.kg f.2).getD o.next (0, 0)
    let p := Pass.group (bitsOf o.mbud.toNat 48 5) ⟨cut 32 1024 o.res.toNat, o.flags, o.ps, o.pu, o.pc⟩ (k.groupA f.1 o.curRow o.op.kg o.next)
      ((k.wslot place.1).columns f.2 place.2)
    let o := { o with next := o.next + 1, res := ofPatterns p.acc, flags := p.flags, ps := p.cs, pu := p.cu, pc := p.cc }
    if o.next = o.op.kg then o.endPass else o

/-- The whole work of an operation at the start of its phase (R118, R137); a product begins its first pass. -/
def Core.runOp (k : Core) (o : ArrayOp) : ArrayOp :=
  match o.op with
  | .accz _ _ => { o with res := 0 }
  | .accwr _ _ _ q =>
    let old := o.snap.toNat
    let lo := old % 2 ^ (2048 * q.toNat)
    let hi := old / 2 ^ (2048 * (q.toNat + 1))
    { o with res := BitVec.ofNat 32768 (lo + 2 ^ (2048 * q.toNat) * (o.data.toNat + 2 ^ 2048 * hi)) }
  | .accbias _ _ _ =>
    let bias := cut 32 32 o.data.toNat
    let outs := (cut 32 1024 o.snap.toNat).zipIdx.map fun p =>
      roundSum fmt32 rndRne false [fvalue fmt32 p.1, fvalue fmt32 (bias.getD (p.2 % 32) 0)]
    { o with res := ofPatterns (outs.map (·.1)), flags := outs.foldl (fun f q => f ||| q.2.flags) 0 }
  | _ => k.beginPass o

/-- The escalation counter of the launch of a context's unit grows (R144, R234). -/
def State.addEsc (s : State) (t h n : Nat) : State :=
  let c := s.ctxAt t h
  match s.unitOf c with
  | none => s
  | some u =>
    let s := s.updJob c.job fun j => { j with works := j.works.map fun w => if w.lid = u.lid then { w with esc := w.esc + BitVec.ofNat 64 n } else w }
    s.updTile t fun x => { x with region := { x.region with escs := x.region.escs ++ [(c.job, u.lid, n)] } }

/-- The apply step of an MMAE (R144). -/
def State.applyCounts (s : State) (t : Nat) (o : ArrayOp) : State :=
  let s := s.updCore t fun k =>
    { k with
      satc := k.satc + BitVec.ofNat 64 o.ts
      unfc := k.unfc + BitVec.ofNat 64 o.tu
      canc := k.canc + BitVec.ofNat 64 o.tc
      satNow := k.satNow + o.ts
      unfNow := k.unfNow + o.tu
      canNow := k.canNow + o.tc
      esccnt := k.esccnt + BitVec.ofNat 64 o.esc }
  if o.esc = 0 then s else s.addEsc t o.hw o.esc

/-- The matrix cycles before the next k-group of a pass, as cycles of the array's clock (R128, R130). -/
def ArrayOp.groupStart (o : ArrayOp) : Nat :=
  let f := o.op.formats (ftEntry o.ft o.curEntry)
  o.actStart + ceilDiv ((o.before + o.next * opCpg f.1 f.2) * o.dm) o.dc

/-- The first operation with a fault that has not been reported: its counts are applied and its context takes the trap (R130, R132, R144). One that a
rollback has kept is reported when its k-group came (R148). -/
def State.reportFault (s : State) (t : Nat) : State :=
  let k := (s.tile t).core
  match k.aq.find? fun o => o.started && o.fault.isSome && !o.reported && (!o.kept || o.groupStart ≤ k.arrClk) with
  | none => s
  | some o =>
    let n := o.fault.getD 0
    let s := if n = 5 then s.signalBoth 1 else s
    (((s.applyCounts t o).updCore t fun k => k.setOp { o with reported := true }).pendErr t o.hw
      ⟨2, 0x12, 0, BitVec.ofNat 32 (2 ^ 28), BitVec.ofNat 32 n, o.cmdix⟩)

/-- The running product whose next k-group has begun: an operation reads group g during its own cycles (R130). -/
def Core.groupDue (k : Core) : Option ArrayOp :=
  k.aq.find? fun o => o.started && o.op.isProduct && o.fault.isNone && !o.again && o.next < o.op.kg && o.groupStart ≤ k.arrClk

/-- One k-group of the running product; bad data written in the running region starts a rollback instead of a fault (R130, R332). -/
def State.runGroup (s : State) (t : Nat) (o : ArrayOp) : State :=
  let k := (s.tile t).engineView o.id
  let o' := k.runGroup o
  match o'.fault, o.nextRows.find? fun r => k.badBits r != 0 with
  | some _, some r => if (s.tile t).ownRow r then s.askRollback t else (s.updCore t fun k => k.setOp o').reportFault t
  | _, _ => s.updCore t fun k => k.setOp o'

/-- Every k-group whose cycles have begun. -/
def State.runGroupsUpTo (s : State) (t : Nat) : Nat → State
  | 0 => s
  | fuel + 1 =>
    match (s.tile t).core.groupDue with
    | none => s
    | some o => (s.runGroup t o).runGroupsUpTo t fuel

/-- The k-groups whose cycles have begun: a phase has 16 at most. -/
def State.runGroups (s : State) (t : Nat) : State := s.runGroupsUpTo t 16

/-- The operation whose turn it is to start: the oldest waiting one, once every operation before it has ended its phase. -/
def Core.nextOp (k : Core) : Option ArrayOp :=
  match k.aq.find? fun o => !o.started with
  | none => none
  | some o => if k.aq.any (fun e => e.started && (e.again || k.arrClk < e.actEnd)) then none else some o

/-- Nominal times moved to actual ones (R146): the operation that a slot load holds back starts in an issue cycle, and those behind it follow one after
another, none before its own issue. -/
def delayFrom (start : Nat) : List ArrayOp → List ArrayOp
  | [] => []
  | o :: r =>
    let ns := max o.issue start
    let o := { o with nomStart := ns, nomEnd := ns + o.span o.phase, nomDue := ns + o.span (o.phase + 12) }
    o :: delayFrom o.nomEnd r

/-- The queue with the nominal start of its oldest waiting operation moved to an issue cycle. -/
def Core.moveNominal (k : Core) (start : Nat) : Core :=
  let aq := k.aq.filter (·.started) ++ delayFrom start (k.aq.filter fun o => !o.started)
  { k with aq := aq, nomEnd := (aq.getLast?.map (·.nomEnd)).getD k.nomEnd }

/-- The queue while a slot load holds back its oldest waiting operation (R129, R146): its start moves to the next issue cycle. -/
def Core.holdQueue (k : Core) (o : ArrayOp) : Core :=
  (k.setOp { o with actStart := k.arrClk + 1 }).moveNominal (max o.nomStart (k.cycle + 1))

/-- The queue as an operation starts: where the load that held it has ended in a freeze, its nominal start is the running issue cycle (R146, R147). -/
def Core.startNominal (k : Core) (o : ArrayOp) : Core := if k.cycle < o.nomStart then k.moveNominal k.cycle else k

/-- ARRAY_PHASE_START (R126): the oldest waiting operation starts, unless it must still wait. While a load holds one of the slots that it may read, those
of the whole chain of an MMAE among them, its nominal times move with it (R129, R145, R146; log 11). One whose passes a rollback has kept starts when it
did (R148). -/
def execArrayPhaseStart (t : Nat) (s : State) : Host.Outcome State Fault Refusal :=
  let k := (s.tile t).core
  .next <|
    match k.nextOp with
    | none => s
    | some o =>
      let start := if o.kept then o.actStart else max o.actStart k.actEnd
      if k.arrClk < start then s
      else if o.kept then (s.updCore t fun k => { k.setOp { o with started := true } with actEnd := o.actEnd }).reportFault t
      else if k.loadPending o.id (o.slots k) then s.updCore t fun k => k.holdQueue o
      else
        let s := s.updCore t fun k => k.startNominal o
        let o := { ((s.tile t).core.aq.find? fun e => e.id == o.id).getD o with
          started := true
          actStart := start
          actEnd := start + o.span o.phase
          actDue := start + o.span (o.phase + 12)
          snap := k.delivered o ((o.op.accs.head?).getD 0) }
        (s.updCore t fun k => { k.setOp (k.runOp o) with actEnd := o.actEnd }).reportFault t

/-- MMAE_ESCALATION (R144, R146): a pass whose counts exceed a budget is discarded and the next one runs from wider operands. The phase of a pass
whose operands fail is not added, though the escalation is counted (log 59). -/
def execMmaeEscalation (t : Nat) (s : State) : Host.Outcome State Fault Refusal :=
  let k := (s.tile t).core
  .next <|
    match k.aq.find? fun o => o.started && o.again && o.actEnd ≤ k.arrClk with
    | none => s
    | some o =>
      let w := ftEntry o.ft o.curEntry
      let e := ftNext w
      let o := k.beginPass { o with
        curEntry := e
        curRow := ((o.curRow + ftDelta w) % 1024).toNat
        curSlot := ftSlot w
        used := o.used ++ [e]
        esc := o.esc + 1
        before := o.phase }
      let f := o.op.formats (ftEntry o.ft e)
      let o := if o.fault.isSome then o else
        let ph := o.phase + o.op.kg * opCpg f.1 f.2
        { o with phase := ph, actEnd := o.actStart + o.span ph, actDue := o.actStart + o.span (ph + 12) }
      (s.updCore t fun k => { k.setOp o with actEnd := o.actEnd }).reportFault t

/-- An operation falls due (R126, R144): its nominal and its actual due cycles have come. -/
def Core.opDue (k : Core) (o : ArrayOp) : Bool := o.started && !o.again && o.nomDue ≤ k.cycle && o.actDue ≤ k.arrClk

/-- An operation leaves the queue. What an operation before it has still to write to the same accumulators is stale from now on: their writes land in
issue order (R126, R261). -/
def Core.popOp (k : Core) (o : ArrayOp) : Core :=
  { k with aq := (k.aq.filter fun e => e.id != o.id).map fun e =>
      if e.id < o.id ∧ o.fault.isNone then { e with stale := e.stale ++ o.op.accs } else e }

/-- What an operation writes when it falls due: none of the accumulators that a later one has written. -/
def ArrayOp.writes (o : ArrayOp) : List Nat := if o.fault.isSome then [] else o.op.accs.filter fun a => !o.stale.contains a

/-- The entry of an operation in the commit record (R335): an MMAE adds the number of the entry of its final pass (R148). -/
def Tile.enterOp (x : Tile) (o : ArrayOp) : Tile :=
  let x := o.writes.foldl (fun x a => (x.soil (.acc a)).enter (accNumber a) (crcOf 4096 o.res.toNat)) x
  match o.op with
  | .mmae _ _ _ _ _ _ _ _ _ _ => { x with region := { x.region with record := x.region.record ++ [BitVec.ofNat 64 o.curEntry] } }
  | _ => x

/-- ARRAY_OPERATION_DUE (R126, R144): the oldest operation that falls due writes its accumulators, counts and flags, and leaves the queue. -/
def execArrayOperationDue (t : Nat) (s : State) : Host.Outcome State Fault Refusal :=
  let k := (s.tile t).core
  .next <|
    match k.aq.find? k.opDue with
    | none => s
    | some o =>
      let s := s.updTile t fun x =>
        let x := x.enterOp o
        { x with
          core := { x.core.popOp o with accs := o.writes.foldl (fun m a => sput a o.res m) x.core.accs }
          region := { x.region with fallen :=
            if x.region.start.aq.any fun e => e.id == o.id then x.region.fallen ++ [o] else x.region.fallen } }
      if o.fault.isSome then s
      else
        let s := s.updCtx t o.hw fun c => { c with raised := c.raised ||| (if o.exhausted then o.flags ||| flESCX else o.flags) }
        s.applyCounts t o

/-! ### WBLD, WBCLR and ACCST (R129, R135 to R138, R422) -/

/-- The command runs on the weight-buffer load path; the others are ACCSTs. -/
def MatCmd.loads (m : MatCmd) : Bool :=
  match m.op with
  | .accst _ _ _ _ _ _ _ _ _ _ _ _ => false
  | _ => true

/-- The rows that a command moves; a WBCLR takes one matrix cycle. -/
def MatCmd.total (m : MatCmd) : Nat :=
  match m.op with
  | .wbld _ _ _ _ _ n _ _ _ _ _ _ _ => n.toNat + 1
  | .accst _ _ _ _ ofmt _ _ _ _ _ _ _ => fmtBits ofmt.toNat / 2
  | _ => 1

/-- An operation has finished reading its slots (R129, R145). -/
def ArrayOp.readDone (k : Core) (o : ArrayOp) : Bool :=
  match o.op with
  | .mmae _ _ _ _ _ _ _ _ _ _ => false
  | _ => o.started && o.actEnd ≤ k.arrClk

/-- No context of a tile issues any more: each has stopped or halted, and no handler runs. -/
def Core.settled (k : Core) : Bool := k.ctxs.all fun p => !p.2.live && p.2.handler.isNone

/-- A pre-emption has stopped every context of the tile: what has been accepted and did not start with the commit is kept for the save (R379), unless a
queued array operation waits for it. -/
def Core.preempting (k : Core) : Bool := k.aq.isEmpty && k.settled && k.ctxs.any fun p => p.2.stopped && p.2.stop == .preempt

/-- A command has all that it needs to begin (R129, R145, R202, R422). -/
def State.matrixReady (s : State) (k : Core) (m : MatCmd) : Bool :=
  !m.deferred && !m.begun &&
  !(k.mcmds.any fun e => e.id < m.id && e.loads == m.loads && e.moved < e.total) &&
  (!acquires m.op || m.after.all s.settled) &&
  (if m.loads then !(k.aq.any fun o => o.id < m.id && !o.readDone k && (o.slots k).any m.slots.contains)
   else !(k.aq.any fun o => o.id < m.id))

/-- A command may begin: a pre-emption keeps it otherwise (R379). -/
def State.matrixMayBegin (s : State) (k : Core) (m : MatCmd) : Bool := !k.preempting && s.matrixReady k m

/-- One command replaced. -/
def Core.setMat (k : Core) (m : MatCmd) : Core := { k with mcmds := k.mcmds.map fun e => if e.id = m.id then m else e }

/-- The place that asks for the data of a slot whose load failed. -/
def siteSlot : Nat := 900200

/-- A command begins: a WBLD writes the slot's descriptor at its start (R135), and an ACCST reads its accumulator, whose rows it then stores one after
another (R129, R138; log 60). -/
def Tile.beginMat (x : Tile) (m : MatCmd) : Tile :=
  let acc := match m.op with
    | .accst _ acc _ _ _ _ _ _ _ _ _ _ => x.core.acc acc.toNat
    | _ => 0
  let x := { x with core := x.core.setMat { m with begun := true, acc := acc } }
  match m.op with
  | .wbld _ ws _ _ _ _ kind fmt xfmt _ _ _ _ =>
    let x := x.soil (.wslot ws.toNat)
    let w := { x.core.wslot ws.toNat with kind := kind.toNat, fmt := fmt.toNat, xfmt := xfmt.toNat, cleared := false }
    { x with core := { x.core with wslots := sput ws.toNat w x.core.wslots } }
  | _ => x

/-- The scratch row of the next row that a command moves. -/
def MatCmd.nextRow (m : MatCmd) : Nat := (m.row + m.moved) % 1024

/-- The floating format that ACCST stores in (R138). -/
def storeFmt : Nat → Fmt
  | 0 => fmt32
  | 1 => fmtBf16
  | 2 => fmt16
  | 3 => fmtE4
  | _ => fmtE5

/-- One row moved by a command. A row of bad data that the running region wrote starts a rollback, and moves after it (R332). -/
def State.moveRow (s : State) (t : Nat) (m : MatCmd) : State :=
  let k := (s.tile t).engineView m.id
  let m' := { m with moved := m.moved + 1 }
  match m.op with
  | .wbld _ ws _ _ srow _ _ _ _ _ _ _ _ =>
    let r := m.nextRow
    if k.badBits r != 0 then
      let (saved, s) := s.rowError t r
      if saved then s else s.updCore t fun k => k.setMat { m' with err := some 3 }
    else
      let w := k.wslot ws.toNat
      let at_ := 2048 * (srow.toNat + m.moved)
      let old := w.data.toNat
      let data := old % 2 ^ at_ + 2 ^ at_ * ((k.row r).toNat + 2 ^ 2048 * (old / 2 ^ (at_ + 2048)))
      s.updCore t fun k => { k.setMat m' with wslots := sput ws.toNat { w with data := BitVec.ofNat 65536 data } k.wslots }
  | .accst _ _ _ _ ofmt _ _ _ _ _ _ _ =>
    let bits := fmtBits ofmt.toNat
    let n := 2048 / bits
    let elems := cut 32 n (m.acc.toNat / 2 ^ (32 * (n * m.moved)))
    let (out, r) := mapRnd (fun r e => convert (.flt fmt32) (.flt (storeFmt ofmt.toNat)) r e) ⟨m.rm, m.lfsr, m.flags⟩ elems
    (s.input t (.row m.nextRow (BitVec.ofNat 2048 (join bits out)) false)).updCore t fun k =>
      k.setMat { m' with flags := r.flags, lfsr := r.lfsr }
  | .wbclr _ mask _ _ =>
    s.updTile t fun x =>
      (List.range 8).foldl (fun x i =>
        if mask.getLsbD i then
          let x := x.soil (.wslot i)
          { x with core := { x.core with wslots := sput i WSlot.clear x.core.wslots } }
        else x) { x with core := x.core.setMat m' }
  | _ => s

/-- The place that asks whether an A read of the array takes a bank in a matrix cycle. -/
def siteBank : Nat := 900004

/-- The banks that the array's A reads take in a matrix cycle (R422): those of some rows of the k-group whose cycles run, which the manual does not
time within the group (log 34). -/
def State.arrayBanks (s : State) (k : Core) (edge : Nat) : List Nat :=
  match k.aq.find? fun o => o.started && o.op.isProduct && k.arrClk < o.actEnd with
  | none => []
  | some o =>
    let group := groupRows (o.op.formats (ftEntry o.ft o.curEntry)).1 o.curRow o.op.kg (o.next - 1)
    ((group.map (· % 16)).eraseDups).filter fun b => s.freeVal 1 (siteBank + 1000000 * edge + b) == 1

/-- A command has a row to move, or slots to clear, in this matrix cycle. -/
def MatCmd.moving (m : MatCmd) : Bool := m.begun && m.moved < m.total

/-- One command's turn in a matrix cycle in which some banks have been taken: a WBCLR needs none, and a row waits for its bank (R422). -/
def State.matTurn (s : State) (t id : Nat) (used : List Nat) : State × List Nat :=
  match (s.tile t).core.mcmds.find? fun m => m.id == id && m.moving with
  | none => (s, used)
  | some m =>
    match m.op with
    | .wbclr _ _ _ _ => (s.moveRow t m, used)
    | _ =>
      let b := m.nextRow % 16
      if used.contains b then (s, used) else (s.moveRow t m, b :: used)

/-- One matrix cycle of a tile (R422): the array's reads take their banks first, then the commands in issue order; then commands begin. The banks taken
are those that the copy engine cannot use in the running control cycle (R155). -/
def State.matrixCycle (s : State) (t : Nat) (loadsOnly : Bool) (edge : Nat) : State :=
  let k := (s.tile t).core
  let ids := (k.mcmds.filter fun m => m.loads || !loadsOnly).map (·.id)
  let (s, used) := ids.foldl (fun p id => p.1.matTurn t id p.2) (s, s.arrayBanks k edge)
  let s := s.updCore t fun k => { k with banks := k.banks ++ used }
  ids.foldl (fun s id =>
    match (s.tile t).core.mcmds.find? fun m => m.id == id with
    | none => s
    | some m => if s.matrixMayBegin (s.tile t).core m then s.updTile t fun x => x.beginMat m else s) s

/-- One control cycle of the matrix commands of a tile: the matrix cycles that end in it (R259, R422); `loadsOnly` in a freeze in which the load path
alone runs (R147). -/
def State.runMatrix (s : State) (t : Nat) (loadsOnly : Bool) : State :=
  let k := (s.tile t).core
  let at_ := k.matAt + k.domainStep 2
  let s := s.updCore t fun k => { k with matAt := at_ % domainUnit }
  (List.range (at_ / domainUnit)).foldl (fun s e => s.matrixCycle t loadsOnly e) s

/-- A failed WBLD clears its slot's descriptor and leaves its data unspecified (R136). -/
def State.spoilSlot (s : State) (t : Nat) (m : MatCmd) : State :=
  match m.op, m.err with
  | .wbld _ ws _ _ _ _ _ _ _ _ _ _ _, some _ =>
    s.updCore t fun k => { k with wslots := sput ws.toNat { WSlot.clear with data := s.freeVal 65536 siteSlot } k.wslots }
  | _, _ => s

/-- MATRIX_COMMAND_COMPLETION (R129, R422, R138): a command that has moved its last row completes, after its tag write and its release. -/
def execMatrixCommandCompletion (t id : Nat) (s : State) : Host.Outcome State Fault Refusal :=
  let k := (s.tile t).core
  .next <|
    match k.mcmds.find? fun m => m.id == id with
    | none => s
    | some m =>
      if m.deferred ∨ m.moved < m.total ∨ ¬ (!releases m.op || m.after.all s.settled) then s
      else
        let asks : Bool := match m.op with | .accst _ _ _ _ _ _ _ _ tw _ _ _ => tw == 1 | _ => false
        if asks ∧ m.tagWrite = 0 ∧ m.err = none then
          match (s.updCore t fun k => k.setMat { m with tagWrite := 1 }).askTagWrite t m.hw (k.ctx m.hw).job m.id false m.slab m.cmdix with
          | some s => s
          | none => s.updCore t fun k => k.setMat { m with tagWrite := 2, err := some 4 }
        else if m.tagWrite = 1 then s
        else
          let s := (s.spoilSlot t m).updCore t fun k => { k with mcmds := k.mcmds.filter fun e => e.id != id }
          s.commandDone t m.hw false m.op m.err m.cmdix m.flags

end Sys2Proof.Machine
end

