-- ==== Sys2Proof/Machine/CopyEvents.lean ====
section
/-! DEFINITION. The timed events of the copy engine, the semaphores, the barriers and NEXT (R178 to R193, R206, R240, R265). -/

namespace Sys2Proof.Machine

/-! ### The copy engine -/

/-- The rows of a copy command (R187). -/
def CopyCmd.rows (m : CopyCmd) : Nat :=
  match m.op with
  | .cpy _ _ _ _ _ n _ _ _ _ _ _ _ _ => n.toNat + 1
  | .cpy2 _ _ _ _ _ n _ _ _ _ _ _ _ => n.toNat + 1
  | .cpyg _ _ _ _ n _ _ _ _ _ _ => n.toNat + 1
  | .cpys _ _ _ _ n _ _ _ _ _ _ => n.toNat + 1
  | .cpyr _ _ _ _ n _ _ _ _ _ _ _ _ => n.toNat + 1
  | .cpyt _ _ _ _ _ n _ _ _ _ _ _ _ => n.toNat + 1
  | .cpyx _ _ _ _ n _ _ _ _ _ _ _ _ => n.toNat + 1
  | _ => 0

/-- fe of a copy command (R187). -/
def CopyCmd.fe (m : CopyCmd) : Bool :=
  match m.op with
  | .cpy _ _ _ _ _ _ _ _ _ _ _ _ _ fe => fe == 1
  | .cpy2 _ _ _ _ _ _ _ _ _ _ _ _ fe => fe == 1
  | .cpyg _ _ _ _ _ _ _ _ _ _ fe => fe == 1
  | .cpyr _ _ _ _ _ _ _ _ _ _ _ _ fe => fe == 1
  | .cpyt _ _ _ _ _ _ _ _ _ _ _ _ fe => fe == 1
  | .cpyx _ _ _ _ _ _ _ _ _ _ _ _ fe => fe == 1
  | _ => false

/-- The way a command's rows go: 0 global to scratch, 1 scratch to global, 2 within the tile, 3 to another tile. -/
def CopyCmd.way (m : CopyCmd) : Nat :=
  match m.op with
  | .cpy _ dir _ _ _ _ _ _ _ _ _ _ _ _ => dir.toNat
  | .cpy2 _ dir _ _ _ _ _ _ _ _ _ _ _ => dir.toNat
  | .cpyt _ dir _ _ _ _ _ _ _ _ _ _ _ => dir.toNat
  | .cpyg _ _ _ _ _ _ _ _ _ _ _ => 0
  | .cpyr _ _ _ _ _ _ _ _ _ _ _ _ _ => 0
  | .cpys _ _ _ _ _ _ _ _ _ _ _ => 1
  | _ => 3

/-- The semaphore and count of CPYX and CPYR (R192, R193). -/
def CopyCmd.add (m : CopyCmd) : Nat × Nat :=
  match m.op with
  | .cpyr _ _ _ _ _ sem sn _ _ _ _ _ _ => (sem.toNat, sn.toNat)
  | .cpyx _ _ _ _ _ sem sn _ _ _ _ _ _ => (sem.toNat, sn.toNat)
  | _ => (0, 0)

/-- A CPYR. -/
def CopyCmd.multicast (m : CopyCmd) : Bool :=
  match m.op with
  | .cpyr _ _ _ _ _ _ _ _ _ _ _ _ _ => true
  | _ => false

/-- The global address of row i (R190, R191), and the list row that it is read from. -/
def CopyCmd.address (m : CopyCmd) (k : Core) (i : Nat) : Dword × Option Nat :=
  let listed : Dword × Option Nat := (rowWord (k.row (m.src + i / 32)) (i % 32), some ((m.src + i / 32) % 1024))
  match m.op with
  | .cpy2 _ _ _ _ _ _ _ _ _ _ _ _ _ => (m.g + BitVec.ofInt 64 ((m.third &&& ~~~0xFF).toInt * i), none)
  | .cpyg _ _ _ _ _ _ _ _ _ _ _ => listed
  | .cpys _ _ _ _ _ _ _ _ _ _ _ => listed
  | _ => (m.g + BitVec.ofNat 64 (256 * i), none)

/-- One copy command replaced. -/
def Core.setCopy (k : Core) (m : CopyCmd) : Core := { k with copies := k.copies.map fun e => if e.id = m.id then m else e }

/-- The command that a request of the copy engine carries a row for. -/
def Req.copyRow (r : Req) : Option Nat :=
  match r.kind with
  | .copyIn c _ _ => some c
  | .copyOut c => some c
  | .copyTo c _ _ _ => some c
  | _ => none

/-- A copy command fails, unless it has failed before (R185): word 3 of its record. Rows that it has read and not yet sent are written nowhere. -/
def State.failCopy (s : State) (t id : Nat) (w3 : Nat) : State :=
  (s.updFab fun f => { f with reqs := f.reqs.filter fun r => !(r.copyRow == some id && (r.state == .deferred || r.state == .done)) }).updCore t fun k =>
    { k with copies := k.copies.map fun e => if e.id = id ∧ e.err = none then { e with err := some (BitVec.ofNat 32 w3) } else e }

/-- The window of CPYR or of a launch (R193, R231): the tiles in row-major order, or none where it is empty or reaches past the panel. -/
def windowTiles (w : Nat) : Option (List Nat) :=
  let r0 := bitsOf w 0 8
  let c0 := bitsOf w 8 8
  let h := bitsOf w 16 8
  let wd := bitsOf w 24 8
  if h = 0 ∨ wd = 0 ∨ 200 < r0 + h ∨ 200 < c0 + wd then none
  else some ((List.range h).flatMap fun i => (List.range wd).map fun j => tileAt (r0 + i) (c0 + j))

/-- The tiles that a command writes, or none where it names one that is not valid (R192, R193). -/
def State.copyTargets (s : State) (t : Nat) (m : CopyCmd) : Option (List Nat) :=
  let j := (s.ctxAt t m.hw).job
  match m.op with
  | .cpyx _ _ _ _ _ _ _ _ _ _ _ _ _ =>
    let d := m.third.toNat % 65536
    if s.validTarget j d then some [d] else none
  | .cpyr _ _ _ _ _ _ _ _ _ _ _ _ _ =>
    match windowTiles (m.third.toNat % 2 ^ 32) with
    | none => none
    | some ts =>
      let us := ts.filter fun d => !isSupervisor d && !(s.tile d).retired
      if us.all (s.validTarget j) then some us else none
  | _ => some []

/-- The commands that hold a place of the eight (R178). -/
def Core.activeCopies (k : Core) : Nat :=
  (k.copies.filter fun m => m.state == .active || m.state == .finishing).length

/-- What is left of a command must reach a node that its tile's die cannot reach (R185, R360): a target of its rows or adds, or the home of a row. -/
def State.copyCut (s : State) (t : Nat) (m : CopyCmd) : Bool :=
  let d := dieOf t
  let n := s.node d
  if n.downEdges.isEmpty && n.downNodes.isEmpty then false
  else
    let k := (s.tile t).core
    let job := (k.ctx m.hw).job
    let need := if m.way = 1 then permW else permRd
    let far (ea : Dword) : Bool :=
      let pa := s.knownPa t job ea need 256
      pa != noPa && s.unreachable d (homeNode pa)
    let unsent := s.fab.reqs.filter fun r => r.copyRow == some m.id && (r.state == .deferred || r.state == .done || r.state == .waiting)
    let left := m.next < m.rows || !unsent.isEmpty || (m.add.2 != 0 && !m.signals)
    (left && m.targets.any fun x => s.unreachable d (dieOf x)) || ((m.way == 0 || m.way == 1) &&
      (unsent.any (fun r => m.way == 1 && far r.ea) || (List.range (m.rows - m.next)).any fun i => far (m.address k (m.next + i)).1))

/-- A command takes a place and starts; a target that is not valid, or a node that cannot be reached, ends it at once (R185). -/
def State.startCopy (s : State) (t : Nat) (m : CopyCmd) : State :=
  match s.copyTargets t m with
  | none => (s.updCore t fun k => k.setCopy { m with state := .active, next := m.rows }).failCopy t m.id 2
  | some ts =>
    let m := { m with state := .active, targets := ts }
    if s.copyCut t m then (s.updCore t fun k => k.setCopy { m with next := m.rows }).failCopy t m.id 5 else s.updCore t fun k => k.setCopy m

/-- The commands under way on a die that must reach a node which a new table marks unreachable complete with an error (R185). -/
def State.failCut (s : State) (d : Nat) : State :=
  s.tiles.foldl (fun s p =>
    if dieOf p.1 ≠ d then s
    else (p.2.core.copies.filter fun m => m.state == .active && m.err.isNone && s.copyCut p.1 m).foldl (fun s m => s.failCopy p.1 m.id 5) s) s

/-- The oldest queued command takes a free place, if there is one (R178). -/
def State.startQueued (s : State) (t : Nat) : State :=
  match (s.tile t).core.copies.find? fun m => m.state == .queued with
  | none => s
  | some m => if (s.tile t).core.activeCopies < 8 then s.startCopy t m else s

/-- COPY_COMMAND_START (R178): the oldest queued command takes a free place, unless a pre-emption keeps it (R379). -/
def execCopyCommandStart (t : Nat) (s : State) : Host.Outcome State Fault Refusal :=
  .next (if (s.tile t).core.preempting then s else s.startQueued t)

/-- The commands that start with the commit at a pre-emption (R379, step 3): the queued copies for which there are places, and the matrix commands that
have all that they need. -/
def State.fillPlaces (s : State) (t : Nat) : State :=
  let s := (List.range 8).foldl (fun s _ => s.startQueued t) s
  ((s.tile t).core.mcmds.map (·.id)).foldl (fun s id =>
    match (s.tile t).core.mcmds.find? fun m => m.id == id with
    | none => s
    | some m => if s.matrixReady (s.tile t).core m then s.updTile t fun x => x.beginMat m else s) s

/-- CPYT_START (R178, R190): a timed command whose time has come takes the next free place. -/
def execCpytStart (t id : Nat) (s : State) : Host.Outcome State Fault Refusal :=
  let k := (s.tile t).core
  .next <|
    match k.copies.find? fun m => m.id == id && m.state == .timed with
    | none => s
    | some m => if k.activeCopies < 8 ∧ ¬ k.preempting ∧ m.third.toNat ≤ s.ptc (dieOf t) then s.startCopy t m else s

/-- A row written into scratch from outside the issue port (R183, R329, R331). -/
def State.landScratch (s : State) (t row : Nat) (data : Row) (fe : Bool) : State :=
  s.input t (.row (row % 1024) data fe)

/-- The Y port of a row's bank is free in the running control cycle of a tile (R155, R422). -/
def Tile.portFree (x : Tile) (row : Nat) : Bool := !x.live || !x.core.banks.contains (row % 16)

/-- The engine's access to a row takes the Y port of its bank. -/
def Core.takePort (k : Core) (row : Nat) : Core := { k with banks := row % 16 :: k.banks }

/-- A row may be written into a tile's scratchpad now: one row in each copy cycle, one in four from another tile through the router (R179), on a free Y
port. -/
def State.mayLand (s : State) (t row : Nat) (far : Bool) : Bool :=
  (s.tile t).core.landAt ≤ s.pulsesAt t && (!far || (s.tile t).core.inAt ≤ s.pulsesAt t) && (s.tile t).portFree row

/-- The row of a request written into a tile's scratchpad, and what follows; it tries again a tick later while it cannot be written. -/
def State.landRow (s : State) (r : Req) (t row : Nat) (fe : Bool) (next : State → State) : State :=
  let far : Bool := t != r.tile
  if s.mayLand t row far then
    next ((s.landScratch t row r.data fe).updCore t fun k =>
      { k.takePort row with landAt := s.pulsesAt t + k.dY, inAt := if far then s.pulsesAt t + 4 * k.dY else k.inAt })
  else s.after 1 (.copyRowLand r.id)

/-- A command's requests that are not over. -/
def State.copyOpen (s : State) (id : Nat) : Bool :=
  s.fab.reqs.any fun r => r.copyRow == some id || (match r.kind with
    | .sem _ _ _ _ (some c) => c == id
    | .tagWrite c true => c == id
    | _ => false)

/-- Every row of a command has been read: each of its reads comes before each of its writes (R202). -/
def State.readsDone (s : State) (m : CopyCmd) : Bool :=
  m.rows ≤ m.next && !s.fab.reqs.any fun r => match r.kind with
    | .copyIn c _ _ => c == m.id && r.state != .done
    | _ => false

/-- The scratch row that a command reads for its row i: the list row of CPYG and CPYS, else the source row. -/
def CopyCmd.source (m : CopyCmd) (i : Nat) : Nat := if m.way = 1 then (m.row + i) % 1024 else (m.src + i) % 1024

/-- The source and destination rows of a command lie in one scratchpad and overlap (R183). -/
def CopyCmd.overlapping (m : CopyCmd) (t : Nat) : Bool :=
  let apart (a b : Nat) : Bool := m.rows ≤ (a + 1024 - b) % 1024 && m.rows ≤ (b + 1024 - a) % 1024
  (m.way == 2 || (m.way == 3 && m.targets.contains t)) && !apart (m.row % 1024) (m.src % 1024)

/-- The place that asks for a destination row of a command whose source rows overlap it. -/
def siteOverlap : Nat := 900300

/-- The next row of a command read (R190 to R193): from scratch into the engine, or asked for from its home port. A row that holds bad data
is not written (R185), unless a rollback recovers it first (R332). -/
def State.beginRow (s : State) (t : Nat) (m : CopyCmd) : State :=
  let k := (s.tile t).engineView m.id
  let i := m.next
  let job := (k.ctx m.hw).job
  let read (s : State) : State := s.updCore t fun k => k.setCopy { m with next := i + 1 }
  let (ea, list) := m.address k i
  let spoiled (r : Nat) (words : BitVec 32) : Bool := k.badBits r &&& words != 0
  let fail (r : Nat) : State :=
    let (saved, s) := s.rowError t r
    if saved then s else s.failCopy t m.id 3
  let dst := (m.row + i) % 1024
  let src := m.source i
  match list with
  | some r => if spoiled r (1 <<< (i % 32)) then fail r else
      if m.way = 0 then ((read s).engineReq t m.hw job (.copyIn m.id dst m.fe) ea 0 0 m.cmdix [] .waiting).2.kick t
      else if spoiled src (BitVec.allOnes 32) then fail src
      else ((read s).engineReq t m.hw job (.copyOut m.id) ea 0 (k.row src) m.cmdix [] .deferred).2
  | none =>
    if m.way = 0 then
      ((read s).engineReq t m.hw job (.copyIn m.id (if m.multicast then i else dst) m.fe) ea 0 0 m.cmdix [] .waiting).2.kick t
    else if spoiled src (BitVec.allOnes 32) then fail src
    else
      let data := if m.overlapping t then s.freeVal 2048 (siteOverlap + i) else k.row src
      let kind : ReqKind := if m.way = 1 then .copyOut m.id else .copyTo m.id (if m.way = 2 then t else m.targets.headD 0) dst m.fe
      ((read s).engineReq t m.hw job kind ea 0 data m.cmdix [] .deferred).2

/-- The first of five places that ask which row the engine moves next. -/
def siteCopy : Nat := 900400

/-- One of several, which the manual leaves open (R178). -/
def State.choose {α : Type} (s : State) (site : Nat) (xs : List α) : Option α := xs[(s.freeVal 3 site).toNat % max 1 xs.length]?

/-- The next row read: asked for through the router, or from scratch on a free Y port (R155, R179). A command that acquires waits for the accesses
before it (R202). -/
def State.nextCopyRow (s : State) (t : Nat) (inward : Bool) : State :=
  let x := s.tile t
  let k := x.core
  let free (m : CopyCmd) : Bool :=
    (match (m.address k m.next).2 with | some r => x.portFree r | none => true) && (m.way == 0 || x.portFree (m.source m.next))
  let may := k.copies.filter fun m => m.state == .active && m.err.isNone && m.next < m.rows && ((m.way == 0) == inward) && free m &&
    (!acquires m.op || m.after.all s.settled)
  let u := sget 0 k.units 3
  let now := s.pulsesAt t
  if (if inward then now < k.inAt else u < k.rowAt) then s
  else
    match s.choose (siteCopy + b2n inward) may with
    | none => s
    | some m =>
      let s := s.updCore t fun k =>
        let k := match (m.address k m.next).2 with
          | some r => k.takePort r
          | none => k
        if inward then { k with inAt := now + 4 * k.dY }
        else { k.takePort (m.source m.next) with rowAt := max u k.rowAt + domainUnit }
      s.beginRow t m

/-- The rows of a command that have been read and may now be written. -/
def State.rowsToWrite (s : State) (m : CopyCmd) : List Req :=
  if m.state != .active || m.err.isSome || !s.readsDone m then []
  else s.fab.reqs.filter fun r => r.copyRow == some m.id &&
    (r.state == .deferred || (r.state == .done && (match r.kind with | .copyIn _ _ _ => true | _ => false)))

/-- Rows that have been read leave the engine: one into scratch in a copy cycle, one through the router in four (R179). The rows of a CPYR go out as
one multicast (R193), those of a CPYS in any order, so that either row that one global row is to hold may stay (R191). -/
def State.writeRows (s : State) (t : Nat) : State :=
  let k := (s.tile t).core
  let first (m : CopyCmd) : Option Req :=
    match m.op with
    | .cpys _ _ _ _ _ _ _ _ _ _ _ => s.choose (siteCopy + 4) (s.rowsToWrite m)
    | _ => (s.rowsToWrite m).head?
  let go (m : CopyCmd) : List (CopyCmd × Req) := ((first m).map fun r => (m, r)).toList
  let ready := k.copies.flatMap go
  let inner := ready.filter fun p => (p.1.way == 0 && !p.1.multicast) || p.1.way == 2
  let outer := ready.filter fun p => p.1.way == 1 || p.1.way == 3 || p.1.multicast
  let s := if s.pulsesAt t < k.landAt then s else
    match s.choose (siteCopy + 2) inner with
    | none => s
    | some p => (s.updReq p.2.id fun r => { r with state := .sent }).after 0 (.copyRowLand p.2.id)
  let u := sget 0 k.units 3
  if u < k.outAt then s
  else
    match s.choose (siteCopy + 3) outer with
    | none => s
    | some p =>
      let s := s.updCore t fun k => { k with outAt := max u k.outAt + 4 * domainUnit }
      if p.1.multicast then (s.updReq p.2.id fun r => { r with state := .sent }).after 0 (.copyRowLand p.2.id)
      else (s.updReq p.2.id fun r => { r with state := .waiting }).kick t

/-- The rows of a command to a tile that have left and have not landed in it. -/
def State.landing (s : State) (id t : Nat) : Bool :=
  s.fab.reqs.any fun r => r.state == .sent && (match r.kind with
    | .copyTo c d _ _ => c == id && d == t
    | _ => false)

/-- The semaphore adds of a command (R192, R193), after what its release waits for (R202): that of CPYX leaves a copy cycle after its last row, behind
which it travels in the same stream and takes effect (R419, R420); those of CPYR once every row has been performed at its target. A command one of whose
targets is unreachable makes none (R185). -/
def State.sendAdds (s : State) (t : Nat) (m : CopyCmd) : State :=
  let k := (s.tile t).core
  let moving := s.fab.reqs.any (fun r => r.copyRow == some m.id && (if m.multicast then r.state != .performed else r.state != .performed && r.state != .sent)) ||
    sget 0 k.units 3 + 3 * domainUnit < k.outAt
  if m.state != .active || m.err.isSome || m.next < m.rows || m.signals || m.add.2 == 0 || moving || (releases m.op && !m.after.all s.settled) then s
  else if m.targets.any fun d => s.unreachable (dieOf t) (dieOf d) then s.failCopy t m.id 5
  else
    let job := (s.ctxAt t m.hw).job
    let s := s.updCore t fun k => k.setCopy { m with signals := true }
    (m.targets.foldl (fun s d =>
      (s.engineReq t m.hw job (.sem d m.add.1 m.add.2 false (some m.id)) 0 0 0 m.cmdix [] .waiting).2) s).kick t

/-- One control cycle of the copy engine of a tile: one row on each side at most (R179), then the adds. -/
def State.runCopies (s : State) (t : Nat) : State :=
  if (s.tile t).core.copies.isEmpty then s
  else
    let s := ((s.nextCopyRow t true).nextCopyRow t false).writeRows t
    (s.tile t).core.copies.foldl (fun s m => s.sendAdds t m) s

/-- COPY_ROW_LAND (R184, R192, R193): a row read for a copy reaches the tile, and is written once every row of its command has been read (R202); a row of
CPYR goes on to every tile of its window; the add of a command follows its rows. A row of a command that has failed is dropped (R185). -/
def execCopyRowLand (rid : Nat) (s : State) : Host.Outcome State Fault Refusal :=
  .next <|
    match s.req rid with
    | none => s
    | some r =>
      match r.kind with
      | .copyIn id row fe =>
        match (s.tile r.tile).core.copies.find? fun m => m.id == id with
        | none => s.dropReq rid
        | some m =>
          if m.err.isSome then s.dropReq rid
          else if r.state = .performed then s.updReq rid fun r => { r with state := .done }
          else if m.multicast then
            ((m.targets.foldl (fun s d =>
              (s.engineReq r.tile r.hw r.job (.copyTo id d ((m.row + row) % 1024) fe) 0 0 r.data r.cmdix [] .waiting).2) (s.dropReq rid))).kick r.tile
          else s.landRow r r.tile row fe fun s => s.dropReq rid
      | .copyTo _ d row fe => s.landRow r d row fe fun s => s.performedAt r
      | .sem d k n set (some id) =>
        if s.landing id d then s.after 1 (.copyRowLand rid) else (s.arriveSem d k n set).performedAt r
      | _ => s

/-- COPY_COMPLETION (R184, R185): a command completes after its rows, its adds, its release and its tag write. -/
def execCopyCompletion (t id : Nat) (s : State) : Host.Outcome State Fault Refusal :=
  .next <|
    match (s.tile t).core.copies.find? fun m => m.id == id with
    | none => s
    | some m =>
      let failed := m.err.isSome
      let ready := (m.state == .active || m.state == .finishing) && (failed || (m.next == m.rows && (m.signals || m.add.2 == 0))) &&
        !s.copyOpen id && (!releases m.op || m.after.all s.settled) && !(s.tile t).reruns
      if !ready then s
      else
        let asks : Bool := match m.op with | .cpy _ _ _ _ _ _ _ tw _ _ _ _ _ _ => tw == 1 | _ => false
        if asks ∧ m.tagWrite = 0 ∧ ¬ failed then
          match (s.updCore t fun k => k.setCopy { m with tagWrite := 1, state := .finishing }).askTagWrite t m.hw (s.ctxAt t m.hw).job id true
              m.third m.cmdix with
          | some s => s
          | none => s.updCore t fun k => k.setCopy { m with tagWrite := 2, err := some 4 }
        else
          let s := s.updCore t fun k => { k with copies := k.copies.filter fun e => e.id != id }
          s.commandDone t m.hw true m.op m.err m.cmdix 0

/-! ### Semaphores and barriers -/

/-- Adds and sets of one control cycle at a semaphore (R206). -/
def Sem.update (m : Sem) (ins : List Arrival) : Sem :=
  let m := (ins.filter fun a => !a.set).foldl (fun (m : Sem) a =>
    if 0xFFFFFFFF < m.count.toNat + a.n then ⟨0xFFFFFFFF, true⟩ else { m with count := m.count + BitVec.ofNat 32 a.n }) m
  match (ins.filter fun a => a.set).getLast? with
  | some a => ⟨BitVec.ofNat 32 a.n, false⟩
  | none => m

/-- SEMAPHORE_UPDATE (R206). -/
def execSemaphoreUpdate (t : Nat) (s : State) : Host.Outcome State Fault Refusal :=
  .next (if (s.tile t).core.semIn.isEmpty then s else (s.updTile t fun x => x.soil .rest).updCore t fun k =>
      { k with
        semIn := []
        sems := (List.range 64).foldl (fun m i =>
          let mine := k.semIn.filter fun a => a.k == i
          if mine.isEmpty then m else sput i ((k.sem i).update mine) m) k.sems })

/-- Arrivals of one control cycle at a barrier (R265). -/
def Bar.update (b : Bar) (ins : List Arrival) : Bar :=
  let n := (ins.filter fun a => !a.set).foldl (fun n a => min 0xFFFFFFFF (n + a.n)) b.cnt.toNat
  let (e, n) := match (ins.filter fun a => a.set).getLast? with
    | some a => (a.n % 256, 0)
    | none => (b.exp.toNat, n)
  if e = 0 then { b with exp := 0, cnt := BitVec.ofNat 32 n }
  else ⟨BitVec.ofNat 8 e, BitVec.ofNat 32 (n % e), b.gen + BitVec.ofNat 16 (n / e)⟩

/-- BARRIER_UPDATE (R265). -/
def execBarrierUpdate (t : Nat) (s : State) : Host.Outcome State Fault Refusal :=
  .next (if (s.tile t).core.barIn.isEmpty then s else (s.updTile t fun x => x.soil .rest).updCore t fun k =>
      { k with
        barIn := []
        bars := (List.range 64).foldl (fun m i =>
          let mine := k.barIn.filter fun a => a.k == i
          if mine.isEmpty then m else sput i ((k.bar i).update mine) m) k.bars })

/-! ### NEXT (R240) -/

/-- An NQ register written by SWR. -/
def Ctx.writeNq (c : Ctx) (p : Nat × Dword) : Ctx :=
  match p.1 with
  | 0 => { c with nq0 := p.2 }
  | 1 => { c with nq1 := p.2 }
  | 2 => { c with nq2 := p.2 }
  | _ => { c with nq3 := p.2 }

/-- The rotation of the NQ registers with a reply. -/
def Ctx.rotate (c : Ctx) (reply : Dword) : Ctx := { c with nq0 := c.nq1, nq1 := c.nq2, nq2 := c.nq3, nq3 := reply }

/-- A NEXT of the context falls due in this cycle and its reply has not arrived. -/
def Core.lateReply (k : Core) (h : Nat) : Bool :=
  match (k.ctx h).nexts with
  | [] => false
  | n :: _ => n.due ≤ k.cycle && n.reply.isNone

/-- NEXT_ROTATE (R240): the rotation of a due NEXT, then the writes of SWR; a late reply freezes the tile a control cycle. -/
def execNextRotate (t h : Nat) (s : State) : Host.Outcome State Fault Refusal :=
  .next <|
    if (s.tile t).core.lateReply h then s.updTile t fun x => x.frozen false
    else s.updCore t fun k =>
      let c := k.ctx h
      let c := match c.nexts with
        | [] => c
        | n :: r => if n.due ≤ k.cycle then { c.rotate (n.reply.getD 0) with nexts := r } else c
      if c.nqw.isEmpty ∧ (k.ctx h).nexts.length = c.nexts.length then k
      else k.updCtx h fun _ => { c.nqw.foldl Ctx.writeNq c with nqw := [] }

/-- NEXT_REPLY_ARRIVAL (R240): the oldest reply on its way to a context reaches it, and is logged (R331). -/
def execNextReplyArrival (t h : Nat) (s : State) : Host.Outcome State Fault Refusal :=
  .next <|
    let c := s.ctxAt t h
    match s.unitOf c with
    | none => s
    | some u =>
      match u.onWay.find? fun p => p.1 == h with
      | none => s
      | some (_, id, v) =>
        let s := s.updJob c.job fun j => { j with units := j.units.map fun w =>
          if w.uid = u.uid then { w with onWay := w.onWay.filter fun p => p.2.1 != id } else w }
        s.input t (.reply h id v)

end Sys2Proof.Machine
end

