-- ==== Sys2Proof/Machine/FabricEvents.lean ====
section
/-! DEFINITION. The events of the fabric: home ports, completions, walks, packets, links, routes, time and trees (R168 to R177, R213,
R268 to R276, R300 to R305, R342 to R363, R419). -/

namespace Sys2Proof.Machine

/-! ### Home ports (R173, R174, R197, R275) -/

/-- A global atomic on an old value with its operands (R166, R173). -/
def globalAtomic (aop old b c : Nat) : Nat :=
  let sa := asSigned 64 old
  let sb := asSigned 64 b
  match aop with
  | 0 => (old + b) % 2 ^ 64
  | 1 => if sa ≤ sb then old else b
  | 2 => if sa ≤ sb then b else old
  | 3 => min old b
  | 4 => max old b
  | 5 => old &&& b
  | 6 => old ||| b
  | 7 => old ^^^ b
  | 8 => b
  | 9 => if old = c then b else old
  | 10 => (roundSum fmt32 rndRne false [fvalue fmt32 old, fvalue fmt32 (b % 2 ^ 32)]).1
  | _ => (roundSum fmt64 rndRne false [fvalue fmt64 old, fvalue fmt64 b]).1

/-- The tag dword after a tag write (R275): mode 1 set, 2 update. -/
def tagWritten (md old w : Nat) : Nat :=
  let tag := if md = 1 then w % 2 ^ 12 + w / 2 ^ 16 % 2 ^ 16 * 2 ^ 16
    else (old / 2 ^ 16 % 2 ^ 16 + 1) % 2 ^ 16 * 2 ^ 16 + w % 2 ^ 12
  if bitOf old 63 then old / 2 ^ 32 * 2 ^ 32 + tag else old

/-- The bytes of a request hold uncorrectable data that it reads. -/
def State.readsBad (s : State) (r : Req) : Bool :=
  let reads : Bool := match r.kind with
    | .store | .storeRow | .copyOut _ => false
    | _ => true
  reads && s.badMem.any fun b => overlaps r.pa r.kind.size b 8

/-- A request performed at its home port (R197): the value that returns, if one does, and memory after it. -/
def State.perform (s : State) (r : Req) : Option Row × State :=
  let old := Memory.readNat s.mem r.pa r.kind.size
  let put (v : Nat) : State := s.storeBytes r.pa (natBytes r.kind.size v)
  match r.kind with
  | .load => (some (BitVec.ofNat 2048 old), s)
  | .loadRow | .copyIn _ _ _ => (some (BitVec.ofNat 2048 old), s)
  | .store | .storeRow | .copyOut _ => (none, put r.data.toNat)
  | .amo aop ret => (if ret then some (BitVec.ofNat 2048 old) else none, put (globalAtomic aop old r.opnd.toNat r.aux.toNat))
  | .red aop => (none, put (globalAtomic aop old r.opnd.toNat 0))
  | .slabtag md =>
    (some (if bitOf old 63 then BitVec.ofNat 2048 (old % 2 ^ 32) else wide 0x8000000000000000),
     if md = 0 then s else put (tagWritten md old r.opnd.toNat))
  | .tagWrite _ _ => (some (BitVec.ofNat 2048 old), put (tagWritten 2 old r.opnd.toNat))
  | _ => (none, s)

/-- A reply or abort on its way from a request's home to its tile (R348). -/
def State.replyTo (s : State) (r : Req) (load : Payload) : State :=
  s.sendPacket r.target (dieOf r.tile) 0 (match load with | .reply _ _ => r.kind.replyBeats | _ => 0) load

/-- The place that asks for what a peer module returns, and when. -/
def sitePeer : Nat := 8000000000

/-- What a peer module returns for a request: as many free bytes as the request reads (R173, log 13). -/
def State.peerValue (s : State) (r : Req) : Row :=
  if (s.perform r).1.isSome then BitVec.ofNat 2048 ((s.freeVal 2048 (sitePeer + r.id)).toNat % 2 ^ (8 * r.kind.size)) else 0

/-- The stream of a border site to its peer module (R363). -/
def State.remote (s : State) (site : Nat) : Stream := sget Stream.reset s.fab.remotes site

/-- The stream of a border site to its peer changed. -/
def State.updRemote (s : State) (site : Nat) (f : Stream → Stream) : State :=
  s.updFab fun x => { x with remotes := sput site (f (s.remote site)) x.remotes }

/-- The peer is at work on the oldest unacknowledged request of a border site; it answers them in order, each at a free time (R363, log 13). -/
def State.askPeer (s : State) (site : Nat) : State :=
  match (s.remote site).unacked with
  | [] => s
  | p :: _ => match p.load with
    | .request rid => s.once (s.freeTime (sitePeer + rid)) (.homePortAccess rid false)
    | _ => s

/-- A remote stream with what its window and its retry buffer have room for (R352, R363). -/
def Stream.fill (st : Stream) : Nat → Stream
  | 0 => st
  | fuel + 1 =>
    match st.waiting with
    | [] => st
    | p :: r =>
      if Config.win ≤ st.unacked.length ∨ 16384 < st.unacked.foldl (fun a q => a + 1 + q.beats) (1 + p.beats) then st
      else Stream.fill { st with waiting := r, unacked := st.unacked ++ [p] } fuel

/-- A request forwarded by its border site to the peer module (R363). -/
def State.forward (s : State) (r : Req) : State :=
  let site := paSite r.pa
  let st := s.remote site
  let p : Packet := ⟨r.id, r.target, r.target, 0, st.seq, r.kind.beats, .request r.id, s.now, false⟩
  let st' := Stream.fill { st with seq := (st.seq + 1) % 65536, waiting := st.waiting ++ [p] } 1
  ((s.updReq r.id fun x => { x with state := .remote }).updRemote site fun _ => st').askPeer site

/-- A remote request performed at the peer's border site, whose answer returns to the tile (R363). -/
def State.answered (s : State) (r : Req) : State :=
  let site := paSite r.pa
  let s := s.updRemote site fun st => Stream.fill { st with unacked := st.unacked.filter fun p => p.load != .request r.id } Config.win
  (((s.updReq r.id fun x => { x with state := .performed }).replyTo r (.reply r.id (s.peerValue r))).askPeer site).kick r.tile

/-- A remote request that is over before the peer has answered it leaves its site's stream, and the peer goes on to the next (R363). -/
def State.passPeer (s : State) (rid : Nat) : State :=
  s.fab.remotes.foldl (fun s p =>
    if (p.2.unacked ++ p.2.waiting).any fun q => q.load == .request rid then
      (s.updRemote p.1 fun st => Stream.fill { st with unacked := st.unacked.filter (fun q => q.load != .request rid), waiting := st.waiting.filter fun q => q.load != .request rid }
        Config.win).askPeer p.1
    else s) s

/-- The unacknowledged remote requests of a border site whose path has failed complete with aborts (R360, R363). -/
def State.failPath (s : State) (site : Nat) : State :=
  let st := s.remote site
  let s := s.updRemote site fun st => { st with waiting := [], unacked := [] }
  (st.unacked ++ st.waiting).foldl (fun s p =>
    match p.load with
    | .request rid => match s.req rid with
      | some r => (s.updReq rid fun x => { x with state := .failing }).replyTo r (.error rid 8)
      | none => s
    | _ => s) s

/-- A read of a stack has met an error that its code corrects (R342): the counter of its bank grows. -/
def State.countCorrected (s : State) (pa : Nat) : State := s.predict 0 (bankSource pa) (s.policy 0).fill

/-- The place that asks whether a read at a home port meets an error that its code corrects (R342). -/
def siteCorrected : Nat := 3000000000

/-- The place that asks the same of a read that no request makes, by its address. -/
def siteStack : Nat := 2 ^ 60

/-- A read of a stack, which may meet an error that its code corrects (R342, log 15). -/
def State.readStack (s : State) (pa : Nat) : State := if !outbound pa && s.freeVal 1 (siteStack + pa) == 1 then s.countCorrected pa else s

/-- A read of job memory by an agent of the job, which may meet an error that the stack's code corrects (R342). -/
def State.countRead (s : State) (jobNum : Nat) (ea : Dword) : State :=
  match s.translateIn jobNum ea permRd with
  | .ok pa => s.readStack pa
  | .fault _ => s

/-- A request performed at the home port of its own module (R197, R341): uncorrectable data gives an abort, and a corrected error counts (R342). -/
def State.performHome (s : State) (r : Req) (corrected : Bool) : State :=
  if s.readsBad r then ((s.updReq r.id fun x => { x with state := .failing }).badRead r.pa).replyTo r (.error r.id 7)
  else
    let (v, s) := (s.updReq r.id fun x => { x with state := .performed }).perform r
    let s := if corrected then s.countCorrected r.pa else s
    let s := match v with
      | some v => s.replyTo r (.reply r.id v)
      | none => s
    s.kick r.tile

/-- HOME_PORT_ACCESS (R197, R341, R342, R363): a request is performed at its home, or goes on to the peer module of its border site, which answers it by a
second such event. `corrected` says that the access meets an error that the code of the stack corrects. -/
def execHomePortAccess (rid : Nat) (s : State) (corrected : Bool := false) : Host.Outcome State Fault Refusal :=
  match s.req rid with
  | none => .next (s.passPeer rid)
  | some r =>
    if r.state = .remote then .next (s.answered r)
    else if r.state ≠ .sent then .next s
    else if Config.stackEnd ≤ paLocal r.pa then .fault (.absentAddress r.pa)
    else if !outbound r.pa then .next (s.performHome r corrected)
    else if s.pathDown (paSite r.pa) then .next ((s.updReq rid fun x => { x with state := .failing }).replyTo r (.error rid 8))
    else .next (s.forward r)

/-- The window of reductions performed from a source at a home (R358). -/
def Node.window (n : Node) (src : Nat) : RedWindow := sget ⟨0, []⟩ n.windows src

/-- The distance of a sequence number from the base of a window. -/
def seqDistance (q base : Nat) : Nat := (q + 65536 - base) % 65536

/-- Shifts a window past the constituents performed at its base. -/
def shiftWindow : Nat → RedWindow → RedWindow
  | 0, w => w
  | fuel + 1, w => if w.bits.contains w.base then shiftWindow fuel ⟨(w.base + 1) % 65536, w.bits.filter fun b => b != w.base⟩ else w

/-- A window after a constituent, and whether the constituent is new. -/
def RedWindow.take (w : RedWindow) (q : Nat) : RedWindow × Bool :=
  if Config.win ≤ seqDistance q w.base ∨ w.bits.contains q then (w, false)
  else (shiftWindow (Config.win + 1) ⟨w.base, q :: w.bits⟩, true)

/-- An acknowledgement owed within ACKD (R353). -/
def State.oweAck (s : State) (node src cls : Nat) : State :=
  s.after (s.freeTime (1000000 + 256 * node + src) % (Config.ackd + 1)) (.acknowledgementDeparture node src cls)

/-- What names a packet of the reduction class among those of its source: its destination and its number in that stream. -/
def Packet.stamp (p : Packet) : Nat := p.dst * 65536 + p.seq

/-- A reduction packet owed an acknowledgement: its source and its stamp. -/
def State.oweRed (s : State) (node src stamp : Nat) : State :=
  (s.updNode node fun n => { n with redAcks := sput src (sget [] n.redAcks src ++ [stamp]) n.redAcks }).oweAck node src 1

/-- A packet in flight or just arrived. -/
def State.packet (s : State) (pid : Nat) : Option Packet := s.fab.packets.find? fun p => p.id == pid

/-- A packet that nothing holds any more. -/
def State.forget (s : State) (pid : Nat) : State :=
  if s.fab.flights.any fun f => f.pid == pid then s
  else s.updFab fun f => { f with packets := f.packets.filter fun p => p.id != pid }

/-- The operation of a reduction that has been aborted: it stays in its stream and does nothing (R360). -/
def aopGone : Nat := 16

/-- REDUCTION_APPLY (R358): the constituents of a packet not yet performed are applied in one read-modify-write, and the packet is owed its
acknowledgement. -/
def execReductionApply (pid : Nat) (s : State) : Host.Outcome State Fault Refusal :=
  .next <|
    match s.packet pid with
    | none => s
    | some p =>
      match p.load with
      | .reduction pa aop _ cs _ =>
        let (fresh, s) := cs.foldl (fun (a : List Constituent × State) c =>
          let (w, new) := ((a.2.node p.dst).window c.src).take c.seq
          (if new then a.1 ++ [c] else a.1, a.2.updNode p.dst fun n => { n with windows := sput c.src w n.windows })) ([], s)
        let size := if aop = 10 then 4 else 8
        let s :=
          if fresh.isEmpty ∨ aop = aopGone then s
          else if s.badMem.any fun b => overlaps pa size b 8 then
            fresh.foldl (fun s c =>
              match s.req c.rid with
              | some r => (s.updReq c.rid fun x => { x with state := .failing }).replyTo r (.error c.rid 7)
              | none => s) (s.badRead pa)
          else
            let v := fresh.foldl (fun v c => globalAtomic aop v c.opnd.toNat 0) (Memory.readNat s.mem pa size)
            fresh.foldl (fun s c => s.updReq c.rid fun r => { r with state := .performed }) ((s.readStack pa).storeBytes pa (natBytes size v))
        (s.oweRed p.dst p.src p.stamp).forget pid
      | _ => s

/-! ### Completions at a tile -/

/-- Packets that waited for room in a stream, sent while there is (R352). -/
def State.refill (s : State) (node key : Nat) : Nat → State
  | 0 => s
  | fuel + 1 =>
    let st := (s.node node).stream key
    match st.waiting with
    | [] => s
    | p :: r =>
      if !st.room p.cls p.seq ∨ 16384 < (s.node node).retryBeats + 1 + p.beats then s
      else
        let p := { p with sentAt := s.ptc node }
        let s := s.updNode node fun n => n.updStream key fun st => { st with waiting := r, unacked := st.unacked ++ [p] }
        let s := if st.unacked.isEmpty then s.after Config.rto (.retransmitTimeout node p.dst p.cls) else s
        (s.sendOn p key).refill node key fuel

/-- The streams of a node send what has room now (R352). -/
def State.refillNode (s : State) (node : Nat) : State := (s.node node).streams.foldl (fun s st => s.refill node st.1 Config.win) s

/-- The packet of a request counts as acknowledged once its reply has come (R353), so that another may take its room (R352). -/
def State.ackRequest (s : State) (rid : Nat) : State :=
  let holds (st : Stream) : Bool := st.unacked.any fun p => p.load == .request rid
  let nodes := (s.fab.nodes.filter fun n => n.2.streams.any fun st => holds st.2).map (·.1)
  nodes.foldl (fun s n => (s.updNode n fun x => { x with streams := x.streams.map fun st =>
    (st.1, { st.2 with unacked := st.2.unacked.filter fun p => p.load != .request rid }) }).refillNode n) s

/-- A load of the same queue into the same register was issued before this one and has not completed (R171). -/
def State.laterLoad (s : State) (r : Req) : Bool :=
  !r.reg.wired && s.fab.reqs.any fun e => e.id < r.id && e.tile == r.tile && e.hw == r.hw && e.q == r.q && e.reg == r.reg && e.kind.countsOld

/-- The loads that have been waiting for one before them to complete (R171). -/
def State.landNext (s : State) (r : Req) : State :=
  (s.fab.reqs.filter fun e => e.tile == r.tile && e.hw == r.hw && e.q == r.q && e.reg == r.reg && e.kind.countsOld && e.state == .done).foldl
    (fun s e => s.once 0 (.globalLoadCompletion e.id)) s

/-- GLOBAL_LOAD_COMPLETION (R171): the destination is written and OLD falls; two loads into one register through one queue complete in the order of
issue. -/
def execGlobalLoadCompletion (rid : Nat) (s : State) : Host.Outcome State Fault Refusal :=
  .next <|
    match s.req rid with
    | none => s
    | some r =>
      if !r.kind.countsOld then s
      else if s.laterLoad r then s.updReq rid fun r => { r with state := .done }
      else (((s.input r.tile (.load r.hw rid r.reg r.data)).dropReq rid).landNext r).kick r.tile

/-- The forms whose NPG fault is replayable (R303). -/
def ReqKind.replayable : ReqKind → Bool
  | .load | .store | .loadRow | .storeRow | .amo _ _ | .red _ | .slabtag _ | .fetch => true
  | _ => false

/-- A cancel has reached a context or its unit (R248). -/
def State.cancelled (s : State) (t h : Nat) : Bool :=
  let c := s.ctxAt t h
  c.stop == .cancel || match s.unitOf c with
    | some u => u.cancelled || u.fatal
    | none => false

/-- A replayable record (R303, R374): the access stays parked in its queue. A cancel discards it (R375). -/
def State.parkReq (s : State) (r : Req) (cause : Nat) : State :=
  if s.cancelled r.tile r.hw then ((s.input r.tile (if r.kind.countsOld then .failed r.hw r.id else .counted r.hw false)).dropReq r.id).kick r.tile
  else
  let c := s.ctxAt r.tile r.hw
  let w3 := globalWord3 r.ea r.q r.kind.form cause
  let e : TrapEntry := ⟨trapWord0 1 2 0 0x10, c.cmdix, globalWord2 r.ea, w3, c.pc, r.job, r.hw, r.tile, 1, some r.id, 0⟩
  (s.updReq r.id fun x => { x with state := .parked }).holdTrap (dieOf r.tile) e

/-- The kind of a copy error in word 3 of R368: the cause is a code of R302, 7 for bad data, 8 for an unreachable node, 9 for a handle that
is not valid. -/
def copyErrorWord (cause : Nat) : Nat :=
  if cause = 7 then 3 else if cause = 8 then 5 else if cause = 9 then 4 else 1 + cause * 16

/-- The tag write of a command is over. -/
def State.tagWriteOver (s : State) (r : Req) (cmd : Nat) (copy : Bool) (err : Option Nat) : State :=
  let w := err.map fun c => BitVec.ofNat 32 (copyErrorWord c)
  (s.dropReq r.id).updCore r.tile fun k =>
    if copy then { k with copies := k.copies.map fun m => if m.id = cmd then { m with tagWrite := 2, err := m.err.or w } else m }
    else { k with mcmds := k.mcmds.map fun m => if m.id = cmd then { m with tagWrite := 2, err := m.err.or w } else m }

/-- GLOBAL_ACCESS_ERROR (R172, R185, R208, R303): a request completes with an error, or a replayable one is parked. -/
def execGlobalAccessError (rid cause : Nat) (s : State) : Host.Outcome State Fault Refusal :=
  .next <|
    match s.req rid with
    | none => s
    | some r =>
      let s := s.ackRequest rid
      match r.kind with
      | .copyIn id _ _ => (s.dropReq rid).failCopy r.tile id (copyErrorWord cause)
      | .copyOut id => (s.dropReq rid).failCopy r.tile id (copyErrorWord cause)
      | .copyTo id _ _ _ => (s.dropReq rid).failCopy r.tile id (copyErrorWord cause)
      | .sem _ _ _ _ (some id) => (s.dropReq rid).failCopy r.tile id (copyErrorWord cause)
      | .tagWrite id copy => s.tagWriteOver r id copy (some cause)
      | .sem t _ _ _ none => ((s.signalError r t).dropReq rid).kick r.tile
      | .bar t _ _ _ => ((s.signalError r t).dropReq rid).kick r.tile
      | .tree _ | .item _ | .spec _ _ | .cancel _ _ => s
      | kind =>
        if cause = 4 ∧ kind.replayable then s.parkReq r cause
        else
          let e : Err := ⟨1, 0x10, 0, globalWord2 r.ea, globalWord3 r.ea r.q kind.form cause, 0⟩
          let s := s.input r.tile (if kind.countsOld then .failed r.hw rid else .counted r.hw false)
          (((s.input r.tile (.err r.hw e)).dropReq rid).landNext r).kick r.tile

/-! ### Walks (R300, R304) -/

/-- A leaf put into a tile's page TLB, the oldest leaving when it is full (log 18). -/
def Tile.cacheLeaf (x : Tile) (l : TlbEntry) : Tile :=
  { x with
    ptlb := x.ptlb.drop (x.ptlb.length - 47) ++ [l]
    rtlb := let r := (x.rtlb.filter fun p => p != (l.job, l.range)) ++ [(l.job, l.range)]; r.drop (r.length - min 16 r.length) }

/-- A request whose walk has ended: it goes on with the leaf, or fails with the code of R302. -/
def State.walkDone (s : State) (w : Walk) (leaf : Leaf) (r : Req) : State :=
  match leaf with
  | .fault c _ =>
    if r.kind = .fetch then (s.dropReq r.id).input r.tile (.fetched r.hw r.ea none c)
    else if r.kind = .locq ∧ c ≠ 6 then s.answer r.id 0x8000000000000000
    else s.after 0 (.globalAccessError r.id c)
  | .leaf out size perm =>
    let l : TlbEntry := ⟨w.job, w.range, w.page * 4096 / size * size, size, out, perm⟩
    if r.kind = .fetch then ((s.dropReq r.id).countRead r.job r.ea).input r.tile (.fetched r.hw r.ea (some l) 0)
    else ((s.updTile r.tile fun x => x.cacheLeaf l).updReq r.id fun x => { x with state := .waiting }).kick r.tile

/-- A request whose range entry a LOAD RANGE has replaced during its walk: it translates through the new entry (R305). -/
def State.walkAgain (s : State) (r : Req) : State :=
  if r.kind = .fetch then (s.dropReq r.id).input r.tile (.fetched r.hw r.ea none 0)
  else (s.updReq r.id fun x => { x with state := .waiting }).kick r.tile

/-- TRANSLATION_WALK (R304): a walk ends, fills the page TLBs of its tiles or faults, and the oldest waiting walk starts. -/
def execTranslationWalk (die rid : Nat) (s : State) : Host.Outcome State Fault Refusal :=
  .next <|
    let d := sget Die.reset s.dies die
    match d.walks.find? fun w => w.rids.contains rid with
    | none => s
    | some w =>
      let same (v : Walk) : Bool := v.job == w.job && v.range == w.range && v.entry == w.entry && v.page == w.page
      let d' := { d with walks := (d.walks.filter fun v => !same v) ++ d.fifo.take 1, fifo := d.fifo.drop 1 }
      let s := { s with dies := sput die d' s.dies }
      let s := match d.fifo with
        | [] => s
        | v :: _ => s.after (4 * (2 * pathLatency 1 0)) (.translationWalk die (v.rids.headD 0))
      let leaf := walkRange s w.entry (w.page * 4096)
      let stale : Bool := sget [] (s.ranges w.job) w.range != w.entry
      let s := match leaf with
        | .fault 6 pa => if stale then s else s.badRead pa
        | _ => s.readStack (rangeOff w.entry)
      w.rids.foldl (fun s i =>
        match s.req i with
        | none => s
        | some r => if r.state ≠ .walking then s else if stale then s.walkAgain r else s.walkDone w leaf r) s

/-! ### Packets (R352 to R358) -/

/-- Packets of a stream sent again on the current route, oldest first, 2 ticks apart, each delivered 2 ticks or more after the one before it (R354, R419);
`ready` is the first tick at which the first of them may be delivered. The age of each counts from when it is sent. -/
def State.resend (s : State) (node dst cls ready : Nat) : State :=
  let key := streamKey dst cls
  let st := (s.node node).stream key
  let s := s.updNode node fun n => n.updStream key fun st =>
    { st with unacked := (st.unacked.zipIdx).map fun p => { p.1 with sentAt := s.ptc node + 2 * p.2 } }
  let again (a : Nat × State) (p : Packet × Nat) : Nat × State :=
    let (arrive, s) := a.2.launchLater (2 * p.2) { p.1 with sentAt := s.ptc node + 2 * p.2 } node a.1
    (arrive + 2, s)
  let (last, s) := (st.unacked.zipIdx).foldl again (ready, s)
  s.updNode node fun n => n.updStream key fun st => { st with last := last - 2 }

/-- RETRANSMIT_TIMEOUT (R213, R354): the oldest unacknowledged packet has reached age RTO on its node's counter. -/
def execRetransmitTimeout (node dest cls : Nat) (s : State) : Host.Outcome State Fault Refusal :=
  .next <|
    let st := (s.node node).stream (streamKey dest cls)
    match st.unacked with
    | [] => s
    | p :: _ =>
      let now := s.ptc node
      if now < p.sentAt + Config.rto then s.after (p.sentAt + Config.rto - now) (.retransmitTimeout node dest cls)
      else (s.resend node dest cls (st.last + 2)).after Config.rto (.retransmitTimeout node dest cls)

/-- A request that returns no value is over at its tile (R353). -/
def State.overNow (s : State) (r : Req) : State :=
  match r.kind with
  | .store | .storeRow | .red _ | .bar _ _ _ _ => ((s.uncount r).dropReq r.id).kick r.tile
  | .amo _ ret => if ret then s else ((s.uncount r).dropReq r.id).kick r.tile
  | .sem _ _ _ _ none => ((s.uncount r).dropReq r.id).kick r.tile
  | .sem _ _ _ _ (some _) | .copyOut _ | .copyTo _ _ _ _ => s.dropReq r.id
  | _ => s

/-- A packet delivered at its node (R353): requests go to their home port, tile or engine, replies to their tile. -/
def State.deliver (s : State) (p : Packet) : State :=
  match p.load with
  | .request rid =>
    match s.req rid with
    | none => s
    | some r =>
      if r.state ≠ .sent then s
      else
        match r.kind with
        | .copyTo _ _ _ _ => s.after 0 (.copyRowLand rid)
        | .sem _ _ _ _ (some _) => s.after 0 (.copyRowLand rid)
        | .sem t k n set none => (s.arriveSem t k n set).performedAt r
        | .bar t k n set => (s.arriveBar t k n set).performedAt r
        | _ => s.after 0 (.homePortAccess rid (s.freeVal 1 (siteCorrected + rid) == 1))
  | .reply rid v =>
    let s := (s.ackRequest rid).updReq rid fun r => { r with data := v }
    match s.req rid with
    | none => s
    | some r =>
      match r.kind with
      | .copyIn _ _ _ => s.after 0 (.copyRowLand rid)
      | .tagWrite id copy => s.tagWriteOver r id copy (if bitOf v.toNat 63 then none else some 9)
      | .store | .storeRow | .red _ | .copyOut _ => s.overNow r
      | .amo _ false => s.overNow r
      | _ => s.after 0 (.globalLoadCompletion rid)
  | .error rid cause => s.after 0 (.globalAccessError rid cause)
  | .reduction _ _ _ _ _ => s.after 0 (.reductionApply p.id)
  | .ack _ _ _ => s.after 0 (.globalAckArrival p.id)
  | .control => s

/-- The packets that a merged packet holds; none for any other packet. -/
def Packet.via (p : Packet) : List (Nat × Nat) :=
  match p.load with
  | .reduction _ _ _ _ via => via
  | _ => []

/-- The constituents of a merged packet; none for any other packet. -/
def Packet.parts (p : Packet) : List Constituent :=
  match p.load with
  | .reduction _ _ _ cs via => if via.isEmpty then [] else cs
  | _ => []

/-- A list of constituents has one with the source and number of another. -/
def hasPart (cs : List Constituent) (c : Constituent) : Bool := cs.any fun d => d.src == c.src && d.seq == c.seq

/-- A switch holds a constituent already: in an entry, or in a merged packet that waits for room or that its home has not acknowledged (R357). -/
def Node.holds (n : Node) (c : Constituent) : Bool :=
  n.entries.any (fun e => hasPart e.cs c) || n.streams.any fun st => (st.2.unacked ++ st.2.waiting).any fun p => hasPart p.parts c

/-- A packet some of whose constituents the switch holds already is acknowledged only with what holds them (R357). -/
def Node.lean (n : Node) (key : Nat × Nat) (cs : List Constituent) : Node :=
  let add (via : List (Nat × Nat)) : List (Nat × Nat) := if via.contains key then via else via ++ [key]
  let packet (p : Packet) : Packet := match p.load with
    | .reduction pa aop job ds via => if cs.any (hasPart p.parts) then { p with load := .reduction pa aop job ds (add via) } else p
    | _ => p
  { n with
    entries := n.entries.map fun e => if cs.any (hasPart e.cs) then { e with via := add e.via } else e
    streams := n.streams.map fun st => (st.1, { st.2 with unacked := st.2.unacked.map packet, waiting := st.2.waiting.map packet }) }

/-- A switch still holds something of a packet. -/
def Node.keeps (n : Node) (key : Nat × Nat) : Bool :=
  n.entries.any (fun e => e.via.contains key) || n.streams.any fun st => (st.2.unacked ++ st.2.waiting).any fun p => p.via.contains key

/-- A reduction packet at a switch on its way (R357): constituents that it holds already are discarded, a like entry with room is joined, a free entry is
opened, and otherwise the packet goes on. -/
def State.merge (s : State) (node : Nat) (p : Packet) (pa aop job : Nat) (cs : List Constituent) : State :=
  let key := (p.src, p.stamp)
  let s := s.updNode node fun n => n.lean key cs
  let n := s.node node
  let cs := cs.filter fun c => !n.holds c
  if cs.isEmpty then s
  else
    match n.entries.find? fun e => e.pa == pa && e.aop == aop && e.job == job && e.dst == p.dst && e.cs.length + cs.length ≤ 16 with
    | some e =>
      let e' := { e with cs := e.cs ++ cs, via := if e.via.contains key then e.via else e.via ++ [key] }
      let s := s.updNode node fun n => { n with entries := n.entries.map fun x => if x.e = e.e then e' else x }
      if e'.cs.length = 16 then s.after 0 (.mergeEntrySend node e.e) else s
    | none =>
      if 64 ≤ n.entries.length then (s.launchFlight p node 0).2
      else
        let (i, s) := s.fresh
        let s := s.updNode node fun n => { n with entries := n.entries ++ [⟨i, pa, aop, job, p.dst, cs, [key], s.ptc node⟩] }
        s.after (if 16 ≤ cs.length then 0 else Config.mw - 1) (.mergeEntrySend node i)

/-- MERGE_ENTRY_SEND (R213, R357): the merged packet goes out in the switch's own reduction stream once MW has passed on the site's counter or the entry
is full. -/
def execMergeEntrySend (node e : Nat) (s : State) : Host.Outcome State Fault Refusal :=
  .next <|
    match (s.node node).entries.find? fun x => x.e == e with
    | none => s
    | some m =>
      if m.cs.length < 16 ∧ s.ptc node < m.first + Config.mw then s.after (m.first + Config.mw - s.ptc node) (.mergeEntrySend node e)
      else
        let s := s.updNode node fun n => { n with entries := n.entries.filter fun x => x.e != e }
        s.sendPacket node m.dst 1 (ceilDiv m.cs.length 4) (.reduction m.pa m.aop m.job m.cs m.via)

/-- KIND of a request packet (R348). A SLABTAG that reads is a dword read; it and a tag write are atomics where they write (log 61). -/
def ReqKind.number : ReqKind → Nat
  | .loadRow | .copyIn _ _ _ => 0
  | .storeRow | .copyOut _ | .copyTo _ _ _ _ => 1
  | .load => 2
  | .slabtag md => if md = 0 then 2 else 4
  | .store => 3
  | .amo _ _ | .tagWrite _ _ => 4
  | .red _ => 5
  | .sem _ _ _ _ _ | .bar _ _ _ _ | .tree _ => 6
  | .locq | .item _ | .spec _ _ | .fetch | .cancel _ _ => 10

/-- aop and the return flag of OPF (R348). -/
def ReqKind.opf : ReqKind → Nat
  | .amo aop ret => aop % 16 + 64 * b2n ret
  | .red aop => aop % 16
  | .load | .slabtag _ | .loadRow => 64
  | _ => 0

/-- The register or tag number of RET (R348). -/
def Reg.target : Reg → Nat
  | .x n => n
  | .v n => 32 + n
  | .p n => 64 + n
  | .none => 0

/-- The header of a packet without its CRC (R348), D0 to D6. -/
def State.header (s : State) (p : Packet) : List Nat :=
  let d0 (job kind : Nat) : Nat := job % 65536 * 2 ^ 40 + kind * 2 ^ 36 + p.beats % 16 * 2 ^ 32 + p.seq % 65536 * 2 ^ 16 + p.cls % 4 * 2 ^ 14 +
    p.dst % 128 * 2 ^ 7 + p.src % 128
  let pa (n : Nat) : Nat := n % 2 ^ 42
  let four (l : List Nat) : Nat := (l.take 4).foldr (fun n a => a * 65536 + n % 65536) 0
  match p.load with
  | .request rid => match s.req rid with
    | some r => [d0 r.job r.kind.number, (r.kind.opf + r.q % 4 * 16) * 2 ^ 48 + pa r.pa, r.tile % 65536 + r.hw % 4 * 2 ^ 16 + r.reg.target * 2 ^ 18,
        if r.kind.beats = 0 ∧ r.kind.isStore ∧ !r.kind.isLoad then (r.data.toNat + r.opnd.toNat) % 2 ^ 64 else r.opnd.toNat, r.aux.toNat, 0, 0]
    | none => [d0 0 10, 0, 0, 0, 0, 0, 0]
  | .reply rid v => match s.req rid with
    | some r => [d0 r.job 7, 0, r.tile % 65536 + r.hw % 4 * 2 ^ 16 + r.reg.target * 2 ^ 18, if p.beats = 0 then v.toNat % 2 ^ 64 else 0, 0, 0, 0]
    | none => [d0 0 7, 0, 0, 0, 0, 0, 0]
  | .error rid cause => match s.req rid with
    | some r => [d0 r.job 8, 0, r.tile % 65536 + r.hw % 4 * 2 ^ 16 + r.reg.target * 2 ^ 18, cause, 0, 0, 0]
    | none => [d0 0 8, 0, 0, cause, 0, 0, 0]
  | .reduction a aop job cs via =>
    let one : Option Req := if via.isEmpty then (cs.head?).bind fun c => s.req c.rid else none
    let (q, ret) := match one with
      | some r => (r.q % 4, r.tile % 65536 + r.hw % 4 * 2 ^ 16 + r.reg.target * 2 ^ 18)
      | none => (0, 0)
    [d0 job 5, (aop % 16 + 16 * q) * 2 ^ 48 + pa a, ret, if cs.length = 1 then ((cs.map (·.opnd.toNat)).headD 0) else 0, 0, 0, cs.length % 16]
  | .ack _ upTo reds => [d0 0 9, 0, 0, upTo % 65536, four reds, four (reds.drop 4), reds.length % 16]
  | .control => [d0 0 10, 0, 0, 0, 0, 0, 0]

/-- The payload of a packet (R348, R357). -/
def State.payload (s : State) (p : Packet) : List Byte :=
  let row : Nat := match p.load with
    | .request rid => ((s.req rid).map (·.data.toNat)).getD 0
    | .reply _ v => v.toNat
    | .reduction _ _ _ cs _ => cs.foldr (fun c a => (a * 2 ^ 64 + c.opnd.toNat) * 2 ^ 64 + c.seq % 65536 * 2 ^ 16 + c.src % 128) 0
    | .error _ _ | .ack _ _ _ | .control => 0
  natBytes (64 * p.beats) row

/-- One byte of the CRC-32 of IEEE 802.3, least significant bit first. -/
def crc32Step (c : Nat) (b : Byte) : Nat :=
  (List.range 8).foldl (fun c _ => if c % 2 = 1 then c / 2 ^^^ 0xEDB88320 else c / 2) (c ^^^ b.toNat)

/-- The CRC-32 of bytes (R317, R348). -/
def crc32 (bs : List Byte) : Nat := bs.foldl crc32Step 0xFFFFFFFF ^^^ 0xFFFFFFFF

/-- The first 60 bytes of a packet's header (R348): the dwords most significant byte first, so that the CRC of D7 stands in bytes 60 to 63 (log 61). -/
def State.headerBytes (s : State) (p : Packet) : List Byte :=
  ((s.header p).flatMap fun w => (natBytes 8 w).reverse) ++ [0, 0, 0, 0]

/-- The CRC of a packet is right where it arrives (R348): `noise` marks the bits of its bytes, header first, that have changed on the way. -/
def State.intact (s : State) (p : Packet) (noise : Nat) : Bool :=
  let n := 64 + 64 * p.beats
  let noise := noise % 2 ^ (8 * n)
  if noise = 0 then true
  else
    let head := s.headerBytes p
    let load := s.payload p
    let sent := head ++ (natBytes 4 (crc32 (head ++ load))).reverse ++ load
    let got := natBytes n (leNat sent ^^^ noise)
    crc32 (got.take 60 ++ got.drop 64) == leNat ((got.drop 60).take 4).reverse

/-- PACKET_ARRIVAL (R348, R353, R357): a packet reaches a node; one whose CRC fails is discarded, unless it has never left its node; one of the ordered
class is delivered, or discarded as a duplicate or out of order. `pid` numbers the copy in flight, `noise` marks the bits that have changed on the way. -/
def execPacketArrival (pid : Nat) (s : State) (noise : Nat := 0) : Host.Outcome State Fault Refusal :=
  .next <|
    match s.fab.flights.find? fun f => f.id == pid with
    | none => s
    | some f =>
      let s := s.updFab fun x => { x with flights := x.flights.filter fun g => g.id != pid }
      match s.packet f.pid with
      | none => s
      | some p =>
        if (s.node f.node).down || (p.cls != 3 && !s.intact p noise) then s.forget p.id
        else
          match p.cls with
          | 0 =>
            let ne := sget 0 (s.node f.node).ne p.src
            let d := seqDistance p.seq ne
            if d = 0 then
              let s := s.updNode f.node fun n => { n with ne := sput p.src ((ne + 1) % 65536) n.ne }
              ((s.deliver p).oweAck f.node p.src 0).forget p.id
            else if 32768 ≤ d then (s.oweAck f.node p.src 0).forget p.id
            else s.forget p.id
          | 1 =>
            if f.node = p.dst then s.deliver p
            else
              match p.load with
              | .reduction pa aop job cs _ => (s.merge f.node p pa aop job cs).forget p.id
              | _ => s.forget p.id
          | 2 => s.deliver p
          | _ => (s.deliver p).forget p.id

/-- ACKNOWLEDGEMENT_DEPARTURE (R353, R358): one acknowledgement for what a source is owed; a node in reset sends none (R364). -/
def execAcknowledgementDeparture (node src cls : Nat) (s : State) : Host.Outcome State Fault Refusal :=
  .next <|
    if (s.node node).down then s
    else if cls = 0 then s.sendPacket node src 2 0 (.ack 0 ((sget 0 (s.node node).ne src + 65535) % 65536) [])
    else
      let owed := sget [] (s.node node).redAcks src
      if owed.isEmpty then s
      else
        let s := s.updNode node fun n => { n with redAcks := sput src (owed.drop 8) n.redAcks }
        let s := s.sendPacket node src 2 0 (.ack 1 0 (owed.take 8))
        if (owed.drop 8).isEmpty then s else s.after 0 (.acknowledgementDeparture node src 1)

/-- A request whose packet has been acknowledged (R353): stores, rows and signals are over, the others wait for their reply. One whose home has found an
error waits for that (R172), and one that goes to a peer module for the peer's acknowledgement (R363). -/
def State.acked (s : State) (rid : Nat) : State :=
  match s.req rid with
  | none => s
  | some r =>
    if r.state == .failing || (outbound r.pa && r.target == homeNode r.pa) then s else s.overNow r

/-- What an acknowledged packet stood for. -/
def State.ackedPacket (s : State) (node : Nat) (p : Packet) : State :=
  match p.load with
  | .request rid => s.acked rid
  | .reduction _ _ _ cs via =>
    if via.isEmpty then cs.foldl (fun s c => s.acked c.rid) s
    else via.foldl (fun s k => if (s.node node).keeps k then s else s.oweRed node k.1 k.2) s
  | _ => s

/-- GLOBAL_ACK_ARRIVAL (R353): the source frees what the acknowledgement covers, and sends what waited for room. -/
def execGlobalAckArrival (pid : Nat) (s : State) : Host.Outcome State Fault Refusal :=
  .next <|
    match s.packet pid with
    | none => s
    | some a =>
      match a.load with
      | .ack cls upTo reds =>
        let hit (p : Packet) : Bool :=
          p.cls == cls && (if cls = 0 then p.dst == a.src && seqDistance upTo p.seq < 32768 else reds.contains p.stamp)
        let done := (s.node a.dst).streams.flatMap fun st => st.2.unacked.filter hit
        let s := s.updNode a.dst fun n =>
          { n with streams := n.streams.map fun st => (st.1, { st.2 with unacked := st.2.unacked.filter fun p => !hit p }) }
        let s := done.foldl (fun s p => s.ackedPacket a.dst p) s
        (s.refillNode a.dst).forget pid
      | _ => s

/-! ### Links, edges and routes (R345 to R350, R360) -/

/-- A module of an edge. -/
def State.linkModule (s : State) (edge m : Nat) : LinkModule := sget LinkModule.up s.fab.modules (16 * edge + m)

/-- The active modules of an edge. -/
def State.activeModules (s : State) (edge : Nat) : Nat := ((List.range 16).filter fun m => (s.linkModule edge m).active).length

/-- One module of an edge changed. -/
def State.updModule (s : State) (edge m : Nat) (f : LinkModule → LinkModule) : State :=
  s.updFab fun x => { x with modules := sput (16 * edge + m) (f (s.linkModule edge m)) x.modules }

/-- LINK_LEVEL_RETRY (R342, R345, R347, R362): a flit is sent again; its lane's counter grows. `failed` says that this retry fails as well: the fourth
failure in a row takes the module out of service, or makes the port retrain. Scale-out port EPk is link 4,096 + k. -/
def execLinkLevelRetry (edge m lane : Nat) (s : State) (failed : Bool := false) : Host.Outcome State Fault Refusal :=
  .next <|
    let link := 16 * edge + m
    let s := s.predict 1 (256 * link + lane) (s.policy 1).fill
    if link < 4096 then
      let n := if failed then (s.linkModule edge m).retries + 1 else 0
      let s := s.updModule edge m fun l => { l with retries := if n = 4 then 0 else n }
      if n = 4 then s.once 0 (.moduleOutOfService edge m) else s
    else
      let n := if failed then sget 0 s.fab.portRetries (link - 4096) + 1 else 0
      let s := s.updFab fun f => { f with portRetries := sput (link - 4096) (if n = 4 then 0 else n) f.portRetries }
      if n = 4 then s.once 0 (.scaleOutRetrain (link - 4096) false) else s

/-- The nodes that count as failed for routing: in reset, or a compute die without rails (R350). -/
def State.nodesDown (s : State) : List Nat :=
  (List.range 128).filter fun n => (s.node n).down || (n < 64 && !s.power.computeRails)

/-- A route change declared at a node: every node adopts it TRT later, on its own counter (R350). -/
def State.declare (s : State) (node : Nat) : State :=
  let due := s.ptc node + Config.trt
  let s := s.updFab fun f => { f with decls := f.decls ++ [(due, f.edgesDown, s.nodesDown)] }
  (List.range 128).foldl (fun s n => s.after (due - s.ptc n) (.routeTableAdoption n)) s

/-- A module retrains for at most 102,400 ticks (R347); whether it succeeds and which of its lanes it repairs is left to the link (R346, log 5). -/
def State.retrain (s : State) (edge m : Nat) : State :=
  let site := 2000000 + 16 * edge + m
  let repaired : BitVec 128 := s.freeVal 128 site
  let lanes := ((List.range 128).filter repaired.getLsbD).map fun i => if i < 64 then i else 64 + i
  s.after (s.freeTime site % 102401) (.moduleRetrainEnd edge m (s.freeVal 1 site == 1) lanes)

/-- A copy in flight would still cross one of some edges now or later (R351). -/
def Flight.stillCrosses (f : Flight) (lost : Nat → Bool) (now : Nat) : Bool :=
  ((routeEdges f.start f.route).zip f.ticks).any fun p => lost p.1 && now ≤ p.2

/-- The two nodes between which an arrival or a release of a tree travels, the sender first (R269). -/
def State.treeEnds (s : State) (e : Event) : Option (Nat × Nat) :=
  match e with
  | .treeArrivalAtRoot job _ t => (s.job job).map fun j => (dieOf t, j.root)
  | .tgenIncrement job _ die => (s.job job).map fun j => (j.root, die)
  | _ => none

/-- The place that asks whether an arrival or a release had passed what has failed on its route. -/
def siteTree : Nat := 900007

/-- The copies in flight that have still to cross some edges are lost, and the arrivals and releases of trees that have not passed them wait for the next
routes (R269, R350, R351, log 36). -/
def State.loseFlights (s : State) (lost : Nat → Bool) : State :=
  let caught (p : Nat × Event) : Option (Nat × Nat × Event) :=
    match s.treeEnds p.2 with
    | some (a, b) =>
      let hit := (routeEdges a ((s.route a b).getD [])).any lost
      if hit && s.freeVal 1 (siteTree + 4096 * a + b) == 0 then some (a, b, p.2) else none
    | none => none
  { s.updFab (fun f => { f with flights := f.flights.filter (fun x => !x.stillCrosses lost s.now), trees := f.trees ++ s.agenda.filterMap caught }) with
    agenda := s.agenda.filter fun p => (caught p).isNone }

/-- An edge fails (R350, R351): packets that have still to cross it are lost, and new routes are declared. -/
def State.failEdge (s : State) (edge : Nat) : State :=
  if s.fab.edgesDown.contains edge then s
  else ((s.loseFlights (· == edge)).updFab fun f => { f with edgesDown := f.edgesDown ++ [edge] }).declare (edgeEnds edge).1

/-- MODULE_OUT_OF_SERVICE (R347): fewer than eight active modules fail the edge; the module retrains. -/
def execModuleOutOfService (edge m : Nat) (s : State) : Host.Outcome State Fault Refusal :=
  .next <|
    if !(s.linkModule edge m).active then s
    else
      let s := (s.updModule edge m fun l => { l with active := false, retries := 0 }).retrain edge m
      if s.activeModules edge < 8 then s.failEdge edge else s

/-- MODULE_RETRAIN_END (R342, R347, R350): the module returns, or tries again until three failures in a row keep it out; each lane that it has repaired
counts. An edge with eight active modules returns to service. -/
def execModuleRetrainEnd (edge m : Nat) (ok : Bool) (s : State) (lanes : List Nat := []) : Host.Outcome State Fault Refusal :=
  .next <|
    let l := s.linkModule edge m
    if l.active ∨ l.stays then s
    else if ok then
      let s := s.updModule edge m fun _ => LinkModule.up
      let s := lanes.foldl (fun s i => s.predict 1 (256 * (16 * edge + m) + i % 256) (s.policy 1).fill) s
      if 8 ≤ s.activeModules edge ∧ s.fab.edgesDown.contains edge then
        (s.updFab fun f => { f with edgesDown := f.edgesDown.filter fun e => e != edge }).declare (edgeEnds edge).1
      else s
    else
      let stays : Bool := 3 ≤ l.fails + 1
      let s := s.updModule edge m fun _ => ⟨false, stays, l.fails + 1, 0⟩
      if stays then s else s.retrain edge m

/-- EDGE_FAILURE (R350, R351): an edge whose two ends have lost the adapter fails at once, whatever its modules. -/
def execEdgeFailure (edge : Nat) (s : State) : Host.Outcome State Fault Refusal := .next (s.failEdge edge)

/-- The requests of a packet, for aborts. -/
def Packet.rids (p : Packet) : List Nat :=
  match p.load with
  | .request rid => [rid]
  | .reduction _ _ _ cs via => if via.isEmpty then cs.map (·.rid) else []
  | _ => []

/-- A packet whose request is aborted or gone: it keeps its place in its stream and carries nothing (R360). -/
def Packet.emptied (p : Packet) : Packet :=
  match p.load with
  | .request _ => { p with load := .control }
  | .reduction pa _ job cs via => if via.isEmpty then { p with load := .reduction pa aopGone job cs via } else p
  | _ => p

/-- A stream whose requests are aborted or gone. -/
def Stream.emptied (st : Stream) : Stream := { st with unacked := st.unacked.map Packet.emptied, waiting := st.waiting.map Packet.emptied }

/-- A compute die loses its tiles, which keep their place in the region's count of pulses, and their unacknowledged requests (R360). -/
def State.dropDie (s : State) (d : Nat) : State :=
  let blank (t : Nat) (x : Tile) : Tile := { Tile.reset with retired := x.retired, clock := s.pulsesAt t }
  let s := (dieTiles d).foldl (fun s t => if (sfind s.tiles t).isSome then s.updTile t (blank t) else s) s
  let s := s.updNode d fun n => { n with streams := n.streams.map fun st => (st.1, st.2.emptied) }
  s.updFab fun f => { f with reqs := f.reqs.filter fun r => dieOf r.tile != d }

/-- NODE_RESET (R350, R351, R360): a node enters or leaves reset. Packets that have still to reach or to leave it are lost. A die's tiles and their
unacknowledged requests are dropped with its state; a site loses what its merge entries hold. -/
def execNodeReset (node : Nat) (enter : Bool) (s : State) : Host.Outcome State Fault Refusal :=
  .next <|
    if (s.node node).down = enter then s
    else
      let s := if enter then s.loseFlights fun e => (edgeEnds e).1 == node || (edgeEnds e).2 == node else s
      let s := s.updNode node fun n => { n with down := enter, entries := [] }
      (if enter ∧ node < 64 then s.dropDie node else s).declare node

/-- A declared change that a node's counter has yet to reach, one of its steps having kept it back (R213, R350). -/
def State.lateDecl (s : State) (node : Nat) : Option Nat :=
  (s.fab.decls.find? fun d => s.ptc node < d.1 && d.1 ≤ s.ptc node + 16).map fun d => d.1 - s.ptc node

/-- What waits for a route from a node sets out, now that one leads (R269). -/
def State.freeTrees (s : State) (node : Nat) : State :=
  let mine := s.fab.trees.filter fun w => w.1 == node
  mine.foldl (fun s w => s.sendAlong w.1 w.2.1 w.2.2 0) (s.updFab fun f => { f with trees := f.trees.filter fun w => w.1 != node })

/-- ROUTE_TABLE_ADOPTION (R350, R354, R360, R269): a node takes the tables declared for now; streams whose route changed are sent again,
and requests towards an unreachable node are aborted. -/
def execRouteTableAdoption (node : Nat) (s : State) : Host.Outcome State Fault Refusal :=
  .next <|
    let s := match s.lateDecl node with
      | some d => s.after d (.routeTableAdoption node)
      | none => s
    match (s.fab.decls.filter fun d => d.1 ≤ s.ptc node).getLast? with
    | none => s
    | some (_, es, ns) =>
      let before := s
      let s := s.updNode node fun n => { n with downEdges := es, downNodes := ns.filter fun m => m != node }
      let s := (s.node node).streams.foldl (fun s st =>
        let dst := st.1 / 2
        if dst = node then s
        else if s.unreachable node dst then
          let gone := (st.2.unacked ++ st.2.waiting).flatMap Packet.rids
          let s := s.updNode node fun n => n.updStream st.1 Stream.emptied
          gone.foldl (fun s r => s.after 0 (.globalAccessError r 8)) s
        else if s.route node dst = before.route node dst then s
        else s.resend node dst (st.1 % 2) 0) s
      (s.failCut node).freeTrees node

/-- The border site of a scale-out port (R20). -/
def portSite (port : Nat) : Nat := if port < 16 then port / 2 else 56 + (port - 16) / 2

/-- The place that asks for the time and the end of a port's retraining. -/
def sitePort2 : Nat := 900010

/-- SCALE_OUT_RETRAIN (R362, R363): a port leaves service to retrain, until it returns after a time that the manual does not give, or returns; the other
port of its pair carries the traffic meanwhile. With both ports down the path has failed, and the site's remote requests are aborted. -/
def execScaleOutRetrain (port : Nat) (up : Bool) (s : State) : Host.Outcome State Fault Refusal :=
  .next <|
    let s := s.updFab fun f => { f with scalePorts := sput port up f.scalePorts, portRetries := sput port 0 f.portRetries }
    if up then s
    else
      let s := s.after (s.freeTime (sitePort2 + port)) (.scaleOutRetrain port (s.freeVal 1 (sitePort2 + port) == 1))
      if s.pathDown (portSite port) then s.failPath (portSite port) else s

/-! ### Time and trees (R213, R268 to R271) -/

/-- The throttle steps to come of the regions of which a node is the first die keep to its counter, which counts one tick less or one more from now on
(R213, R414). One that comes in the next tick anyway stays, as the counter then passes over its boundary. -/
def State.moveSteps (s : State) (node : Nat) (skip : Bool) : State :=
  let moves (p : Nat × Event) : Bool := (match p.2.stepOf with
    | some r => regionDie r == node
    | none => false) && s.time + (if skip then 1 else 3) < p.1
  let hit := s.agenda.filter moves
  hit.foldl (fun s p => { s with agenda := insertEvent (if skip then p.1 + 2 else p.1 - 2) p.2 s.agenda })
    { s with agenda := s.agenda.filter fun p => !moves p }

/-- PTC_ALIGNMENT (R213, R214, R361): a counter skips or doubles one increment, at most once in 256 ticks and within SKEW of every other. The exchange's
messages go to the neighbours in the ordered class (log 36). -/
def execPtcAlignment (node : Nat) (skip : Bool) (s : State) : Host.Outcome State Fault Refusal :=
  .next <|
    let n := s.node node
    if n.step ≠ 0 ∧ s.now < n.lastStep + 256 then s
    else
      let total := n.skew + n.step + (if skip then -1 else 1)
      let apart : Bool := (List.range 128).any fun m => m != node && 8 < ((s.node m).skew + (s.node m).step - total).natAbs
      if apart = true ∨ s.ptcBase + s.now = 0 then s
      else
        let s := (s.updNode node fun n => { n with skew := n.skew + n.step, step := if skip then -1 else 1, lastStep := s.now }).moveSteps node skip
        (neighbours node).foldl (fun s p => s.sendPacket node p.1 0 0 .control) s

/-- The mask of a segment of a tree (R268). -/
def Job.mask (j : Job) (tree row k : Nat) : BitVec 25 := sget 0 j.masks (tree * 1600 + row * 8 + k)

/-- A tile takes part in a tree, as the root's mask has it (R268, R270). -/
def Job.participates (j : Job) (tree t : Nat) : Bool :=
  (j.mask tree (tileRow t) (tileCol t / 25)).getLsbD (tileCol t % 25) && !isSupervisor t

/-- The tiles that take part in a tree. -/
def Job.participants (j : Job) (tree : Nat) : List Nat :=
  (j.masks.filter fun p => p.1 / 1600 == tree).flatMap fun p =>
    let row := p.1 % 1600 / 8
    let k := p.1 % 8
    ((List.range 25).map fun i => tileAt row (25 * k + i)).filter (j.participates tree)

/-- The generation of a tree completes once every participant has arrived (R269): each die's tiles see it down(b) later, or once a route leads to the
die. -/
def State.checkTree (s : State) (jobNum tree : Nat) : State :=
  match s.job jobNum with
  | none => s
  | some j =>
    let ps := j.participants tree
    let arv := sget [] j.arv tree
    if ps.isEmpty ∨ !ps.all arv.contains then s
    else
      let s := s.updJob jobNum fun j => { j with arv := sput tree [] j.arv }
      ((List.range 64).filter (inPart j.part)).foldl (fun s d =>
        if s.cutOff j.root d then s.sendAlong j.root d (.tgenIncrement jobNum tree d) 0
        else
          let down := treeTicks (latBandOf (s.hopCount j.root d))
          s.atTick (s.now + (s.ptc j.root + down - s.ptc d)) (.tgenIncrement jobNum tree d)) s

/-- A retired tile's bit cleared at the root (R268, R269). -/
def Job.leave (j : Job) (tree t : Nat) : Job :=
  let key := tree * 1600 + tileRow t * 8 + tileCol t / 25
  { j with masks := sput key (sget 0 j.masks key &&& ~~~((1 : BitVec 25) <<< (tileCol t % 25))) j.masks, arv := sput tree ((sget [] j.arv tree).filter (· != t)) j.arv }

/-- TREE_ARRIVAL_AT_ROOT (R269, R270). The last one of a retired tile is the news of its retirement, at which the tree may complete without it. -/
def execTreeArrivalAtRoot (job tree t : Nat) (s : State) : Host.Outcome State Fault Refusal :=
  .next <|
    match s.job job with
    | none => s
    | some j =>
      let arv := sget [] j.arv tree
      if (s.tile t).retired ∧ ¬ s.agenda.any (fun p => p.2 == .treeArrivalAtRoot job tree t) then
        (s.updJob job fun j => j.leave tree t).checkTree job tree
      else if !j.participates tree t || arv.contains t then s
      else (s.updJob job fun j => { j with arv := sput tree (arv ++ [t]) j.arv }).checkTree job tree

/-- A segment's mask as it is stored (R271): supervisor and retired tiles take no part. -/
def State.storedMask (s : State) (row k : Nat) (mask : BitVec 25) : BitVec 25 :=
  BitVec.ofNat 25 (join 1 ((List.range 25).map fun i =>
    let t := tileAt row (25 * k + i)
    b2n (mask.getLsbD i && !isSupervisor t && !(s.tile t).retired)))

/-- TREE_MASK_AT_ROOT (R271). -/
def execTreeMaskAtRoot (job tree row k : Nat) (mask : BitVec 25) (s : State) : Host.Outcome State Fault Refusal :=
  .next <|
    match s.job job with
    | none => s
    | some j =>
      if 200 ≤ row ∨ !inPart j.part (8 * (row / 25) + k % 8) then s
      else
        (s.updJob job fun j => { j with masks := sput (tree * 1600 + row * 8 + k % 8) (s.storedMask row (k % 8) mask) j.masks }).checkTree job tree

/-- TGEN_INCREMENT (R269): every tile of a die sees the generation; a tile in a rerun sees it after its commit (R333), a frozen one at the end of the freeze
(R257), and a retired one no more. -/
def execTgenIncrement (job tree die : Nat) (s : State) : Host.Outcome State Fault Refusal :=
  let s := s.updJob job fun j => { j with tgen := sput (64 * tree + die) (sget 0 j.tgen (64 * tree + die) + 1) j.tgen }
  let see (p : Nat × Tile) : Nat × Tile :=
    let behind (x : Tile) : Tile := { x with core := { x.core with tgenLag := sput tree (sget 0 x.core.tgenLag tree + 1) x.core.tgenLag } }
    if dieOf p.1 ≠ die then p
    else if p.2.retired then (p.1, behind p.2)
    else if ¬ p.2.live then p
    else if p.2.reruns ∨ p.2.still then
      (p.1, (behind p.2).input (.tgen tree))
    else (p.1, p.2.note (.tgen tree))
  .next { s with tiles := s.tiles.map see }

end Sys2Proof.Machine
end

