-- ==== Sys2Proof/Machine/Fetch.lean ====
section
/-! DEFINITION. Fetch (R21 to R28, R51, R302, R304, R374, R375): the line of a bundle, its pads, its checks and its traps. -/

namespace Sys2Proof.Machine

/-- What fetch finds for a context: a bundle with its address and link value, a bundle that traps (an illegal one with its PM bit, and whether an
engine-command boundary stands before it), a fault with its code of word 3 (R368), or a code line whose page no TLB holds (R304). -/
inductive FetchResult where
  | bundle (pc : Dword) (b : Bundle) (link : Dword)
  | malformed (pc : Dword)
  | illegal (pc : Dword) (pm : Nat) (boundary : Bool)
  | fault (pc : Dword) (code : Nat)
  | walk (pc : Dword)
  deriving DecidableEq, Repr

/-- The first address of a code line. -/
def lineOf (pc : Dword) : Dword := pc &&& ~~~63

/-- The range entry that holds the line of a header address, or the code of the fetch fault (R26): 0 an odd address, 1 to 3 the codes of R302. -/
def State.codeRange (s : State) (jobNum : Nat) (pc : Dword) : Except Nat (Nat × List Dword) :=
  let a := (lineOf pc).toNat
  if pc.getLsbD 0 then .error 0
  else if 2 ^ 57 ≤ pc.toNat then .error 1
  else
    match findRange (s.ranges jobNum) pc.toNat with
    | none => .error 2
    | some (i, e) =>
      if !permOk permX (rangePerm e) then .error 3
      else if a < rangeBase e ∨ rangeLimit e < a + 64 then .error 2
      else .ok (i, e)

/-- Fetch of a line by a tile waits for a page walk (R304): no leaf of its TLB covers it. -/
def State.codeMiss (s : State) (t jobNum : Nat) (pc : Dword) : Bool :=
  match s.codeRange jobNum pc with
  | .error _ => false
  | .ok _ => (s.translateWith (s.tile t).core.ctlb jobNum (lineOf pc) permX).isNone

/-- The bytes of the line of a header address, or the code of the fetch fault (R26): 0 an odd address, 1 to 6 the codes of R302, 7
uncorrectable data. A leaf that the tile caches is used in place of the tables (R305). -/
def State.codeLine (s : State) (t jobNum : Nat) (pc : Dword) : Except Nat (List Byte) :=
  match s.codeRange jobNum pc with
  | .error c => .error c
  | .ok _ =>
    match (s.translateWith (s.tile t).core.ctlb jobNum (lineOf pc) permX).getD (s.translateIn jobNum (lineOf pc) permX) with
    | .fault c => .error c
    | .ok pa => if s.badMem.any fun b => pa ≤ b && b < pa + 64 then .error 7 else if s.pathFailed pa then .error 8 else .ok (s.bytesAt pa 64)

/-- The first halfword of bytes is a line pad (R25). -/
def startsWithPad (bs : List Byte) : Bool := leNat (bs.take 2) == 0

/-- The link value of a bundle (R51): the header after it, or the start of the next line when a line pad stands there. -/
def State.linkValue (s : State) (t jobNum : Nat) (pc : Dword) (line : List Byte) (len : Nat) : Dword :=
  let next := pc + BitVec.ofNat 64 len
  let o := pc.toNat % 64 + len
  let pad : Bool :=
    if o < 64 then startsWithPad (line.drop o)
    else match s.codeLine t jobNum next with
      | .ok l => startsWithPad l
      | .error _ => false
  if pad then lineOf next + 64 else next

/-- The code lines of the whole EA space and one more: no fetch passes as many line pads (R26, R302). -/
def codeLines : Nat := 2 ^ 51 + 1

/-- TRAP and HALT, before which an engine-command boundary stands (R366). -/
def Instr.marksBoundary (i : Instr) : Bool :=
  match i with
  | .trap _ _ => true
  | .halt _ => true
  | _ => false

/-- An engine-command boundary stands before the bundle of these bytes, whether or not its slots are legal (R366): PM bit 5 or 6, TRAP or HALT. -/
def headerBoundary (bs : List Byte) : Bool :=
  let pm := leNat (bs.take 2) % 256
  let br : Bool := match decodeSlot .br (leNat ((bs.drop (bundleLength pm - 4)).take 4)) with
    | .ok i => Instr.marksBoundary i
    | .error _ => false
  bitOf pm 5 || bitOf pm 6 || (bitOf pm 7 && br)

/-- Fetch of R26 by a tile from an address, past the line pads that stand there; `walks` says whether a page that no TLB holds ends it, and `failed` names
a line whose walk has failed. -/
def State.fetchFrom (s : State) (t jobNum : Nat) (walks : Bool) (failed : Option (Dword × Nat)) : Nat → Dword → Bool → FetchResult
  | 0, pc, _ => .fault pc 1
  | fuel + 1, pc, arrived =>
    if walks && s.codeMiss t jobNum pc then
      match failed with
      | some (line, code) => if line = lineOf pc then .fault pc code else .walk pc
      | none => .walk pc
    else
      match s.codeLine t jobNum pc with
      | .error c => .fault pc c
      | .ok line =>
        let o := pc.toNat % 64
        match decodeBundle (64 - o) arrived (line.drop o) with
        | .linePad => s.fetchFrom t jobNum walks failed fuel (lineOf pc + 64) false
        | .bundle b => .bundle pc b (s.linkValue t jobNum pc line b.len)
        | .malformed => .malformed pc
        | .illegal pm _ => .illegal pc pm (headerBoundary (line.drop o))

/-- Fetch for a context of a tile. -/
def State.fetch (s : State) (t : Nat) (c : Ctx) : FetchResult := s.fetchFrom t c.job true c.fetchErr codeLines c.pc c.arrived

/-- What stands at a context's next header, with every page walk made at once. -/
def State.peek (s : State) (t : Nat) (c : Ctx) : FetchResult := s.fetchFrom t c.job false none codeLines c.pc c.arrived

/-- A bundle before which an engine-command boundary lies (R366): an MX or EC slot, TRAP or HALT. -/
def bundleBoundary (b : Bundle) : Bool := b.slots.any fun p => p.1 == .mx || p.1 == .ec || Instr.marksBoundary p.2

/-- The header of the bundle that a context issues next, past its line pads (R26), and whether an engine-command boundary stands before it (R366). -/
def State.nextPoint (s : State) (t : Nat) (c : Ctx) : Dword × Bool :=
  if c.halted then (c.haltPc, true)
  else match s.peek t c with
    | .bundle pc b _ => (pc, bundleBoundary b)
    | .malformed pc => (pc, false)
    | .illegal pc _ boundary => (pc, boundary)
    | .fault pc _ => (pc, false)
    | .walk pc => (pc, false)

/-- A page walk asked for by the fetch of a context, which waits (R304). In a rerun the end of a walk of the first run comes from the log or is
held back. -/
def State.askFetch (s : State) (t h : Nat) (pc : Dword) : State :=
  let line := lineOf pc
  let s := s.updCtx t h fun c => { c with pc := pc, fetchWait := true, fetchErr := none }
  let x := s.tile t
  let mine (i : Input) : Bool := match i with
    | .fetched k a _ _ => k == h && a == line
    | _ => false
  if x.region.replayed.any (fun p => mine p.2) || x.region.held.any mine ||
      s.fab.reqs.any fun r => r.kind == .fetch && r.tile == t && r.hw == h && r.ea == line then s
  else
    let c := s.ctxAt t h
    let (rid, s) := s.fresh
    let r : Req := ⟨rid, .fetch, c.job, t, h, 0, line, noPa, .none, 0, 0, 0, c.cmdix, [], .walking, 0⟩
    (s.updFab fun f => { f with reqs := f.reqs ++ [r] }).askWalk r

/-- A fetch fault of the acting context (R26, R368): precise, with the error interrupt for uncorrectable data (R341); a missing page is
replayable, so the context waits and its record goes to the trap queue (R374, R375). -/
def State.fetchFault (s : State) (code : Nat) : State :=
  let c := s.ctx
  if code = 4 then
    (s.updSelf fun c => { c with fetchWait := true, fetchErr := none }).holdTrap (dieOf s.cur.tile)
      ⟨trapWord0 0 2 0 0x01, c.cmdix, BitVec.ofNat 32 (7 * 2 ^ 28), 4, s.cur.pc, c.job, s.cur.hw, s.cur.tile, 1, none, 0⟩
  else
    let s := (s.updSelf fun c => { c with fetchErr := none }).precise 0x01 0 code (7 * 2 ^ 28)
    if code = 7 then s.noteBad c.job (lineOf s.cur.pc) 64 else s

end Sys2Proof.Machine
end

