-- ==== Sys2Proof/Machine/Recover.lean ====
section
/-! DEFINITION. What several events share: the journal, the dispatcher's work lists, cancels, commits, rollbacks and retirement (R230 to
R250, R317, R327 to R340, R379). -/

namespace Sys2Proof.Machine

/-! ### The journal (R314, R317) -/

/-- A record's journal entry changes its state; a final state stands, and is followed by its completion record. -/
def State.setJournal (s : State) (seq state : Nat) (status : Dword) : State :=
  match sfind s.ctl.journal seq with
  | none => s
  | some e =>
    if 3 ≤ e.state then s
    else
      let e' := { e with state := state, status := status, last := s.journalPtc }
      let s := { s with ctl := { s.ctl with journal := sput seq e' s.ctl.journal } }
      if state < 3 then s
      else
        let s := { s with ctl := { s.ctl with records := sdel seq s.ctl.records } }
        if e.port < 2 then s.after 0 (.completionRecord seq) else s

/-- The state of a record's journal entry, 0 where none is held. -/
def State.journalState (s : State) (seq : Nat) : Nat :=
  match sfind s.ctl.journal seq with
  | some e => e.state
  | none => 0

/-! ### Fields of a launch spec (R231) -/

/-- A field of a spec. -/
def specField (d : List Dword) (i lo w : Nat) : Nat := bitsOf (d.getD i 0).toNat lo w
/-- NUNITS. -/
def specUnits (d : List Dword) : Nat := specField d 1 0 24
/-- Contexts per unit. -/
def specCtxs (d : List Dword) : Nat := specField d 1 32 2 + 1
/-- Granules per unit. -/
def specGrans (d : List Dword) : Nat := specField d 1 34 6 + 1
/-- NBAR. -/
def specBars (d : List Dword) : Nat := specField d 1 40 7
/-- ARGN. -/
def specArgs (d : List Dword) : Nat := specField d 1 48 3
/-- BASEREG. -/
def specBase (d : List Dword) : Bool := bitOf (d.getD 1 0).toNat 51
/-- STRICT. -/
def specStrict (d : List Dword) : Bool := bitOf (d.getD 1 0).toNat 52
/-- PROT. -/
def specProt (d : List Dword) : Bool := bitOf (d.getD 1 0).toNat 53
/-- PIPE. -/
def specPipe (d : List Dword) : Bool := bitOf (d.getD 1 0).toNat 55
/-- WORK. -/
def specWork (d : List Dword) : Nat := specField d 3 0 32
/-- NSTG + 1. -/
def specStages (d : List Dword) : Nat := specField d 10 0 3 + 1
/-- MINDWELL. -/
def specDwell (d : List Dword) : Nat := specField d 10 8 8
/-- The descriptor of a stage. -/
def specStage (d : List Dword) (s : Nat) : Nat := specField d (11 + s / 2) (32 * (s % 2)) 32
/-- UNITS of a stage. -/
def stageUnits (d : List Dword) (s : Nat) : Nat := bitsOf (specStage d s) 0 16
/-- QCAP of a stage. -/
def stageCap (d : List Dword) (s : Nat) : Nat := bitsOf (specStage d s) 16 8
/-- HIGH of a stage. -/
def stageHigh (d : List Dword) (s : Nat) : Nat := bitsOf (specStage d s) 24 8
/-- STREC without the bits that are ignored. -/
def specRecord (d : List Dword) : Dword := BitVec.ofNat 64 (specField d 15 5 52 * 32)

/-- A launch still has units to place. -/
def Work.unplaced (w : Work) : Bool := w.nextUnit < specUnits w.spec || !w.again.isEmpty

/-! ### The dispatcher looks again -/

/-- One launch or task changed. -/
def State.updWork (s : State) (jobNum lid : Nat) (f : Work → Work) : State :=
  s.updJob jobNum fun j => { j with works := j.works.map fun w => if w.lid = lid then f w else w }

/-- A launch or task named by `workKey` has completed. -/
def State.workDone (s : State) (key : Nat) : Bool := (s.work (key / 2 ^ 24) (key % 2 ^ 24)).isNone

/-- The request that stands for a launch among the accesses of its context is over. -/
def State.specOver (s : State) (w : Work) : Bool :=
  match w.specReq with
  | some r => (s.req r).isNone
  | none => true

/-- A launch or task may become ready (R235, R236, R282). -/
def State.mayBeReady (s : State) (w : Work) : Bool :=
  w.state == .waiting && w.outcome == 0 && s.specOver w && w.waits.all s.workDone && (w.isTask || !w.spec.isEmpty)

/-- What a launch depends on has completed, and it is issued for good: it is ready, whether or not its spec has been read (R235, R238). That of a task is
ready at its dispatch (R282). -/
def State.isReady (s : State) (w : Work) : Bool := w.state == .waiting && w.outcome == 0 && !w.isTask && w.waits.all s.workDone

/-- The moment at which a launch or task has become ready, noted once (R238): one more than the tick. -/
def State.markReady (s : State) (jobNum lid : Nat) : State :=
  s.updWork jobNum lid fun w => { w with readyAt := if w.readyAt = 0 then s.now + 1 else w.readyAt }

/-- The dispatcher's next event for a launch or task, at a time that R236 leaves open. -/
def State.pokeWork (s : State) (jobNum : Nat) (w : Work) : State :=
  let d := s.dispatchTime (siteWork + w.lid)
  let s := if s.isReady w then s.markReady jobNum w.lid else s
  match w.state with
  | .waiting => if s.mayBeReady w then s.once d (.launchReady jobNum w.lid) else s
  | .ready => s.once d (.taskDispatch jobNum w.lid)
  | .placing => if w.unplaced then s.once d (.unitPlacement jobNum w.lid) else s
  | .ended => s.once d (.launchComplete jobNum w.lid)
  | _ => s

/-- A context has stopped for good and everything it waits for is over (R54, R245, R248); a rollback puts its end off (R332), and a pre-emption stops it for
a while only (R379). -/
def State.ctxOver (s : State) (t h : Nat) : Bool :=
  let c := s.ctxAt t h
  (c.halted || (c.stopped && c.stop != .preempt) || c.stop == .doneUnit) && (s.tile t).region.run == 0 && c.due.isEmpty && c.old == 0 && c.ost == 0 && c.ocp == 0 && c.omx == 0 &&
    c.errs.isEmpty && c.handler.isNone && !(s.tile t).core.aq.any (fun o => o.hw == h) && !(s.tile t).region.commitDue

/-- A graph instance has halted and its launches and tasks have completed (R230). -/
def State.instOver (s : State) (jobNum : Nat) (i : Inst) : Bool :=
  i.state == 1 && s.ctxOver i.tile i.hw &&
    !(s.jobs.any fun j => j.works.any fun w => w.job == jobNum && w.inst == some i.num && w.parent.isNone)

/-- The place that asks when a graph instance starts. -/
def siteInst : Nat := 60000000

/-- The dispatcher and the graph instances of a job looked at again. -/
def State.pokeJob (s : State) (j : Job) : State :=
  let s := j.works.foldl (fun s w => s.pokeWork j.num w) s
  let s := j.insts.foldl (fun s i => if s.instOver j.num i then s.once 0 (.graphInstanceComplete j.num i.num) else s) s
  let s := match j.insts.find? fun i => i.state == 0 with
    | some i => s.once (s.dispatchTime (siteInst + i.seq)) (.graphInstanceStart i.seq)
    | none => s
  if j.closed then s.once 0 (.phaseComplete j.num) else s

/-- Everything that waits for the dispatcher looked at again. -/
def State.poke (s : State) : State := s.jobs.foldl (fun s j => if j.clearing then s else s.pokeJob j) s

/-! ### The end of a launch -/

/-- A launch or task that fails before any unit of it is placed (R233, R286). -/
def State.failWork (s : State) (jobNum lid err : Nat) : State :=
  (s.updWork jobNum lid fun w => { w with err := err, outcome := 2, state := .ended }).once (s.dispatchTime (siteWork + lid)) (.launchComplete jobNum lid)

/-- The spec of a launch is still to be read (R236). -/
def State.specPending (s : State) (w : Work) : Bool :=
  !w.isTask && w.spec.isEmpty && (w.state == .deferred || w.state == .waiting) && !s.specOver w

/-- A launch whose units have all ended, or that is cancelled and has no placed unit left, completes. One whose spec is still to be read waits for that: its
record and its semaphore are named there (R234, R236, R248). -/
def State.checkWork (s : State) (jobNum lid : Nat) : State :=
  match s.job jobNum, s.work jobNum lid with
  | some j, some w =>
    let live := j.units.any fun u => u.lid == lid
    let conv := j.works.any fun v => v.parent == some lid
    if live || conv || w.state == .ended || s.specPending w then s
    else if w.outcome = 3 ∨ (w.state = .placing ∧ ¬ w.unplaced) then
      (s.updWork jobNum lid fun w => { w with state := .ended, outcome := if w.outcome = 0 then (if w.err = 0 then 1 else 2) else w.outcome }).once
        (s.dispatchTime (siteWork + lid)) (.launchComplete jobNum lid)
    else s
  | _, _ => s

/-- The tiles of a unit: a protected pair has two (R337). -/
def WorkUnit.tiles (u : WorkUnit) (prot : Bool) : List Nat := if prot then [u.tile, u.tile + 1] else [u.tile]

/-- The spec of a unit's launch. -/
def State.specOf (s : State) (jobNum : Nat) (u : WorkUnit) : List Dword := ((s.work jobNum u.lid).map (·.spec)).getD []

/-- A unit runs on protected pairs. -/
def State.protected_ (s : State) (jobNum : Nat) (u : WorkUnit) : Bool := specProt (s.specOf jobNum u)

/-- A context that belongs to nothing any more: its registers stay as they are until another start writes them (R39, R239); nothing is under way for it. -/
def Ctx.freed (c : Ctx) : Ctx :=
  { c with
    owner := .idle, due := [], pend := [], nexts := [], nqw := [], errs := [], fences := [], held := false, pause := 0, arrived := false
    stop := .run, stopAge := 0, stopped := false, handler := none, fetchWait := false, fetchErr := none, raised := 0, froze := false }

/-- A unit's contexts, granules and barrier slots are freed on its tiles (R239); its trap records go (R375). Two tiles are a pair while a unit of them is
left. -/
def State.freeUnit (s : State) (jobNum : Nat) (u : WorkUnit) : State :=
  let ts := u.tiles (s.protected_ jobNum u)
  let others : Bool := ((s.job jobNum).map fun j => j.units.any fun v => v.uid != u.uid && v.tile == u.tile && s.protected_ jobNum v).getD false
  let s := ts.foldl (fun s t => s.updTile t fun x =>
    { x with
      grans := x.grans.filter fun p => p.2 != u.uid
      barsUsed := x.barsUsed.filter fun p => p.2 != u.uid
      pair := if t = u.tile ∨ others then x.pair else none
      core := u.ctxs.foldl (fun k h => k.updCtx h Ctx.freed) x.core }) s
  let mine (r : Req) : Bool := r.tile == u.tile && u.ctxs.contains r.hw && r.state == .parked
  let s := s.updFab fun f => { f with reqs := f.reqs.filter fun r => !mine r }
  let d := dieOf u.tile
  let die := sget Die.reset s.dies d
  let keep (p : Nat × TrapEntry) : Bool := !(p.2.tile == u.tile && u.ctxs.contains p.2.hw && p.2.state != 3)
  { s with dies := sput d { die with traps := die.traps.filter keep } s.dies }.updJob jobNum fun j =>
    { j with units := j.units.filter fun v => v.uid != u.uid }

/-- The account of a unit that has ended (R234): by a fatal trap, by a cancel, or normally. Of two errors the lower code stays (log 39). -/
def State.countUnit (s : State) (jobNum : Nat) (u : WorkUnit) : State :=
  let bad := u.fatal || u.cancelled
  let s := s.updWork jobNum u.lid fun w =>
    let err := if u.fatal then 7 else if specPipe w.spec && !u.items.isEmpty && !u.cancelled then 6 else 0
    { w with
      ended := w.ended + 1
      uok := if bad then w.uok else w.uok + 1
      ufail := if bad then w.ufail + 1 else w.ufail
      err := if w.err = 0 ∨ err ≠ 0 ∧ err < w.err then err else w.err }
  s.checkWork jobNum u.lid

/-! ### Stopping contexts (R248, R379) -/

/-- The commands of a context that have been accepted but not started. -/
def Core.unstarted (k : Core) (h : Nat) : List Nat :=
  ((k.copies.filter fun m => m.hw == h && (m.state == .deferred || m.state == .queued || m.state == .timed)).map (·.id)) ++
    (k.mcmds.filter fun m => m.hw == h && !m.begun).map (·.id)

/-- Commands of a context with some numbers are discarded: each completes with an error and no trap (R248). -/
def Core.discardIds (k : Core) (h : Nat) (ids : List Nat) : Core :=
  let cs := k.copies.filter fun m => ids.contains m.id
  let ms := k.mcmds.filter fun m => ids.contains m.id
  let k := { k with copies := k.copies.filter fun m => !ids.contains m.id, mcmds := k.mcmds.filter fun m => !ids.contains m.id }
  let k := cs.foldl (fun k m => k.commandDone h true (tagOf m.op) true none 0) k
  ms.foldl (fun k m => k.commandDone h false (tagOf m.op) true none 0) k

/-- Commands of a context accepted but not started are discarded (R248). -/
def Core.discard (k : Core) (h : Nat) : Core := k.discardIds h (k.unstarted h)

/-- They go from a tile, and from its snapshot too, so that a rollback does not count them again (R330). -/
def Tile.discard (x : Tile) (h : Nat) : Tile :=
  let ids := x.core.unstarted h
  if ids.isEmpty then x
  else { x with core := x.core.discardIds h ids, region := { x.region with start := x.region.start.discardIds h ids } }

/-- The parked accesses and the records of a context are discarded (R375): each access counts as over, and what waited behind it goes on. -/
def State.discardHeld (s : State) (t h : Nat) : State :=
  let parked := s.fab.reqs.filter fun r => r.tile == t && r.hw == h && r.state == .parked
  let s := parked.foldl (fun s r => (s.input t (if r.kind.countsOld then .failed h r.id else .counted h false)).dropReq r.id) (s.clearTraps t h true)
  if parked.isEmpty then s else s.kick t

/-- The input brings what one of some requests of a context asked for. -/
def Input.answers (i : Input) (h : Nat) (ids : List Nat) : Bool :=
  match i with
  | .load k rid _ _ => k == h && ids.contains rid
  | .failed k rid => k == h && ids.contains rid
  | .reply k id _ => k == h && ids.contains id
  | _ => false

/-- What a context took from outside in a region that it will not run again goes, with its answers (R336). -/
def State.unsend (s : State) (t h : Nat) : State :=
  let ids := ((s.tile t).region.reuse.filter fun p => p.1 == takeKey .access h || p.1 == takeKey .next h).map (·.2)
  if ids.isEmpty then s
  else
    (s.updFab fun f => { f with reqs := f.reqs.filter fun r => !(r.tile == t && r.hw == h && ids.contains r.id) }).updTile t fun x =>
      { x with region := { x.region with
          reuse := x.region.reuse.filter fun p => p.1 % 4 != h
          inputs := x.region.inputs.filter fun p => !p.2.answers h ids
          replayed := x.region.replayed.filter fun p => !p.2.answers h ids
          held := x.region.held.filter fun i => !i.answers h ids } }

/-- A context stops for good under a cancel (R248), and its region commits. -/
def State.stopCtx (s : State) (t h : Nat) : State :=
  let s := (s.unsend t h).updTile t fun x =>
    ((x.discard h).updCtx h fun c => { c with stop := .cancel, stopped := true, held := false, handler := none }).soilFrom x.core
  (s.discardHeld t h).mustCommit t

/-- A trap record that is not taken (R373): recorded without entry, with DISP 1. -/
def State.recordErr (s : State) (t h : Nat) (e : Err) : State :=
  let c := s.ctxAt t h
  s.journalTrap false t h c.job (trapWord0 e.cls 1 e.aux e.code) (if e.cls = 2 then e.cmdix else c.cmdix) e.w2 e.w3

/-! ### Freezes (R256, R258) -/

/-- The freeze of recovery in which a tile stands at a pulse, an empty one at its next control cycle if it stands in none. A tile that stands in one has
made no control cycle since (R258). -/
def Tile.freezing (x : Tile) (now : Nat) : Freeze :=
  match x.froze with
  | some f => if f.ends = x.clock ∧ now < f.ends then f else ⟨x.clock, x.clock, 0, 0⟩
  | none => ⟨x.clock, x.clock, 0, 0⟩

/-- The whole control cycles of a freeze that have passed at a pulse. -/
def Freeze.spent (f : Freeze) (now : Nat) : Nat := (now - f.start) * f.cycles / (f.ends - f.start)

/-- A tile frozen for `n` control cycles from now, in the union with a freeze in which it stands (R258, R326); RPLCNT counts each frozen cycle in
which a replay holds once. -/
def State.freezeTile (s : State) (t n : Nat) (replay : Bool) : State :=
  s.updTile t fun x =>
    let now := s.pulsesAt t
    let f := x.freezing now
    let e := f.spent now + n
    let ends := f.start + max f.cycles e * x.core.dC
    { x with
      clock := ends
      still := true
      froze := some ⟨f.start, ends, max f.cycles e, if replay then max f.replays e else f.replays⟩
      rplcnt := x.rplcnt + BitVec.ofNat 64 (if replay then e - max f.replays (f.spent now) else 0) }

/-- The tile that runs for a tile: the leader of its protected pair, or itself (R337). -/
def State.leader (s : State) (t : Nat) : Nat := ((s.tile t).pair).getD t

/-- A tile and its pair frozen for `n` control cycles from now by a replay in it (R326, R337): both stand for the same cycles, and RPLCNT of the tile that
replays counts each of them in which a replay of its own holds once (R44, R258). -/
def State.freezePair (s : State) (t n : Nat) : State :=
  let l := s.leader t
  if l = t then s.freezeTile t n true
  else
    let now := s.pulsesAt l
    let f := (s.tile l).freezing now
    let had := match (s.tile t).froze with
      | some g => if g.start = f.start then g.replays else 0
      | none => 0
    let e := f.spent now + n
    (s.freezeTile l n false).updTile t fun x =>
      { x with
        froze := some { f with cycles := max f.cycles e, replays := max had e }
        rplcnt := x.rplcnt + BitVec.ofNat 64 (e - max had (f.spent now)) }

/-! ### Protected pairs (R337) -/

/-- The follower of a protected pair (R337). -/
def State.follower (s : State) (t : Nat) : Option Nat := if (s.tile (t + 1)).pair = some t then some (t + 1) else none

/-- A context of a follower as the leader's stood two issue cycles before (R337): it issues what that one issued then, and what is due to it and what has
reached it are the leader's to show (log 24). -/
def Ctx.mirrored (c : Ctx) : Ctx := { c with stopped := true, due := [], pend := [], nexts := [], nqw := [], errs := [], handler := none }

/-- What a unit holds of its follower, as the leader's core stood (R337). -/
def Core.mirrorUnit (f k : Core) (u : WorkUnit) : Core :=
  let f := { f with
    ctxs := u.ctxs.foldl (fun m h => sput h (k.ctx h).mirrored m) f.ctxs
    bars := (List.range u.nbar).foldl (fun m i => sput (u.bar + i) (sget ⟨0, 0, 0⟩ k.bars (u.bar + i)) m) f.bars }
  (List.range (16 * u.ngran)).foldl (fun f i =>
    let r := 16 * u.gran + i
    { f with rows := sput r (k.row r) f.rows, fe := sput r (k.feBits r) f.fe }) f

/-- What the units of a pair share of the follower, where no other unit lives on it. -/
def Core.mirrorRest (f k : Core) : Core :=
  { f with
    accs := k.accs, wslots := k.wslots, ft := k.ft, mbud := k.mbud, tb := k.tb, te := k.te, cnt := k.cnt, sems := k.sems, bars := k.bars, aq := k.aq
    rows := k.rows, fe := k.fe, dC := k.dC, dV := k.dV, dM := k.dM, dY := k.dY, divs := k.divs }

/-- A counter that has grown in the leader grows in the follower; one that a program has cleared reads the same in both. -/
def followCount (f k was : Dword) : Dword := if k.toNat < was.toNat then k else f + (k - was)

/-- The counters of what the bundles of a unit do (R40), from one core of the leader to a later one. -/
def Core.mirrorCounts (f k was : Core) : Core :=
  { f with
    bcnt := f.bcnt + (k.bcnt - was.bcnt), ccnt := f.ccnt + (k.ccnt - was.ccnt), esccnt := f.esccnt + (k.esccnt - was.esccnt)
    satc := followCount f.satc k.satc was.satc, unfc := followCount f.unfc k.unfc was.unfc, canc := followCount f.canc k.canc was.canc }

/-- What a dirty bit covers belongs to some units of a tile. -/
def Dirty.ofUnits (d : Dirty) (us : List WorkUnit) (alone : Bool) : Bool :=
  match d with
  | .row n => alone || us.any fun u => 16 * u.gran ≤ n && n < 16 * (u.gran + u.ngran)
  | .spill h _ | .xbank h | .vbank h | .pbank h | .ctx h => us.any fun u => u.ctxs.contains h
  | .wslot _ | .acc _ => alone
  | .rest => true

/-- The follower of a pair as a core of its leader stood, for some units that run on both: what those have made dirty in the leader is dirty in it too
(R337, R382). -/
def State.mirror (s : State) (t : Nat) (us : List WorkUnit) (k : Core) : State :=
  match s.follower t with
  | none => s
  | some f =>
    let clean := (s.tile t).clean
    s.updTile f fun x =>
      let alone := x.core.ctxs.all fun p => p.2.owner == .idle || us.any fun u => u.ctxs.contains p.1
      let c := us.foldl (fun f u => f.mirrorUnit k u) x.core
      { x with
        core := if alone then c.mirrorRest k else c
        clean := x.clean.filter fun d => clean.contains d || !d.ofUnits us alone }

/-- The follower of a pair makes the control cycles of its leader (R337): its own ISSCNT goes with the leader's, back with it at a rollback too (R44, R330),
unless it has a unit of its own. -/
def State.pace (s : State) (t : Nat) (n : Dword) : State :=
  match s.follower t with
  | none => s
  | some f => s.updTile f fun x =>
    if x.live then x
    else { x with clock := max x.clock (s.tile t).clock, core := { x.core with isscnt := x.core.isscnt + n } }

/-- What the follower has come to goes from one core of the leader to another: the units of the pair and the counters of what they do. -/
def State.follow (s : State) (t : Nat) (was k : Core) : State :=
  match s.jobOfDie (dieOf t), s.follower t with
  | some j, some f => (s.mirror t (j.units.filter fun u => u.tile == t && s.protected_ j.num u) k).updCore f fun c => c.mirrorCounts k was
  | _, _ => s

/-- The end of an issue cycle of a leader (R337): its follower comes to where it stood two issue cycles before, and what it holds back for the follower's
commit records goes, a cancel among it. `trail` holds the leader's core at the end of its last three issue cycles. -/
def State.endPair (s : State) (t : Nat) : State :=
  if (s.follower t).isNone then s
  else
    let x := s.tile t
    let s := match x.trail with
      | [k1, k2, k3] => (s.pace t (x.core.isscnt - k1.isscnt)).follow t k3 k2
      | _ => s
    (s.updTile t fun x => { x with trail := (x.core :: x.trail).take 3 }).kick t

/-- A leader taken back to an earlier core takes its follower with it (R330, R338). -/
def State.rewindPair (s : State) (t : Nat) (before : Tile) : State :=
  if (s.follower t).isNone then s.updTile t fun x => { x with trail := [] }
  else
    let k := (s.tile t).core
    let s := (s.pace t (k.isscnt - before.core.isscnt)).follow t ((before.trail.getLast?).getD before.core) k
    s.updTile t fun x => { x with trail := [k, k, k] }

/-- A unit of a pair ends (R337): its follower has come to where its leader stands, and goes its own way where no other unit of the pair is left. -/
def State.partPair (s : State) (t : Nat) (u : WorkUnit) (last : Bool) : State :=
  let x := s.tile t
  let s := s.mirror t [u] x.core
  if !last then s
  else
    match s.follower t with
    | none => s
    | some f => (s.updCore f fun c => c.mirrorCounts x.core ((x.trail.getLast?).getD x.core)).updTile t fun x => { x with trail := [] }

/-! ### Rollback (R330 to R333) -/

/-- Deferred commands dropped without starting (R332): requests and launches made in the region go, and counts in a graph instance fall
back. -/
def State.dropDeferred (s : State) (d : Deferred) : State :=
  match d with
  | .trap _ _ | .device _ _ => s
  | .access r => s.dropReq r
  | .signal r => s.dropReq r
  | .item r => s.dropReq r
  | .work jobNum lid =>
    match s.work jobNum lid with
    | none => s
    | some w =>
      let s := match w.specReq with
        | some r => s.dropReq r
        | none => s
      let s := if w.inst.isSome then s.updSlot w.job w.tile w.hw w.inst w.slot (· - 1) else s
      s.updJob jobNum fun j => { j with works := j.works.filter fun v => v.lid != lid }
  | .copy _ | .matrix _ | .cancel _ _ _ | .doneUnit _ | .mask _ _ _ _ _ _ => s

/-- The inputs of a list that release a tree. -/
def treeReleases (is : List Input) (tree : Nat) : Nat := (is.filter fun i => i == .tgen tree).length

/-- An array operation of an earlier region has read all that it needs: what it gives stands, as the weight buffer may have been loaded anew since. -/
def ArrayOp.settled (o : ArrayOp) : Bool := o.started && !o.again && (o.fault.isSome || !o.op.isProduct || o.op.kg ≤ o.next)

/-- The queue of a rollback (R332): the operations of earlier regions, each with what its passes have given where they are over (R148). -/
def Tile.requeued (x : Tile) : List ArrayOp :=
  let ran := x.core.aq ++ x.region.fallen
  x.region.start.aq.map fun e =>
    match ran.find? fun o => o.id == e.id && o.settled with
    | some o => { o with started := e.started, kept := true, reported := e.reported, stale := e.stale }
    | none => e

/-- The end of the phase that the array runs, as a queue that has been kept tells it (R148). -/
def queueEnd (aq : List ArrayOp) (end_ : Nat) : Nat := aq.foldl (fun m o => if o.started then max m o.actEnd else m) end_

/-- The core as a rollback leaves it (R330): the snapshot, with the commands of earlier regions as they now stand, the weight buffer, and
stops asked for meanwhile. -/
def Tile.restored (x : Tile) : Core :=
  let k := x.core
  let b := x.region.start
  let logged := x.region.inputs.map (·.2) ++ x.region.held ++ x.ice
  { b with
    aq := x.requeued
    actEnd := queueEnd x.requeued b.actEnd
    ctxs := b.ctxs.map fun p =>
      let c := k.ctx p.1
      if c.stop = .cancel ∨ c.stop = .preempt then (p.1, { p.2 with stop := c.stop }) else p
    copies := k.copies.filter fun m => m.state != .deferred
    mcmds := k.mcmds.filter fun m => !m.deferred
    wslots := k.wslots
    outAt := k.outAt
    inAt := k.inAt
    rowAt := k.rowAt
    landAt := k.landAt
    matAt := k.matAt
    units := sput 3 (sget 0 k.units 3) b.units
    tgenLag := (List.range 8).foldl (fun m i => sput i (sget 0 b.tgenLag i + treeReleases logged i) m) [] }

/-- What a region has deferred is dropped, and what it added to escalation counters taken back (R148, R332). -/
def State.dropRegion (s : State) (r : Region) : State :=
  r.escs.foldl (fun s e => s.updWork e.1 e.2.1 fun w => { w with esc := w.esc - BitVec.ofNat 64 e.2.2 }) (r.deferred.foldl State.dropDeferred s)

/-- An access that the running region has made and that has not left the tile is taken back: the rerun makes it anew in its place, behind the deferred
accesses that come before it again (R200, R333). -/
def State.dropUnsent (s : State) (t : Nat) : State :=
  let sent := (s.tile t).region.sent
  let gone := s.fab.reqs.filter fun r => r.tile == t && r.state == .waiting && sent.contains (takeKey .access r.hw, r.id)
  let back (p : Nat × Nat) : Nat × Nat := if gone.any fun r => p = (takeKey .access r.hw, r.id) then (goneKey p.1, p.2) else p
  if gone.isEmpty then s
  else
    (s.updFab fun f => { f with reqs := f.reqs.filter fun r => !(gone.any fun g => g.id == r.id) }).updTile t fun x =>
      { x with region := { x.region with sent := sent.map back } }

/-- The tile restored, its region dropped, and frozen for 24 + u control cycles (R332, R334). -/
def State.restoreTile (s : State) (t : Nat) (region : Tile → Region) : State :=
  let s := s.dropUnsent t
  let x := s.tile t
  let s := s.dropRegion x.region
  let s := s.updTile t fun y => { y with core := y.restored, region := region y, fresh := [] }
  (s.rewindPair t x).freezeTile t (24 + x.region.undo.length) false

/-- REPCNT of a tile, and of its follower, which rolls back with it (R44, R338). -/
def State.countRerun (s : State) (t : Nat) : State :=
  let one (s : State) (t : Nat) : State := s.updTile t fun x => { x with repcnt := x.repcnt + 1 }
  match s.follower t with
  | some f => one (one s t) f
  | none => one s t

/-- The first rerun of a rollback begins (R332): the log up to now is replayed. -/
def State.startRollback (s : State) (t : Nat) (disagree : Bool) : State :=
  let s := s.restoreTile t fun x =>
    { Region.reset with
      start := x.region.start
      inputs := x.region.inputs
      replayed := x.region.inputs
      sent := x.region.sent
      reuse := x.region.sent
      held := x.region.held
      run := 1
      logEnd := x.core.cycle
      disagree := disagree }
  s.countRerun t

/-- The second rerun begins at the commit point of the first (R332). -/
def State.secondRerun (s : State) (t : Nat) : State :=
  let s := s.restoreTile t fun x =>
    { Region.reset with
      start := x.region.start
      inputs := x.region.inputs
      replayed := x.region.inputs
      sent := x.region.sent
      reuse := x.region.sent
      held := x.region.held
      run := 2
      firstSig := x.region.sig
      firstEnd := x.core.isscnt
      logEnd := x.core.cycle
      disagree := x.region.disagree }
  s.countRerun t

/-- A tile taken back to its last commit (R336): the contexts that go on run the region once more, with what has arrived from the log. -/
def State.rewind (s : State) (t : Nat) : State :=
  s.restoreTile t fun x =>
    { Region.reset with
      start := x.region.start
      inputs := x.region.inputs
      replayed := x.region.inputs
      sent := x.region.sent
      reuse := x.region.sent
      held := x.region.held
      logEnd := max x.region.logEnd x.core.cycle }

/-- A rollback ended by a cancel (R336): the state of the last commit. -/
def State.endRollback (s : State) (t : Nat) : State := if (s.tile t).region.run = 0 then s else s.rewind t

/-! ### Cancels (R248, R373) -/

/-- A context asked to stop: at once where it waits or its tile was rolling back, else at its next engine-command boundary. One that has halted, or whose
unit is done, issues no more; what it has not started goes (R245, R248). -/
def State.stopNext (s : State) (t h : Nat) (rolling : Bool) : State :=
  let c := s.ctxAt t h
  if c.owner = .idle ∨ c.stopped then s
  else if rolling || (c.held && !c.halted && c.stop != .doneUnit) then s.stopCtx t h
  else
    let s := s.updCtx t h fun c => { c with stop := if c.stop = .doneUnit then .doneUnit else .cancel, stopAge := 0 }
    if c.halted || c.stop == .doneUnit then (s.updTile t fun x => (x.discard h).soilFrom x.core).discardHeld t h else s

/-- Contexts of a tile asked to stop; a rollback of the tile ends, and they stop with the state of the last commit (R336). -/
def State.stopAll (s : State) (t : Nat) (hs : List Nat) : State :=
  let rolling : Bool := (s.tile t).region.run != 0
  hs.foldl (fun s h => s.stopNext t h rolling) (s.endRollback t)

/-- One context asked to stop. -/
def State.askStop (s : State) (t h : Nat) : State := s.stopAll t [h]

/-- A placed unit stops. -/
def State.cancelUnit (s : State) (jobNum : Nat) (u : WorkUnit) : State :=
  (s.updUnit jobNum u.uid fun u => { u with cancelled := true }).stopAll u.tile u.ctxs

/-- One launch or task cancelled, conversions apart. -/
def State.cancelOne (s : State) (jobNum lid : Nat) : State :=
  match s.job jobNum, s.work jobNum lid with
  | some j, some w =>
    if w.state = .ended ∨ w.outcome = 3 then s
    else
      let s := s.updWork jobNum lid fun w => { w with outcome := 3, nextUnit := specUnits w.spec, again := [] }
      let s := match w.specReq with
        | some r => if s.specPending w then s else s.dropReq r
        | none => s
      let s := (j.units.filter fun u => u.lid == lid).foldl (fun s u => s.cancelUnit jobNum u) s
      s.checkWork jobNum lid
  | _, _ => s

/-- A launch or task cancelled, with the conversions inserted for it (R248, R286). -/
def State.cancelWork (s : State) (jobNum lid : Nat) : State :=
  match s.job jobNum with
  | none => s
  | some j => ((j.works.filter fun w => w.parent == some lid).foldl (fun s w => s.cancelOne jobNum w.lid) s).cancelOne jobNum lid

/-- A graph instance cancelled (R248): its launches and tasks, then its context; one that has not started ends at once. -/
def State.cancelInst (s : State) (jobNum : Nat) (i : Inst) : State :=
  let mark (st : Nat) (s : State) : State := s.updJob jobNum fun j =>
    { j with insts := j.insts.map fun k => if k.seq = i.seq then { k with cancelled := true, state := st } else k }
  if 3 ≤ i.state then s
  else if i.state = 0 then (mark 4 s).setJournal i.seq 5 6
  else
    let s := s.jobs.foldl (fun s j => (j.works.filter fun w => w.job == jobNum && w.inst == some i.num).foldl
      (fun s w => s.cancelWork j.num w.lid) s) (mark 1 s)
    s.askStop i.tile i.hw

/-- A cancel by level (R248, R315): 0 launch, 1 graph instance, 2 phase, 3 job. -/
def State.cancel (s : State) (jobNum lvl ident : Nat) : State :=
  let named := if lvl = 3 then ident else jobNum
  match s.job named with
  | none => s
  | some j =>
    match lvl with
    | 0 => (s.cancelWork jobNum ident).poke
    | 1 => ((j.insts.filter fun i => i.num == ident && (i.state == 1)).foldl (fun s i => s.cancelInst jobNum i) s).poke
    | 2 => ((j.insts.filter fun i => i.phase == ident).foldl (fun s i => s.cancelInst jobNum i) s).poke
    | _ =>
      let s := s.updJob named fun j => { j with cancelled := true, closed := true }
      let s := j.insts.foldl (fun s i => s.cancelInst named i) s
      (j.works.foldl (fun s w => s.cancelWork named w.lid) s).poke

/-- The cancels that a protected pair has held back for its commit records go (R337). -/
def State.sendCancels (s : State) (t : Nat) : State :=
  let due := s.fab.reqs.filter fun r => r.tile == t && r.state == .waiting && !s.withheld r
  due.foldl (fun s r =>
    match r.kind with
    | .cancel lvl ident => (s.dropReq r.id).cancel r.job lvl ident
    | _ => s) s

/-! ### Commit (R327, R328, R332, R333) -/

/-- A launch or task of a region that commits: one with no live job fails at once (R235). -/
def State.startWork (s : State) (jobNum lid : Nat) : State :=
  match s.work jobNum lid with
  | none => s
  | some w =>
    match w.specReq with
    | none => s
    | some r =>
      let s := s.updWork jobNum lid fun w => { w with state := if w.state = .deferred then .waiting else w.state }
      if w.state ≠ .deferred then s
      else if w.badJob then (s.dropReq r).failWork jobNum lid 13 else s.updReq r fun x => { x with state := .waiting }

/-- A deferred command starts. A cancel by a protected pair leaves it once the commit records of its issue cycle have matched (R337). -/
def State.performDeferred (s : State) (t : Nat) (d : Deferred) : State :=
  let go (r : Nat) : State := s.updReq r fun x => { x with state := .waiting }
  match d with
  | .copy id => s.updCore t fun k =>
      { k with copies := k.copies.map fun m =>
          if m.id = id then { m with state := if m.op.isTimed then .timed else .queued } else m }
  | .matrix id => s.updCore t fun k => { k with mcmds := k.mcmds.map fun m => if m.id = id then { m with deferred := false } else m }
  | .access r => go r
  | .signal r => go r
  | .item r => go r
  | .work jobNum lid => s.startWork jobNum lid
  | .cancel h lvl ident =>
    let c := s.ctxAt t h
    if s.releaseCycle t h = 0 then s.cancel c.job lvl ident else (s.engineReq t h c.job (.cancel lvl ident) 0 0 0 c.cmdix [] .waiting).2
  | .doneUnit _ => s
  | .trap e journals => s.recordTrap t e journals
  | .device n v => s.writeDevice t n v
  | .mask jobNum tree row k mask at_ => s.sendTreeMask (dieOf t) jobNum tree row k mask (s.now - at_)

/-- What a commit leaves to the next region: where the run after a rollback that a cancel ended has not come to the end of the log, the rest of the
log (R336). -/
def Tile.logLeft (x : Tile) : Region :=
  if x.region.run = 0 ∧ x.core.cycle < x.region.logEnd then
    { Region.reset with
      inputs := x.region.replayed, replayed := x.region.replayed, sent := x.region.reuse, reuse := x.region.reuse, held := x.region.held
      logEnd := x.region.logEnd }
  else Region.reset

/-- The inputs that the log of a second rerun still holds at its commit: those of the committing cycle of the first (R332). -/
def Region.leftOver (r : Region) : List Input := if r.run = 2 then (r.replayed.map (·.2)).filter fun i => !i.isWait else []

/-- The region of a tile commits: deferred commands start in issue order, what a rerun held back takes effect, and a new region begins with
its snapshot. What the commit itself puts into the tile is in the snapshot and so in no log (R331); what was written after the record of the last issue
cycle ended goes into the next record (R335). At a pre-emption the commands that the commit lets start do so at once (R379). -/
def State.commitRegion (s : State) (t : Nat) : State :=
  let r := (s.tile t).region
  let left := { (s.tile t).logLeft with record := r.record }
  let s := s.updTile t fun x => { x with region := left }
  let s := s.updTile t fun x => r.leftOver.foldl Tile.applyInput x
  let s := (r.deferred.foldl (fun s d => s.performDeferred t d) s).kick t
  let s := if left.held.isEmpty then r.held.foldl (fun s i => s.updTile t fun x => x.applyInput i) s else s
  let s := if (s.tile t).core.preempting then s.fillPlaces t else s
  s.updTile t fun x => { x with region := { x.region with start := x.snapshot, inputs := left.inputs } }

/-! ### Retirement (R339, R340) -/

/-- The place of a tile in the retirement map (R340). -/
def mapIndex (t : Nat) : Nat := 625 * dieOf t + localIndex t

/-- A unit of a retired tile is to be placed again, at most four times. -/
def State.moveUnit (s : State) (jobNum : Nat) (u : WorkUnit) : State :=
  let s := s.freeUnit jobNum u
  if u.cancelled ∨ 4 ≤ u.moves then s.countUnit jobNum { u with fatal := u.fatal || !u.cancelled }
  else s.updWork jobNum u.lid fun w => { w with again := w.again ++ [(u.grp, u.moves + 1)], given := w.given ++ u.items }

/-- The root of a job's trees hears that a tile takes part in them no more (R268, R269). -/
def State.leaveTrees (s : State) (j : Job) (t : Nat) : State :=
  (List.range 8).foldl (fun s tree =>
    if j.participates tree t then s.sendAlong (dieOf t) j.root (.treeArrivalAtRoot j.num tree t) 0 else s) s

/-- A copy command of a committed region that moves rows out of its tile goes on when the tile is retired: committed effects stand (R339). -/
def CopyCmd.outlives (m : CopyCmd) : Bool := m.state != .deferred && (m.way == 1 || m.way == 3 || m.multicast)

/-- A request of a committed region goes on when its tile is retired (R339). -/
def Req.outlives (r : Req) : Bool :=
  match r.state with
  | .deferred => (match r.kind with
    | .copyOut _ | .copyTo _ _ _ _ => true
    | _ => false)
  | .parked => false
  | .waiting | .walking | .sent | .remote | .failing | .performed | .done => true

/-- One tile is retired (R339, R340): its contexts stop, its region is discarded, and it leaves dispatch and the trees. What it has committed goes on. -/
def State.retireOne (s : State) (t code : Nat) : State :=
  let x := s.tile t
  if x.retired then s
  else
    let d := dieOf t
    let s := s.dropRegion x.region
    let w0 := trapWord0 3 3 0 code
    let jobNum := ((s.jobOfDie d).map (·.num)).getD 0
    let s := if code = 0 then s
      else (s.fatalTrap d ⟨w0, 0, 0, BitVec.ofNat 32 t, 0, jobNum, 0, t, 3, none, 0⟩).journalTrap true t 0 jobNum w0 0 0 (BitVec.ofNat 32 t)
    let s := s.updTile t fun x =>
      { x with
        retired := true
        live := x.core.copies.any CopyCmd.outlives
        ice := []
        trail := []
        region := { Region.reset with start := Core.reset }
        core := { x.core with copies := x.core.copies.filter CopyCmd.outlives, mcmds := [], aq := [] } }
    let s := { s with ctl := { s.ctl with retireMap := s.ctl.retireMap ++ [t] } }
    let s := s.predictEvent 3 (mapIndex t) 0
    let s := (s.updFab fun f => { f with reqs := f.reqs.filter fun r => r.tile != t || r.outlives }).kick t
    s.jobs.foldl (fun s j =>
      if j.clearing then s
      else
        let s := s.leaveTrees j t
        let lives (u : WorkUnit) : Bool := u.tile == t || (s.protected_ j.num u && u.tile + 1 == t)
        let s := (j.units.filter lives).foldl (fun s u => s.moveUnit j.num u) s
        (j.insts.filter fun i => i.tile == t && i.state == 1).foldl (fun s i => s.cancelInst j.num i) s) s

/-- A tile is retired, with the other of its protected pair where their reruns disagree (R338, R339), and its contexts are gone. Where a follower alone is
retired its leader is taken back to the last commit, as the region of the pair is discarded. -/
def State.retireTile (s : State) (t code : Nat) : State :=
  let other := if code = 0x21 then (s.follower t).or (s.tile t).pair else none
  let s := match (s.tile t).pair with
    | some l => if code = 0x21 then s else s.rewind l
    | none => s
  let s := s.retireOne t code
  let s := match other with
    | some o => s.retireOne o code
    | none => s
  let gone (c : Ctx) : Ctx := { c with stopped := true, due := [], old := 0, ost := 0, ocp := 0, omx := 0, errs := [], handler := none }
  let bare (s : State) (t : Nat) : State := s.updTile t fun x =>
    { x with region := Region.reset, core := { x.core with ctxs := x.core.ctxs.map fun p => (p.1, gone p.2) } }
  ((match other with
    | some o => bare (bare s t) o
    | none => bare s t).sendCancels t).poke

/-- The region of a tile ends (R327, R332): a first run commits, the first rerun is followed by the second, and two reruns that agree
commit; otherwise the tile is retired. -/
def State.endRegion (s : State) (t : Nat) : State :=
  let x := s.tile t
  match x.region.run with
  | 0 => s.commitRegion t
  | 1 => s.secondRerun t
  | _ =>
    if x.region.sig = x.region.firstSig ∧ x.core.isscnt = x.region.firstEnd ∧ ¬ x.region.disagree then s.commitRegion t
    else s.retireTile t 0x21

end Sys2Proof.Machine
end

