-- ==== Sys2Proof/Machine/WorkEvents.lean ====
section
/-! DEFINITION. The events of the dispatcher: readiness, spec reads, placement, NEXT, reports, task dispatch, graphs, phases and jobs
(R230 to R250, R272 to R291, R306, R308). -/

namespace Sys2Proof.Machine

/-! ### Launch specs (R231, R233) -/

/-- 128 bytes as sixteen dwords. -/
def specDwords (bs : List Byte) : List Dword := (List.range 16).map fun i => BitVec.ofNat 64 (leNat ((bs.drop (8 * i)).take 8))

/-- The window of a spec in the coding of R193. -/
def specWindow (d : List Dword) : Nat := specField d 2 0 32

/-- The usable tiles of a window in row-major order (R233, R237); a protected pair counts as its leader, and only when both are usable. -/
def State.usableTiles (s : State) (d : List Dword) : List Nat :=
  let ok (t : Nat) : Bool := !isSupervisor t && !(s.tile t).retired
  let w := ((windowTiles (specWindow d)).getD []).filter ok
  if specProt d then w.filter fun t => tileCol t % 2 == 0 && w.contains (t + 1) else w

/-- The units of a spec that one tile holds with every resource free. -/
def tileCapacity (d : List Dword) : Nat :=
  let c := min (4 / specCtxs d) (64 / specGrans d)
  if specBars d = 0 then c else min c (64 / specBars d)

/-- Code 1 of R233. -/
def specReserved (d : List Dword) : Bool :=
  specField d 0 57 7 != 0 || specField d 1 56 8 != 0 || specField d 1 47 1 != 0 || specField d 1 24 8 != 0 || specField d 2 32 32 != 0 ||
  specField d 3 39 25 != 0 || specField d 15 57 7 != 0 || (specPipe d && (specField d 10 16 48 != 0 || specField d 10 3 5 != 0)) ||
  specUnits d == 0 || specArgs d == 7 || 64 < specBars d || (specWork d != 0 && !specResident d) || (specPipe d && !specResident d)

/-- Code 5 of R233. -/
def stagesBad (d : List Dword) : Bool :=
  let n := specStages d
  stageCap d (n - 1) != 0 || ((List.range (n - 1)).any fun s => stageCap d s == 0) || stageHigh d 0 != 0 ||
  ((List.range n).any fun s => s != 0 && (stageHigh d s == 0 || stageCap d (s - 1) < stageHigh d s)) ||
  ((List.range n).map (stageUnits d)).sum != specUnits d || (List.range 8).any fun s => n ≤ s && stageUnits d s != 0

/-- An address lies in a code range of a job: a valid range with X (R26, R298). -/
def State.inCode (s : State) (jobNum : Nat) (ea : Nat) : Bool :=
  match findRange (s.ranges jobNum) ea with
  | some (_, e) => permOk permX (rangePerm e)
  | none => false

/-- The error of a spec in a job, the lowest code that applies, 0 for none (R233). -/
def State.specError (s : State) (jobNum : Nat) (d : List Dword) : Nat :=
  let part := ((s.job jobNum).map (·.part)).getD 0
  if specReserved d then 1
  else if !s.inCode jobNum (specField d 0 0 57) then 2
  else
    match windowTiles (specWindow d) with
    | none => 3
    | some ts =>
      let us := s.usableTiles d
      if ts.any (fun t => !inPart part (dieOf t)) || us.isEmpty then 3
      else if specResident d && us.length * tileCapacity d < specUnits d then 4
      else if specPipe d && stagesBad d then 5
      else 0

/-! ### Readiness and spec reads (R235, R236, R282) -/

/-- LAUNCH_READY (R235, R238): a launch whose dependences are satisfied and whose spec has been read may place units; a task may be
dispatched. -/
def execLaunchReady (job lid : Nat) (s : State) : Host.Outcome State Fault Refusal :=
  .next <|
    match s.work job lid with
    | none => s
    | some w =>
      if !s.mayBeReady w then s
      else
        let s := (s.markReady job lid).updWork job lid fun w => { w with state := if w.isTask then .ready else .placing }
        match s.work job lid with
        | some w => s.pokeWork job w
        | none => s

/-- LAUNCH_SPEC_READ (R233, R236): the spec is read in the issuing context's job and checked; later accesses of the context may then be
performed. A launch cancelled meanwhile ends then, with what its spec names (R234, R248; log 64). -/
def execLaunchSpecRead (job lid : Nat) (s : State) : Host.Outcome State Fault Refusal :=
  .next <|
    match s.work job lid with
    | none => s
    | some w =>
      if w.isTask ∨ w.state ≠ .waiting ∨ ¬ w.spec.isEmpty then s
      else
        let s := match w.specReq with
          | some r => (s.dropReq r).kick w.tile
          | none => s
        match s.readJob w.job w.specAddr 128 with
        | .error _ =>
          let s := s.noteBad w.job w.specAddr 128
          if w.outcome = 3 then s.checkWork job lid else s.failWork job lid 12
        | .ok bs =>
          let d := specDwords bs
          let s := (s.countRead w.job w.specAddr).updWork job lid fun w => { w with spec := d }
          let e := s.specError job d
          if w.outcome = 3 then s.checkWork job lid
          else if e ≠ 0 then s.failWork job lid e
          else
            match s.work job lid with
            | some w => s.pokeWork job w
            | none => s

/-! ### Placement (R237 to R239) -/

/-- The first run of `n` numbers below a size that are free in every one of some tables. -/
def firstRun (used : List (Sparse Nat)) (size n : Nat) : Option Nat :=
  (List.range (size + 1 - n)).find? fun i => (List.range n).all fun k => used.all fun m => (sfind m (i + k)).isNone

/-- The free contexts of a tile. -/
def Tile.freeCtxs (x : Tile) : List Nat := hwNumbers.filter fun h => (x.core.ctx h).owner == .idle

/-- The place of a unit on a tile by first fit, or none (R237): contexts, granule, barrier slot. The two tiles of a pair are one tile (R233): what is taken
is free on both. -/
def fitTiles (xs : List Tile) (d : List Dword) : Option (List Nat × Nat × Nat) :=
  let cs := hwNumbers.filter fun h => xs.all fun x => x.freeCtxs.contains h
  match firstRun (xs.map (·.grans)) 64 (specGrans d), firstRun (xs.map (·.barsUsed)) 64 (specBars d) with
  | some g, some b => if specCtxs d ≤ cs.length then some (cs.take (specCtxs d), g, b) else none
  | _, _ => none

/-- A table with a run of numbers taken by a unit. -/
def takeRun (m : Sparse Nat) (uid lo n : Nat) : Sparse Nat := (List.range n).foldl (fun m i => sput (lo + i) uid m) m

/-- A context as it starts (R39, R239). -/
def Ctx.started (owner : Owner) (job : Nat) (entry : Dword) (xs : Sparse Dword) (status : Nat) (uid grp lid : Nat) (lfsr : BitVec 32) : Ctx :=
  { Ctx.reset with
    owner := owner
    job := job
    pc := entry
    arrived := true
    xs := xs
    status := BitVec.ofNat 64 status
    unitid := BitVec.ofNat 64 uid
    grpidx := BitVec.ofNat 64 grp
    launchid := BitVec.ofNat 64 lid
    lfsr := lfsr }

/-- The registers that a spec loads at unit start (R239). -/
def startRegs (d : List Dword) (g b : Nat) : Sparse Dword :=
  let args := (List.range (specArgs d)).foldl (fun m i => sput (i + 1) (d.getD (4 + i) 0) m) []
  if specBase d then sput 28 (BitVec.ofNat 64 b) (sput 27 (BitVec.ofNat 64 (4096 * g)) args) else args

/-- What a context start writes becomes dirty: its registers and spill store, and what of the tile goes with it (R39, R382). -/
def Tile.soilCtx (x : Tile) (h : Nat) : Tile :=
  if x.clean.isEmpty then x
  else (List.range 64).foldl (fun x n => x.soil (.spill h n)) (((((x.soil (.ctx h)).soil (.xbank h)).soil (.vbank h)).soil (.pbank h)).soil .rest)

/-- The stage in which a unit starts (R243). -/
def startStage (d : List Dword) (grp : Nat) : Nat :=
  if !specPipe d then 0
  else ((List.range 8).find? fun s => grp < ((List.range (s + 1)).map (stageUnits d)).sum).getD 0

/-! ### Slack (R396) -/

/-- The power regions that hold live units of a job. -/
def State.groupRegions (s : State) (jobNum : Nat) : List Nat :=
  match s.job jobNum with
  | none => []
  | some j => (List.range 16).filter fun r => j.units.any fun u => (u.tiles (s.protected_ jobNum u)).any fun t => regionOf t == r

/-- The issue cycles of the live user contexts of a region, and those that they spent waiting. -/
def State.waitCounts (s : State) (r : Nat) : Nat × Nat :=
  s.tiles.foldl (fun n p => if regionOf p.1 = r then (n.1 + p.2.ctxCycles, n.2 + p.2.waitCycles) else n) (0, 0)

/-- The ticks between two evaluations of the slack. -/
def paceTicks : Nat := 16000

/-- The counts of a region as they stand now, beside those of the last 50 µs. -/
def State.takeSample (s : State) (r : Nat) : State :=
  let n := s.waitCounts r
  s.updRegion r fun p => { p with samples := (p.samples.filter fun q => s.now < q.1 + 6 * paceTicks) ++ [(s.now, n.1, n.2)] }

/-- The slack of a region over its samples as a fraction: 0 where its contexts have had no issue cycle (log 70). -/
def PowerRegion.slack (p : PowerRegion) : Nat × Nat :=
  match p.samples.head?, p.samples.getLast? with
  | some a, some b => (b.2.2 - a.2.2, max 1 (b.2.1 - a.2.1))
  | _, _ => (0, 1)

/-- The regions of a job's pacing group are measured from the placement of a unit on, and evaluated every 10 µs. -/
def State.startPacing (s : State) (jobNum : Nat) : State :=
  ((s.groupRegions jobNum).foldl State.takeSample s).once paceTicks (.pacingEvaluation jobNum [])

/-! ### The start of a unit -/

/-- A unit starts on a tile (R239, R253, R265): its region commits, its resources are taken, its barrier slots cleared, and its contexts start
together. -/
def State.startUnit (s : State) (jobNum : Nat) (w : Work) (t grp moves uid : Nat) (place : List Nat × Nat × Nat) : State :=
  let d := w.spec
  let (cs, g, b) := place
  let s := (s.wake t).commitRegion t
  let status (n : Nat) : Nat := n * 16 + b2n (specProt d) * 4 + b2n (specStrict d) * 2
  let start (n h : Nat) : Nat × Ctx :=
    (h, Ctx.started (.unit uid) jobNum (BitVec.ofNat 64 (specField d 0 0 57)) (startRegs d g b) (status n) uid grp w.lid (lfsrSeed t n w.lid))
  let s := s.updTile t fun x =>
    let first := !(x.core.ctxs.any fun p => p.2.live)
    let primary := if first then cs.headD 0 else x.core.primary
    let x := cs.foldl Tile.soilCtx x
    { x with
      grans := takeRun x.grans uid g (specGrans d)
      barsUsed := takeRun x.barsUsed uid b (specBars d)
      core := { x.core with
        ctxs := (cs.zipIdx.map fun p => start p.2 p.1).foldl (fun m p => sput p.1 p.2 m) x.core.ctxs
        bars := (List.range (specBars d)).foldl (fun m i => sput (b + i) ⟨0, 0, 0⟩ m) x.core.bars
        primary := primary
        rrp := (primary + 1) % 4 } }
  let s := s.updTile t fun x => { x with region := { x.region with start := x.snapshot } }
  s.updJob jobNum fun j =>
    let u : WorkUnit := { uid := uid, lid := w.lid, grp := grp, tile := t, ctxs := cs, gran := g, ngran := specGrans d, bar := b, nbar := specBars d
                          stage := startStage d grp, replies := 0, items := [], asked := [], onWay := [], ending := false, fatal := false
                          cancelled := false, moves := moves, nul := false }
    { j with units := j.units ++ [u], nextUid := (j.nextUid + 1) % 2 ^ 32 }

/-- The follower of a protected pair, whose resources the unit takes too; it runs as its leader does (R337, log 24). -/
def State.startFollower (s : State) (w : Work) (t uid : Nat) (place : List Nat × Nat × Nat) : State :=
  let d := w.spec
  let (cs, g, b) := place
  let k := (s.tile t).core
  let s := if (s.tile (t + 1)).live then s.commitRegion (t + 1) else s
  let placed (f : Core) : Core :=
    { f with
      ctxs := cs.foldl (fun m h => sput h (k.ctx h) m) f.ctxs
      bars := (List.range (specBars d)).foldl (fun m i => sput (b + i) ⟨0, 0, 0⟩ m) f.bars }
  let s := s.updTile t fun x => { x with trail := if x.trail.isEmpty then [k, k, k] else x.trail.map placed }
  s.updTile (t + 1) fun x =>
    let x := x.catchUp ((s.regionAt t).received s.time)
    let c := { x.core with
      ctxs := cs.foldl (fun m h => sput h (k.ctx h).mirrored m) x.core.ctxs
      bars := (List.range (specBars d)).foldl (fun m i => sput (b + i) ⟨0, 0, 0⟩ m) x.core.bars }
    { cs.foldl Tile.soilCtx x with
      grans := takeRun x.grans uid g (specGrans d)
      barsUsed := takeRun x.barsUsed uid b (specBars d)
      pair := some t
      core := c
      region := { x.region with start := c } }

/-- The launches that became ready before another and have an unplaced unit (R238); those of a launch whose spec is still to be read are all unplaced. -/
def Job.earlierReady (j : Job) (w : Work) : List Work :=
  j.works.filter fun v => (v.state == .placing || (v.state == .waiting && v.readyAt != 0)) && (v.spec.isEmpty || v.unplaced) && v.outcome == 0 &&
    v.lid != w.lid && (v.readyAt < w.readyAt || (v.readyAt == w.readyAt && v.lid < w.lid))

/-- A launch holds a tile back from later ones: the tile lies in its window, or its window is still to be read (R238). -/
def Work.holds (v : Work) (t : Nat) : Bool := v.spec.isEmpty || ((windowTiles (specWindow v.spec)).getD []).contains t

/-- A unit number that no unit of the job holds (R239): the next free one of a counter of the job, the model's choice (log 76). -/
def freshUid (j : Job) : Nat :=
  ((List.range (j.units.length + 1)).find? fun i => !(j.units.any fun u => u.uid == (j.nextUid + i) % 2 ^ 32)).elim j.nextUid
    fun i => (j.nextUid + i) % 2 ^ 32

/-- One unit placed round-robin from the cursor (R237), on the first tile of the window that fits; the flag says that the tile is running a
region again, so that the dispatcher tries later. -/
def State.placeOne (s : State) (jobNum lid grp moves : Nat) : Option (State × Bool) :=
  match s.job jobNum, s.work jobNum lid with
  | some j, some w =>
    let us := s.usableTiles w.spec
    let all := (windowTiles (specWindow w.spec)).getD []
    let held := j.earlierReady w
    let tiles (t : Nat) : List Nat := if specProt w.spec then [t, t + 1] else [t]
    let order := (all.zipIdx.drop w.cursor) ++ (all.zipIdx.take w.cursor)
    let fit (t : Nat) : Option (List Nat × Nat × Nat) := fitTiles ((tiles t).map s.tile) w.spec
    let fits (p : Nat × Nat) : Bool := us.contains p.1 && !(held.any fun v => (tiles p.1).any v.holds) && (fit p.1).isSome
    match order.find? fits with
    | none => none
    | some (t, i) =>
      match fit t with
      | none => none
      | some place =>
        if j.frozen || (s.tile t).region.run != 0 || (specProt w.spec && (s.tile (t + 1)).region.run != 0) then some (s, true)
        else
          let uid := freshUid j
          let s := s.startUnit jobNum w t grp moves uid place
          let s := if specProt w.spec then s.startFollower w t uid place else s
          some ((s.updWork jobNum lid fun w => { w with cursor := (i + 1) % all.length }).startPacing jobNum, false)
  | _, _ => none

/-- The units of a resident launch placed in one step, or none of them (R237). -/
def State.placeAll (s : State) (jobNum lid : Nat) : Nat → Nat → Option (State × Bool)
  | 0, _ => some (s, false)
  | n + 1, g =>
    match s.placeOne jobNum lid g 0 with
    | some (s', false) => s'.placeAll jobNum lid n (g + 1)
    | some (_, true) => some (s, true)
    | none => none

/-- UNIT_PLACEMENT (R237, R238, R249, R339): the next unit, or every unit of a resident launch, is placed where it fits. After the last one the launches that
it has held back are looked at again. -/
def execUnitPlacement (job lid : Nat) (s : State) : Host.Outcome State Fault Refusal :=
  .next <|
    match s.work job lid with
    | none => s
    | some w =>
      if w.state ≠ .placing ∨ ¬ w.unplaced then s
      else
        let again := w.again.head?
        let tried := match again with
          | some (g, m) => s.placeOne job lid g m
          | none => if specResident w.spec then s.placeAll job lid (specUnits w.spec) 0 else s.placeOne job lid w.nextUnit 0
        match tried with
        | none => s
        | some (_, true) => s.once 64 (.unitPlacement job lid)
        | some (s', false) =>
          let s' := s'.updWork job lid fun w =>
            if again.isSome then { w with again := w.again.drop 1 }
            else { w with nextUnit := if specResident w.spec then specUnits w.spec else w.nextUnit + 1 }
          match s'.work job lid with
          | some w => if w.unplaced then s'.pokeWork job w else s'.poke
          | none => s'

/-- UNIT_END (R239, R234): a unit whose contexts have stopped and drained ends; its region commits, which a rollback puts off (R332), and its resources are
free. -/
def execUnitEnd (job uid : Nat) (s : State) : Host.Outcome State Fault Refusal :=
  .next <|
    match (s.job job).bind fun j => j.units.find? fun u => u.uid == uid with
    | none => s
    | some u =>
      if !(u.ctxs.all fun h => s.ctxOver u.tile h) then s.updUnit job uid fun u => { u with ending := false }
      else
        let s := s.commitRegion u.tile
        let others : Bool := ((s.job job).map fun j => j.units.any fun v => v.uid != u.uid && v.tile == u.tile && s.protected_ job v).getD false
        let s := if s.protected_ job u then s.partPair u.tile u !others else s
        let s := s.freeUnit job u
        let s := s.updTile u.tile fun x => { x with region := { x.region with start := x.snapshot } }
        (s.countUnit job u).poke

/-! ### Completion (R234, R235, R286) -/

/-- An internal mark for the no-method case (R285): no error code of R233 has this value. -/
def errNoMethod : Nat := 256

/-- The bytes of the launch status record (R234). -/
def statusRecord (w : Work) (state ptc : Nat) : List Byte :=
  natBytes 8 (w.err % 256 * 2 ^ 32 + state * 2 ^ 24 + w.lid) ++ natBytes 8 w.esc.toNat ++ natBytes 8 (w.ufail * 2 ^ 32 + w.uok) ++ natBytes 8 ptc

/-- The launch status record written, where STREC names writable memory (R234). That its PTC is that of the issuing tile's die is the model's choice (log 79). -/
def State.writeRecord (s : State) (jobNum : Nat) (w : Work) (state : Nat) : State :=
  let a := specRecord w.spec
  if w.spec.isEmpty ∨ a = 0 then s
  else
    match s.translateIn jobNum a permW with
    | .ok pa => s.storeAt pa (statusRecord w state (s.ptc (dieOf w.tile)))
    | .fault c => if c = 6 then s.noteBad jobNum a 0 else s

/-- The issuing context of a launch or task still is what issued it. -/
def State.issuerLives (s : State) (w : Work) : Bool :=
  let c := s.ctxAt w.tile w.hw
  match w.inst with
  | some n => c.owner == .graph n && c.job == w.job
  | none => c.owner == .firmware

/-- The trap of a failed launch or task, and of a task whose conversion has been cancelled (R233, R284, R285, R286). -/
def State.workTrap (s : State) (w : Work) : State :=
  let traps : Bool := (w.outcome == 2 || (w.outcome == 3 && w.err == 9)) && s.issuerLives w && (w.isTask || (w.err != 6 && w.err != 7))
  if !traps then s
  else
    let e : Err :=
      if w.err = errNoMethod then ⟨2, 0x15, 0, BitVec.ofNat 32 (5 * 2 ^ 28), BitVec.ofNat 32 (w.depth * 2 ^ 16 + w.oper), w.cmdix⟩
      else ⟨2, 0x14, 0, BitVec.ofNat 32 (5 * 2 ^ 28), BitVec.ofNat 32 (w.lid * 256 + w.err), w.cmdix⟩
    s.input w.tile (.err w.hw e)

/-- A conversion has completed: its task is dispatched again, or ends as the conversion did (R284). -/
def State.conversionDone (s : State) (jobNum : Nat) (c : Work) (parent : Nat) : State :=
  match s.work jobNum parent with
  | none => s
  | some p =>
    if p.outcome = 3 then s.checkWork jobNum parent
    else if c.outcome = 1 then
      let s := s.updWork jobNum parent fun p =>
        { p with handles := (p.handles.zipIdx).map fun q => if q.2 = c.oper then c.convHandle else q.1, state := .ready }
      match s.work jobNum parent with
      | some p => s.pokeWork jobNum p
      | none => s
    else
      (s.updWork jobNum parent fun p => { p with err := 9, outcome := c.outcome, state := .ended }).once (s.dispatchTime (siteWork + parent))
        (.launchComplete jobNum parent)

/-- LAUNCH_COMPLETE (R234, R235, R282): the status record, the slot counter, the semaphore, the trap of a failure, and what waited. -/
def execLaunchComplete (job lid : Nat) (s : State) : Host.Outcome State Fault Refusal :=
  .next <|
    match s.work job lid with
    | none => s
    | some w =>
      if w.state ≠ .ended then s
      else
        let s := s.writeRecord job w w.outcome
        let s := s.updJob job fun j => { j with works := j.works.filter fun v => v.lid != lid }
        let s := if !w.spec.isEmpty && bitOf (w.spec.getD 3 0).toNat 38 then s.arriveSem w.tile (specField w.spec 3 32 6) 1 false else s
        let s := match w.parent with
          | some p => s.conversionDone job w p
          | none =>
            let s := if w.inst.isSome || s.issuerLives w then s.updSlot w.job w.tile w.hw w.inst w.slot (· - 1) else s
            s.workTrap w
        s.poke

/-! ### Resident launches and pipelines (R240 to R245) -/

/-- The units of a launch in a stage. -/
def Job.stageUnits (j : Job) (lid stage : Nat) : List WorkUnit := j.units.filter fun u => u.lid == lid && u.stage == stage

/-- The queue behind a stage. -/
def Work.queue (w : Work) (stage : Nat) : List Item := sget [] w.queues stage

/-- The items that units of a stage hold and have not reported. -/
def Job.holding (j : Job) (lid stage : Nat) : Nat := ((j.units.filter fun u => u.lid == lid).flatMap fun u => u.items.filter fun i => i.stage == stage).length

/-- The occupancy of the queue behind a stage, with the places reserved in it (R243). -/
def Job.occupancy (j : Job) (w : Work) (stage : Nat) : Nat := (w.queue stage).length + j.holding w.lid stage

/-- The output queue of a stage has a free place; the last stage has none to fill. -/
def Job.outputFree (j : Job) (w : Work) (stage : Nat) : Bool :=
  stage + 1 == specStages w.spec || j.occupancy w stage < stageCap w.spec stage

/-- The next item for a stage: returned ones first (R339), then the source or the queue before it. -/
def Work.nextFor (w : Work) (stage tile : Nat) : Option (Item × Work) :=
  match w.given.find? fun i => i.stage == stage with
  | some i => some (i, { w with given := w.given.erase i })
  | none =>
    if stage = 0 then
      if w.nextItem < specWork w.spec then some (⟨w.nextItem, tile, 0⟩, { w with nextItem := w.nextItem + 1 }) else none
    else
      match w.queue (stage - 1) with
      | [] => none
      | i :: r => some ({ i with stage := stage }, { w with queues := sput (stage - 1) r w.queues })

/-- No further item can reach a stage (R244). -/
def Job.exhausted (j : Job) (w : Work) (stage : Nat) : Bool :=
  (w.nextFor stage 0).isNone &&
  (List.range stage).all fun r =>
    ((j.stageUnits w.lid r).isEmpty || w.nulled.contains r) && (j.stageUnits w.lid r).all fun u => u.items.isEmpty

/-- The input occupancy of a stage as R244 counts it. -/
def Job.inputOccupancy (j : Job) (w : Work) (stage : Nat) : Nat :=
  if stage = 0 then (if (w.nextFor 0 0).isSome then stageHigh w.spec 0 else 0) else j.occupancy w (stage - 1)

/-- The stage to which a unit moves instead of receiving IDLE (R244). -/
def Job.moveTo (j : Job) (w : Work) (u : WorkUnit) : Option Nat :=
  let cand := (List.range (specStages w.spec)).filter fun b => b != u.stage && (w.nextFor b u.tile).isSome && j.outputFree w b
  let empty := cand.filter fun b => (j.stageUnits w.lid b).isEmpty
  let high := cand.filter fun b => stageHigh w.spec b ≤ j.inputOccupancy w b && specDwell w.spec ≤ u.replies
  let cap (b : Nat) : Nat := if b = 0 then 1 else stageCap w.spec (b - 1)
  let best (bs : List Nat) : Option Nat := bs.foldl (fun r b =>
    match r with
    | none => some b
    | some a => if j.inputOccupancy w a * cap b < j.inputOccupancy w b * cap a then some b else some a) none
  let leaves : Bool := 1 < (j.stageUnits w.lid u.stage).length || j.exhausted w u.stage
  if leaves then (best empty).or (best high) else none

/-- The reply that carries an item (R241). -/
def itemReply (mov : Bool) (i : Item) : Dword := BitVec.ofNat 64 (b2n mov * 2 ^ 62 + i.stage * 2 ^ 48 + i.num % 2 ^ 32 * 2 ^ 16 + i.tile)

/-- The reply IDLE (R241). -/
def replyIdle : Dword := 0x2000000000000000

/-- The dispatcher's answer to a NEXT (R242 to R244): the reply, the launch and the unit after it. -/
def Job.answerNext (j : Job) (w : Work) (u : WorkUnit) : Dword × Work × WorkUnit :=
  let give (mov : Bool) (stage : Nat) (replies : Nat) : Dword × Work × WorkUnit :=
    match w.nextFor stage u.tile with
    | some (i, w) => (itemReply mov i, w, { u with items := u.items ++ [i], stage := stage, replies := replies })
    | none => (replyNul, w, u)
  if !specPipe w.spec then
    if (w.nextFor 0 u.tile).isSome then give false 0 (u.replies + 1) else (replyNul, { w with nulled := w.nulled ++ [0] }, { u with nul := true })
  else if (w.nextFor u.stage u.tile).isSome && j.outputFree w u.stage then give false u.stage (u.replies + 1)
  else if j.exhausted w u.stage then (replyNul, { w with nulled := w.nulled ++ [u.stage] }, { u with nul := true, replies := u.replies + 1 })
  else
    match j.moveTo w u with
    | some b => give true b 0
    | none => (replyIdle, w, { u with replies := u.replies + 1 })

/-- The issue cycles for which a protected pair holds a request back (R337). -/
def State.pairSkew (s : State) (t h : Nat) : Nat := if (s.ctxAt t h).status.getLsbD 2 then 2 else 0

/-- NEXT_REQUEST_SERVICE (R242 to R244): the oldest request of a context is answered; one of a protected pair leaves it two issue cycles after its issue
(R337). -/
def execNextRequestService (t h : Nat) (s : State) : Host.Outcome State Fault Refusal :=
  .next <|
    let c := s.ctxAt t h
    match s.job c.job, s.unitOf c with
    | some j, some u =>
      match s.work c.job u.lid, u.asked.find? fun p => p.1 == h with
      | some w, some (_, id) =>
        if (c.nexts.any fun n => n.id == id && (s.tile t).core.cycle + 32 < n.due + s.pairSkew t h) then s.after 1 (.nextRequestService t h)
        else
        let u := { u with asked := u.asked.erase (h, id) }
        let (v, w', u') := j.answerNext w u
        let s := s.updWork c.job w.lid fun _ => w'
        let s := s.updUnit c.job u.uid fun _ => { u' with onWay := u'.onWay ++ [(h, id, v)] }
        s.after (s.dispatchTime siteNext) (.nextReplyArrival t h)
      | _, _ => s
    | _, _ => s

/-- ITEM_REPORT (R243, R245): a report is performed at the dispatcher; one that names no item of the unit raises a work error. -/
def execItemReport (rid : Nat) (s : State) : Host.Outcome State Fault Refusal :=
  .next <|
    match s.req rid with
    | none => s
    | some r =>
      match r.kind with
      | .item v =>
        let s' := ((s.uncount r).dropReq rid).kick r.tile
        let c := s.ctxAt r.tile r.hw
        let lid := c.launchid.toNat
        let bad := s'.input r.tile (.err r.hw ⟨2, 0x14, 0, BitVec.ofNat 32 (5 * 2 ^ 28), BitVec.ofNat 32 (lid * 256 + 11), r.cmdix⟩)
        match s.unitOf c with
        | none => bad
        | some u =>
          let named (i : Item) : Bool := !bitOf v.toNat 63 && !bitOf v.toNat 61 && i.stage == bitsOf v.toNat 48 3 && i.num % 2 ^ 32 == bitsOf v.toNat 16 32
          match u.items.find? named with
          | none => bad
          | some i =>
            let s := s'.updUnit c.job u.uid fun u => { u with items := u.items.erase i }
            s.updWork c.job u.lid fun w =>
              if specPipe w.spec ∧ i.stage + 1 < specStages w.spec then
                { w with queues := sput i.stage (w.queue i.stage ++ [{ i with tile := r.tile }]) w.queues }
              else w
      | _ => s

/-! ### Tasks (R272 to R291) -/

/-- A field of a method entry. -/
def methodField (e : List Dword) (i lo w : Nat) : Nat := bitsOf (e.getD i 0).toNat lo w

/-- A tag matches a key under a wildcard (R280). -/
def tagMatches (tag key wild : Nat) : Bool :=
  (bitOf wild 0 || bitsOf tag 0 4 == bitsOf key 0 4) && (bitOf wild 1 || bitsOf tag 4 3 == bitsOf key 4 3) &&
  (bitOf wild 2 || bitsOf tag 7 5 == bitsOf key 7 5)

/-- A task matches an entry (R279, R280); one with CVOP 3 matches nothing. -/
def entryMatches (e : List Dword) (oper n : Nat) (tags : List Nat) : Bool :=
  methodField e 0 63 1 == 1 && methodField e 0 32 16 == oper && methodField e 0 48 2 == n && n != 0 && methodField e 1 50 2 != 3 &&
  (tags.zipIdx).all fun p => tagMatches p.1 (methodField e 1 (12 * p.2) 12) (methodField e 1 (36 + 3 * p.2) 3)

/-- What the reads of the method table give (R280): a chosen entry, none, or an entry that cannot be read. -/
inductive Choice where
  | entry (e : List Dword)
  | nothing
  | unreadable (ea : Dword)
  deriving DecidableEq, Repr

/-- The entries read from an index on, with the first conversion that matches so far. -/
def State.chooseEntry (s : State) (jobNum oper n : Nat) (tags : List Nat) (base : Dword) : Nat → Nat → Option (List Dword) → Choice
  | 0, _, conv => match conv with
    | some e => .entry e
    | none => .nothing
  | left + 1, i, conv =>
    match s.readJob jobNum (base + BitVec.ofNat 64 (32 * i)) 32 with
    | .error _ => .unreadable (base + BitVec.ofNat 64 (32 * i))
    | .ok bs =>
      let e := (specDwords bs).take 4
      if entryMatches e oper n tags then
        if methodField e 0 62 1 = 0 then .entry e
        else s.chooseEntry jobNum oper n tags base left (i + 1) (if conv.isNone ∧ methodField e 1 50 2 < n then some e else conv)
      else s.chooseEntry jobNum oper n tags base left (i + 1) conv

/-- A spec with the arguments of a method launch (R283). -/
def methodSpec (d : List Dword) (args : List Nat) : List Dword :=
  (d.zipIdx).map fun p =>
    if p.2 = 1 then BitVec.ofNat 64 (p.1.toNat / 2 ^ 51 * 2 ^ 51 + 6 * 2 ^ 48 + p.1.toNat % 2 ^ 48)
    else if 4 ≤ p.2 ∧ p.2 < 10 then BitVec.ofNat 64 (args.getD (p.2 - 4) 0)
    else p.1

/-- The address of a method's spec (R279). -/
def methodSpecEa (e : List Dword) : Dword := BitVec.ofNat 64 (methodField e 2 7 50 * 128)

/-- The spec of a method, read at dispatch and checked: its dwords, or an error code (R283). -/
def State.readMethodSpec (s : State) (jobNum : Nat) (e : List Dword) (args : List Nat) : List Dword × Nat :=
  match s.readJob jobNum (methodSpecEa e) 128 with
  | .error _ => ([], 12)
  | .ok bs =>
    let d := methodSpec (specDwords bs) args
    (d, s.specError jobNum d)

/-- The works that a conversion into a slab must follow (R287): tasks dispatched earlier that hold the slab or convert into it, and their
conversions. -/
def Job.beforeConversion (j : Job) (lid dst : Nat) : List Nat :=
  let converts (w : Work) : Bool := w.parent.isSome && w.convHandle == dst
  let tasks := j.works.filter fun w => w.isTask && w.lid != lid && (w.state == .placing || w.state == .reading || (w.state == .ready && w.depth != 0)) &&
    (w.handles.contains dst || j.works.any fun v => converts v && v.parent == some w.lid)
  (tasks ++ j.works.filter converts).map fun w => workKey j.num w.lid

/-- A conversion inserted ahead of a task (R283, R284). -/
def State.insertConversion (s : State) (jobNum : Nat) (w : Work) (spec : List Dword) (cvop dst : Nat) : State :=
  match s.job jobNum with
  | none => s
  | some j =>
    let waits := j.beforeConversion w.lid dst
    let (lid, s) := s.takeLid jobNum
    let c := { Work.blank lid w.slot w.tile w.hw w.cmdix with
      job := w.job, inst := w.inst, spec := spec, waits := waits, state := .waiting, parent := some w.lid, convHandle := dst, oper := cvop }
    let s := (s.addWork jobNum c).updWork jobNum w.lid fun w => { w with state := .reading, depth := w.depth + 1 }
    match s.work jobNum lid with
    | some c => s.pokeWork jobNum c
    | none => s

/-- What a read of a slab tag table entry leaves at its home port (R282, R341, R342). -/
def State.countSlab (s : State) (jobNum handle : Nat) : State :=
  match slabEntry (s.ranges jobNum) handle with
  | none => s
  | some a => (s.noteSlab jobNum handle).countRead jobNum a

/-- TASK_DISPATCH (R282 to R287): one pass: the operands' tags, the choice of an entry, and the launch or conversion that it asks for. A conversion whose
spec fails (R283, R284) is not inserted and takes no LAUNCHID (log 78). -/
def execTaskDispatch (job lid : Nat) (s : State) : Host.Outcome State Fault Refusal :=
  .next <|
    match s.job job, s.work job lid with
    | some j, some w =>
      if ¬ w.isTask ∨ w.state ≠ .ready then s
      else
        let slabs := w.handles.map fun h => s.readSlab job h
        let s := w.handles.foldl (fun s h => s.countSlab job h) s
        let ok := slabs.filterMap (·.1)
        if ok.length ≠ w.nops then s.failWork job lid 8
        else
          let tags := ok.map fun p => p.2.toNat
          let bases := ok.map fun p => p.1.toNat
          let word (i : Nat) : Nat := if i < w.nops then w.handles.getD i 0 * 2 ^ 32 + tags.getD i 0 else 0
          match j.mtCount with
          | none => s.failWork job lid errNoMethod
          | some count =>
            match s.chooseEntry job w.oper w.nops tags j.mtAddr count 0 none with
            | .unreadable ea => (s.noteBad job ea 32).failWork job lid 14
            | .nothing => s.failWork job lid errNoMethod
            | .entry e =>
              if methodField e 0 62 1 = 0 then
                let (d, err) := s.readMethodSpec job e [bases.getD 0 0, bases.getD 1 0, bases.getD 2 0, word 0, word 1, word 2]
                let s := ((s.noteBad job (methodSpecEa e) 128).countRead job (methodSpecEa e)).updWork job lid fun w => { w with spec := d }
                if err ≠ 0 then s.failWork job lid err
                else
                  let s := s.updWork job lid fun w => { w with state := .placing, readyAt := s.now + 1 }
                  match s.work job lid with
                  | some w => s.pokeWork job w
                  | none => s
              else if 3 ≤ w.depth then s.failWork job lid errNoMethod
              else
                let dst := methodField e 3 32 32
                let slab := (s.readSlab job dst).1
                let s := s.countSlab job dst
                match slab with
                | none => s.failWork job lid 8
                | some (base, _) =>
                  let cvop := methodField e 1 50 2
                  let to_ := methodField e 3 0 16
                  let (d, err) := s.readMethodSpec job e [bases.getD cvop 0, base.toNat, 0, word cvop, dst * 2 ^ 32 + to_, 0]
                  let s := (s.noteBad job (methodSpecEa e) 128).countRead job (methodSpecEa e)
                  if err ≠ 0 then s.failWork job lid err else s.insertConversion job w d cvop dst
    | _, _ => s

/-! ### Graphs, phases and jobs (R230, R246, R247, R306, R308) -/

/-- The first free graph context of a partition (R230). -/
def State.freeGraphContext (s : State) (part : BitVec 64) : Option (Nat × Nat) :=
  (((List.range 64).filter (inPart part)).flatMap fun d => [1, 2, 3].map fun h => (supervisorOf d, h)).find? fun p =>
    !(s.tile p.1).retired && (s.ctxAt p.1 p.2).owner == .idle

/-- An instance may start (R230, R246, R247): no earlier record of the job waits, its phase has come, and its graph is free. -/
def Job.mayStart (j : Job) (i : Inst) : Bool :=
  i.state == 0 &&
  !(j.insts.any fun k => k.state < 3 && (k.phase < i.phase || (k.state == 0 && k.seq < i.seq))) &&
  !(((sfind j.graphs i.graph).elim false (·.serial)) && j.insts.any fun k => k.graph == i.graph && k.state < 3 && k.seq < i.seq)

/-- GRAPH_INSTANCE_START (R230, R246): a RUN-GRAPH record starts in the first free graph context. -/
def execGraphInstanceStart (seq : Nat) (s : State) : Host.Outcome State Fault Refusal :=
  .next <|
    match s.jobs.find? fun j => !j.clearing && j.insts.any fun i => i.seq == seq with
    | none => s
    | some j =>
      match j.insts.find? (fun i => i.seq == seq), s.freeGraphContext j.part with
      | some i, some (t, h) =>
        match sfind j.graphs i.graph with
        | none => s
        | some g =>
          if !j.mayStart i then s
          else if j.frozen || (s.tile t).region.run != 0 then s.once 64 (.graphInstanceStart seq)
          else
            let n := j.nextInst
            let s := (s.wake t).commitRegion t
            let xs := (i.args.zipIdx).foldl (fun m p => sput (p.2 + 1) p.1 m) []
            let c := Ctx.started (.graph n) j.num (BitVec.ofNat 64 (bitsOf g.entry.toNat 0 57)) xs (16 * h + 2 * b2n g.strict) 0 0 0 (lfsrSeed t h 0)
            let s := s.updTile t fun x =>
              let first := !(x.core.ctxs.any fun p => p.2.live)
              let x := x.soilCtx h
              let k := { x.core with ctxs := sput h c x.core.ctxs, primary := if first then h else x.core.primary }
              { x with core := k, region := { x.region with start := { x with core := k }.snapshot } }
            let s := s.updJob j.num fun j =>
              { j with
                nextInst := if j.nextInst = 0xFFFF then 1 else j.nextInst + 1
                insts := j.insts.map fun k => if k.seq = seq then { k with num := n, tile := t, hw := h, state := 1 } else k }
            (s.setJournal seq 2 (BitVec.ofNat 64 (n * 65536))).poke
      | _, _ => s

/-- GRAPH_INSTANCE_COMPLETE (R230, R248): a halted instance whose work has completed frees its context, whose registers stay as they are (R39, R239), and ends its
record. -/
def execGraphInstanceComplete (job inst : Nat) (s : State) : Host.Outcome State Fault Refusal :=
  .next <|
    match s.instance_ job inst with
    | none => s
    | some i =>
      if !s.instOver job i then s
      else
        let s := s.updTile i.tile fun x =>
          { x with core := x.core.updCtx i.hw Ctx.freed, region := { x.region with start := x.region.start.updCtx i.hw Ctx.freed } }
        let s := s.updJob job fun j => { j with insts := j.insts.map fun k => if k.seq = i.seq then { k with state := if i.cancelled then 4 else 3 } else k }
        let s := if i.cancelled then s.setJournal i.seq 5 (BitVec.ofNat 64 (inst * 65536 + 6)) else s.setJournal i.seq 3 (BitVec.ofNat 64 (inst * 65536))
        let s := match s.job job with
          | some j => if j.closed then s.once 0 (.phaseComplete job) else s
          | none => s
        s.poke

/-- PHASE_COMPLETE (R247): a job whose open phase is closed and whose work has completed ends; the instances of a next phase may start. -/
def execPhaseComplete (job : Nat) (s : State) : Host.Outcome State Fault Refusal :=
  .next <|
    match s.job job with
    | none => s
    | some j =>
      if j.closed ∧ j.insts.all (fun i => 3 ≤ i.state) ∧ j.works.isEmpty then
        let ending (k : Job) : Job := if k.num = job ∧ ¬ k.clearing then { k with clearing := true } else k
        { s with jobs := s.jobs.map ending }.after 0 (.jobClearing job)
      else
        match j.insts.find? fun i => i.state == 0 with
        | some i => s.once 0 (.graphInstanceStart i.seq)
        | none => s

/-- The output address that a PA has in a range's space (R297), where it lies in it. -/
def outputOf (e : List Dword) (pa : Nat) : Option Nat :=
  let l := paLocal pa
  if rangePool e then
    if Config.jobMemEnd ≤ l then none else some ((l / 4096 * 64 + (paSite pa ^^^ l / 4096 % 64)) * 4096 + l % 4096)
  else if paSite pa = rangeSite e then some l else none

/-- The leaves below a table: offset, output, size and permissions (R300). -/
def leavesFrom (s : State) (pool : Bool) : Nat → Nat → Nat → List (Nat × Nat × Nat × Nat)
  | 0, _, _ => []
  | l + 1, t, off =>
    (List.range 512).flatMap fun i =>
      let e := s.wordAt (t + 8 * i)
      let off := off + i * 2 ^ (12 + 9 * l)
      if !bitOf e 0 then []
      else if !bitOf e 1 ∧ l ≠ 0 then leavesFrom s pool l (bitsOf e 12 30 * 4096) off
      else
        match walkFrom s pool off (l + 1) t with
        | .leaf out size perm => [(off / size * size, out, size, perm)]
        | .fault _ _ => []

/-- The writable intervals of a range in its output space: start and length. -/
def writableSpans (s : State) (e : List Dword) : List (Nat × Nat) :=
  if !rangeValid e || !permOk permW (rangePerm e) then []
  else
    let len := rangeLimit e - rangeBase e
    if !rangePaged e then [(rangeOff e, len)]
    else ((leavesFrom s (rangePool e) 4 (rangeOff e) 0).filter fun l => permOk permW l.2.2.2 && l.1 < len).map fun l => (l.2.1, min l.2.2.1 (len - l.1))

/-- A job's ranges and leaves map a byte of memory with W (R308). -/
def mapsWritable (spans : List (List Dword × List (Nat × Nat))) (pa : Nat) : Bool :=
  spans.any fun p => match outputOf p.1 pa with
    | some o => p.2.any fun q => q.1 ≤ o && o < q.1 + q.2
    | none => false

/-- A tile of a job's partition cleared (R308): all but the counters of R40, the firmware's context, Chinook and retirement. -/
def Tile.cleared (x : Tile) (job : Nat) : Tile :=
  let k := x.core
  { x with
    live := false
    region := Region.reset
    grans := []
    barsUsed := []
    pair := none
    trail := []
    ice := []
    still := false
    clean := []
    rtlb := x.rtlb.filter fun p => p.1 != job
    ptlb := x.ptlb.filter fun p => p.job != job
    core := { Core.reset with
      ctxs := k.ctxs.filter fun p => p.2.owner == .firmware
      isscnt := k.isscnt, esccnt := k.esccnt, bcnt := k.bcnt, ccnt := k.ccnt, satc := k.satc, unfc := k.unfc, canc := k.canc
      arrClk := k.arrClk, units := k.units } }

/-- JOB_CLEARING (R308): the tiles of an ended job, its trap records and the memory that it could write are cleared. -/
def execJobClearing (job : Nat) (s : State) : Host.Outcome State Fault Refusal :=
  .next <|
    match s.jobs.find? fun j => j.num == job && j.clearing && !j.cleared with
    | none => s
    | some j =>
      let spans := j.ranges.map fun p => (p.2, writableSpans s p.2)
      let zero (s : State) (pa : Nat) : State := if mapsWritable spans pa then s.storeBytes pa [0] else s
      let s := (s.mem.map (·.1)).foldl zero s
      let s := { s with badMem := s.badMem.filter fun b => !mapsWritable spans b }
      let tile (p : Nat × Tile) : Nat × Tile := if inPart j.part (dieOf p.1) then (p.1, ((p.2.catchUp ((s.regionAt p.1).received s.time)).cleared job).repair (s.bandOf p.1) s.now) else p
      let die (p : Nat × Die) : Nat × Die := (p.1, { p.2 with traps := p.2.traps.filter fun q => q.2.job != job })
      let mark (k : Job) : Job := if k.num = job ∧ k.clearing ∧ k.seq = j.seq then { k with cleared := true } else k
      let s := { s with tiles := s.tiles.map tile, dies := s.dies.map die, jobs := s.jobs.map mark }
      let s := s.updFab fun f => { f with reqs := f.reqs.filter fun r => !inPart j.part (dieOf r.tile) }
      s.after (s.freeTime siteWork % 32001) (.jobClearingEnd job)

/-! ### Records after a restart (R399, R402) -/

/-- TYPE of a record. -/
def recordType (d : List Dword) : Nat := specField d 0 0 8
/-- SUB of a record. -/
def recordSub (d : List Dword) : Nat := specField d 0 8 8
/-- JOB of a record. -/
def recordJob (d : List Dword) : Nat := specField d 0 16 16

/-- The event that carries out a record. -/
def recordEvent (seq : Nat) (d : List Dword) : Option Event :=
  match recordType d, recordSub d with
  | 1, 0 => some (.createJob seq)
  | 2, 0 => some (.loadRange seq)
  | 2, 1 => some (.loadInval seq)
  | 2, 2 => some (.loadMethod seq)
  | 2, 3 => some (.loadGraph seq)
  | 3, 0 => some (.runGraph seq)
  | 4, 0 => some (.cancelRecord seq)
  | 5, 0 => some (.query seq true)
  | 6, 0 => some (.selfTest seq [])
  | 7, 0 => some (.setPolicyTree seq)
  | 7, 1 => some (.setPolicyPcap seq)
  | 7, 2 => some (.setPolicyCslr seq)
  | 7, 3 => some (.setPolicyMarks seq)
  | _, _ => none

/-- The firmware runs and admits work: after the loss of tile state it first waits, cancels every job that has lost it, and clears them (R399). -/
def State.admits (s : State) : Bool := s.power.computeRails && 2 ≤ s.power.mstate && s.power.lost.isEmpty

/-- The records that a restart finds open are taken up again, and those in the intakes admitted, once the firmware admits work (R399, R402). -/
def State.resumeRecords (s : State) : State :=
  if !s.admits then s
  else
    let open_ (p : Nat × List Dword) : Bool :=
      s.journalState p.1 == 1 || (s.journalState p.1 == 2 && recordType p.2 != 1 && recordType p.2 != 3)
    let s := (s.ctl.records.filter open_).foldl (fun s p => (recordEvent p.1 p.2).elim s fun e => s.once 0 e) s
    [0, 1].foldl (fun s port => (s.port port).intake.foldl (fun s _ => s.after 0 (.recordAccept port)) s) s

/-- A job that lost its tile state has been cleared; with the last of them the firmware admits work again (R399). -/
def State.clearedLost (s : State) (jobNum : Nat) : State :=
  if s.power.lost.contains jobNum then { s with power := { s.power with lost := s.power.lost.filter (· != jobNum) } }.resumeRecords else s

/-- JOB_CLEARING_END (R306): the record of CREATE-JOB ends, and records held by the clearing are taken up again. -/
def execJobClearingEnd (job : Nat) (s : State) : Host.Outcome State Fault Refusal :=
  .next <|
    match s.jobs.find? fun j => j.num == job && j.cleared with
    | none => s
    | some j =>
      let s := { s with jobs := s.jobs.filter fun k => !(k.seq == j.seq && k.cleared) }
      let s := (if j.cancelled then s.setJournal j.seq 5 6 else s.setJournal j.seq 3 0).clearedLost job
      if !s.power.lost.isEmpty then s
      else (s.ctl.records.filter fun p => recordType p.2 == 1 && s.journalState p.1 == 1).foldl (fun s p => s.once 0 (.createJob p.1)) s

end Sys2Proof.Machine
end

