-- ==== Sys2Proof/Machine/HostPort.lean ====
section
/-! DEFINITION. What the hosts see and send: windows 0 and 2, the journal's bytes, the measurement log, and the checks of command records
(R296, R310 to R321, R340, R374 to R376, R400). -/

namespace Sys2Proof.Machine

/-! ### The journal and the status block (R317, R318, R340, R376, R400) -/

/-- The bytes of a journal entry (R317). -/
def Journal.bytes (e : Journal) : List Byte :=
  let d1 := e.job % 65536 * 2 ^ 32 + e.state % 8 * 2 ^ 24 + e.port % 4 * 2 ^ 16 + e.sub % 256 * 256 + e.type % 256
  let body := [e.seq, d1, e.tag.toNat, e.acc.toNat, e.last.toNat, e.status.toNat, 0].flatMap (natBytes 8)
  body ++ natBytes 8 (crc32 body)

/-- The bytes of a trap queue entry (R376). -/
def TrapEntry.bytes (e : TrapEntry) : List Byte :=
  let d3 := e.job % 65536 * 2 ^ 32 + e.state % 4 * 2 ^ 18 + e.hw % 4 * 2 ^ 16 + e.tile % 65536
  [e.w1.toNat * 2 ^ 32 + e.w0.toNat, e.w3.toNat * 2 ^ 32 + e.w2.toNat, e.epc.toNat % 2 ^ 57, d3].flatMap (natBytes 8)

/-- PWRFLAGS (R400). -/
def State.powerFlags (s : State) : Nat :=
  b2n ((List.range 16).any fun r => (s.region r).capLimit < 64) + 2 * b2n s.power.sagging + (s.power.flags &&& 0x1C).toNat

/-- REGIONr (R400). -/
def State.regionWord (s : State) (r : Nat) : Nat :=
  let p := s.region r
  p.n % 128 + p.stretch % 8 * 128 + 4096 * (b2n (p.stepLimit < 64) + 2 * b2n (p.capLimit < 64) + 4 * b2n (p.thermal < 64) + 8 * b2n (p.pacing < 64)) +
    p.droops.toNat * 2 ^ 32

/-- The tile at a place of the retirement map (R340). -/
def mapTile (i : Nat) : Nat := tileOfDie (i / 625) (i % 625)

/-- One dword of window 2 at an offset that is a multiple of 8 (R318, R340, R376, R400); other offsets read as zero. -/
def State.window2 (s : State) (off : Nat) : Nat :=
  match off with
  | 0x000 => s.power.mstate
  | 0x008 => s.ctl.jnext
  | 0x010 => s.ctl.joldest
  | 0x018 => s.ctl.bootSlot + s.ctl.bootVersion % 2 ^ 32 * 2 ^ 32
  | 0x020 => s.power.involt % 65536
  | 0x028 => s.power.modpwr % 65536
  | 0x030 => s.power.tmax % 256 + s.power.tmaxDie % 64 * 256
  | 0x038 => s.powerFlags
  | 0x040 => s.power.stresult.toNat
  | _ =>
    if 0x100 ≤ off ∧ off < 0x180 then s.regionWord ((off - 0x100) / 8)
    else if 0x1000 ≤ off ∧ off < 0x2388 then
      ((List.range 64).map fun i => 2 ^ i * b2n (s.ctl.retireMap.any fun t => mapIndex t == 8 * (off - 0x1000) + i)).sum
    else if 0x6000 ≤ off ∧ off < 0x6200 then (sget Die.reset s.dies ((off - 0x6000) / 8)).drops % 2 ^ 64
    else if 0x10000 ≤ off ∧ off < 0x23880 then
      ((List.range 4).map fun i => 2 ^ (16 * i) * s.eolh (mapTile ((off - 0x10000) / 2 + i))).sum
    else if 0x80000 ≤ off ∧ off < 0xA0000 then
      let i := (off - 0x80000) / 32
      match sfind (sget Die.reset s.dies (i / 64)).traps (i % 64) with
      | some e => leNat ((e.bytes.drop (off % 32)).take 8)
      | none => 0
    else if 0x100000 ≤ off then
      match s.ctl.journal.find? fun p => s.ctl.joldest ≤ p.1 && p.1 % Config.journalSize == (off - 0x100000) / 64 with
      | some p => leNat ((p.2.bytes.drop (off % 64)).take 8)
      | none => 0
    else 0

/-- A dword of window 2 as a host reads it, none where the module answers with Completer Abort (R399, R401): once the compute rails are off after the
emergency sequence only the first 4 KiB are served, after a trip the status block, the journal and the trap queues. -/
def State.readWindow2 (s : State) (off : Nat) : Option Nat :=
  if !s.power.memoryRail then none
  else if s.power.computeRails || off < 0x1000 then some (s.window2 off)
  else if s.power.tripped && (0x100000 ≤ off || (0x80000 ≤ off && off < 0xA0000) || off < 0x23880) then some (s.window2 off)
  else none

/-- A port's free intake places (R310, R311): a record holds its place until it has started or ended. -/
def State.credit (s : State) (port : Nat) : Nat :=
  256 - ((s.port port).intake.length + (s.ctl.journal.filter fun p => p.2.port == port && p.2.state == 1).length)

/-- One dword of window 0 as a port reads it (R310, R312, R313). -/
def State.window0 (s : State) (port off : Nat) : Nat :=
  let p := s.port port
  match off with
  | 0x4100 => s.credit port
  | 0x4108 => p.drops.toNat
  | 0x4110 => p.apctl.toNat
  | 0x4118 => p.apbase.toNat
  | 0x4120 => p.cmpbase.toNat
  | 0x4128 => p.cmpcfg
  | 0x4130 => port
  | 0x9000 => p.pending.toNat
  | _ =>
    if 0x4000 ≤ off ∧ off < 0x4080 then
      let h := sget ⟨false, 0⟩ s.ctl.hsems ((off - 0x4000) / 8)
      if h.held then 0x100 + h.owner else 0
    else if 0x8000 ≤ off ∧ off < 0x8400 then leNat ((List.range 8).map fun i => sget 0 p.msix (off - 0x8000 + i))
    else 0

/-! ### The measurement log (R320) -/

/-- The bytes of a log entry at an index. -/
def Measurement.bytes (m : Measurement) (i : Nat) : List Byte :=
  natBytes 8 i ++ natBytes 8 m.kind ++ (m.digest ++ List.replicate 32 0).take 32 ++ natBytes 8 m.version ++ natBytes 8 m.ptc.toNat

/-- The log is full (R320). -/
def State.logFull (s : State) : Bool := 4096 ≤ s.ctl.log.length

/-- An entry appended to the measurement log, which holds 4,096 (R320). -/
def State.measure (s : State) (kind : Nat) (digest : List Byte) : State :=
  if s.logFull then s
  else { s with ctl := { s.ctl with log := s.ctl.log ++ [⟨kind, digest, s.ctl.bootVersion, s.journalPtc⟩] } }

/-- The log as bytes. -/
def State.logBytes (s : State) : List Byte := (s.ctl.log.zipIdx).flatMap fun p => p.1.bytes p.2

/-- The bytes of a record. -/
def recordBytes (d : List Dword) : List Byte := d.flatMap fun w => natBytes 8 w.toNat

/-! ### Command records (R315, R316) -/

/-- The parameter bits that a type and subtype use, in D2 to D7; `none` for one that does not exist (R315). -/
def recordMask (type sub : Nat) : Option (List Nat) :=
  let full := 2 ^ 64 - 1
  match type, sub with
  | 1, 0 => some [full, 0, 0, 0, 0, 0]
  | 2, 0 => some [0xFF, full, full, full, full, full]
  | 2, 1 => some [0xFF, full, full, 0, 0, 0]
  | 2, 2 => some [full, full, 0, 0, 0, 0]
  | 2, 3 => some [0xFFFF, 2 ^ 57 - 1, 3, 0, 0, 0]
  | 3, 0 => some [0xFFFFFFFF, full, full, full, full, full]
  | 4, 0 => some [7, full, 0, 0, 0, 0]
  | 5, 0 => some [15, full, full, full, full, full]
  | 6, 0 => some [3, 0, 0, 0, 0, 0]
  | 7, 0 => some [0, 0x77FF, 0x1FFFFFF, 0, 0, 0]
  | 7, 1 => some [0, 0x0000FFFF8FFFFFFF, 0, 0, 0, 0]
  | 7, 2 => some [0, 0x1F, 0x8FFF0FFF, 0, 0, 0]
  | 7, 3 => some [0, 3, 0xFFFFFFFF, 0, 0, 0]
  | _, _ => none

/-- A record is malformed (code 1 of R316): an unknown type or subtype, a bit that must be zero, a value that no rule gives a meaning, or a
JOB that must or must not be zero. -/
def recordMalformed (d : List Dword) : Bool :=
  let t := recordType d
  let u := recordSub d
  match recordMask t u with
  | none => true
  | some ms =>
    specField d 0 32 32 != 0 || ((ms.zipIdx).any fun p => (d.getD (2 + p.2) 0).toNat != ((d.getD (2 + p.2) 0).toNat &&& p.1)) ||
      ((t == 6 || (t == 7 && u != 0)) && recordJob d != 0) || (t == 1 && recordJob d == 0) || (t == 4 && 4 < specField d 2 0 3) ||
      (t == 5 && 3 < specField d 2 0 4) || (t == 6 && 1 < specField d 2 0 2) || (t == 7 && u == 3 && specField d 3 0 2 == 3)

/-- A record fails with a code of R316. -/
def State.failRecord (s : State) (seq code : Nat) : State := s.setJournal seq 4 (BitVec.ofNat 64 code)

/-- A record completes. -/
def State.endRecord (s : State) (seq : Nat) : State := s.setJournal seq 3 0

/-- A record of a type and subtype carried out, unless it has ended or is malformed. -/
def State.onRecord (s : State) (seq type sub : Nat) (act : List Dword → State) : State :=
  match sfind s.ctl.records seq with
  | none => s
  | some d =>
    if recordType d ≠ type ∨ recordSub d ≠ sub ∨ 3 ≤ s.journalState seq then s
    else if recordMalformed d then s.failRecord seq 1
    else act d

/-- A record that works on a live job: code 2 without one. -/
def State.onJob (s : State) (seq type sub : Nat) (act : List Dword → Job → State) : State :=
  s.onRecord seq type sub fun d =>
    match s.job (recordJob d) with
    | none => s.failRecord seq 2
    | some j => act d j

/-- A range entry that LOAD refuses (R298, R316, code 4), valid or not. -/
def rangeRefused (e : List Dword) : Bool :=
  let base := rangeBase e
  let lim := rangeLimit e
  let off := rangeOff e
  specField e 0 57 6 != 0 || specField e 1 57 7 != 0 || specField e 2 60 4 != 0 || specField e 2 54 1 != 0 || specField e 2 42 6 != 0 ||
    specField e 3 57 7 != 0 || specField e 4 24 40 != 0 ||
    base % 4096 != 0 || lim % 4096 != 0 || off % 4096 != 0 || specField e 3 0 5 != 0 || lim ≤ base || (rangePool e && rangeSite e != 0) ||
    (if rangePaged e then 2 ^ 48 < lim - base || Config.jobMemEnd ≤ paLocal off else spaceEnd (rangePool e) < off + (lim - base))

/-! ### The aperture (R313) -/

/-- The pieces of an aperture access, each within 4 KiB: address and length. -/
def apertureParts : Nat → Nat → Nat → List (Nat × Nat)
  | 0, _, _ => []
  | fuel + 1, a, n =>
    if n = 0 then []
    else
      let k := min n (4096 - a % 4096)
      (a, k) :: apertureParts fuel (a + k) (n - k)

/-- The memory site on whose base die a host port stands (R17). -/
def portHome (port : Nat) : Nat := if port = 0 then 64 + 24 else 64 + 39

/-- A physical address as a host port reaches it: nothing where its own site or the home is in reset, no route leads there, or it lies behind the outbound
window of a site whose path has failed (R17, R360, R363). -/
def State.reached (s : State) (port pa : Nat) : Option Nat :=
  if s.pathFailed pa || (s.node (portHome port)).down || (s.node (homeNode pa)).down || s.unreachable (portHome port) (homeNode pa) then none else some pa

/-- The physical address of one piece, or a refusal, with whether a table entry held bad data. -/
def State.aperturePa (s : State) (port : Nat) (write : Bool) (a : Nat) : Option Nat × Bool :=
  let p := s.port port
  let mode := bitsOf p.apctl.toNat 0 2
  if mode = 2 then
    if 2 ^ 42 ≤ a ∨ Config.stackEnd ≤ paLocal a ∨ (write ∧ Config.jobMemEnd ≤ paLocal a) then (none, false) else (s.reached port a, false)
  else if mode = 1 ∧ (s.job (bitsOf p.apctl.toNat 2 16)).isSome then
    match s.translateIn (bitsOf p.apctl.toNat 2 16) (BitVec.ofNat 64 a) (if write then permW else permRd) with
    | .ok pa => (s.reached port pa, false)
    | .fault c => (none, c == 6)
  else (none, false)

/-- The physical pieces of an aperture access, `none` where any is refused; bad data in a table entry counts and raises the error interrupt (R341). -/
def State.aperture (s : State) (port off len : Nat) (write : Bool) : Option (List (Nat × Nat)) × State :=
  let p := s.port port
  if !s.power.computeRails || 2 ^ 36 < off + len then (none, s)
  else
    let cut := apertureParts (len / 4096 + 2) ((p.apbase.toNat + off) % 2 ^ 64) len
    let parts := cut.map fun q => (s.aperturePa port write q.1, q.2)
    let s' := (cut.filter fun q => (s.aperturePa port write q.1).2).foldl (fun s q => s.noteBad (bitsOf p.apctl.toNat 2 16) (BitVec.ofNat 64 q.1) 0) s
    let pas := parts.filterMap fun q => q.1.1.map fun pa => (pa, q.2)
    (if pas.length = parts.length then some pas else none, s')

/-- The place that asks for the contents of the reserved region. -/
def siteReserved : Nat := 900100

/-- A byte of the reserved region: the journal stands on MS24 and MS39 (R19) and the measurement log on MS24 (R320), at places that the manual does not
give; what else the region holds, the shadow regions of the dies among it (R383), is not given (log 14, log 71). -/
def State.reservedByte (s : State) (pa : Nat) : Byte :=
  let j := paLocal pa - Config.journalPlace
  let l := paLocal pa - Config.logPlace
  if (paSite pa = 24 ∨ paSite pa = 39) ∧ Config.journalPlace ≤ paLocal pa ∧ j < 64 * Config.journalSize then
    (natBytes 8 (s.window2 (0x100000 + j / 8 * 8))).getD (j % 8) 0
  else if paSite pa = 24 ∧ Config.logPlace ≤ paLocal pa ∧ l < 64 * s.ctl.log.length then s.logBytes.getD l 0
  else s.freeVal 8 (siteReserved + pa)

/-- Bytes of memory as a host reads them. -/
def State.hostBytes (s : State) (pa n : Nat) : List Byte :=
  if Config.jobMemEnd ≤ paLocal pa then (List.range n).map fun i => s.reservedByte (pa + i) else s.bytesAt pa n

/-! ### Flash (R388, R405) -/

/-- A byte of a flash slot; one that nothing has programmed reads as erased. -/
def flashByte (f : Sparse Byte) (a : Nat) : Byte := sget 0xFF f a

/-- The bytes of one slot. -/
def slotSize : Nat := 0x4000000

/-- A byte programmed in window 4's flash map, its sector erased on its first write. -/
def Control.program (c : Control) (off : Nat) (b : Byte) : Control :=
  let fresh := !c.erased.contains (off / 4096)
  let a := off % slotSize
  let erase (f : Sparse Byte) : Sparse Byte := if fresh then f.filter fun p => p.1 / 4096 != a / 4096 else f
  let c := if fresh then { c with erased := c.erased ++ [off / 4096] } else c
  if off < slotSize then { c with flashA := sput a b (erase c.flashA) } else { c with flashB := sput a b (erase c.flashB) }

end Sys2Proof.Machine
end

