-- ==== Sys2Proof/Machine/HostEvents.lean ====
section
/-! DEFINITION. What arrives at the host ports, and what the firmware does with command records (R18, R213, R271, R279, R305 to R321, R340,
R388, R403 to R405). -/

namespace Sys2Proof.Machine

/-! ### Module reset (R319, R320, R340, R388, R405) -/

/-- A flash slot that the boot ROM accepts (R319). -/
def slotAccepted (f : Sparse Byte) : Bool := Config.slotSigned f && Config.fusedVersion ≤ Config.slotVersion f

/-- The place that asks where the firmware's main context starts. -/
def siteFirmware : Nat := 6500000

/-- The verified firmware in the supervisor tile of a die (R13, R41, R319): context 0 is a supervisor context. Its program is not the manual's, so it issues
nothing here (log 8). -/
def State.loadFirmware (s : State) (d : Nat) : State :=
  let c : Ctx := { Ctx.reset with owner := .firmware, status := 1, stopped := true, pc := (s.freeVal 57 (siteFirmware + d)).zeroExtend 64 }
  s.updTile (supervisorOf d) fun x =>
    let k := { x.core with ctxs := sput 0 c x.core.ctxs }
    { x with core := k, region := { x.region with start := k } }

/-- The boot ROM's choice of a slot, and the firmware it loads into every supervisor tile, which loads PCAP: MSTATE 1 when both slots fail, else the given
state (R319, R320, R394). -/
def State.bootFirmware (s : State) (state : Nat) : State :=
  let boot (slot : Nat) (f : Sparse Byte) : State :=
    let s := { s with
      power := { s.power with mstate := state }
      ctl := { s.ctl with bootSlot := slot, bootVersion := Config.slotVersion f, pcap := Config.pcapBoot } }
    (List.range 64).foldl State.loadFirmware ((s.measure 1 Config.romDigest).measure 2 (Config.slotDigest f))
  if slotAccepted s.ctl.flashA then boot 0 s.ctl.flashA
  else if slotAccepted s.ctl.flashB then boot 1 s.ctl.flashB
  else { s with power := { s.power with mstate := 1 } }

/-- A tile as power finds it: all state gone but what the flash holds of it (R340, R388). -/
def State.bareTile (s : State) (t : Nat) : Tile :=
  let h : List (Nat × Nat × Nat) := sget [] s.ctl.history t
  let last : Option Nat := h.getLast?.map fun p => p.1
  let learned : Sparse Nat := sget [] s.ctl.learned t
  let c : Chinook := { Chinook.reset with learned := learned, history := h, lastFlash := last, primed := !learned.isEmpty }
  { Tile.reset with retired := s.ctl.retireMap.contains t, chinook := c.start 2 (s.bandOf t) s.now }

/-- The tiles of which the flash holds anything. -/
def State.flashTiles (s : State) : Sparse Tile :=
  (s.ctl.retireMap ++ s.ctl.learned.map (·.1)).foldl (fun m t => sput t (s.bareTile t) m) []

/-- MODULE_RESET (R319): every state but the flash is as after power-on, and the boot ROM runs, on CD24 or, where that die fails its self-check, on CD39.
`recovery` says that the recovery input is held low (R405). -/
def execModuleReset (recovery cd24ok : Bool) (s : State) : Host.Outcome State Fault Refusal :=
  let c := s.ctl
  let ctl := { Control.reset with
    flashA := c.flashA, flashB := c.flashB, retireMap := c.retireMap, learned := c.learned, history := c.history, tested := c.tested
    powered := c.powered + s.now, bootDie := if cd24ok then 24 else 39, out := c.out }
  let s := { State.reset with ctl := ctl, free := s.free, ids := s.ids }
  let s := { s with tiles := s.flashTiles }
  let s : State := if recovery then { s with power := { s.power with mstate := 1 } } else s.bootFirmware 2
  .next (if s.power.mstate = 1 then s else (List.range 128).foldl (fun s n => s.once 1600000 (.predictiveLeak n)) s)

/-! ### Records (R18, R311, R314 to R317) -/

/-- A record that a port does not take (R311). -/
def State.dropRecord (s : State) (port : Nat) : State := s.updPort port fun p => { p with drops := p.drops + 1 }

/-- The place that asks when a record is accepted. -/
def siteRecord : Nat := 900008

/-- COMMAND_RECORD_WRITE (R310, R311, R401). -/
def execCommandRecordWrite (port off size : Nat) (data : BitVec 512) (s : State) : Host.Outcome State Fault Refusal :=
  .next <|
    if 0x4000 ≤ off ∨ 2 ≤ port then s
    else if size ≠ 64 ∨ off % 64 ≠ 0 ∨ s.credit port = 0 ∨ ¬ s.power.computeRails then s.dropRecord port
    else
      let d : List Dword := (List.range 8).map fun i => data.extractLsb' (64 * i) 64
      (s.updPort port fun p => { p with intake := p.intake ++ [d] }).after (s.freeTime siteRecord) (.recordAccept port)

/-- RECORD_ACCEPT (R18, R317): the oldest record of a port gets its number and its journal entry, and is carried out. -/
def execRecordAccept (port : Nat) (s : State) : Host.Outcome State Fault Refusal :=
  .next <|
    match (s.port port).intake with
    | [] => s
    | d :: rest =>
      if !s.admits then s
      else
        let seq := s.ctl.jnext
        let s := s.updPort port fun p => { p with intake := rest }
        let s := s.journal (recordJob d) port (recordSub d) (recordType d) 1 (d.getD 1 0) 0 s.journalPtc
        let s := { s with ctl := { s.ctl with records := sput seq d s.ctl.records } }
        match recordEvent seq d with
        | some e => s.after 0 e
        | none => s.failRecord seq 1

/-- COMPLETION_RECORD (R314): a write into the host's completion area, then vector 0. -/
def execCompletionRecord (seq : Nat) (s : State) : Host.Outcome State Fault Refusal :=
  .next <|
    match sfind s.ctl.journal seq with
    | none => s
    | some e =>
      if e.state < 3 ∨ 2 ≤ e.port then s
      else
        let p := s.port e.port
        let phase := 1 - p.k / 2 ^ p.cmpcfg % 2
        let bytes := [e.seq, e.tag.toNat, e.status.toNat, phase * 2 ^ 63 + e.state * 2 ^ 24].flatMap (natBytes 8)
        let s := s.emit (.write e.port (p.cmpbase + BitVec.ofNat 64 (32 * (p.k % 2 ^ p.cmpcfg))) bytes)
        let s := (s.updPort e.port fun p => { p with k := p.k + 1 }).signal e.port 0
        if seq < s.ctl.joldest then { s with ctl := { s.ctl with journal := sdel seq s.ctl.journal } } else s

/-! ### Jobs -/

/-- Two partitions share a die. -/
def meets (a b : BitVec 64) : Bool := (a &&& b) != 0

/-- CREATE_JOB (R306, R320, R382): a job on whole dies; a die still being cleared holds the record. -/
def execCreateJob (seq : Nat) (s : State) : Host.Outcome State Fault Refusal :=
  .next <| s.onRecord seq 1 0 fun d =>
    let part := d.getD 2 0
    if part = 0 then s.failRecord seq 4
    else if s.logFull then s.failRecord seq 5
    else if s.jobs.any fun j => !j.clearing && (j.num == recordJob d || meets j.part part) then s.failRecord seq 3
    else if s.jobs.any fun j => j.clearing && meets j.part part then s
    else
      let tile (p : Nat × Tile) : Nat × Tile :=
        if inPart part (dieOf p.1) then
          let x := p.2.catchUp ((s.regionAt p.1).received s.time)
          (p.1, { x with clean := [], core := { x.core with dC := 2, dV := 2, dM := 2, dY := 4, divs := [] } }.repair (s.bandOf p.1) s.now)
        else p
      let swaps := (s.ctl.swaps.filter fun p => p.1 / 2 != recordJob d)
      let s := { s with jobs := s.jobs ++ [Job.create (recordJob d) seq part], tiles := s.tiles.map tile, ctl := { s.ctl with swaps := swaps } }
      (s.measure 4 (Config.sha3 (recordBytes d))).setJournal seq 2 0

/-- A parked access tried again once a LOAD record has completed (R375): it keeps its place while its page is still missing, and a dropped
one makes a new record. -/
def State.retryReq (s : State) (r : Req) : State :=
  let d := dieOf r.tile
  let die := sget Die.reset s.dies d
  let mine (p : Nat × TrapEntry) : Bool := p.2.rid == some r.id && p.2.state == 1
  if s.translateIn r.job r.ea r.kind.need = .fault 4 then (if die.traps.any mine then s else s.parkReq r 4)
  else
    let s := { s with dies := sput d { die with traps := die.traps.filter fun p => !mine p } s.dies }
    (s.updReq r.id fun x => { x with state := .waiting }).kick r.tile

/-- A context that waits for its code's page tried again. -/
def State.retryFetch (s : State) (t h : Nat) : State :=
  let c := s.ctxAt t h
  let d := dieOf t
  let die := sget Die.reset s.dies d
  let mine (p : Nat × TrapEntry) : Bool := p.2.rid == none && p.2.tile == t && p.2.hw == h && p.2.state == 1
  let walks := s.fab.reqs.any fun r => r.kind == .fetch && r.tile == t && r.hw == h
  match s.peek t c with
  | .fault pc 4 =>
    if walks then s
    else if die.traps.any mine then s
    else s.holdTrap d ⟨trapWord0 0 2 0 0x01, c.cmdix, BitVec.ofNat 32 (7 * 2 ^ 28), 4, pc, c.job, h, t, 1, none, 0⟩
  | _ =>
    let s := { s with dies := sput d { die with traps := die.traps.filter fun p => !mine p } s.dies }
    if walks then s else (s.updCtx t h fun c => { c with fetchWait := false }).wake t

/-- Every held or dropped access of a job tried again (R305, R375). -/
def State.retryJob (s : State) (jobNum : Nat) : State :=
  let s := (s.fab.reqs.filter fun r => r.job == jobNum && r.state == .parked && r.kind.replayable).foldl State.retryReq s
  s.tiles.foldl (fun s p => (p.2.core.ctxs.filter fun q => q.2.fetchWait && q.2.job == jobNum).foldl (fun s q => s.retryFetch p.1 q.1) s) s

/-- The leaves of code that a core caches, without some. -/
def Core.dropLeaves (k : Core) (gone : TlbEntry → Bool) : Core := { k with ctlb := k.ctlb.filter fun l => !gone l }

/-- The end of a walk for fetch without its leaf, where that is one of some: the context looks again. -/
def Input.dropLeaf (i : Input) (gone : TlbEntry → Bool) : Input :=
  match i with
  | .fetched h line (some l) code => if gone l then .fetched h line none 0 else .fetched h line (some l) code
  | i => i

/-- A tile without some leaves, wherever it keeps them: in its TLBs, in the snapshot and the logs that a rollback takes up again, and among what a rerun
holds back (R305, R331, R333). -/
def Tile.dropLeaves (x : Tile) (gone : TlbEntry → Bool) : Tile :=
  let log (p : Nat × Input) : Nat × Input := (p.1, p.2.dropLeaf gone)
  { x with
    ptlb := x.ptlb.filter fun l => !gone l
    core := x.core.dropLeaves gone
    region := { x.region with
      start := x.region.start.dropLeaves gone, inputs := x.region.inputs.map log, replayed := x.region.replayed.map log
      held := x.region.held.map fun i => i.dropLeaf gone } }

/-- The TLBs of a partition without the entries that a LOAD record covers (R305), and its saved images too. -/
def State.flushTlbs (s : State) (j : Job) (range lo hi : Nat) : State :=
  let gone (l : TlbEntry) : Bool := l.job == j.num && l.range == range && l.off < hi && lo < l.off + l.size
  let tile (p : Nat × Tile) : Nat × Tile :=
    if inPart j.part (dieOf p.1) then (p.1, { p.2.dropLeaves gone with rtlb := p.2.rtlb.filter fun q => q != (j.num, range) }) else p
  let image (w : Shadow) : Shadow := { w with tiles := w.tiles.map fun p => (p.1, p.2.dropLeaves gone) }
  { s with tiles := s.tiles.map tile, ctl := { s.ctl with shadows := s.ctl.shadows.map image } }

/-- A request has been translated and has not been performed: it is on its way to its home, or to a peer module, or to an error there. -/
def Req.open_ (r : Req) : Bool := r.pa != noPa && (r.state == .sent || r.state == .remote || r.state == .failing)

/-- A LOAD record that has done its work waits for the accesses that were on their way (R305), looking again every 16 ticks. -/
def State.awaitAccesses (s : State) (seq jobNum : Nat) (again : Event) : State :=
  let bound := sget 0 s.ctl.loads seq
  if s.fab.reqs.any fun r => r.job == jobNum && r.id < bound && r.open_ then s.once 16 again
  else ({ s with ctl := { s.ctl with loads := sdel seq s.ctl.loads } }.endRecord seq).retryJob jobNum

/-- A LOAD record that has been carried out begins to wait. -/
def State.startWaiting (s : State) (seq jobNum : Nat) (again : Event) : State :=
  let s := { s with ctl := { s.ctl with loads := sput seq s.ids s.ctl.loads } }
  (s.setJournal seq 2 0).awaitAccesses seq jobNum again

/-- LOAD_RANGE (R298, R305, R316). -/
def execLoadRange (seq : Nat) (s : State) : Host.Outcome State Fault Refusal :=
  .next <| s.onJob seq 2 0 fun d j =>
    if s.journalState seq = 2 then s.awaitAccesses seq j.num (.loadRange seq)
    else if j.closed then s.failRecord seq 5
    else if rangeRefused (d.drop 3) then s.failRecord seq 4
    else
      let i := (d.getD 2 0).toNat
      let s := s.updJob j.num fun j => { j with ranges := sput i (d.drop 3) j.ranges }
      (s.flushTlbs j i 0 (2 ^ 57)).startWaiting seq j.num (.loadRange seq)

/-- LOAD_INVAL (R305). -/
def execLoadInval (seq : Nat) (s : State) : Host.Outcome State Fault Refusal :=
  .next <| s.onJob seq 2 1 fun d j =>
    if s.journalState seq = 2 then s.awaitAccesses seq j.num (.loadInval seq)
    else if j.closed then s.failRecord seq 5
    else
      let i := (d.getD 2 0).toNat
      let base := rangeBase (sget [] j.ranges i)
      let lo := (d.getD 3 0).toNat
      (s.flushTlbs j i (lo - base) (lo + (d.getD 4 0).toNat - base)).startWaiting seq j.num (.loadInval seq)

/-- LOAD_METHOD (R279, R316). -/
def execLoadMethod (seq : Nat) (s : State) : Host.Outcome State Fault Refusal :=
  .next <| s.onJob seq 2 2 fun d j =>
    if j.closed then s.failRecord seq 5
    else if 4096 < (d.getD 3 0).toNat then s.failRecord seq 9
    else if (d.getD 2 0).toNat % 32 ≠ 0 then s.failRecord seq 4
    else (s.updJob j.num fun j => { j with mtAddr := d.getD 2 0, mtCount := some (d.getD 3 0).toNat }).endRecord seq

/-- LOAD_GRAPH (R315). -/
def execLoadGraph (seq : Nat) (s : State) : Host.Outcome State Fault Refusal :=
  .next <| s.onJob seq 2 3 fun d j =>
    let g := (d.getD 2 0).toNat
    if j.closed then s.failRecord seq 5
    else if 1023 < g then s.failRecord seq 4
    else
      let graph : Graph := ⟨d.getD 3 0, bitOf (d.getD 4 0).toNat 0, bitOf (d.getD 4 0).toNat 1⟩
      (s.updJob j.num fun j => { j with graphs := sput g graph j.graphs }).endRecord seq

/-- A SELF-TEST has passed since module reset (R315, R403). -/
def State.selfTested (s : State) : Bool := s.power.passed

/-- RUN_GRAPH (R246, R247, R315, R316): the instance starts once a graph context is free and its phase has come. -/
def execRunGraph (seq : Nat) (s : State) : Host.Outcome State Fault Refusal :=
  .next <| s.onRecord seq 3 0 fun d =>
    if !s.selfTested then s.failRecord seq 5
    else
      match s.job (recordJob d) with
      | none => s.failRecord seq 2
      | some j =>
        let g := specField d 2 0 16
        let ph := specField d 2 16 16
        let next : Bool := match j.phase with
          | none => ph == 0
          | some p => ph == p || ph == p + 1
        if j.insts.any fun i => i.seq == seq then s
        else if j.closed then s.failRecord seq 5
        else if (sfind j.graphs g).isNone then s.failRecord seq 7
        else if !next then s.failRecord seq 8
        else
          let i : Inst := ⟨seq, 0, g, ph, (d.drop 3).take 5, 0, 0, [], 0, false⟩
          (s.updJob j.num fun j => { j with phase := some ph, insts := j.insts ++ [i] }).once 0 (.graphInstanceStart seq)

/-- CANCEL_RECORD (R247, R248, R315): a level of the job, or its close. -/
def execCancelRecord (seq : Nat) (s : State) : Host.Outcome State Fault Refusal :=
  .next <| s.onJob seq 4 0 fun d j =>
    let lvl := specField d 2 0 3
    let ident := (d.getD 3 0).toNat
    let s := if lvl = 4 then (s.updJob j.num fun j => { j with closed := true }).once 0 (.phaseComplete j.num)
      else s.cancel j.num lvl (if lvl = 3 then j.num else if lvl = 0 then ident % 2 ^ 24 else ident % 65536)
    s.endRecord seq

/-! ### QUERY and SELF-TEST (R321, R403) -/

/-- The first 4 KiB of the status block (R401). -/
def State.statusBytes (s : State) : List Byte := (List.range 512).flatMap fun i => natBytes 8 (s.window2 (8 * i))

/-- Bytes filled with zeros up to a length. -/
def padTo (n : Nat) (bs : List Byte) : List Byte := (bs ++ List.replicate n 0).take n

/-- The quote of R321. -/
def State.quote (s : State) (nonce : List Byte) : List Byte :=
  let head := padTo 32 nonce ++ padTo 32 (Config.sha3 s.logBytes) ++ natBytes 8 s.ctl.log.length ++ padTo 16 Config.serialNumber ++
    natBytes 8 (s.ptc s.ctl.bootDie) ++ natBytes 8 s.ctl.bootVersion ++ List.replicate 24 0
  padTo 4096 (head ++ padTo 3309 (Config.identitySign (Config.sha3 head)))

/-- QUERY (R315, R316, R321): its result is written to the host, which may refuse it. -/
def execQuery (seq : Nat) (hostOk : Bool) (s : State) : Host.Outcome State Fault Refusal :=
  .next <| s.onRecord seq 5 0 fun d =>
    let item := specField d 2 0 4
    let port := (sfind s.ctl.journal seq).elim 0 (·.port)
    if item ≠ 0 ∧ ¬ s.selfTested then s.failRecord seq 5
    else if !hostOk then s.failRecord seq 10
    else
      let bytes := match item with
        | 0 => s.statusBytes
        | 1 => s.quote (recordBytes (d.drop 4))
        | 2 => s.logBytes
        | _ => Config.identityCertificates
      (s.emit (.write port (d.getD 3 0) bytes)).endRecord seq

/-- SELF_TEST (R403): the record starts, and some time later the listed tiles turn out to have failed. A transport test leaves a learned
point, which the manual does not give, on every tile, which an idle one takes when it next becomes busy. -/
def execSelfTest (seq : Nat) (fails : List Nat) (s : State) : Host.Outcome State Fault Refusal :=
  .next <| s.onRecord seq 6 0 fun d =>
    let mode := specField d 2 0 2
    if s.journalState seq < 2 then
      if s.jobs.any fun j => !j.clearing then s.failRecord seq 3
      else (s.setJournal seq 2 0).after (s.freeTime siteRecord) (.selfTest seq fails)
    else
      let bad := fails.filter fun t => tileExists t && !isSupervisor t && !(s.tile t).retired
      let passed := !(fails.any fun t => tileExists t && isSupervisor t)
      let s := bad.foldl (fun s t => s.retireTile t 0) s
      let due (p : Nat × Tile) : Nat × Tile := (p.1, { p.2 with chinook := { p.2.chinook with primed := false } })
      let s : State :=
        if mode = 0 then
          { s with
            tiles := s.tiles.map due
            ctl := { s.ctl with tested := some (s.free, s.dies.map fun d => (d.1, d.2.temps)) } }
        else s
      ({ s with power := { s.power with
          mstate := if passed then 3 else s.power.mstate
          passed := s.power.passed || passed
          stresult := BitVec.ofNat 64 (b2n passed + mode * 256 + bad.length % 65536 * 65536) } }).endRecord seq

/-! ### SET-POLICY (R315, R320, R344, R404) -/

/-- A SET-POLICY record that takes effect is measured, or fails when the log is full. -/
def State.onPolicy (s : State) (seq sub : Nat) (act : List Dword → State) : State :=
  s.onRecord seq 7 sub fun d => if s.logFull ∧ s.journalState seq < 2 then s.failRecord seq 5 else act d

/-- SET_POLICY_TREE (R271, R315): the supervisor tile of the segment's die writes the mask, and the record ends when it has reached the
root. -/
def execSetPolicyTree (seq : Nat) (s : State) : Host.Outcome State Fault Refusal :=
  .next <| s.onPolicy seq 0 fun d =>
    match s.job (recordJob d) with
    | none => s.failRecord seq 2
    | some j =>
      let row := specField d 3 0 8
      let k := specField d 3 8 3
      let die := 8 * (row / 25) + k
      let tree := specField d 3 12 3
      let mask := BitVec.ofNat 25 (specField d 4 0 25)
      let reach := treeTicks (latBandOf (s.hopCount die j.root))
      let way : Event := .treeMaskAtRoot j.num tree row k mask
      if s.journalState seq = 2 then
        if s.fab.trees.any (fun p => p.2.2 == way) || s.agenda.any fun p => p.2 == way then s.once reach (.setPolicyTree seq) else s.endRecord seq
      else if j.closed then s.failRecord seq 5
      else
        if 199 < row ∨ ¬ inPart j.part die then s.failRecord seq 4
        else
          let s := (s.sendTreeMask die j.num tree row k mask 0).after reach (.setPolicyTree seq)
          (s.measure 3 (Config.sha3 (recordBytes d))).setJournal seq 2 0

/-- SET_POLICY_PCAP (R404). -/
def execSetPolicyPcap (seq : Nat) (s : State) : Host.Outcome State Fault Refusal :=
  .next <| s.onPolicy seq 1 fun d =>
    let cap := specField d 3 32 16
    if cap < 500 ∨ 3000 < cap then s.failRecord seq 4
    else ({ s with ctl := { s.ctl with pcap := pcapStored (d.getD 3 0) } }.measure 3 (Config.sha3 (recordBytes d))).endRecord seq

/-- SET_POLICY_CSLR (R404). -/
def execSetPolicyCslr (seq : Nat) (s : State) : Host.Outcome State Fault Refusal :=
  .next <| s.onPolicy seq 2 fun d =>
    let d3 := (d.getD 3 0).toNat
    let regions := if bitOf d3 4 then List.range 16 else [d3 % 16]
    let s := regions.foldl (fun s r => s.scheduleCslr r (d.getD 4 0)) s
    (s.measure 3 (Config.sha3 (recordBytes d))).endRecord seq

/-- SET_POLICY_MARKS (R344): a level at or above the new MARK raises its event at once. -/
def execSetPolicyMarks (seq : Nat) (s : State) : Host.Outcome State Fault Refusal :=
  .next <| s.onPolicy seq 3 fun d =>
    let kind := specField d 3 0 2
    let p : Policy := ⟨specField d 4 0 8, specField d 4 8 8, specField d 4 16 16⟩
    if p.mark = 0 then s.failRecord seq 4
    else
      let s := { s with ctl := { s.ctl with policies := sput kind p s.ctl.policies } }
      let hit := s.ctl.buckets.filter fun b => b.1 / 2 ^ 24 == kind && p.mark ≤ b.2.level && !b.2.spent
      let s := hit.foldl (fun s b =>
        { s with ctl := { s.ctl with buckets := sput b.1 ⟨b.2.level, true⟩ s.ctl.buckets } }.predictEvent kind (b.1 % 2 ^ 24) b.2.level) s
      (s.measure 3 (Config.sha3 (recordBytes d))).endRecord seq

/-! ### Hardware semaphores (R312) -/

/-- A hardware semaphore. -/
def State.hsem (s : State) (i : Nat) : HSem := sget ⟨false, 0⟩ s.ctl.hsems i

/-- A claim by a port: `p` is what it writes. -/
def State.claimHsem (s : State) (port i p : Nat) : State :=
  if p = port ∧ i < 16 ∧ ¬ (s.hsem i).held then { s with ctl := { s.ctl with hsems := sput i ⟨true, port⟩ s.ctl.hsems } } else s

/-- A release by a port. -/
def State.releaseHsem (s : State) (port i : Nat) : State :=
  if i < 16 ∧ (s.hsem i).held ∧ (s.hsem i).owner = port then { s with ctl := { s.ctl with hsems := sput i ⟨false, 0⟩ s.ctl.hsems } } else s

/-- HSEM_CLAIM (R312). -/
def execHsemClaim (port i p : Nat) (s : State) : Host.Outcome State Fault Refusal := .next (s.claimHsem port i p)

/-- HSEM_RELEASE (R312). -/
def execHsemRelease (port i : Nat) (s : State) : Host.Outcome State Fault Refusal := .next (s.releaseHsem port i)

/-- HOST_LINK_DOWN (R312): every semaphore that the port holds is released. -/
def execHostLinkDown (port : Nat) (s : State) : Host.Outcome State Fault Refusal :=
  .next ((List.range 16).foldl (fun s i => s.releaseHsem port i) s)

/-! ### The aperture and the registers (R310, R313, R405) -/

/-- APERTURE_READ (R313, R341, R342, R363, R405): the data, or an abort. -/
def execApertureRead (port off len : Nat) (s : State) : Host.Outcome State Fault Refusal :=
  .next <|
    if s.power.mstate = 1 then
      if 2 * slotSize < off + len then s.emit (.abort port)
      else
        let byte (a : Nat) : Byte := if a < slotSize then flashByte s.ctl.flashA a else flashByte s.ctl.flashB (a - slotSize)
        s.emit (.data port ((List.range len).map fun i => byte (off + i)))
    else
      let (pas, s) := s.aperture port off len false
      match pas with
      | none => s.emit (.abort port)
      | some ps =>
        match s.badMem.find? fun b => ps.any fun p => !outbound p.1 && overlaps p.1 p.2 b 8 with
        | some b => (s.badRead b).emit (.abort port)
        | none => (ps.foldl (fun s p => s.readStack p.1) s).emit (.data port (ps.flatMap fun p => s.hostBytes p.1 p.2))

/-- Bytes stored piece by piece. -/
def State.storeParts (s : State) : List (Nat × Nat) → List Byte → State
  | [], _ => s
  | (pa, n) :: ps, bs => (s.storeAt pa (bs.take n)).storeParts ps (bs.drop n)

/-- APERTURE_WRITE (R313, R363): stored, or dropped and counted. -/
def execApertureWrite (port off : Nat) (bytes : List (BitVec 8)) (s : State) : Host.Outcome State Fault Refusal :=
  .next <|
    if s.power.mstate = 1 then s.dropRecord port
    else
      let (pas, s) := s.aperture port off bytes.length true
      match pas with
      | none => s.dropRecord port
      | some ps => s.storeParts ps bytes

/-- FLASH_WRITE (R405): a write through window 4 in MSTATE 1. -/
def execFlashWrite (port off : Nat) (bytes : List (BitVec 8)) (s : State) : Host.Outcome State Fault Refusal :=
  .next <|
    if s.power.mstate ≠ 1 then s
    else if 2 * slotSize < off + bytes.length then s.dropRecord port
    else { s with ctl := (bytes.zipIdx).foldl (fun c p => c.program (off + p.2) p.1) s.ctl }

/-- The vectors of a port that are pending and no longer masked are signalled. -/
def State.signalUnmasked (s : State) (port : Nat) : State :=
  (List.range 64).foldl (fun s v =>
    let p := s.port port
    if p.pending.getLsbD v ∧ ¬ p.masked v then
      (s.updPort port fun p => { p with pending := p.pending &&& ~~~BitVec.ofNat 64 (2 ^ v) }).emit (.signal port v)
    else s) s

/-- REGISTER_WRITE (R310, R312, R313): a dword written in window 0. -/
def execRegisterWrite (port off : Nat) (value : BitVec 64) (s : State) : Host.Outcome State Fault Refusal :=
  .next <|
    if off % 8 ≠ 0 ∨ 2 ≤ port then s
    else if 0x4000 ≤ off ∧ off < 0x4080 then
      let i := (off - 0x4000) / 8
      if value = 0 then s.releaseHsem port i else if value.toNat / 2 = 0x80 then s.claimHsem port i (value.toNat % 2) else s
    else if 0x8000 ≤ off ∧ off < 0x8400 then
      let bs := natBytes 8 value.toNat
      (s.updPort port fun p => { p with msix := (bs.zipIdx).foldl (fun m q => sput (off - 0x8000 + q.2) q.1 m) p.msix }).signalUnmasked port
    else
      match off with
      | 0x4110 => s.updPort port fun p => { p with apctl := if value &&& 3 = 3 then value &&& 0x3FFFC else value &&& 0x3FFFF }
      | 0x4118 => s.updPort port fun p => { p with apbase := value &&& ~~~0x3FFFFFFF }
      | 0x4120 => s.updPort port fun p => { p with cmpbase := value &&& ~~~0xFFF }
      | 0x4128 => s.updPort port fun p => { p with cmpcfg := if 6 ≤ value.toNat % 32 ∧ value.toNat % 32 ≤ 16 then value.toNat % 32 else 6 }
      | _ => s

end Sys2Proof.Machine
end

