-- ==== Sys2Proof/Machine/Local.lean ====
section
/-! DEFINITION. Scratch, full/empty words, scratch atomics and the spill store (R152 to R167). -/

namespace Sys2Proof.Machine

/-- A load of one dword of scratch, as full/empty bits `fe` would leave them (R162, R163). -/
def loadWord (s : State) (t : BitVec 5) (ea : Dword) : State :=
  s.dueX t (rowWord (s.me.core.row (rowOf ea)) (wordOf ea)) 3

/-- A load of a row of scratch (R162, R163). -/
def loadRow (s : State) (t : BitVec 5) (ea : Dword) : State := s.due (.v t.toNat) (s.me.core.row (rowOf ea)) 0 3

/-- The full/empty bits of the row of an address. -/
def feOf (s : State) (ea : Dword) : BitVec 32 := s.me.core.feBits (rowOf ea)

/-- A store of one dword, with the full/empty bits it leaves (R162, R163). -/
def storeWord (s : State) (ea : Dword) (x : Dword) (fe : BitVec 32) : State :=
  s.storeRow (rowOf ea) (setRowWord (s.me.core.row (rowOf ea)) (wordOf ea) x) fe (1 <<< wordOf ea)

/-- A store of a whole row. -/
def storeWhole (s : State) (ea : Dword) (v : Row) (fe : BitVec 32) : State := s.storeRow (rowOf ea) v fe (BitVec.allOnes 32)

/-- Full/empty bits of a row changed without its data (R163, R164). -/
def storeFe (s : State) (ea : Dword) (fe : BitVec 32) : State := s.storeRow (rowOf ea) (s.me.core.row (rowOf ea)) fe 0

/-- The bytes of `v` that a predicate selects over those of `old` (R162). -/
def mergeBytes (p : Pred) (v old : Row) : Row :=
  ofLanes 8 ((List.zip (lanes 8 v) (lanes 8 old)).zipIdx.map fun x => if p.getLsbD x.2 then x.1.1 else x.1.2)

/-- The words of which a predicate covers a byte. -/
def wordsTouched (p : Pred) : BitVec 32 := BitVec.ofNat 32 (join 1 ((cut 8 32 p.toNat).map fun b => if b = 0 then 0 else 1))

/-- A scratch atomic on one dword: the new value from the old (R166). -/
def atomicWord (sp : BitVec 3) (i : Instr) (t base : BitVec 5) (off : BitVec 8) (f : State → Dword → Dword) (s : State) :
    Host.Outcome State Fault Refusal :=
  issueSlot sp i s fun s =>
    let ea := scratchEa s base off.toInt 8
    let old := rowWord (s.me.core.row (rowOf ea)) (wordOf ea)
    let new := f s old
    storeWord (s.dueX t old 3) ea new (feOf s ea)

/-- A scratch atomic on a whole row (R167). -/
def atomicRow (sp : BitVec 3) (i : Instr) (t base : BitVec 5) (off : BitVec 13) (f : Row → Row → Row) (s : State) :
    Host.Outcome State Fault Refusal :=
  issueSlot sp i s fun s =>
    let ea := scratchEa s base off.toInt 256
    let old := s.me.core.row (rowOf ea)
    let new := f old (s.rv t)
    storeWhole (s.due (.v t.toNat) old 0 3) ea new (feOf s ea)

/-- 64 lanes of 32 bits added modulo 2^32 (R167). -/
def addLanes32 (a b : Row) : Row := ofLanes 32 (List.zipWith (· + ·) (lanes 32 a) (lanes 32 b))

/-- Dword k of a spill store (R160). -/
def spillWord (c : Ctx) (k : Nat) : Dword := rowWord (sget 0 c.spill (k / 32)) (k % 32)

/-- LDX (R162). -/
def execLdx (sp : BitVec 3) (t base : BitVec 5) (off : BitVec 13) (s : State) : Host.Outcome State Fault Refusal :=
  issueSlot sp (.ldx sp t base off) s fun s =>
    let ea := scratchEa s base off.toInt 8
    loadWord s t ea

/-- STX (R162). -/
def execStx (sp : BitVec 3) (t base : BitVec 5) (off : BitVec 13) (s : State) : Host.Outcome State Fault Refusal :=
  issueSlot sp (.stx sp t base off) s fun s =>
    let ea := scratchEa s base off.toInt 8
    storeWord s ea (s.rx t) (feOf s ea)

/-- LDV (R162). -/
def execLdv (sp : BitVec 3) (t base : BitVec 5) (off : BitVec 13) (s : State) : Host.Outcome State Fault Refusal :=
  issueSlot sp (.ldv sp t base off) s fun s =>
    let ea := scratchEa s base off.toInt 256
    loadRow s t ea

/-- STV (R162). -/
def execStv (sp : BitVec 3) (t base : BitVec 5) (off : BitVec 13) (s : State) : Host.Outcome State Fault Refusal :=
  issueSlot sp (.stv sp t base off) s fun s =>
    let ea := scratchEa s base off.toInt 256
    storeWhole s ea (s.rv t) (feOf s ea)

/-- LDXF (R163). -/
def execLdxf (sp : BitVec 3) (t base : BitVec 5) (off : BitVec 13) (s : State) : Host.Outcome State Fault Refusal :=
  issueSlot sp (.ldxf sp t base off) s fun s =>
    let ea := scratchEa s base off.toInt 8
    storeFe (loadWord s t ea) ea (feOf s ea &&& ~~~((1 : BitVec 32) <<< wordOf ea))

/-- STXE (R163). -/
def execStxe (sp : BitVec 3) (t base : BitVec 5) (off : BitVec 13) (s : State) : Host.Outcome State Fault Refusal :=
  issueSlot sp (.stxe sp t base off) s fun s =>
    let ea := scratchEa s base off.toInt 8
    storeWord s ea (s.rx t) (feOf s ea ||| (1 <<< wordOf ea))

/-- LDVF (R163). -/
def execLdvf (sp : BitVec 3) (t base : BitVec 5) (off : BitVec 13) (s : State) : Host.Outcome State Fault Refusal :=
  issueSlot sp (.ldvf sp t base off) s fun s =>
    let ea := scratchEa s base off.toInt 256
    storeFe (loadRow s t ea) ea 0

/-- STVE (R163). -/
def execStve (sp : BitVec 3) (t base : BitVec 5) (off : BitVec 13) (s : State) : Host.Outcome State Fault Refusal :=
  issueSlot sp (.stve sp t base off) s fun s =>
    let ea := scratchEa s base off.toInt 256
    storeWhole s ea (s.rv t) (BitVec.allOnes 32)

/-- SETFE (R164). -/
def execSetfe (sp : BitVec 3) (t base : BitVec 5) (off : BitVec 13) (s : State) : Host.Outcome State Fault Refusal :=
  issueSlot sp (.setfe sp t base off) s fun s =>
    let ea := scratchEa s base off.toInt 256
    storeFe s ea ((s.rx t).truncate 32)

/-- GETFE (R164). -/
def execGetfe (sp : BitVec 3) (t base : BitVec 5) (off : BitVec 13) (s : State) : Host.Outcome State Fault Refusal :=
  issueSlot sp (.getfe sp t base off) s fun s =>
    let ea := scratchEa s base off.toInt 256
    s.dueX t ((feOf s ea).zeroExtend 64) 3

/-- STVP (R162): the bytes that the predicate selects. -/
def execStvp (sp : BitVec 3) (t base : BitVec 5) (p : BitVec 3) (off : BitVec 10) (s : State) : Host.Outcome State Fault Refusal :=
  issueSlot sp (.stvp sp t base p off) s fun s =>
    let ea := scratchEa s base off.toInt 256
    let pr := s.rp p.toNat
    s.storeRow (rowOf ea) (mergeBytes pr (s.rv t) (s.me.core.row (rowOf ea))) (feOf s ea) (wordsTouched pr)

/-- LDSP (R165). -/
def execLdsp (sp : BitVec 3) (t : BitVec 5) (k : BitVec 11) (s : State) : Host.Outcome State Fault Refusal :=
  issueSlot sp (.ldsp sp t k) s fun s => s.dueX t (spillWord s.ctx k.toNat) 1

/-- STSP (R165). -/
def execStsp (sp : BitVec 3) (t : BitVec 5) (k : BitVec 11) (s : State) : Host.Outcome State Fault Refusal :=
  issueSlot sp (.stsp sp t k) s fun s =>
    s.storeSpill (k.toNat / 32) (setRowWord (sget 0 s.ctx.spill (k.toNat / 32)) (k.toNat % 32) (s.rx t))

/-- LDSPV (R165). -/
def execLdspv (sp : BitVec 3) (t : BitVec 5) (k : BitVec 6) (s : State) : Host.Outcome State Fault Refusal :=
  issueSlot sp (.ldspv sp t k) s fun s => s.due (.v t.toNat) (sget 0 s.ctx.spill k.toNat) 0 1

/-- STSPV (R165). -/
def execStspv (sp : BitVec 3) (t : BitVec 5) (k : BitVec 6) (s : State) : Host.Outcome State Fault Refusal :=
  issueSlot sp (.stspv sp t k) s fun s => s.storeSpill k.toNat (s.rv t)

/-- AADD (R166). -/
def execAadd (sp : BitVec 3) (t base b : BitVec 5) (off : BitVec 8) (s : State) : Host.Outcome State Fault Refusal :=
  atomicWord sp (.aadd sp t base b off) t base off (fun s old => old + s.rx b) s

/-- AMIN (R166). -/
def execAmin (sp : BitVec 3) (t base b : BitVec 5) (off : BitVec 8) (s : State) : Host.Outcome State Fault Refusal :=
  atomicWord sp (.amin sp t base b off) t base off (fun s old => if old.toInt ≤ (s.rx b).toInt then old else s.rx b) s

/-- AMAX (R166). -/
def execAmax (sp : BitVec 3) (t base b : BitVec 5) (off : BitVec 8) (s : State) : Host.Outcome State Fault Refusal :=
  atomicWord sp (.amax sp t base b off) t base off (fun s old => if (s.rx b).toInt ≤ old.toInt then old else s.rx b) s

/-- AMINN (R166). -/
def execAminn (sp : BitVec 3) (t base b : BitVec 5) (off : BitVec 8) (s : State) : Host.Outcome State Fault Refusal :=
  atomicWord sp (.aminn sp t base b off) t base off (fun s old => if old.toNat ≤ (s.rx b).toNat then old else s.rx b) s

/-- AMAXN (R166). -/
def execAmaxn (sp : BitVec 3) (t base b : BitVec 5) (off : BitVec 8) (s : State) : Host.Outcome State Fault Refusal :=
  atomicWord sp (.amaxn sp t base b off) t base off (fun s old => if (s.rx b).toNat ≤ old.toNat then old else s.rx b) s

/-- AAND (R166). -/
def execAand (sp : BitVec 3) (t base b : BitVec 5) (off : BitVec 8) (s : State) : Host.Outcome State Fault Refusal :=
  atomicWord sp (.aand sp t base b off) t base off (fun s old => old &&& s.rx b) s

/-- AOR (R166). -/
def execAor (sp : BitVec 3) (t base b : BitVec 5) (off : BitVec 8) (s : State) : Host.Outcome State Fault Refusal :=
  atomicWord sp (.aor sp t base b off) t base off (fun s old => old ||| s.rx b) s

/-- AXOR (R166). -/
def execAxor (sp : BitVec 3) (t base b : BitVec 5) (off : BitVec 8) (s : State) : Host.Outcome State Fault Refusal :=
  atomicWord sp (.axor sp t base b off) t base off (fun s old => old ^^^ s.rx b) s

/-- ASWP (R166). -/
def execAswp (sp : BitVec 3) (t base b : BitVec 5) (off : BitVec 8) (s : State) : Host.Outcome State Fault Refusal :=
  atomicWord sp (.aswp sp t base b off) t base off (fun s _ => s.rx b) s

/-- ACAS (R166). -/
def execAcas (sp : BitVec 3) (t base b : BitVec 5) (off : BitVec 8) (s : State) : Host.Outcome State Fault Refusal :=
  atomicWord sp (.acas sp t base b off) t base off (fun s old => if old = s.rx t then s.rx b else old) s

/-- VAOR (R167). -/
def execVaor (sp : BitVec 3) (t base : BitVec 5) (off : BitVec 13) (s : State) : Host.Outcome State Fault Refusal :=
  atomicRow sp (.vaor sp t base off) t base off (fun a b => a ||| b) s

/-- VAADD (R167). -/
def execVaadd (sp : BitVec 3) (t base : BitVec 5) (off : BitVec 13) (s : State) : Host.Outcome State Fault Refusal :=
  atomicRow sp (.vaadd sp t base off) t base off addLanes32 s

end Sys2Proof.Machine
end

