-- ==== Sys2Proof/Machine/Matrix.lean ====
section
/-! DEFINITION. The MX slot: products, the weight buffer, accumulators, the format table and the monitors (R115 to R151). -/

namespace Sys2Proof.Machine

/-- The first row that an MX form names (R133). -/
def matrixRow (s : State) (a : BitVec 5) (off : BitVec 10) : Nat := (rowOf (s.rx a) + off.toNat) % 1024

/-- Queues an array operation of the acting context (R126, R144): everything it reads at issue is read here. What it produces falls due
among the exposed results of the context (R261, R262). -/
def State.queueArray (s : State) (i : Instr) (row entry phase : Nat) (data : Row) : State :=
  let (id, s) := s.fresh
  let k := s.me.core
  let o : ArrayOp :=
    { id := id, op := i, hw := s.cur.hw, cmdix := s.ctx.cmdix, issue := k.cycle, row := row, entry := entry, ft := k.ft, mbud := k.mbud
      data := data, nomStart := 0, nomEnd := 0, nomDue := 0, phase := phase, dm := 0, dc := 0, started := false, actStart := 0
      actEnd := 0, actDue := 0, curEntry := entry, curRow := row, curSlot := i.ws, used := [entry], snap := 0, before := 0, next := 0, res := 0, flags := 0
      ps := 0, pu := 0, pc := 0, ts := 0, tu := 0, tc := 0, esc := 0, exhausted := false, again := false, fault := none, stale := []
      reported := false, kept := false }
  let k := k.enqueue o phase
  let n := ((k.aq.getLast?).getD o).nomDue
  let p : Pending := ⟨n, k.cycle, s.cur.pm, .none, 0, 0, 2, sget 0 k.units 2 + (n - k.cycle) * (domainUnit * k.dC / k.dM), none⟩
  (s.updMyCore fun _ => k).updSelf fun c => { c with due := c.due ++ [p] }

/-- A product queued with the formats of its entry (R124, R134). -/
def State.queueProduct (s : State) (i : Instr) (a : BitVec 5) (off : BitVec 10) : State :=
  let e := i.ftIndex s.ctx
  let f := i.formats (ftEntry s.me.core.ft e)
  s.queueArray i (matrixRow s a off) e (i.kg * opCpg f.1 f.2) 0

/-- MMA (R134). -/
def execMma (sp : BitVec 3) (acc : BitVec 2) (a : BitVec 5) (aoff : BitVec 10) (ws : BitVec 3) (bk kgm1 fmtA fmtB : BitVec 4)
    (z : BitVec 1) (s : State) : Host.Outcome State Fault Refusal :=
  let i := Instr.mma sp acc a aoff ws bk kgm1 fmtA fmtB z
  issueCommand sp i s fun s => s.queueProduct i a aoff

/-- MMAT (R134): its formats come from the format table. -/
def execMmat (sp : BitVec 3) (acc : BitVec 2) (a : BitVec 5) (aoff : BitVec 10) (ws : BitVec 3) (bk kgm1 ftoff : BitVec 4) (lvl : BitVec 1)
    (z : BitVec 1) (s : State) : Host.Outcome State Fault Refusal :=
  let i := Instr.mmat sp acc a aoff ws bk kgm1 ftoff lvl z
  issueCommand sp i s fun s => s.queueProduct i a aoff

/-- MMAE (R144): a monitored product that may escalate. -/
def execMmae (sp : BitVec 3) (acc : BitVec 2) (a : BitVec 5) (aoff : BitVec 10) (ws : BitVec 3) (bk kgm1 ftoff : BitVec 4) (lvl : BitVec 1)
    (z : BitVec 1) (s : State) : Host.Outcome State Fault Refusal :=
  let i := Instr.mmae sp acc a aoff ws bk kgm1 ftoff lvl z
  issueCommand sp i s fun s => s.queueProduct i a aoff

/-- ACCZ (R137). -/
def execAccz (sp : BitVec 3) (mask : BitVec 4) (s : State) : Host.Outcome State Fault Refusal :=
  issueCommand sp (.accz sp mask) s fun s => s.queueArray (.accz sp mask) 0 0 1 0

/-- ACCWR (R137): v[a] is read at issue. -/
def execAccwr (sp : BitVec 3) (acc : BitVec 2) (a : BitVec 5) (q : BitVec 4) (s : State) : Host.Outcome State Fault Refusal :=
  issueCommand sp (.accwr sp acc a q) s fun s => s.queueArray (.accwr sp acc a q) 0 0 1 (s.rv a)

/-- ACCBIAS (R137): v[a] is read at issue. -/
def execAccbias (sp : BitVec 3) (acc : BitVec 2) (a : BitVec 5) (s : State) : Host.Outcome State Fault Refusal :=
  issueCommand sp (.accbias sp acc a) s fun s => s.queueArray (.accbias sp acc a) 0 0 1 (s.rv a)

/-- An accumulator pair as a register (R117). -/
def accPair (a : Acc) (q : Nat) : Row := BitVec.ofNat 2048 (a.toNat / 2 ^ (2048 * q))

/-- The number that tells free values of accumulators apart. -/
def siteAcc (a : Nat) : Nat := 900100 + a

/-- ACCRD (R127, R137): an unpredictable accumulator gives an unspecified value. -/
def execAccrd (sp : BitVec 3) (acc : BitVec 2) (d : BitVec 5) (q : BitVec 4) (s : State) : Host.Outcome State Fault Refusal :=
  issueCommand sp (.accrd sp acc d q) s fun s =>
    let k := s.me.core
    let v := if k.accEarly acc.toNat then s.freeVal 2048 (siteAcc acc.toNat) else accPair (k.acc acc.toNat) q.toNat
    s.due (.v d.toNat) v 2 3

/-- The LFSR after a count of roundings (R74). -/
def lfsrAfter : Nat → BitVec 32 → BitVec 32
  | 0, l => l
  | n + 1, l => lfsrAfter n (lfsrStep l)

/-- A WBLD, WBCLR or ACCST handed to its path (R129, R328): counted in OMX and its tag at issue, started once its region commits. An ACCST under RSR
takes the LFSR of its issue for the 1,024 roundings of its rows, which the context's LFSR passes at once (R74, R79). -/
def State.queueMatrix (s : State) (i : Instr) (row rm : Nat) (slab : Dword) : State :=
  let (id, s) := s.fresh
  let after := if acquires i || releases i then s.openAccesses else []
  let m : MatCmd := ⟨id, i, s.cur.hw, s.ctx.cmdix, row, slab, rm, s.ctx.lfsr, after, true, false, 0, 0, 0, none, 0⟩
  let s := s.updMyCore fun k => { k.tagIssue (tagOf i) with mcmds := k.mcmds ++ [m] }
  (s.updSelf fun c => { c with omx := c.omx + 1, lfsr := if rm = 4 then lfsrAfter 1024 c.lfsr else c.lfsr }).defer (.matrix id)

/-- WBLD (R135). -/
def execWbld (sp ws : BitVec 3) (a : BitVec 5) (roff : BitVec 10) (srow nrm1 : BitVec 5) (kind : BitVec 2) (fmt xfmt : BitVec 4)
    (tag : BitVec 7) (tg aq : BitVec 1) (scope : BitVec 2) (s : State) : Host.Outcome State Fault Refusal :=
  let i := Instr.wbld sp ws a roff srow nrm1 kind fmt xfmt tag tg aq scope
  issueCommand sp i s fun s => s.queueMatrix i (matrixRow s a roff) 0 0

/-- WBCLR (R136). -/
def execWbclr (sp : BitVec 3) (mask : BitVec 8) (tag : BitVec 7) (tg : BitVec 1) (s : State) : Host.Outcome State Fault Refusal :=
  issueCommand sp (.wbclr sp mask tag tg) s fun s => s.queueMatrix (.wbclr sp mask tag tg) 0 0 0

/-- ACCST (R138): rm = 7 takes FCR.RM at issue, and x[s] is read at issue. -/
def execAccst (sp : BitVec 3) (acc : BitVec 2) (a : BitVec 5) (roff : BitVec 10) (ofmt : BitVec 4) (rm : BitVec 3) (tag : BitVec 7)
    (tg tw : BitVec 1) (sx : BitVec 5) (rel : BitVec 1) (scope : BitVec 2) (s : State) : Host.Outcome State Fault Refusal :=
  let i := Instr.accst sp acc a roff ofmt rm tag tg tw sx rel scope
  issueCommand sp i s fun s =>
    s.queueMatrix i (matrixRow s a roff) (if rm = 7 then fcrRm s.ctx.fcr else rm.toNat) (if tw = 1 then s.rx sx else 0)

/-- A format-table entry as FTSET stores it (R123): reserved bits zero. -/
def ftStored (v : Dword) : Dword := v &&& 0x7FFFF1FFF

/-- FTSET (R139). -/
def execFtset (sp : BitVec 3) (e : BitVec 4) (a : BitVec 5) (s : State) : Host.Outcome State Fault Refusal :=
  issueCommand sp (.ftset sp e a) s fun s =>
    let v := ftStored (s.rx a)
    s.updRest fun k => { k with ft := sput e.toNat v k.ft }

/-- FTGET (R139). -/
def execFtget (sp : BitVec 3) (e : BitVec 4) (d : BitVec 5) (s : State) : Host.Outcome State Fault Refusal :=
  issueCommand sp (.ftget sp e d) s fun s => s.dueX d (sget 0 s.me.core.ft e.toNat) 1

/-- The value of a monitor (R150). -/
def Core.monitor (k : Core) (sel : Nat) : Dword :=
  match sel with
  | 0 => k.satc
  | 1 => k.unfc
  | 2 => k.canc
  | 3 => k.esccnt
  | _ => k.mbud

/-- MONRD (R151). -/
def execMonrd (sp : BitVec 3) (d : BitVec 5) (which : BitVec 3) (s : State) : Host.Outcome State Fault Refusal :=
  issueCommand sp (.monrd sp d which) s fun s => s.dueX d (s.me.core.monitor which.toNat) 1

/-- MONCLR (R151): what an MMAE applies in the same cycle is added to the cleared counters. -/
def execMonclr (sp mask : BitVec 3) (s : State) : Host.Outcome State Fault Refusal :=
  issueCommand sp (.monclr sp mask) s fun s =>
    s.updMyCore fun k =>
      { k with
        satc := if mask.getLsbD 0 then BitVec.ofNat 64 k.satNow else k.satc
        unfc := if mask.getLsbD 1 then BitVec.ofNat 64 k.unfNow else k.unfc
        canc := if mask.getLsbD 2 then BitVec.ofNat 64 k.canNow else k.canc }

/-- MBSET (R151): bits [63:53] are written as zero. -/
def execMbset (sp : BitVec 3) (a : BitVec 5) (s : State) : Host.Outcome State Fault Refusal :=
  issueCommand sp (.mbset sp a) s fun s =>
    let v := s.rx a &&& 0x1FFFFFFFFFFFFF
    s.updRest fun k => { k with mbud := v }

end Sys2Proof.Machine
end

