-- ==== Sys2Proof/Machine/RecoveryEvents.lean ====
section
/-! DEFINITION. Recovery within a tile, traps taken at a boundary, and pre-emption (R322 to R343, R366 to R383). -/

namespace Sys2Proof.Machine

/-! ### Checkpoints and replay -/

/-- CHECKPOINT_COMMIT (R327): the region of a running tile ends. -/
def execCheckpointCommit (t : Nat) (s : State) : Host.Outcome State Fault Refusal :=
  .next (if (s.tile t).live then s.endRegion t else s)

/-- Flags within replay windows (R324): each falls at the end of an even control cycle of a window, on a reissued cycle that holds a
bundle; what remains then begins a new window. -/
def flagsOk : List Nat → List (List Nat) → Bool
  | [], _ => true
  | e :: es, cycles => e % 2 == 0 && 0 < e && !(cycles.getD (e / 2 - 1) []).isEmpty && flagsOk es (cycles.drop (e / 2 - 1))

/-- TIMING_REPLAY (R322 to R325): a flag on the bundles that issued `back` issue cycles before the last one, seen as they reach CM, and
flags that restart the window. Only wall time, RPLCNT and Chinook's count change; until then no engine has seen a store of the bundles that reissue, and at
the end of the freeze all have passed CM (R323; `Tile.engineView`). -/
def execTimingReplay (t back : Nat) (restarts : List Nat) (s : State) : Host.Outcome State Fault Refusal :=
  let x := s.tile (s.leader t)
  .next <|
    if x.live ∧ back = 3 ∧ x.replayBuf.length = 4 ∧ (x.replayBuf.getD 0 []) ≠ [] ∧ flagsOk restarts x.replayBuf then
      ((s.freezePair t (restarts.sum + 8)).updTile (s.leader t) fun x => { x with fresh := [] }).updTile t fun x =>
        { x with chinook := { x.chinook with replays := x.chinook.replays + 1 + restarts.length } }
    else s

/-- KGROUP_REPLAY (R326): a flag on a k-group of the running array phase, and flags during its repeats, each after some matrix cycles. -/
def execKgroupReplay (t : Nat) (restarts : List Nat) (s : State) : Host.Outcome State Fault Refusal :=
  let k := (s.tile (s.leader t)).core
  .next <|
    match k.aq.find? fun o => o.started && k.arrClk < o.actEnd && o.op.isProduct with
    | none => s
    | some o =>
      let f := o.op.formats (ftEntry o.ft o.curEntry)
      let cpg := opCpg f.1 f.2
      if restarts.all fun r => 0 < r && r ≤ 2 * cpg then
        s.freezePair t (ceilDiv ((restarts.sum + 2 * cpg) * k.dM) k.dC)
      else s

/-- The cluster of a tile as a source of predictive failures (R342, R343). -/
def clusterSource (t : Nat) : Nat := 25 * dieOf t + 5 * (tileRow t % 25 / 5) + tileCol t % 25 / 5

/-- A rollback counts for the cluster of each tile that rolls back: in a pair both do (R338, R342). -/
def State.countRollback (s : State) (t : Nat) : State :=
  (t :: (s.follower t).toList).foldl (fun s t => s.predict 2 (clusterSource t) (s.policy 2).fill) s

/-- DATA_ERROR_ROLLBACK (R332, R338, R341, R342): a detected data error, by kind. 0 restores the snapshot and reruns the region twice, in both tiles of a
pair; 1 does so and the reruns will differ, and so counts one during a rerun; 2 is a scratch or weight-buffer error that its code has corrected; 3 stands in
the snapshot and the live copy both, so that the tile is retired. -/
def execDataErrorRollback (t kind : Nat) (s : State) : Host.Outcome State Fault Refusal :=
  let l := s.leader t
  let x := s.tile l
  .next <|
    if (s.tile t).retired then s
    else if kind = 2 then s.predict 2 (clusterSource t) 1
    else if kind = 3 then s.retireTile t 0x22
    else if !x.live ∨ x.retired then s
    else if x.region.run ≠ 0 then s.updTile l fun x => { x with region := { x.region with disagree := true } }
    else (s.countRollback l).startRollback l (kind == 1)

/-! ### Traps at a boundary (R366, R367) -/

/-- The pending error that a context takes now, with its EPC: the first that its own class allows. -/
def State.dueErr (s : State) (t h : Nat) : Option (Err × Dword) :=
  let c := s.ctxAt t h
  if c.owner = .idle ∨ c.stopped ∨ c.handler.isSome ∨ c.errs.isEmpty then none
  else
    let (pc, boundary) := s.nextPoint t c
    (c.errs.find? fun e => boundary || e.cls == 1).map fun e => (e, pc)

/-- The first pending error that may be taken at the next point of a context, taken. -/
def State.takeDueErr (s : State) (t h : Nat) : State :=
  match s.dueErr t h with
  | none => s
  | some (e, pc) =>
    let c := s.ctxAt t h
    let s := s.updCtx t h fun c => { c with errs := c.errs.erase e }
    s.takeTrap t h ⟨e.cls, trapDisp c e.code false, e.aux, e.code, if e.cls = 2 then e.cmdix else c.cmdix, e.w2, e.w3⟩ pc

/-- TRAP_ENTRY (R366 to R371). -/
def execTrapEntry (t h : Nat) (s : State) : Host.Outcome State Fault Refusal := .next (s.takeDueErr t h)

/-- Errors still pending in a context that goes no further (R373): recorded without entry. -/
def State.recordErrs (s : State) (t h : Nat) : State :=
  let es := (s.ctxAt t h).errs
  (es.foldl (fun s e => s.recordErr t h e) s).updCtx t h fun c => { c with errs := [] }

/-- What the firmware does at the end of a handler (R368, R372, R373): it resumes the context, or ends its unit or graph instance. -/
def State.applyDisposition (s : State) (t h disp : Nat) : State :=
  let c := s.ctxAt t h
  let s := s.clearTraps t h false
  if disp = 0 then (s.updCtx t h Ctx.eret).mustCommit t
  else
    let s := (s.updCtx t h fun c => { c with status := c.status &&& ~~~8 }).stopCtx t h
    match c.owner with
    | .unit u =>
      match s.unitOf c with
      | none => s
      | some w =>
        let s := s.updUnit c.job u fun w => { w with fatal := true }
        let s := w.ctxs.foldl (fun s k => s.recordErrs w.tile k) s
        (w.ctxs.filter (· != h)).foldl (fun s k => s.askStop w.tile k) s
    | .graph n =>
      match s.instance_ c.job n with
      | none => s
      | some i => ((s.recordErrs t h).cancelInst c.job i).poke
    | .firmware => s.recordErrs t h
    | .idle => s

/-! ### Pre-emption and restore (R378 to R383) -/

/-- Everything that the dirty bits of a tile name (R382). -/
def allDirty : List Dirty :=
  (List.range 1024).map .row ++ hwNumbers.flatMap (fun h => (List.range 64).map (.spill h)) ++ (List.range 8).map .wslot ++
    (List.range 4).map .acc ++ hwNumbers.flatMap (fun h => [.xbank h, .vbank h, .pbank h, .ctx h]) ++ [.rest]

/-- The tiles of a partition that hold any state. -/
def State.partTiles (s : State) (part : BitVec 64) : List Nat :=
  (s.tiles.filter fun p => inPart part (dieOf p.1) && !p.2.retired).map (·.1)

/-- The place of a context in the order in which the contexts of a die stop and are saved (R378): graph contexts, then ascending LAUNCHID, then GRPIDX. -/
def Ctx.saveKey (c : Ctx) : Nat :=
  match c.owner with
  | .unit _ => 1 + c.launchid.toNat * 2 ^ 24 + c.grpidx.toNat
  | .graph _ | .firmware | .idle => 0

/-- The contexts of some tiles that a save covers, in its order: key, tile and context. -/
def State.saveList (s : State) (ts : List Nat) : List (Nat × Nat × Nat) :=
  let mine := ts.flatMap fun t => ((s.tile t).core.ctxs.filter fun p => p.2.owner != .idle && p.2.owner != .firmware).map fun p => (p.2.saveKey, t, p.1)
  mine.foldl (fun l p => (l.filter fun q => q.1 ≤ p.1) ++ p :: l.filter fun q => p.1 < q.1) []

/-- The first live contexts of a die in that order are asked to stop at their next engine-command boundary (R378, R379). -/
def State.askPreempt (s : State) (ts : List Nat) : State :=
  let live := (s.saveList ts).filter fun p => (s.ctxAt p.2.1 p.2.2).live
  match live with
  | [] => s
  | first :: _ => (live.filter fun p => p.1 == first.1).foldl (fun s p => s.updCtx p.2.1 p.2.2 fun c =>
      if c.stop = .run then { c with stop := .preempt, stopAge := 0 } else c) s

/-- Every context of a tile has stopped, no handler runs, and no rollback does (R379, steps 1 and 2). -/
def Tile.stopped (x : Tile) : Bool := x.region.run == 0 && x.core.settled

/-- The region of a tile that has stopped commits, so that its deferred commands start (R379, step 3). -/
def State.commitStopped (s : State) (t : Nat) : State :=
  if (s.tile t).stopped && !(s.tile t).region.deferred.isEmpty then s.commitRegion t else s

/-- The bytes of the image of a tile that a dirty bit covers (R382, R383; how the rest divides is log 63). -/
def Dirty.bytes : Dirty → Nat
  | .row _ => 256
  | .spill _ _ => 256
  | .wslot _ => 8192
  | .acc _ => 4096
  | .xbank _ => 256
  | .vbank _ => 8192
  | .pbank _ => 512
  | .ctx _ => 512
  | .rest => 11264

/-- The bytes of a tile's image (R383). -/
def imageBytes : Nat := 458752

/-- The dirty bytes of a tile (R383). -/
def Tile.dirtyBytes (x : Tile) : Nat := imageBytes - (x.clean.map Dirty.bytes).sum

/-- The time in ticks of a swap of some bytes over the `n` memory sites beside a die, at 4 TB/s each (R383). -/
def swapTicks (n bytes : Nat) : Nat := 3200 + ceilDiv bytes (2500 * n)

/-- The dirty bytes of a die of a partition; tiles in which nothing has happened are clean once the partition has been saved, and a retired one is not saved
(R380, R382, R383). -/
def State.dirtyBytes (s : State) (job d : Nat) : Nat :=
  let saved := (sfind s.ctl.swaps (2 * job)).isSome
  ((dieTiles d).map fun t => match sfind s.tiles t with
    | some x => if x.retired then 0 else x.dirtyBytes
    | none => if saved then 0 else imageBytes).sum

/-- The time of a swap-out of a partition, that of its slowest die (R383). -/
def State.swapOut (s : State) (j : Job) : Nat :=
  (((List.range 64).filter (inPart j.part)).map fun d => swapTicks (neighbours d).length (s.dirtyBytes j.num d)).foldl max 0

/-- The time of a swap-in of a partition (R383). -/
def swapIn (part : BitVec 64) : Nat :=
  (((List.range 64).filter (inPart part)).map fun d => swapTicks (neighbours d).length (625 * imageBytes)).foldl max 0

/-- The swap-out of a job is over. -/
def State.swappedOut (s : State) (job : Nat) : Bool := s.ctl.shadows.any (fun w => w.job == job) && sget 0 s.ctl.swaps (2 * job) ≤ s.now

/-- A request that a pre-emption cannot wait for: one held behind an access whose error has not been taken as a trap, or behind such a one. It stays over
the swap, as that error does (R172, R379, step 7). -/
def State.reqHeld (s : State) (r : Req) : Bool :=
  r.state == .waiting && ((r.kind.isAccess && s.queueFailed r) || !r.after.all s.settled)

/-- A tile has finished what R379 waits for. -/
def State.quiet (s : State) (t : Nat) : Bool :=
  let x := s.tile t
  let k := x.core
  x.stopped && x.region.deferred.isEmpty && !x.region.commitDue &&
  k.ctxs.all (fun p => p.2.stop != .doneUnit && p.2.nexts.all fun n => n.reply.isSome) && k.aq.isEmpty &&
  k.copies.all (fun m => m.state == .queued || m.state == .timed) && k.mcmds.all (fun m => !m.begun && !m.deferred) &&
  k.semIn.isEmpty && k.barIn.isEmpty && !(s.fab.reqs.any fun r => r.tile == t && !s.reqHeld r)

/-- The image of a context: every exposed result written in the order of its due cycle (R379, step 5), and the replies of NEXT in their
registers. -/
def Ctx.image (c : Ctx) : Ctx :=
  let c := { (sortPending c.due).foldl Ctx.applyWrite c with due := [] }
  let c := c.nexts.foldl (fun c n => c.rotate (n.reply.getD 0)) (c.nqw.foldl Ctx.writeNq c)
  { c with nexts := [], nqw := [], held := false }

/-- The place of the polls of a pre-emption in time: nothing of the manual depends on it (log 5). -/
def pollTicks : Nat := 16

/-- PRE_EMPTION (R378, R379, R383): the contexts of a partition stop in their order; once all has finished that must, its tiles are saved, which takes the
time of the swap. -/
def execPreEmption (job : Nat) (s : State) : Host.Outcome State Fault Refusal :=
  .next <|
    match s.job job with
    | none => s
    | some j =>
      if s.ctl.shadows.any fun w => w.job == job then s
      else
        let ts := s.partTiles j.part
        let s := s.updJob job fun j => { j with frozen := true }
        let s := ((List.range 64).filter (inPart j.part)).foldl (fun s d => s.askPreempt (ts.filter fun t => dieOf t == d)) s
        let s := ts.foldl State.commitStopped s
        let arriving (e : Event) : Bool := match e with
          | .treeArrivalAtRoot k _ _ => k == job
          | _ => false
        let flying := (j.units.any fun u => !u.asked.isEmpty || !u.onWay.isEmpty) || s.agenda.any fun p => arriving p.2
        if !ts.all s.quiet || flying then s.once pollTicks (.preEmption job)
        else
          let save (c : Core) : Core := { c with ctxs := c.ctxs.map fun p => (p.1, p.2.image) }
          let images := ts.map fun t => (t, save (s.tile t).core)
          let order := ((List.range 64).filter (inPart j.part)).flatMap fun d => (s.saveList (ts.filter fun t => dieOf t == d)).map (·.2)
          let ends := s.now + s.swapOut j
          let s := ts.foldl (fun s t => s.updTile t fun x =>
            let k := save x.core
            { x with core := k, live := false, clean := allDirty, region := { Region.reset with start := k } }) s
          { s with ctl := { s.ctl with shadows := s.ctl.shadows ++ [⟨job, images, order⟩], swaps := sput (2 * job) ends s.ctl.swaps } }

/-- The compute dies and the input allow a restore (R402). -/
def State.mayRestore (s : State) : Bool :=
  s.power.computeRails && s.power.memoryRail && 4300 ≤ s.power.involt && s.dies.all fun d => d.2.temps.all (· ≤ 85)

/-- The contexts of a job whose unit or graph instance is cancelled. -/
def Job.cancelledCtx (j : Job) (c : Ctx) : Bool :=
  match c.owner with
  | .unit u => j.units.any fun w => w.uid == u && (w.cancelled || w.fatal)
  | .graph n => j.insts.any fun i => i.num == n && i.state == 1 && i.cancelled
  | .idle => false
  | .firmware => false

/-- One tile of a partition takes its image back (R380): the counters of R40 but ESCCNT go on, every context resumes with ERET, and one
cancelled meanwhile stops at its next boundary; what it had not started goes (R248). The contexts of the firmware are not part of it, and every dirty bit is clear (R382). What its units
hold of the tile is theirs again. -/
def State.restoreImage (s : State) (j : Job) (t : Nat) (image : Core) : State :=
  if (s.tile t).retired then s
  else
    let s := s.wake t
    let k := (s.tile t).core
    let prot := j.units.filter fun u => s.protected_ j.num u && u.tile + 1 == t
    let here := (j.units.filter fun u => u.tile == t) ++ prot
    let follows (c : Ctx) : Bool := prot.any fun u => c.owner == .unit u.uid
    let back (p : Nat × Ctx) : Nat × Ctx :=
      let c := p.2
      if c.owner = .idle ∨ c.owner = .firmware then p
      else
        let c := { c with stop := if j.cancelledCtx c then .cancel else if c.stop = .preempt then .run else c.stop, stopAge := 0, stopped := follows c || (c.stopped && c.stop == .cancel) }
        (p.1, if c.halted ∨ c.stopped then c else { c with arrived := true, pause := 3 })
    let own := image.ctxs.filter fun p => p.2.owner != .firmware
    let core := { image with
      ctxs := (k.ctxs.filter fun p => p.2.owner == .firmware).foldl (fun m p => sput p.1 p.2 m) (own.map back)
      isscnt := k.isscnt, bcnt := k.bcnt, ccnt := k.ccnt, satc := k.satc, unfc := k.unfc, canc := k.canc, arrClk := k.arrClk, inAt := 0, landAt := 0 }
    s.updTile t fun x =>
      let x : Tile := { x with
        core := core
        region := { Region.reset with start := core }
        clean := allDirty
        grans := here.foldl (fun m u => takeRun m u.uid u.gran u.ngran) []
        barsUsed := here.foldl (fun m u => takeRun m u.uid u.bar u.nbar) []
        pair := prot.head?.map (·.tile) }
      let x := (own.filter fun p => j.cancelledCtx p.2).foldl (fun x p => x.discard p.1) x
      x.repair (s.bandOf t) s.now

/-- A job that lost its tile state with the compute rails (R399, R402): its live records end cancelled with code 6, and it is cleared. -/
def State.loseJob (s : State) (j : Job) : State :=
  let s := j.insts.foldl (fun s i => s.setJournal i.seq 5 (BitVec.ofNat 64 (i.num * 65536 + 6))) s
  let mine := s.ctl.records.filter fun p => specField p.2 0 16 16 == j.num && specField p.2 0 0 8 != 1
  let s := mine.foldl (fun s p => s.setJournal p.1 5 6) s
  let ending (k : Job) : Job := if k.num = j.num ∧ ¬ k.clearing then { k with clearing := true, cancelled := true, closed := true } else k
  { s with jobs := s.jobs.map ending }.after 0 (.jobClearing j.num)

/-- RESTORE (R380, R383, R399, R402): the images of a partition are written back once its dies are cool and the input holds, in the time of a swap-in; a
job that was not saved is cancelled then. -/
def execRestore (job : Nat) (s : State) : Host.Outcome State Fault Refusal :=
  .next <|
    match s.job job, s.ctl.shadows.find? (fun w => w.job == job) with
    | some j, none =>
      if !s.power.lost.contains job then s
      else if !s.mayRestore then s.once 16000 (.restore job)
      else s.loseJob j
    | some j, some w =>
      let ends := sget 0 s.ctl.swaps (2 * job + 1)
      if !s.swappedOut job then s.once (sget 0 s.ctl.swaps (2 * job) - s.now) (.restore job)
      else if !s.mayRestore then s.once 16000 (.restore job)
      else if ends = 0 then
        let s := { s with ctl := { s.ctl with swaps := sput (2 * job + 1) (s.now + swapIn j.part) s.ctl.swaps } }
        s.once (swapIn j.part) (.restore job)
      else if s.now < ends then s.once (ends - s.now) (.restore job)
      else
        let s := { s with ctl := { s.ctl with swaps := sdel (2 * job + 1) s.ctl.swaps } }
        let s := { s with ctl := { s.ctl with shadows := s.ctl.shadows.filter fun w => w.job != job } }
        let s := s.updJob job fun j => { j with frozen := false }
        ((w.tiles.foldl (fun s p => s.restoreImage j p.1 p.2) s).startPacing job).poke
    | none, _ => s

/-! ### Predictive failures -/

/-- A counter after one leak (R342, R343). -/
def Bucket.leaked (b : Bucket) (p : Policy) : Bucket :=
  let level := b.level - p.leak
  ⟨level, b.spent && p.mark ≤ 2 * level⟩

/-- The node on whose PTC a counter leaks (R342): the memory site of a bank, the lower-numbered end of a link, the border site of a scale-out port, the
compute die of a cluster (log 15). -/
def bucketNode (key : Nat) : Nat :=
  let source := key % 2 ^ 24
  match key / 2 ^ 24 with
  | 0 => 64 + source / 4096
  | 1 =>
    let link := source / 256
    if link < 4096 then min (edgeEnds (link / 16)).1 (edgeEnds (link / 16)).2 else 64 + portSite (link - 4096)
  | _ => source / 25

/-- The ticks of a leak period (R342). -/
def leakPeriod : Nat := 1600000

/-- PREDICTIVE_LEAK (R342): each time the PTC of a node passes a multiple of 1,600,000 its counters lose LEAK. An event that comes before the counter has
reached it, or long after, waits for the next. -/
def execPredictiveLeak (s : State) (node : Nat := 0) : Host.Outcome State Fault Refusal :=
  .next <|
    let past := s.ptc node % leakPeriod
    let leak (p : Nat × Bucket) : Nat × Bucket := if bucketNode p.1 = node then (p.1, p.2.leaked (s.policy (p.1 / 2 ^ 24))) else p
    let s := if past < leakPeriod / 2 then { s with ctl := { s.ctl with buckets := s.ctl.buckets.map leak } } else s
    s.once (leakPeriod - past) (.predictiveLeak node)

end Sys2Proof.Machine
end

