-- ==== Sys2Proof/Machine/PowerEvents.lean ====
section
/-! DEFINITION. Chinook, throttles, temperature and supply (R385 to R402). -/

namespace Sys2Proof.Machine

/-! ### Chinook (R387, R388, R390) -/

/-- RTGT of PCAP (R394). -/
def rtgt (pcap : Dword) : Nat := bitsOf pcap.toNat 16 12

/-- The bundles of a whole window (R387). -/
def windowBundles : Nat := 2 ^ 26

/-- A running window is over (R387): its replays exceed the target, or it is whole, or a second has passed. -/
def State.windowOver (s : State) (c : Chinook) : Bool :=
  rtgt s.ctl.pcap * c.bundles < c.replays * 10 ^ 9 || windowBundles ≤ c.bundles || c.began + 1600000000 ≤ s.now

/-- A tile's next flash write is due (R388): an hour of powered time has passed since its last one, which its history keeps. -/
def Chinook.flashDue (c : Chinook) (now : Nat) : Bool :=
  match c.lastFlash with
  | none => true
  | some l => l + hour ≤ now

/-- The learned points of a tile after a window (R387): the lowest voltage at which a whole window met the target. Where a window at that very voltage
fails, the tile may have aged past it (`aged`), and its point rises a step (R390, log 16). -/
def Chinook.relearn (c : Chinook) (met aged : Bool) : Sparse Nat :=
  let key := pairKey c.div c.band
  match sfind c.learned key with
  | none => if met then sput key c.below c.learned else c.learned
  | some l => if met && l < c.below then sput key c.below c.learned else if aged && c.below == l then sput key (l - 1) c.learned else c.learned

/-- The place that asks whether a tile whose window failed at its learned point has aged past it. -/
def siteAged : Nat := 6600000

/-- CHINOOK_WINDOW_END (R387, R390): the voltage steps up, down or stays. A tile whose learned point rises to Vf with this window is retired. -/
def execChinookWindowEnd (t : Nat) (s : State) : Host.Outcome State Fault Refusal :=
  .next <|
    let x := s.tile t
    let c := x.chinook
    let target := rtgt s.ctl.pcap * c.bundles
    let r := c.replays * 10 ^ 9
    if x.retired ∨ ¬ s.windowOver c then s
    else
      let whole := windowBundles ≤ c.bundles
      let atPoint : Bool := target < r && 0 < c.below && sfind c.learned (pairKey c.div c.band) == some c.below
      let aged := atPoint && s.freeVal 1 (siteAged + t) == 1
      let learned := c.relearn (whole && r ≤ target) aged
      let below := if target < r then c.below - 1 else if whole ∧ 2 * r < target then min 64 (c.below + 1) else c.below
      let c := { c with learned := learned, below := below, bundles := 0, replays := 0, began := s.now }
      let s := s.updTile t fun x => { x with chinook := c }
      let s := if c.flashDue (s.ctl.powered + s.now) then s.once 0 (.chinookFlashWrite t) else s
      if aged && c.below == 0 then s.retireTile t 0 else s

/-- A tile's learned table put into the flash, with the time (R388). -/
def State.writeLearned (s : State) (t : Nat) : State :=
  let c := (s.tile t).chinook
  let time := s.ctl.powered + s.now
  let h := c.history ++ c.learned.map fun p => (time, p.1, p.2)
  let s := s.updTile t fun x => { x with chinook := { x.chinook with history := h, lastFlash := some time } }
  { s with ctl := { s.ctl with learned := sput t c.learned s.ctl.learned, history := sput t h s.ctl.history } }

/-- CHINOOK_FLASH_WRITE (R388): at most once in an hour. -/
def execChinookFlashWrite (t : Nat) (s : State) : Host.Outcome State Fault Refusal :=
  .next (if (s.tile t).chinook.flashDue (s.ctl.powered + s.now) then s.writeLearned t else s)

/-! ### Throttles (R391 to R396) -/

/-- Every power region changed. -/
def State.allRegions (s : State) (f : PowerRegion → PowerRegion) : State := (List.range 16).foldl (fun s r => s.updRegion r f) s

/-- CSLR as it takes effect: reserved bits zero, a field of 0 stored as 1 (R393). -/
def cslrStored (v : Dword) : Dword :=
  fieldOrOne (fieldOrOne (v &&& 0x8FFF0FFF) 0x0FFF0000 0x00010000) 0xFFF 1

/-- CSLR at a step boundary: what has been written since the last takes effect (R393). -/
def PowerRegion.takeCslr (p : PowerRegion) : PowerRegion :=
  match p.cslrNext with
  | some v => { p with cslr := cslrStored v, cslrNext := none }
  | none => p

/-- A boundary of step 0, before any array operation: CSLR and N follow what has changed (R391, R393, R414). -/
def PowerRegion.idleStep (p : PowerRegion) : PowerRegion :=
  let p := p.takeCslr
  { p with n := p.level }

/-- Ballast is cut for the cap (R395). -/
def Power.ballastCut (p : Power) : Bool := p.flags.getLsbD 3

/-- The current-step limit of a step (R393): the region's estimate `ik` and its current with no pulses `i0`, in amperes. -/
def PowerRegion.step (p : PowerRegion) (cut : Bool) (ik i0 : Nat) : PowerRegion :=
  let p := p.takeCslr
  let up := bitsOf p.cslr.toNat 0 12
  let down := bitsOf p.cslr.toNat 16 12
  let last := p.allowed.getD i0
  let ballast := p.cslr.getLsbD 31 && !cut && ik + down < last
  let a := if ballast then last - down else min ik (last + up)
  let limit := if ik ≤ i0 then 64 else max 1 (min 64 (64 * (a - i0) / (ik - i0)))
  let p := { p with allowed := some a, ballast := ballast, stepLimit := limit }
  { p with n := p.level }

/-- A power step of a region begins now: the PTC of its first die is a multiple of 320, or has just passed one in an alignment step (R213, R414). -/
def State.stepBegins (s : State) (r : Nat) : Bool :=
  let n := s.node (regionDie r)
  let ptc := s.ptc (regionDie r)
  ptc % 320 == 0 || (ptc % 320 == 1 && n.step == 1 && n.lastStep + 1 == s.now)

/-- The number of the step of a region that runs at a PTC value (R414): step 1 begins at the first boundary after the region's first array operation, and
every step before it is step 0. -/
def PowerRegion.stepNumber (p : PowerRegion) (ptc : Nat) : Nat :=
  match p.firstOp with
  | some f => ptc / 320 - f / 320
  | none => 0

/-- The first array operation of a power region noted, on the PTC of its first die (R414); steps with estimates follow it. -/
def State.noteArray (s : State) (t : Nat) : State :=
  let r := regionOf t
  if (s.tile t).core.aq.isEmpty || (s.regionAt t).firstOp.isSome then s
  else (s.updRegion r fun p => { p with firstOp := some (s.ptc (regionDie r)) }).awaitStep r

/-- THROTTLE_STEP (R391, R393, R414): the next step of 200 ns of a region, at its boundary and once there. In step 0 the limits alone count. -/
def execThrottleStep (region ik i0 : Nat) (s : State) : Host.Outcome State Fault Refusal :=
  .next <|
    let at_ := s.ptc (regionDie region) / 320 * 320
    if 16 ≤ region then s
    else if (s.region region).stepAt = some at_ ∨ ¬ s.stepBegins region then s.awaitStep region
    else if (s.region region).firstOp.isNone then s.updRegion region fun p => { p.idleStep with stepAt := some at_ }
    else (s.updRegion region fun p => { p.step s.power.ballastCut ik i0 with stepAt := some at_ }).nextStep region

/-- DROOP_ALARM (R392): an alarm that lasts some ticks begins: it counts and stretches the period by a quarter. Alarms that meet or overlap last as one in
their region; 16 ns (26 ticks) after the first of them began, while one still lasts, the event comes again with `begun` and stretches it by a half. The
stretch begins to relax 64 ns and 128 ns (308 ticks) after the last alarm. -/
def execDroopAlarm (region : Nat) (s : State) (begun : Bool := false) (lasts : Nat := 0) : Host.Outcome State Fault Refusal :=
  .next <|
    if 16 ≤ region then s
    else if begun then
      match (s.region region).alarmSince with
      | some a => if a + 26 ≤ s.now ∧ s.now ≤ (s.region region).lastAlarm then s.updRegion region fun p => { p with stretch := 4 } else s
      | none => s
    else
      let p := s.region region
      let since := if s.now ≤ p.lastAlarm then p.alarmSince.getD s.now else s.now
      let ends := max p.lastAlarm (s.now + lasts)
      let s := s.updRegion region fun p =>
        { p with droops := p.droops + 1, stretch := max 2 p.stretch, alarmSince := some since, lastAlarm := ends }
      let s := if since + 26 ≤ ends ∧ s.now ≤ since + 26 then s.after (since + 26 - s.now) (.droopAlarm region true 0) else s
      s.once (lasts + 308) (.droopStretchRelax region)

/-- DROOP_STRETCH_RELAX (R392): an eighth back for each 128 ns (205 ticks) without an alarm. -/
def execDroopStretchRelax (region : Nat) (s : State) : Host.Outcome State Fault Refusal :=
  .next <|
    let p := s.region region
    if 16 ≤ region ∨ p.stretch = 0 then s
    else if s.now < p.lastAlarm + 308 then s.once (p.lastAlarm + 308 - s.now) (.droopStretchRelax region)
    else
      let s := s.updRegion region fun p => { p with stretch := p.stretch - 1, alarmSince := none }
      if p.stretch = 1 then s else s.once 205 (.droopStretchRelax region)

/-- POWER_CAP_EVALUATION (R395): the module's power over the last microsecond, in units of 10 W. -/
def execPowerCapEvaluation (power : Nat) (s : State) : Host.Outcome State Fault Refusal :=
  .next <|
    let cap := bitsOf s.ctl.pcap.toNat 32 16
    let p := s.power
    let above := cap < power
    let drawing := (List.range 16).any fun r => (s.region r).ballast
    let since := if above && (drawing || p.ballastCut) then some (p.overSince.getD s.now) else none
    let cut := (p.ballastCut && cap ≤ power) || (match since with | some a => a + 6400 ≤ s.now | none => false)
    let below := if power * 100 < 95 * cap then some (p.below95.getD s.now) else none
    let turn := p.lastCap + 16000 ≤ s.now
    let lower := above && turn
    let raise := turn && (match below with | some b => b + 160000 ≤ s.now | none => false)
    let flags := if cut then p.flags ||| 8 else p.flags &&& ~~~8
    let s : State := { s with power := { p with
      modpwr := power, overSince := since, below95 := below, flags := flags, lastCap := if lower || raise then s.now else p.lastCap } }
    (s.allRegions fun r =>
      let limit := if lower then max 8 (r.capLimit - 4) else if raise then min 64 (r.capLimit + 4) else r.capLimit
      { r with capLimit := limit, ballast := r.ballast && !cut }).followLimits

/-- The pacing of one region for a job after an evaluation (R396): whether its slack exceeds the lowest of the group by a tenth, and whether it is the
lowest. No limit changes within 200 µs of its last change; the region with the lowest slack is not paced from the first moment at which that lets its limit
change (log 70). -/
def Pace.next (p : Pace) (far lowest : Bool) (now : Nat) : Pace :=
  let p := { p with high := if far then p.high + 1 else 0, low := if far then 0 else p.low + 1 }
  let free : Bool := match p.change with
    | none => true
    | some c => c + 320000 ≤ now
  if !free then p
  else if lowest then (if p.limit < 64 then { p with limit := 64, change := some now } else p)
  else if 5 ≤ p.high ∧ 16 < p.limit then { p with limit := max 16 (p.limit - 8), change := some now }
  else if 5 ≤ p.low ∧ p.limit < 64 then { p with limit := min 64 (p.limit + 8), change := some now }
  else p

/-- One fraction is at least another. -/
def slackGe (a b : Nat × Nat) : Bool := b.1 * a.2 ≤ a.1 * b.2

/-- One fraction exceeds another by a tenth at least. -/
def slackFar (a b : Nat × Nat) : Bool := (10 * b.1 + b.2) * a.2 ≤ 10 * a.1 * b.2

/-- A pacing entry before any evaluation. -/
def Pace.reset : Pace := ⟨64, 0, 0, none⟩

/-- The lowest slack of some regions. -/
def State.lowestSlack (s : State) (group : List Nat) : Nat × Nat :=
  group.foldl (fun m r => if slackGe (s.region r).slack m then m else (s.region r).slack) (1, 1)

/-- The pacing of each job and region after an evaluation for a job's group (R396); one that no longer belongs to a group goes. -/
def State.paceTable (s : State) (job : Nat) (group : List Nat) : Sparse Pace :=
  let old := s.power.pacing
  let m := s.lowestSlack group
  let kept := old.filter fun p => (s.groupRegions (p.1 / 16)).contains (p.1 % 16)
  group.foldl (fun table r =>
    let k := (s.region r).slack
    sput (16 * job + r) ((sget Pace.reset old (16 * job + r)).next (slackFar k m) (slackGe m k) s.now) table) kept

/-- PACING_EVALUATION (R396): the slack of the regions of a job's group, as the waits of their contexts over the last 50 µs give it, sets their pacing
limits; a region shared by two jobs takes the lower. The next evaluation comes 10 µs later. Readings from outside add nothing to what the contexts show. -/
def execPacingEvaluation (job : Nat) (_slacks : List (Nat × Nat)) (s : State) : Host.Outcome State Fault Refusal :=
  .next <|
    let group := s.groupRegions job
    let s := group.foldl State.takeSample s
    let table := if s.ctl.pcap.getLsbD 31 then s.paceTable job group else []
    let s : State := { s with power := { s.power with pacing := table } }
    let s := ((List.range 16).foldl (fun s r => s.updRegion r fun p =>
      { p with pacing := (table.filter fun q => q.1 % 16 == r).foldl (fun m q => min m q.2.limit) 64 }) s).followLimits
    if group.isEmpty then s else s.once paceTicks (.pacingEvaluation job [])

/-! ### Rails (R385, R399, R401, R402) -/

/-- An event that does not need the compute dies: inputs, links, hosts and supply. -/
def Event.survives (e : Event) : Bool :=
  match e with
  | .completionRecord _ | .predictiveLeak _ | .linkLevelRetry _ _ _ _ | .moduleOutOfService _ _ | .moduleRetrainEnd _ _ _ _ | .edgeFailure _
  | .nodeReset _ _ | .routeTableAdoption _ | .scaleOutRetrain _ _ | .ptcAlignment _ _ | .throttleStep _ _ _ | .droopAlarm _ _ _
  | .droopStretchRelax _ | .powerCapEvaluation _ | .temperatureRead _ _ | .inputSag _ | .sagRecovery _ | .sagTimeout | .internalBusLow
  | .emergencySequence _ | .powerEnableLow _ | .inputRemoval | .moduleReset _ _ | .flashWrite _ _ _ | .commandRecordWrite _ _ _ _
  | .hsemClaim _ _ _ | .hsemRelease _ _ | .hostLinkDown _ | .apertureRead _ _ _ | .apertureWrite _ _ _ | .registerWrite _ _ _ => true
  | _ => false

/-- A node whose links have lost power: its counter goes on (R213, R402). -/
def Node.unpowered (n : Node) : Node := { n with streams := [], ne := [], windows := [], entries := [], redAcks := [] }

/-- The regions as their rails come up: no limit, and no pulse received yet; the droops counted stand. -/
def State.freshRegions (s : State) : Sparse PowerRegion :=
  (List.range 16).map fun r => (r, { PowerRegion.reset with mark := s.time, droops := (s.region r).droops })

/-- What the counters of R40 hold that no swap saves and that count from module reset: all but ESCCNT (R379). -/
def Tile.keepCounts (x was : Tile) : Tile :=
  let k := was.core
  { x with
    rplcnt := was.rplcnt
    repcnt := was.repcnt
    core := { x.core with isscnt := k.isscnt, bcnt := k.bcnt, ccnt := k.ccnt, satc := k.satc, unfc := k.unfc, canc := k.canc } }

/-- The tiles without power: what the flash holds of them, and their counters. -/
def State.darkTiles (s : State) : Sparse Tile := s.tiles.foldl (fun m p => sput p.1 ((s.bareTile p.1).keepCounts p.2) m) s.flashTiles

/-- The base die of MS24, which keeps the time while the compute rails are off (R402). -/
def keeperNode : Nat := 88

/-- A change of the routes of every compute die (R350), declared where the time goes on. -/
def State.declareRails (s : State) : State := s.declare keeperNode

/-- Every compute rail removed (R399, R401): tiles, walks and packets are gone; memory, journal, trap queues, the counters that no swap saves and what a
saved partition still waits for stay. A partition whose swap is not over is lost. A low pulse of power-enable that has come meanwhile takes effect. -/
def State.removeCompute (s : State) : State :=
  let lost := (s.jobs.filter fun j => !j.clearing && !s.swappedOut j.num).map (·.num)
  let freeze (j : Job) : Job := if j.clearing then j else { j with frozen := true }
  let node (p : Nat × Node) : Nat × Node := (p.1, p.2.unpowered)
  let die (p : Nat × Die) : Nat × Die := (p.1, { p.2 with walks := [], fifo := [] })
  let tile (p : Nat × Tile) : Nat × Tile := (p.1, p.2.catchUp ((s.regionAt p.1).received s.time))
  let s' : State := { s with
    tiles := { s with tiles := s.tiles.map tile }.darkTiles
    dies := s.dies.map die
    regions := s.freshRegions
    fab := { s.fab with
      reqs := s.fab.reqs.filter fun r => r.state == .waiting && s.swappedOut r.job
      flights := [], packets := [], crossings := [], trees := [], remotes := [], nodes := s.fab.nodes.map node }
    jobs := s.jobs.map freeze
    ctl := { s.ctl with shadows := s.ctl.shadows.filter fun w => !lost.contains w.job }
    agenda := s.agenda.filter fun p => p.2.survives
    power := { s.power with
      computeRails := false, emergency := false, sagging := false, toSave := [], pacing := [], enableLow := none
      lost := lost ++ s.power.lost.filter (fun j => !lost.contains j), mstate := 4, flags := s.power.flags ||| 16 } }
  match s.power.enableLow with
  | some (micros, tick) => s'.declareRails.after (tick - s.now) (.powerEnableLow micros)
  | none => s'.declareRails

/-- Compute rails lost without a save (R397, R399). -/
def State.tripRails (s : State) : State :=
  if s.power.computeRails then
    let s := (s.signalBoth 3).removeCompute
    { s with power := { s.power with tripped := true } }
  else s

/-- INTERNAL_BUS_LOW (R398, R399). -/
def execInternalBusLow (s : State) : Host.Outcome State Fault Refusal := .next s.tripRails

/-- The hottest reading of a die. -/
def State.hottest (s : State) (d : Nat) : Nat := (sget Die.reset s.dies d).temps.foldl max 0

/-- The jobs that the emergency sequence saves, in its order (R401). -/
def State.saveOrder (s : State) (thermal : Bool) : List Nat :=
  let live := s.jobs.filter fun j => !j.clearing
  let dies (j : Job) : List Nat := (List.range 64).filter (inPart j.part)
  let key (j : Job) : Nat := if thermal then 1000 - ((dies j).foldl (fun m d => max m (s.hottest d)) 0) else (dies j).headD 0
  let insert (l : List (Nat × Nat)) (p : Nat × Nat) : List (Nat × Nat) := (l.filter fun q => q.1 ≤ p.1) ++ p :: l.filter fun q => p.1 < q.1
  (live.foldl (fun l j => insert l (key j, j.num)) []).map (·.2)

/-- EMERGENCY_SEQUENCE (R401): partitions are saved one after another, Chinook writes its tables, and the compute rails go. Events of the
same name carry the running sequence on. -/
def execEmergencySequence (thermal : Bool) (s : State) : Host.Outcome State Fault Refusal :=
  .next <|
    if !s.power.computeRails || !s.power.memoryRail then s
    else
      let s : State :=
        if s.power.emergency then s
        else { s with power := { s.power with
                 emergency := true, mstate := 4, flags := s.power.flags ||| 16, toSave := s.saveOrder thermal } }.signalBoth 3
      match s.power.toSave with
      | [] => (s.tiles.foldl (fun s p => if p.2.retired then s else s.writeLearned p.1) s).removeCompute
      | job :: rest =>
        if (s.job job).isNone || s.swappedOut job then
          { s with power := { s.power with toSave := rest } }.once 0 (.emergencySequence thermal)
        else (s.once 0 (.preEmption job)).once 64 (.emergencySequence thermal)

/-- INPUT_SAG (R398): the input in units of 10 mV; below 42 V every sag limit is 13, and 5 ms of it start the emergency sequence. -/
def execInputSag (volt : Nat) (s : State) : Host.Outcome State Fault Refusal :=
  .next <|
    let s : State := { s with power := { s.power with involt := volt } }
    if 4200 ≤ volt ∨ s.power.sagging ∨ ¬ s.power.computeRails then s
    else (({ s with power := { s.power with sagging := true } }.allRegions fun r => { r with sag := 13 }).once 8000000 .sagTimeout).followLimits

/-- SAG_RECOVERY (R398): the input has stayed at 43 V or above for 100 µs. -/
def execSagRecovery (volt : Nat) (s : State) : Host.Outcome State Fault Refusal :=
  .next <|
    let s : State := { s with power := { s.power with involt := volt } }
    if volt < 4300 ∨ ¬ s.power.sagging then s
    else
      (({ s with
        power := { s.power with sagging := false }
        agenda := s.agenda.filter fun p => p.2 != Event.sagTimeout }).allRegions fun r => { r with sag := 64 }).followLimits

/-- SAG_TIMEOUT (R398): a sag has lasted more than 5 ms. -/
def execSagTimeout (s : State) : Host.Outcome State Fault Refusal :=
  .next (if s.power.sagging then s.once 0 (.emergencySequence false) else s)

/-- TEMPERATURE_READ (R397): the readings of a die's 25 clusters, in °C. A die is warned from 95 °C until it has come back to 85 °C; the thermal limit of a
region rises again once none of its dies is warned (log 53). -/
def execTemperatureRead (die : Nat) (temps : List Nat) (s : State) : Host.Outcome State Fault Refusal :=
  .next <|
    if 64 ≤ die then s
    else
      let was := s.hottest die
      let before := (sget Die.reset s.dies die).warned
      let s : State := { s with dies := sput die { sget Die.reset s.dies die with temps := temps.take 25 } s.dies }
      let top := (List.range 64).foldl (fun m d => if (s.hottest m) < s.hottest d then d else m) 0
      let hot := s.hottest die
      let s : State := { s with dies := sput die { sget Die.reset s.dies die with warned := 95 ≤ hot || (before && 85 < hot) } s.dies }
      let warned : Bool := s.dies.any fun d => d.2.warned
      let s : State := { s with power := { s.power with
        tmax := s.hottest top, tmaxDie := top, flags := if warned then s.power.flags ||| 4 else s.power.flags &&& ~~~4 } }
      let s := if 95 ≤ hot ∧ was < 95 then s.signalBoth 3 else s
      let tile (p : Nat × Tile) : Nat × Tile := if dieOf p.1 = die then (p.1, p.2.repair (s.bandOf p.1) s.now) else p
      let s : State := { s with tiles := s.tiles.map tile }
      let region := 4 * (die / 16) + die % 8 / 2
      let cool : Bool := s.dies.all fun d => 4 * (d.1 / 16) + d.1 % 8 / 2 != region || !d.2.warned
      let s := State.followLimit region <| s.updRegion region fun r =>
        if s.now < r.lastThermal + 160000 ∧ r.lastThermal ≠ 0 then r
        else if 95 ≤ hot then { r with thermal := max 16 (r.thermal - 8), lastThermal := s.now }
        else if cool ∧ r.thermal < 64 then { r with thermal := min 64 (r.thermal + 8), lastThermal := s.now }
        else r
      if 125 ≤ hot then s.tripRails
      else if 110 ≤ hot ∧ ¬ s.power.emergency ∧ s.power.computeRails then s.once 0 (.emergencySequence true)
      else s

/-- Every rail removed (R385): nothing is left but the flash and what has been sent. -/
def State.removeAll (s : State) : State :=
  let c := s.ctl
  { State.reset with
    power := { Power.reset with involt := 0, computeRails := false, memoryRail := false }
    ctl := { Control.reset with
      flashA := c.flashA, flashB := c.flashB, retireMap := c.retireMap, learned := c.learned, history := c.history, tested := c.tested
      powered := c.powered + s.now, out := c.out }
    free := s.free
    ids := s.ids }

/-- INPUT_REMOVAL (R385). -/
def execInputRemoval (s : State) : Host.Outcome State Fault Refusal := .next s.removeAll

/-- Each compute die takes the count that the memory rail has kept (R402). -/
def State.takeTime (s : State) : State :=
  let m := s.node keeperNode
  (List.range 64).foldl (fun s n => s.updNode n fun x => { x with skew := m.skew, step := m.step, lastStep := m.lastStep }) s

/-- A warm restart (R399, R402): the boot ROM runs, the firmware's own SELF-TEST passes, each job is restored or cancelled, and records are taken up again
once no job that has lost its state is left. -/
def State.warmRestart (s : State) : State :=
  let s := { s with power := { s.power with computeRails := true, tripped := false, flags := s.power.flags &&& ~~~16 } }
  let s := ({ s with tiles := s.darkTiles, regions := s.freshRegions }.takeTime.declareRails).bootFirmware 3
  if s.power.mstate = 1 then s
  else
    let s : State := { s with power := { s.power with stresult := 0x101, passed := true } }
    (s.jobs.foldl (fun s j =>
      if !j.clearing then s.once 0 (.restore j.num)
      else if j.cleared then s.once 0 (.jobClearingEnd j.num)
      else s.once 0 (.jobClearing j.num)) s).resumeRecords

/-- POWER_ENABLE_LOW (R385, R398, R401, R402): a low pulse of some microseconds. On a running module the event comes when 10 ms of it have passed, which
start the emergency sequence; what follows from its end, or from a second of it, comes once it has ended and the sequence too. With the compute rails off
the event comes at its end or after a second: every rail goes, or the module restarts (log 47). -/
def execPowerEnableLow (micros : Nat) (s : State) : Host.Outcome State Fault Refusal :=
  .next <|
    if micros < 10000 then s
    else if s.power.computeRails ∧ s.power.memoryRail then
      let ends := s.now + 1600 * (min micros 1000000 - 10000)
      let s : State := { s with power := { s.power with enableLow := some (micros, ends) } }
      if s.power.emergency then s else s.once 0 (.emergencySequence false)
    else if 1000000 ≤ micros then s.removeAll
    else if s.power.memoryRail then s.warmRestart
    else s

end Sys2Proof.Machine
end

