-- ==== Sys2Proof/Machine/Scalar.lean ====
section
/-! DEFINITION. The A0 and A1 slots (R81 to R93). -/

namespace Sys2Proof.Machine

/-- A scalar operation over two x registers, due after `n` issue cycles (R81). -/
def alu2 (sp : BitVec 3) (i : Instr) (d a b : BitVec 5) (n : Nat) (f : Dword → Dword → Dword) (s : State) :
    Host.Outcome State Fault Refusal :=
  issueSlot sp i s fun s => s.dueX d (f (s.rx a) (s.rx b)) n

/-- A scalar operation over one x register, due after one issue cycle (R81). -/
def alu1 (sp : BitVec 3) (i : Instr) (d a : BitVec 5) (f : Dword → Dword) (s : State) : Host.Outcome State Fault Refusal :=
  issueSlot sp i s fun s => s.dueX d (f (s.rx a)) 1

/-- A truth value as a result (R86). -/
def truth (b : Bool) : Dword := if b then 1 else 0

/-- The sign-extended immediate I of format I (R83, R90). -/
def immI (imm : BitVec 13) : Dword := imm.signExtend 64

/-- Rotation left (R85). -/
def rolWord (a : Dword) (n : Nat) : Dword := (a <<< n) ||| (a >>> (64 - n))

/-- The width that fn selects for CLZ and POPC (R87). -/
def countWidth (w : BitVec 2) : Nat := 64 / 2 ^ w.toNat

/-- LeadingZeros of R36 on the low `w` bits. -/
def leadingZeros (w n : Nat) : Nat := if n % 2 ^ w = 0 then w else w - 1 - (n % 2 ^ w).log2

/-- PopCount of R36 on the low `w` bits. -/
def popCount (w n : Nat) : Nat := ((List.range w).filter fun i => bitOf n i).length

/-- BEXT of R88. -/
def bextWord (a : Dword) (sg : Bool) (len pos : Nat) : Dword :=
  let f := a.toNat / 2 ^ pos % 2 ^ len
  if sg then BitVec.ofInt 64 (asSigned len f) else BitVec.ofNat 64 f

/-- BINS of R88. -/
def binsWord (d a : Dword) (len pos : Nat) : Dword :=
  let m : Dword := BitVec.ofNat 64 ((2 ^ len - 1) * 2 ^ pos)
  (d &&& ~~~m) ||| ((a <<< pos) &&& m)

/-- Quotient of DIV (R93). -/
def divWord (a b : Dword) : Dword := if b = 0 then BitVec.allOnes 64 else BitVec.ofInt 64 (a.toInt.tdiv b.toInt)

/-- Remainder of REM (R93). -/
def remWord (a b : Dword) : Dword := if b = 0 then a else BitVec.ofInt 64 (a.toInt.tmod b.toInt)

/-- Quotient of DIVN (R93). -/
def divnWord (a b : Dword) : Dword := if b = 0 then BitVec.allOnes 64 else BitVec.ofNat 64 (a.toNat / b.toNat)

/-- Remainder of REMN (R93). -/
def remnWord (a b : Dword) : Dword := if b = 0 then a else BitVec.ofNat 64 (a.toNat % b.toNat)

/-- The high half of a signed product (R92). -/
def mulhWord (a b : Dword) : Dword := BitVec.ofInt 64 (a.toInt * b.toInt / 2 ^ 64)

/-- The high half of a natural product (R92). -/
def mulhnWord (a b : Dword) : Dword := BitVec.ofNat 64 (a.toNat * b.toNat / 2 ^ 64)

/-- ADD (R84). -/
def execAdd (sp : BitVec 3) (d a b : BitVec 5) (s : State) : Host.Outcome State Fault Refusal :=
  alu2 sp (.add sp d a b) d a b 1 (fun a b => a + b) s

/-- SUB (R84). -/
def execSub (sp : BitVec 3) (d a b : BitVec 5) (s : State) : Host.Outcome State Fault Refusal :=
  alu2 sp (.sub sp d a b) d a b 1 (fun a b => a - b) s

/-- AND (R84). -/
def execAnd (sp : BitVec 3) (d a b : BitVec 5) (s : State) : Host.Outcome State Fault Refusal :=
  alu2 sp (.and sp d a b) d a b 1 (fun a b => a &&& b) s

/-- OR (R84). -/
def execOr (sp : BitVec 3) (d a b : BitVec 5) (s : State) : Host.Outcome State Fault Refusal :=
  alu2 sp (.or sp d a b) d a b 1 (fun a b => a ||| b) s

/-- XOR (R84). -/
def execXor (sp : BitVec 3) (d a b : BitVec 5) (s : State) : Host.Outcome State Fault Refusal :=
  alu2 sp (.xor sp d a b) d a b 1 (fun a b => a ^^^ b) s

/-- ANDN (R84). -/
def execAndn (sp : BitVec 3) (d a b : BitVec 5) (s : State) : Host.Outcome State Fault Refusal :=
  alu2 sp (.andn sp d a b) d a b 1 (fun a b => a &&& ~~~b) s

/-- SHL (R85). -/
def execShl (sp : BitVec 3) (d a b : BitVec 5) (s : State) : Host.Outcome State Fault Refusal :=
  alu2 sp (.shl sp d a b) d a b 1 (fun a b => a <<< (b.toNat % 64)) s

/-- SHR (R85). -/
def execShr (sp : BitVec 3) (d a b : BitVec 5) (s : State) : Host.Outcome State Fault Refusal :=
  alu2 sp (.shr sp d a b) d a b 1 (fun a b => a >>> (b.toNat % 64)) s

/-- SAR (R85). -/
def execSar (sp : BitVec 3) (d a b : BitVec 5) (s : State) : Host.Outcome State Fault Refusal :=
  alu2 sp (.sar sp d a b) d a b 1 (fun a b => a.sshiftRight (b.toNat % 64)) s

/-- ROL (R85). -/
def execRol (sp : BitVec 3) (d a b : BitVec 5) (s : State) : Host.Outcome State Fault Refusal :=
  alu2 sp (.rol sp d a b) d a b 1 (fun a b => rolWord a (b.toNat % 64)) s

/-- MIN (R86). -/
def execMin (sp : BitVec 3) (d a b : BitVec 5) (s : State) : Host.Outcome State Fault Refusal :=
  alu2 sp (.min sp d a b) d a b 1 (fun a b => if a.toInt ≤ b.toInt then a else b) s

/-- MAX (R86). -/
def execMax (sp : BitVec 3) (d a b : BitVec 5) (s : State) : Host.Outcome State Fault Refusal :=
  alu2 sp (.max sp d a b) d a b 1 (fun a b => if b.toInt ≤ a.toInt then a else b) s

/-- MINN (R86). -/
def execMinn (sp : BitVec 3) (d a b : BitVec 5) (s : State) : Host.Outcome State Fault Refusal :=
  alu2 sp (.minn sp d a b) d a b 1 (fun a b => if a.toNat ≤ b.toNat then a else b) s

/-- MAXN (R86). -/
def execMaxn (sp : BitVec 3) (d a b : BitVec 5) (s : State) : Host.Outcome State Fault Refusal :=
  alu2 sp (.maxn sp d a b) d a b 1 (fun a b => if b.toNat ≤ a.toNat then a else b) s

/-- SEQ (R86). -/
def execSeq (sp : BitVec 3) (d a b : BitVec 5) (s : State) : Host.Outcome State Fault Refusal :=
  alu2 sp (.seq sp d a b) d a b 1 (fun a b => truth (a == b)) s

/-- SLT (R86). -/
def execSlt (sp : BitVec 3) (d a b : BitVec 5) (s : State) : Host.Outcome State Fault Refusal :=
  alu2 sp (.slt sp d a b) d a b 1 (fun a b => truth (a.toInt < b.toInt)) s

/-- SLTN (R86). -/
def execSltn (sp : BitVec 3) (d a b : BitVec 5) (s : State) : Host.Outcome State Fault Refusal :=
  alu2 sp (.sltn sp d a b) d a b 1 (fun a b => truth (a.toNat < b.toNat)) s

/-- ADDW (R84). -/
def execAddw (sp : BitVec 3) (d a b : BitVec 5) (s : State) : Host.Outcome State Fault Refusal :=
  alu2 sp (.addw sp d a b) d a b 1 (fun a b => ((a + b).truncate 32).signExtend 64) s

/-- SEL (R86). -/
def execSel (sp : BitVec 3) (d a b c : BitVec 5) (s : State) : Host.Outcome State Fault Refusal :=
  issueSlot sp (.sel sp d a b c) s fun s => s.dueX d (if s.rx c != 0 then s.rx a else s.rx b) 1

/-- ADDSH (R89). -/
def execAddsh (sp : BitVec 3) (d a b : BitVec 5) (sh : BitVec 4) (s : State) : Host.Outcome State Fault Refusal :=
  alu2 sp (.addsh sp d a b sh) d a b 1 (fun a b => a + (b <<< sh.toNat)) s

/-- CLZ (R87). -/
def execClz (sp : BitVec 3) (d a : BitVec 5) (w : BitVec 2) (s : State) : Host.Outcome State Fault Refusal :=
  alu1 sp (.clz sp d a w) d a (fun a => BitVec.ofNat 64 (leadingZeros (countWidth w) a.toNat)) s

/-- POPC (R87). -/
def execPopc (sp : BitVec 3) (d a : BitVec 5) (w : BitVec 2) (s : State) : Host.Outcome State Fault Refusal :=
  alu1 sp (.popc sp d a w) d a (fun a => BitVec.ofNat 64 (popCount (countWidth w) a.toNat)) s

/-- BEXT (R88). -/
def execBext (sp : BitVec 3) (d a : BitVec 5) (sg : BitVec 1) (len pos : BitVec 6) (s : State) : Host.Outcome State Fault Refusal :=
  alu1 sp (.bext sp d a sg len pos) d a (fun a => bextWord a (sg == 1) (len.toNat + 1) pos.toNat) s

/-- BINS (R88), which reads its destination. -/
def execBins (sp : BitVec 3) (d a : BitVec 5) (len pos : BitVec 6) (s : State) : Host.Outcome State Fault Refusal :=
  issueSlot sp (.bins sp d a len pos) s fun s => s.dueX d (binsWord (s.rx d) (s.rx a) (len.toNat + 1) pos.toNat) 1

/-- MUL (R92). -/
def execMul (sp : BitVec 3) (d a b : BitVec 5) (s : State) : Host.Outcome State Fault Refusal :=
  alu2 sp (.mul sp d a b) d a b 3 (fun a b => a * b) s

/-- MULH (R92). -/
def execMulh (sp : BitVec 3) (d a b : BitVec 5) (s : State) : Host.Outcome State Fault Refusal :=
  alu2 sp (.mulh sp d a b) d a b 3 mulhWord s

/-- MULHN (R92). -/
def execMulhn (sp : BitVec 3) (d a b : BitVec 5) (s : State) : Host.Outcome State Fault Refusal :=
  alu2 sp (.mulhn sp d a b) d a b 3 mulhnWord s

/-- DIV (R93). -/
def execDiv (sp : BitVec 3) (d a b : BitVec 5) (s : State) : Host.Outcome State Fault Refusal :=
  alu2 sp (.div sp d a b) d a b 18 divWord s

/-- DIVN (R93). -/
def execDivn (sp : BitVec 3) (d a b : BitVec 5) (s : State) : Host.Outcome State Fault Refusal :=
  alu2 sp (.divn sp d a b) d a b 18 divnWord s

/-- REM (R93). -/
def execRem (sp : BitVec 3) (d a b : BitVec 5) (s : State) : Host.Outcome State Fault Refusal :=
  alu2 sp (.rem sp d a b) d a b 18 remWord s

/-- REMN (R93). -/
def execRemn (sp : BitVec 3) (d a b : BitVec 5) (s : State) : Host.Outcome State Fault Refusal :=
  alu2 sp (.remn sp d a b) d a b 18 remnWord s

/-- ADDI (R90). -/
def execAddi (sp : BitVec 3) (d a : BitVec 5) (imm : BitVec 13) (s : State) : Host.Outcome State Fault Refusal :=
  alu1 sp (.addi sp d a imm) d a (fun a => a + immI imm) s

/-- ANDI (R90). -/
def execAndi (sp : BitVec 3) (d a : BitVec 5) (imm : BitVec 13) (s : State) : Host.Outcome State Fault Refusal :=
  alu1 sp (.andi sp d a imm) d a (fun a => a &&& immI imm) s

/-- ORI (R90). -/
def execOri (sp : BitVec 3) (d a : BitVec 5) (imm : BitVec 13) (s : State) : Host.Outcome State Fault Refusal :=
  alu1 sp (.ori sp d a imm) d a (fun a => a ||| immI imm) s

/-- XORI (R90). -/
def execXori (sp : BitVec 3) (d a : BitVec 5) (imm : BitVec 13) (s : State) : Host.Outcome State Fault Refusal :=
  alu1 sp (.xori sp d a imm) d a (fun a => a ^^^ immI imm) s

/-- SLTI (R86). -/
def execSlti (sp : BitVec 3) (d a : BitVec 5) (imm : BitVec 13) (s : State) : Host.Outcome State Fault Refusal :=
  alu1 sp (.slti sp d a imm) d a (fun a => truth (a.toInt < (immI imm).toInt)) s

/-- SLTNI (R86). -/
def execSltni (sp : BitVec 3) (d a : BitVec 5) (imm : BitVec 13) (s : State) : Host.Outcome State Fault Refusal :=
  alu1 sp (.sltni sp d a imm) d a (fun a => truth (a.toNat < (immI imm).toNat)) s

/-- SEQI (R86). -/
def execSeqi (sp : BitVec 3) (d a : BitVec 5) (imm : BitVec 13) (s : State) : Host.Outcome State Fault Refusal :=
  alu1 sp (.seqi sp d a imm) d a (fun a => truth (a == immI imm)) s

/-- SHLI (R85). -/
def execShli (sp : BitVec 3) (d a : BitVec 5) (n : BitVec 6) (s : State) : Host.Outcome State Fault Refusal :=
  alu1 sp (.shli sp d a n) d a (fun a => a <<< n.toNat) s

/-- SHRI (R85). -/
def execShri (sp : BitVec 3) (d a : BitVec 5) (n : BitVec 6) (s : State) : Host.Outcome State Fault Refusal :=
  alu1 sp (.shri sp d a n) d a (fun a => a >>> n.toNat) s

/-- SARI (R85). -/
def execSari (sp : BitVec 3) (d a : BitVec 5) (n : BitVec 6) (s : State) : Host.Outcome State Fault Refusal :=
  alu1 sp (.sari sp d a n) d a (fun a => a.sshiftRight n.toNat) s

/-- MOVL (R91). -/
def execMovl (sp : BitVec 3) (d : BitVec 5) (imm : BitVec 18) (s : State) : Host.Outcome State Fault Refusal :=
  issueSlot sp (.movl sp d imm) s fun s => s.dueX d (imm.signExtend 64) 1

/-- CATI (R91), which reads its destination. -/
def execCati (sp : BitVec 3) (d : BitVec 5) (imm : BitVec 18) (s : State) : Host.Outcome State Fault Refusal :=
  issueSlot sp (.cati sp d imm) s fun s => s.dueX d ((s.rx d <<< 18) + imm.zeroExtend 64) 1

end Sys2Proof.Machine
end

