-- ==== Sys2Proof/Machine/Cordic.lean ====
section
/-! DEFINITION. VCORD (R112, R113): the special inputs, a reference value by fixed-point arithmetic, and the offset inside the bound of the
manual that the implementation fixes (log 12). -/

namespace Sys2Proof.Machine

/-- Fixed-point fraction bits of the reference values. -/
def cFrac : Nat := 160

/-- A signed value as a fixed-point integer with `cFrac` fraction bits, rounded towards minus infinity. -/
def toFix (neg : Bool) (mag : Nat) (exp : Int) : Int :=
  let e := exp + cFrac
  let m : Int := if neg then -(mag : Int) else mag
  if 0 ≤ e then m * 2 ^ e.toNat else m / 2 ^ (-e).toNat

/-- A fixed-point product. -/
def fixMul (a b : Int) : Int := a * b / 2 ^ cFrac

/-- 1 in fixed point. -/
def fixOne : Int := 2 ^ cFrac

/-- arctan(1/k) in fixed point by its series. -/
def atanInv (k : Nat) : Int :=
  ((List.range 110).foldl (fun (p : Int × Int) i =>
    (p.1 + (if i % 2 = 0 then 1 else -1) * (p.2 / (2 * i + 1 : Nat)), p.2 / (k * k : Nat))) (0, fixOne / k)).1

/-- π in fixed point (Machin's formula). -/
def fixPi : Int := 4 * (4 * atanInv 5 - atanInv 239)

/-- sin of a reduced argument by its series. -/
def fixSin (y : Int) : Int :=
  ((List.range 40).foldl (fun (p : Int × Int) i =>
    (p.1 + p.2, -(fixMul (fixMul p.2 y) y) / ((2 * i + 2) * (2 * i + 3) : Nat))) (0, y)).1

/-- cos of a reduced argument by its series. -/
def fixCos (y : Int) : Int :=
  ((List.range 40).foldl (fun (p : Int × Int) i =>
    (p.1 + p.2, -(fixMul (fixMul p.2 y) y) / ((2 * i + 1) * (2 * i + 2) : Nat))) (0, fixOne)).1

/-- The square root of a non-negative fixed-point value. -/
def fixSqrt (a : Int) : Int := ((a * 2 ^ cFrac).toNat.sqrt : Nat)

/-- arctan for |x| ≤ 1: two halvings, then the series. -/
def fixAtan (x : Int) : Int :=
  let half (x : Int) : Int := x * fixOne / (fixOne + fixSqrt (fixOne + fixMul x x))
  let z := half (half x)
  4 * ((List.range 80).foldl (fun (p : Int × Int) i =>
    (p.1 + p.2 / (2 * i + 1 : Nat), -(fixMul (fixMul p.2 z) z))) (0, z)).1

/-- ln 2 in fixed point: 2 artanh(1/3). -/
def fixLn2 : Int :=
  2 * ((List.range 60).foldl (fun (p : Int × Int) i => (p.1 + p.2 / (2 * i + 1 : Nat), p.2 / 9)) (0, fixOne / 3)).1

/-- e^y for |y| ≤ 1 by its series. -/
def fixExp (y : Int) : Int :=
  ((List.range 50).foldl (fun (p : Int × Int) i => (p.1 + p.2, fixMul p.2 y / (i + 1 : Nat))) (0, fixOne)).1

/-- log2 of y in [1, 2): 2 artanh((y−1)/(y+1)) / ln 2. -/
def fixLog2 (y : Int) : Int :=
  let z := (y - fixOne) * fixOne / (y + fixOne)
  let s := 2 * ((List.range 110).foldl (fun (p : Int × Int) i =>
    (p.1 + p.2 / (2 * i + 1 : Nat), fixMul (fixMul p.2 z) z)) (0, z)).1
  s * fixOne / fixLn2

/-- The offset that the implementation fixes for a core value, in units of the bound / 2^64, inside the bound (R112, R113). It belongs to the reduced
argument, a fixed-point number, so that operands of one reduced argument have one core value. -/
def coreOffset (func n : Nat) (arg : Int) : Int := max (-(2 ^ 64)) (min (2 ^ 64) (Config.cordicOffset func n arg))

/-- A fixed-point result with an offset inside an absolute bound of 2^(1−n). One that is exactly zero is +0, the model's choice (R112, log 74). -/
def withAbs (n : Nat) (off v : Int) : FV := FV.ofUnits (v * 2 ^ 64 + off * 2 ^ (cFrac + 1 - n)) (-(cFrac : Int) - 64)

/-- A fixed-point core value with an offset inside a relative bound of 2^(1−n), scaled by a power of two. -/
def withRel (n : Nat) (off v k : Int) : FV := FV.ofUnits (v * 2 ^ (n + 64) + v * 2 * off) (k - (cFrac : Int) - n - 64)

/-- The result of a finite non-zero operand before rounding: reduced, its core value taken, and rebuilt (R112). -/
def cordicCore (func n : Nat) (neg : Bool) (mag : Nat) (exp : Int) : FV :=
  let top : Int := mag.log2 + exp
  match func with
  | 0 | 1 =>
    let x := toFix neg mag exp
    if 20 ≤ top ∧ !(top == 20 && mag == 2 ^ mag.log2) then FV.ofUnits (coreOffset func n x) (-64)
    else
      let two := 2 * fixPi
      let k := (2 * x + two) / (2 * two)
      let y := x - k * two
      withAbs n (coreOffset func n y) (if func = 0 then fixSin y else fixCos y)
  | 2 =>
    if top < 0 ∨ (top = 0 ∧ mag = 2 ^ mag.log2) then
      let x := toFix neg mag exp
      withAbs n (coreOffset func n x) (fixAtan x)
    else
      let m : Int := mag
      let e := 2 * (cFrac : Int) - (exp + cFrac)
      let size : Int := if 0 ≤ e then 2 ^ e.toNat / m else 0
      let inv := if neg then -size else size
      withAbs n (-(coreOffset func n inv)) ((if neg then -(fixPi / 2) else fixPi / 2) - fixAtan inv)
  | 3 =>
    if 12 ≤ top then (if neg then .fin false 1 (-5000) else .fin false 1 5000)
    else
      let x := toFix neg mag exp
      let k := (2 * x + fixOne) / (2 * fixOne)
      let f := x - k * fixOne
      withRel n (coreOffset func n f) (fixExp (fixMul f fixLn2)) k
  | 4 =>
    let y := toFix false mag (-(mag.log2 : Int))
    withAbs n (coreOffset func n y) (fixLog2 y + top * fixOne)
  | 5 =>
    if 4 ≤ top then FV.ofUnits (if neg then -1 else 1) 0
    else
      let x := toFix neg mag exp
      let k := (4 * x + fixLn2) / (2 * fixLn2)
      let e := fixExp (2 * x - k * fixLn2)
      let e2 : Int := if 0 ≤ k then e * 2 ^ k.toNat else e / 2 ^ (-k).toNat
      withAbs n (coreOffset func n x) ((e2 - fixOne) * fixOne / (e2 + fixOne))
  | _ =>
    let e := top / 2
    let y := toFix false mag (-(mag.log2 : Int) + (if top % 2 = 0 then 0 else 1))
    let off := coreOffset func n y
    if func = 6 then withRel n off (fixSqrt y) e else withRel n off (fixOne * fixOne / fixSqrt y) (-e)

/-- One lane of VCORD before its final rounding: the value, and the flags of the special inputs and of NX (R112). -/
def cordicLane (func n b : Nat) (f : Fmt) : FV × BitVec 6 :=
  match fvalue f b with
  | .nan => (.nan, 0)
  | .inf neg =>
    match func with
    | 0 | 1 => (.nan, flNV)
    | 2 => ((FV.ofUnits (if neg then -fixPi else fixPi) (-(cFrac : Int) - 1)), 0)
    | 3 => (if neg then .fin false 0 0 else .inf false, 0)
    | 4 => if neg then (.nan, flNV) else (.inf false, 0)
    | 5 => (FV.ofUnits (if neg then -1 else 1) 0, 0)
    | 6 => if neg then (.nan, flNV) else (.inf false, 0)
    | _ => if neg then (.nan, flNV) else (.fin false 0 0, 0)
  | .fin neg mag exp =>
    if mag = 0 then
      match func with
      | 4 => (.inf true, flDZ ||| flNX)
      | 6 => (.fin neg 0 0, 0)
      | 7 => (.inf neg, flDZ)
      | 1 => (withAbs n (coreOffset 1 n 0) fixOne, flNX)
      | 3 => (withRel n (coreOffset 3 n 0) fixOne 0, flNX)
      | _ => (withAbs n (coreOffset func n 0) 0, flNX)
    else if neg ∧ (func = 4 ∨ func = 6 ∨ func = 7) then (.nan, flNV ||| flNX)
    else (cordicCore func n neg mag exp, flNX)

end Sys2Proof.Machine
end

