-- ==== Sys2Proof/Machine/Vector.lean ====
section
/-! DEFINITION. The VX slot (R95 to R114). -/

namespace Sys2Proof.Machine

/-- The floating format of a type code (R32). -/
def tyFmt (ty : BitVec 3) : Fmt :=
  match ty.toNat with
  | 4 => fmtE4
  | 5 => fmtBf16
  | 6 => fmt16
  | _ => fmt32

/-- A lane function: rounding state, lanes of a, b and the old destination, and the lane's number. -/
abbrev LaneFn := Rnd → Nat → Nat → Nat → Nat × Rnd

/-- Due of R36 of a VX result, with the flags and the LFSR of its roundings (R57, R74, R99). -/
def vxDue (s : State) (dst : Reg) (val : Row) (l : Nat) (r : Rnd) : State :=
  (s.updSelf fun c => { c with lfsr := r.lfsr }).dueFlags dst val 1 l r.flags

/-- The old destination of a gated instruction, as far as it reads it (R97). -/
def gateOld (s : State) (d : BitVec 5) (p : BitVec 3) (z : BitVec 1) : Row := if p = 0 ∨ z = 1 then 0 else s.rv d

/-- The active lanes of a width under a predicate (R96). -/
def actives (s : State) (p : BitVec 3) (w : Nat) : List Bool :=
  let pr := s.rp p.toNat
  (List.range (2048 / w)).map (active pr w)

/-- The lanes of a gated instruction (R100): `base` where a lane is inactive. -/
def gatedLanes (w : Nat) (act : List Bool) (base a b c : List Nat) (r : Rnd) (f : LaneFn) : Row × Rnd :=
  let (xs, r) := mapRnd (fun r (x : (Bool × Nat) × (Nat × Nat) × Nat) =>
    if x.1.1 then f r x.2.1.1 x.2.1.2 x.2.2 else (x.1.2, r)) r
    (List.zip (List.zip act base) (List.zip (List.zip a b) c))
  (ofLanes w xs, r)

/-- A gated instruction over v[a] and v[b] at one width (R100). `c` is the old destination where the function reads it. -/
def gatedOp (s : State) (d : BitVec 5) (av bv : Row) (p : BitVec 3) (w : Nat) (z : BitVec 1) (readsD : Bool) (l : Nat) (f : LaneFn) :
    State :=
  let old := if readsD then s.rv d else gateOld s d p z
  let base := if z = 1 then List.replicate (2048 / w) 0 else lanes w old
  let (v, r) := gatedLanes w (actives s p w) base (lanes w av) (lanes w bv) (lanes w old) s.ctx.rnd f
  vxDue s (.v d.toNat) v l r

/-- An integer lane function. -/
def intFn (w : Nat) (f : Int → Int → Int) (nat : Bool) : LaneFn := fun r a b _ =>
  let g (x : Nat) : Int := if nat then (x % 2 ^ w : Nat) else asSigned w x
  (truncInt w (f (g a) (g b)), r)

/-- A lane function on patterns. -/
def bitFn (f : Nat → Nat → Nat) : LaneFn := fun r a b _ => (f a b, r)

/-- A floating product, sum or fused lane (R100, R101): C + sign × A × B with `prod`, else A + sign × B. -/
def sumFn (f : Fmt) (neg : Bool) : LaneFn := fun r a b _ =>
  roundSum f r false [fvalue f a, if neg then (fvalue f b).negate else fvalue f b]

/-- A floating product lane. -/
def mulFn (f : Fmt) : LaneFn := fun r a b _ =>
  let (x, bad) := FV.mul (fvalue f a) (fvalue f b)
  let (p, r) := fround f r x
  (p, if bad then r.raise flNV else r)

/-- A fused lane. -/
def fmaFn (f : Fmt) (neg : Bool) : LaneFn := fun r a b c =>
  let (x, bad) := FV.mul (fvalue f a) (fvalue f b)
  roundSum f r bad [fvalue f c, if neg then x.negate else x]

/-- A sign change of a floating lane; NaN gives the canonical NaN (R100, R101). -/
def signFn (f : Fmt) (abs : Bool) : LaneFn := fun r a _ _ =>
  if (fvalue f a).isNan then (f.canonNan, r)
  else
    let m := a % 2 ^ (f.e + f.m)
    (if abs || a != m then m else m + 2 ^ (f.e + f.m), r)

/-- The floating minimum or maximum of two lanes. -/
def fmmFn (f : Fmt) (hi : Bool) : LaneFn := fun r a b _ => (fminmax f hi a b, r)

/-- The latency of R98 where integer and floating types differ. -/
def mulLatency (ty : BitVec 3) : Nat := if tyInt ty then 2 else 4

/-- VADD (R100). -/
def execVadd (sp : BitVec 3) (d a b : BitVec 5) (p ty : BitVec 3) (z : BitVec 1) (s : State) : Host.Outcome State Fault Refusal :=
  issueSlot sp (.vadd sp d a b p ty z) s fun s =>
    let w := tyWidth ty
    gatedOp s d (s.rv a) (s.rv b) p w z false 2 (if tyInt ty then intFn w (· + ·) false else sumFn (tyFmt ty) false)

/-- VSUB (R100). -/
def execVsub (sp : BitVec 3) (d a b : BitVec 5) (p ty : BitVec 3) (z : BitVec 1) (s : State) : Host.Outcome State Fault Refusal :=
  issueSlot sp (.vsub sp d a b p ty z) s fun s =>
    let w := tyWidth ty
    gatedOp s d (s.rv a) (s.rv b) p w z false 2 (if tyInt ty then intFn w (· - ·) false else sumFn (tyFmt ty) true)

/-- VMUL (R100). -/
def execVmul (sp : BitVec 3) (d a b : BitVec 5) (p ty : BitVec 3) (z : BitVec 1) (s : State) : Host.Outcome State Fault Refusal :=
  issueSlot sp (.vmul sp d a b p ty z) s fun s =>
    let w := tyWidth ty
    gatedOp s d (s.rv a) (s.rv b) p w z false (mulLatency ty) (if tyInt ty then intFn w (· * ·) false else mulFn (tyFmt ty))

/-- VFMA (R100). -/
def execVfma (sp : BitVec 3) (d a b : BitVec 5) (p ty : BitVec 3) (z : BitVec 1) (s : State) : Host.Outcome State Fault Refusal :=
  issueSlot sp (.vfma sp d a b p ty z) s fun s =>
    let w := tyWidth ty
    gatedOp s d (s.rv a) (s.rv b) p w z true (mulLatency ty) (if tyInt ty then fun r a b c => (truncInt w (c + a * b : Int), r) else fmaFn (tyFmt ty) false)

/-- VFMS (R100). -/
def execVfms (sp : BitVec 3) (d a b : BitVec 5) (p ty : BitVec 3) (z : BitVec 1) (s : State) : Host.Outcome State Fault Refusal :=
  issueSlot sp (.vfms sp d a b p ty z) s fun s =>
    let w := tyWidth ty
    gatedOp s d (s.rv a) (s.rv b) p w z true (mulLatency ty) (if tyInt ty then fun r a b c => (truncInt w (c - a * b : Int), r) else fmaFn (tyFmt ty) true)

/-- VMIN (R100, R101). -/
def execVmin (sp : BitVec 3) (d a b : BitVec 5) (p ty : BitVec 3) (z : BitVec 1) (s : State) : Host.Outcome State Fault Refusal :=
  issueSlot sp (.vmin sp d a b p ty z) s fun s =>
    let w := tyWidth ty
    gatedOp s d (s.rv a) (s.rv b) p w z false 2 (if tyInt ty then intFn w min false else fmmFn (tyFmt ty) false)

/-- VMAX (R100, R101). -/
def execVmax (sp : BitVec 3) (d a b : BitVec 5) (p ty : BitVec 3) (z : BitVec 1) (s : State) : Host.Outcome State Fault Refusal :=
  issueSlot sp (.vmax sp d a b p ty z) s fun s =>
    let w := tyWidth ty
    gatedOp s d (s.rv a) (s.rv b) p w z false 2 (if tyInt ty then intFn w max false else fmmFn (tyFmt ty) true)

/-- VMINN (R100). -/
def execVminn (sp : BitVec 3) (d a b : BitVec 5) (p ty : BitVec 3) (z : BitVec 1) (s : State) : Host.Outcome State Fault Refusal :=
  issueSlot sp (.vminn sp d a b p ty z) s fun s =>
    let w := tyWidth ty
    gatedOp s d (s.rv a) (s.rv b) p w z false 2 (intFn w min true)

/-- VMAXN (R100). -/
def execVmaxn (sp : BitVec 3) (d a b : BitVec 5) (p ty : BitVec 3) (z : BitVec 1) (s : State) : Host.Outcome State Fault Refusal :=
  issueSlot sp (.vmaxn sp d a b p ty z) s fun s =>
    let w := tyWidth ty
    gatedOp s d (s.rv a) (s.rv b) p w z false 2 (intFn w max true)

/-- VMULH (R100). -/
def execVmulh (sp : BitVec 3) (d a b : BitVec 5) (p ty : BitVec 3) (z : BitVec 1) (s : State) : Host.Outcome State Fault Refusal :=
  issueSlot sp (.vmulh sp d a b p ty z) s fun s =>
    let w := tyWidth ty
    gatedOp s d (s.rv a) (s.rv b) p w z false 2 (intFn w (fun a b => a * b / 2 ^ w) false)

/-- VMULHN (R100). -/
def execVmulhn (sp : BitVec 3) (d a b : BitVec 5) (p ty : BitVec 3) (z : BitVec 1) (s : State) : Host.Outcome State Fault Refusal :=
  issueSlot sp (.vmulhn sp d a b p ty z) s fun s =>
    let w := tyWidth ty
    gatedOp s d (s.rv a) (s.rv b) p w z false 2 (intFn w (fun a b => a * b / 2 ^ w) true)

/-- VAND (R103). -/
def execVand (sp : BitVec 3) (d a b : BitVec 5) (p ty : BitVec 3) (z : BitVec 1) (s : State) : Host.Outcome State Fault Refusal :=
  issueSlot sp (.vand sp d a b p ty z) s fun s =>
    let w := tyWidth ty
    gatedOp s d (s.rv a) (s.rv b) p w z false 2 (bitFn fun a b => a &&& b)

/-- VOR (R103). -/
def execVor (sp : BitVec 3) (d a b : BitVec 5) (p ty : BitVec 3) (z : BitVec 1) (s : State) : Host.Outcome State Fault Refusal :=
  issueSlot sp (.vor sp d a b p ty z) s fun s =>
    let w := tyWidth ty
    gatedOp s d (s.rv a) (s.rv b) p w z false 2 (bitFn fun a b => a ||| b)

/-- VXOR (R103). -/
def execVxor (sp : BitVec 3) (d a b : BitVec 5) (p ty : BitVec 3) (z : BitVec 1) (s : State) : Host.Outcome State Fault Refusal :=
  issueSlot sp (.vxor sp d a b p ty z) s fun s =>
    let w := tyWidth ty
    gatedOp s d (s.rv a) (s.rv b) p w z false 2 (bitFn fun a b => a ^^^ b)

/-- VANDN (R103). -/
def execVandn (sp : BitVec 3) (d a b : BitVec 5) (p ty : BitVec 3) (z : BitVec 1) (s : State) : Host.Outcome State Fault Refusal :=
  issueSlot sp (.vandn sp d a b p ty z) s fun s =>
    let w := tyWidth ty
    gatedOp s d (s.rv a) (s.rv b) p w z false 2 (bitFn fun a b => a &&& (2 ^ w - 1 - b))

/-- A left shift of a lane (R103). -/
def shlLane (w a n : Nat) : Nat := if w ≤ n then 0 else a * 2 ^ n % 2 ^ w
/-- A natural right shift of a lane. -/
def shrLane (w a n : Nat) : Nat := if w ≤ n then 0 else a / 2 ^ n
/-- A signed right shift of a lane. -/
def sarLane (w a n : Nat) : Nat := truncInt w (asSigned w a / 2 ^ min n (w - 1))

/-- VSHL (R103). -/
def execVshl (sp : BitVec 3) (d a b : BitVec 5) (p ty : BitVec 3) (z : BitVec 1) (s : State) : Host.Outcome State Fault Refusal :=
  issueSlot sp (.vshl sp d a b p ty z) s fun s =>
    let w := tyWidth ty
    gatedOp s d (s.rv a) (s.rv b) p w z false 2 (bitFn (shlLane w))

/-- VSHR (R103). -/
def execVshr (sp : BitVec 3) (d a b : BitVec 5) (p ty : BitVec 3) (z : BitVec 1) (s : State) : Host.Outcome State Fault Refusal :=
  issueSlot sp (.vshr sp d a b p ty z) s fun s =>
    let w := tyWidth ty
    gatedOp s d (s.rv a) (s.rv b) p w z false 2 (bitFn (shrLane w))

/-- VSAR (R103). -/
def execVsar (sp : BitVec 3) (d a b : BitVec 5) (p ty : BitVec 3) (z : BitVec 1) (s : State) : Host.Outcome State Fault Refusal :=
  issueSlot sp (.vsar sp d a b p ty z) s fun s =>
    let w := tyWidth ty
    gatedOp s d (s.rv a) (s.rv b) p w z false 2 (bitFn (sarLane w))

/-- VABS (R100, R101). -/
def execVabs (sp : BitVec 3) (d a : BitVec 5) (p ty : BitVec 3) (z : BitVec 1) (s : State) : Host.Outcome State Fault Refusal :=
  issueSlot sp (.vabs sp d a p ty z) s fun s =>
    let w := tyWidth ty
    gatedOp s d (s.rv a) 0 p w z false 2 (if tyInt ty then bitFn fun a _ => truncInt w (asSigned w a).natAbs else signFn (tyFmt ty) true)

/-- VNEG (R100, R101). -/
def execVneg (sp : BitVec 3) (d a : BitVec 5) (p ty : BitVec 3) (z : BitVec 1) (s : State) : Host.Outcome State Fault Refusal :=
  issueSlot sp (.vneg sp d a p ty z) s fun s =>
    let w := tyWidth ty
    gatedOp s d (s.rv a) 0 p w z false 2 (if tyInt ty then bitFn fun a _ => truncInt w (-asSigned w a) else signFn (tyFmt ty) false)

/-- VPOPC (R103). -/
def execVpopc (sp : BitVec 3) (d a : BitVec 5) (p ty : BitVec 3) (z : BitVec 1) (s : State) : Host.Outcome State Fault Refusal :=
  issueSlot sp (.vpopc sp d a p ty z) s fun s =>
    let w := tyWidth ty
    gatedOp s d (s.rv a) 0 p w z false 2 (bitFn fun a _ => popCount w a)

/-- VCLZ (R103). -/
def execVclz (sp : BitVec 3) (d a : BitVec 5) (p ty : BitVec 3) (z : BitVec 1) (s : State) : Host.Outcome State Fault Refusal :=
  issueSlot sp (.vclz sp d a p ty z) s fun s =>
    let w := tyWidth ty
    gatedOp s d (s.rv a) 0 p w z false 2 (bitFn fun a _ => leadingZeros w a)

/-- VMOV (R105). -/
def execVmov (sp : BitVec 3) (d a : BitVec 5) (p ty : BitVec 3) (z : BitVec 1) (s : State) : Host.Outcome State Fault Refusal :=
  issueSlot sp (.vmov sp d a p ty z) s fun s =>
    let w := tyWidth ty
    gatedOp s d (s.rv a) 0 p w z false 2 (bitFn fun a _ => a)

/-- VADDS (R100). -/
def execVadds (sp : BitVec 3) (d a b : BitVec 5) (p ty : BitVec 3) (nat z : BitVec 1) (s : State) : Host.Outcome State Fault Refusal :=
  issueSlot sp (.vadds sp d a b p ty nat z) s fun s =>
    let w := tyWidth ty
    gatedOp s d (s.rv a) (s.rv b) p w z false 2
      (bitFn fun a b => if nat = 1 then satN w ((a : Int) + b) else satS w (asSigned w a + asSigned w b))

/-- VSUBS (R100). -/
def execVsubs (sp : BitVec 3) (d a b : BitVec 5) (p ty : BitVec 3) (nat z : BitVec 1) (s : State) : Host.Outcome State Fault Refusal :=
  issueSlot sp (.vsubs sp d a b p ty nat z) s fun s =>
    let w := tyWidth ty
    gatedOp s d (s.rv a) (s.rv b) p w z false 2
      (bitFn fun a b => if nat = 1 then satN w ((a : Int) - b) else satS w (asSigned w a - asSigned w b))

/-- VDOT (R102): the destination and its gate at 32 bits. -/
def execVdot (sp : BitVec 3) (d a b : BitVec 5) (p ty : BitVec 3) (nat z : BitVec 1) (s : State) : Host.Outcome State Fault Refusal :=
  issueSlot sp (.vdot sp d a b p ty nat z) s fun s =>
    gatedOp s d (s.rv a) (s.rv b) p 32 z true (mulLatency ty) fun r a b c =>
      if tyInt ty then
        let g (x : Nat) : Int := if nat = 1 then (x : Int) else asSigned 8 x
        (truncInt 32 (asSigned 32 c + (List.zipWith (fun x y => g x * g y) (cut 8 4 a) (cut 8 4 b)).sum), r)
      else
        let f := tyFmt ty
        let ps := List.zipWith (fun x y => FV.mul (fvalue f x) (fvalue f y)) (cut 16 2 a) (cut 16 2 b)
        roundSum fmt32 r (ps.any (·.2)) (fvalue fmt32 c :: ps.map (·.1))

/-- VSHLI (R103). -/
def execVshli (sp : BitVec 3) (d a n : BitVec 5) (p ty : BitVec 3) (z : BitVec 1) (s : State) : Host.Outcome State Fault Refusal :=
  issueSlot sp (.vshli sp d a n p ty z) s fun s =>
    let w := tyWidth ty
    gatedOp s d (s.rv a) 0 p w z false 2 (bitFn fun a _ => shlLane w a n.toNat)

/-- VSHRI (R103). -/
def execVshri (sp : BitVec 3) (d a n : BitVec 5) (p ty : BitVec 3) (nat z : BitVec 1) (s : State) : Host.Outcome State Fault Refusal :=
  issueSlot sp (.vshri sp d a n p ty nat z) s fun s =>
    let w := tyWidth ty
    gatedOp s d (s.rv a) 0 p w z false 2 (bitFn fun a _ => if nat = 1 then shrLane w a n.toNat else sarLane w a n.toNat)

/-- A comparison (R104): the lane's bits of p[d]. -/
def compareOp (sp : BitVec 3) (i : Instr) (d a b : BitVec 5) (p ty : BitVec 3) (z : BitVec 1)
    (fi : Nat → Nat → Bool) (ff : FV → FV → Bool) (s : State) : Host.Outcome State Fault Refusal :=
  issueSlot sp i s fun s =>
    let w := tyWidth ty
    let old := if p = 0 ∨ z = 1 then 0 else s.rp d.toNat
    let f := tyFmt ty
    let res := List.zipWith (fun x y => if tyInt ty then fi x y else ff (fvalue f x) (fvalue f y)) (lanes w (s.rv a)) (lanes w (s.rv b))
    let olds := cut (w / 8) (2048 / w) old.toNat
    let out := List.zipWith (fun (x : Bool × Bool) o => if x.1 then (if x.2 then 2 ^ (w / 8) - 1 else 0) else o)
      (List.zip (actives s p w) res) olds
    s.due (.p d.toNat) (BitVec.ofNat 2048 (join (w / 8) out)) 1 2

/-- VCMPEQ (R104). -/
def execVcmpeq (sp : BitVec 3) (d a b : BitVec 5) (p ty : BitVec 3) (z : BitVec 1) (s : State) : Host.Outcome State Fault Refusal :=
  compareOp sp (.vcmpeq sp d a b p ty z) d a b p ty z (fun x y => x == y) FV.same s

/-- VCMPNE (R104). -/
def execVcmpne (sp : BitVec 3) (d a b : BitVec 5) (p ty : BitVec 3) (z : BitVec 1) (s : State) : Host.Outcome State Fault Refusal :=
  compareOp sp (.vcmpne sp d a b p ty z) d a b p ty z (fun x y => x != y) (fun x y => !x.same y) s

/-- VCMPLT (R104). -/
def execVcmplt (sp : BitVec 3) (d a b : BitVec 5) (p ty : BitVec 3) (z : BitVec 1) (s : State) : Host.Outcome State Fault Refusal :=
  compareOp sp (.vcmplt sp d a b p ty z) d a b p ty z (fun x y => asSigned (tyWidth ty) x < asSigned (tyWidth ty) y) (fun x y => x.less false y) s

/-- VCMPLE (R104). -/
def execVcmple (sp : BitVec 3) (d a b : BitVec 5) (p ty : BitVec 3) (z : BitVec 1) (s : State) : Host.Outcome State Fault Refusal :=
  compareOp sp (.vcmple sp d a b p ty z) d a b p ty z (fun x y => asSigned (tyWidth ty) x ≤ asSigned (tyWidth ty) y) (fun x y => x.less false y || x.same y) s

/-- VCMPLTN (R104). -/
def execVcmpltn (sp : BitVec 3) (d a b : BitVec 5) (p ty : BitVec 3) (z : BitVec 1) (s : State) : Host.Outcome State Fault Refusal :=
  compareOp sp (.vcmpltn sp d a b p ty z) d a b p ty z (fun x y => x < y) (fun _ _ => false) s

/-- VCMPUN (R104). -/
def execVcmpun (sp : BitVec 3) (d a b : BitVec 5) (p ty : BitVec 3) (z : BitVec 1) (s : State) : Host.Outcome State Fault Refusal :=
  compareOp sp (.vcmpun sp d a b p ty z) d a b p ty z (fun _ _ => false) (fun x y => x.isNan || y.isNan) s

/-- VSEL (R105): p is a selector. -/
def execVsel (sp : BitVec 3) (d a b : BitVec 5) (p ty : BitVec 3) (s : State) : Host.Outcome State Fault Refusal :=
  issueSlot sp (.vsel sp d a b p ty) s fun s =>
    let w := tyWidth ty
    let xs := List.zipWith (fun (x : Nat × Nat) c => if c then x.1 else x.2) (List.zip (lanes w (s.rv a)) (lanes w (s.rv b))) (actives s p w)
    s.due (.v d.toNat) (ofLanes w xs) 1 2

/-- VBCAST (R105). -/
def execVbcast (sp : BitVec 3) (d a : BitVec 5) (p ty : BitVec 3) (z : BitVec 1) (s : State) : Host.Outcome State Fault Refusal :=
  issueSlot sp (.vbcast sp d a p ty z) s fun s =>
    let w := tyWidth ty
    let x := (s.rx a).toNat % 2 ^ w
    gatedOp s d 0 0 p w z false 2 (bitFn fun _ _ => x)

/-- VIOTA (R105). -/
def execViota (sp : BitVec 3) (d a : BitVec 5) (p ty : BitVec 3) (z : BitVec 1) (s : State) : Host.Outcome State Fault Refusal :=
  issueSlot sp (.viota sp d a p ty z) s fun s =>
    let w := tyWidth ty
    let x := (s.rx a).toNat
    gatedOp s d (ofLanes w ((List.range (2048 / w)).map fun i => x + i)) 0 p w z false 2 (bitFn fun a _ => a)

/-- VEXT (R105). -/
def execVext (sp : BitVec 3) (d a b : BitVec 5) (ty : BitVec 3) (nat : BitVec 1) (s : State) : Host.Outcome State Fault Refusal :=
  issueSlot sp (.vext sp d a b ty nat) s fun s =>
    let w := tyWidth ty
    let e := lane w (s.rv a) ((s.rx b).toNat % (2048 / w))
    s.due (.x d.toNat) (wide (if tyInt ty && nat == 0 then BitVec.ofInt 64 (asSigned w e) else BitVec.ofNat 64 e)) 1 2

/-- VINS (R105). -/
def execVins (sp : BitVec 3) (d a b : BitVec 5) (ty : BitVec 3) (s : State) : Host.Outcome State Fault Refusal :=
  issueSlot sp (.vins sp d a b ty) s fun s =>
    let w := tyWidth ty
    s.due (.v d.toNat) (setLane w (s.rv d) ((s.rx b).toNat % (2048 / w)) ((s.rx a).toNat % 2 ^ w)) 1 2

/-- VPERM (R105). -/
def execVperm (sp : BitVec 3) (d a b : BitVec 5) (p ty : BitVec 3) (oz z : BitVec 1) (s : State) : Host.Outcome State Fault Refusal :=
  issueSlot sp (.vperm sp d a b p ty oz z) s fun s =>
    let w := tyWidth ty
    let n := 2048 / w
    let src := s.rv a
    gatedOp s d src (s.rv b) p w z false 2 (bitFn fun _ k => if oz = 1 ∧ n ≤ k then 0 else lane w src (k % n))

/-- VROT (R105). -/
def execVrot (sp : BitVec 3) (d a b : BitVec 5) (p ty : BitVec 3) (z : BitVec 1) (s : State) : Host.Outcome State Fault Refusal :=
  issueSlot sp (.vrot sp d a b p ty z) s fun s =>
    let w := tyWidth ty
    let n := 2048 / w
    let k := (s.rx b).toNat % n
    let xs := lanes w (s.rv a)
    gatedOp s d (ofLanes w (xs.drop k ++ xs.take k)) 0 p w z false 2 (bitFn fun a _ => a)

/-- VMERGE (R105): the top k lanes. -/
def execVmerge (sp : BitVec 3) (d a b : BitVec 5) (ty : BitVec 3) (s : State) : Host.Outcome State Fault Refusal :=
  issueSlot sp (.vmerge sp d a b ty) s fun s =>
    let w := tyWidth ty
    let n := 2048 / w
    let k := (s.rx b).toNat % n
    s.due (.v d.toNat) (ofLanes w ((lanes w (s.rv d)).take (n - k) ++ (lanes w (s.rv a)).drop (n - k))) 1 2

/-- One level of a reduction tree (R106): neighbouring nodes combined, the lower first, an empty node giving the other. -/
def treeLevel (f : Rnd → Nat → Nat → Nat × Rnd) : Rnd → List (Option Nat) → List (Option Nat) × Rnd
  | r, x :: y :: xs =>
    let (z, r) := match x, y with
      | some a, some b => let (c, r) := f r a b; (some c, r)
      | some a, none => (some a, r)
      | none, b => (b, r)
    let (zs, r) := treeLevel f r xs
    (z :: zs, r)
  | r, xs => (xs, r)

/-- The root of a reduction tree over 2^n leaves. -/
def treeRoot (f : Rnd → Nat → Nat → Nat × Rnd) : Nat → Rnd → List (Option Nat) → Option Nat × Rnd
  | 0, r, xs => ((xs.head?).join, r)
  | n + 1, r, xs =>
    let (ys, r) := treeLevel f r xs
    treeRoot f n r ys

/-- A reduction (R106): integer leaves extended to 64 bits, floating leaves converted to FP32. -/
def reduceOp (sp : BitVec 3) (i : Instr) (d a : BitVec 5) (p ty : BitVec 3) (nat : BitVec 1) (none_ : Nat)
    (fi : Int → Int → Int) (ff : Rnd → Nat → Nat → Nat × Rnd) (s : State) : Host.Outcome State Fault Refusal :=
  issueSlot sp i s fun s =>
    let w := tyWidth ty
    let leaf (x : Nat) : Nat :=
      if tyInt ty then (if nat = 1 then x else truncInt 64 (asSigned w x)) else (fround fmt32 rndRne (fvalue (tyFmt ty) x)).1
    let f : Rnd → Nat → Nat → Nat × Rnd := fun r x y =>
      if tyInt ty then
        let g (x : Nat) : Int := if nat = 1 then (x : Int) else asSigned 64 x
        (truncInt 64 (fi (g x) (g y)), r)
      else ff r x y
    let xs := List.zipWith (fun c x => if c then some (leaf x) else none) (actives s p w) (lanes w (s.rv a))
    let (root, r) := treeRoot f 8 s.ctx.rnd xs
    vxDue s (.x d.toNat) (wide (BitVec.ofNat 64 (root.getD (if tyInt ty then 0 else none_)))) 6 r

/-- VREDADD (R106). -/
def execVredadd (sp : BitVec 3) (d a : BitVec 5) (p ty : BitVec 3) (nat : BitVec 1) (s : State) : Host.Outcome State Fault Refusal :=
  reduceOp sp (.vredadd sp d a p ty nat) d a p ty nat 0 (· + ·) (fun r x y => sumFn fmt32 false r x y 0) s

/-- VREDMAX (R106). -/
def execVredmax (sp : BitVec 3) (d a : BitVec 5) (p ty : BitVec 3) (nat : BitVec 1) (s : State) : Host.Outcome State Fault Refusal :=
  reduceOp sp (.vredmax sp d a p ty nat) d a p ty nat 0x7FC00000 max (fun r x y => (fminmax fmt32 true x y, r)) s

/-- VREDMIN (R106). -/
def execVredmin (sp : BitVec 3) (d a : BitVec 5) (p ty : BitVec 3) (nat : BitVec 1) (s : State) : Host.Outcome State Fault Refusal :=
  reduceOp sp (.vredmin sp d a p ty nat) d a p ty nat 0x7FC00000 min (fun r x y => (fminmax fmt32 false x y, r)) s

/-- The running sums of VSCAN over (active, lane, base) in lane order (R107). -/
def scanLanes (add : Rnd → Nat → Nat → Nat × Rnd) : Rnd → Nat → List (Bool × Nat × Nat) → List Nat × Rnd
  | r, _, [] => ([], r)
  | r, acc, (on, x, base) :: xs =>
    if on then
      let (y, r) := add r acc x
      let (ys, r) := scanLanes add r y xs
      (y :: ys, r)
    else
      let (ys, r) := scanLanes add r acc xs
      (base :: ys, r)

/-- VSCAN (R107). -/
def execVscan (sp : BitVec 3) (d a : BitVec 5) (p ty : BitVec 3) (z : BitVec 1) (s : State) : Host.Outcome State Fault Refusal :=
  issueSlot sp (.vscan sp d a p ty z) s fun s =>
    let w := tyWidth ty
    let base := if z = 1 then List.replicate (2048 / w) 0 else lanes w (gateOld s d p z)
    let add : Rnd → Nat → Nat → Nat × Rnd := fun r x y =>
      if tyInt ty then ((x + y) % 2 ^ w, r) else sumFn (tyFmt ty) false r x y 0
    let (xs, r) := scanLanes add s.ctx.rnd 0 (List.zip (actives s p w) (List.zip (lanes w (s.rv a)) base))
    vxDue s (.v d.toNat) (ofLanes w xs) 6 r

/-- VCVT (R109). -/
def execVcvt (sp : BitVec 3) (d a : BitVec 5) (smod : BitVec 1) (sty h ty : BitVec 3) (dmod z : BitVec 1) (s : State) : Host.Outcome State Fault Refusal :=
  issueSlot sp (.vcvt sp d a smod sty h ty dmod z) s fun s =>
    let ws := tyWidth sty
    let wd := tyWidth ty
    let ls := 2048 / ws
    let ld := 2048 / wd
    let conv := convert (NumFmt.ofCode sty.toNat (smod == 1)) (NumFmt.ofCode ty.toNat (dmod == 1))
    let src := lanes ws (s.rv a)
    if ws < wd then
      let (xs, r) := mapRnd conv s.ctx.rnd ((src.drop (h.toNat * ld)).take ld)
      vxDue s (.v d.toNat) (ofLanes wd xs) 4 r
    else if wd < ws then
      let old := if z = 1 then List.replicate ld 0 else lanes wd (s.rv d)
      let (xs, r) := mapRnd conv s.ctx.rnd src
      vxDue s (.v d.toNat) (ofLanes wd (old.take (h.toNat * ls) ++ xs ++ old.drop (h.toNat * ls + ls))) 4 r
    else
      let (xs, r) := mapRnd conv s.ctx.rnd src
      vxDue s (.v d.toNat) (ofLanes wd xs) 4 r

/-- Bytes of a register replaced from a place on. -/
def setBytes (v : Row) (i : Nat) (bs : List Nat) : Row :=
  let old := lanes 8 v
  ofLanes 8 (old.take i ++ bs ++ old.drop (i + bs.length))

/-- VPACK4 (R110): codes in v[d], scale bytes in v[b]. -/
def execVpack4 (sp : BitVec 3) (d a b : BitVec 5) (h ty : BitVec 3) (bt : BitVec 2) (s : State) : Host.Outcome State Fault Refusal :=
  issueSlot sp (.vpack4 sp d a b h ty bt) s fun s =>
    let w := tyWidth ty
    let nb := 2048 / w / 32
    let src := (lanes w (s.rv a)).map fun x => if tyInt ty then FV.ofInt (asSigned 8 x) else fvalue (tyFmt ty) x
    let (blocks, r) := mapRnd (fun r k =>
      let (sc, codes, r) := packBlock bt.toNat r ((src.drop (32 * k)).take 32)
      ((sc, codes), r)) s.ctx.rnd (List.range nb)
    let codes := blocks.flatMap fun k => cut 8 16 (join 4 k.2)
    let s' := vxDue s (.v d.toNat) (setBytes (s.rv d) (16 * h.toNat * nb) codes) 4 r
    s'.due (.v b.toNat) (setBytes (s.rv b) (h.toNat * nb) (blocks.map (·.1))) 1 4

/-- VUNPK4 (R111). -/
def execVunpk4 (sp : BitVec 3) (d a b : BitVec 5) (h ty : BitVec 3) (s : State) : Host.Outcome State Fault Refusal :=
  issueSlot sp (.vunpk4 sp d a b h ty) s fun s =>
    let f := tyFmt ty
    let nb := 2048 / f.width / 32
    let src := (List.range nb).flatMap fun k =>
      let g := h.toNat * nb + k
      let sc := lane 8 (s.rv b) g
      (cut 4 32 (bitsOf (s.rv a).toNat (128 * g) 128)).map fun c => (sc, c)
    let (xs, r) := mapRnd (fun r (x : Nat × Nat) =>
      let (v, bad) := blockValue x.1 x.2
      let (y, r) := fround f r v
      (y, if bad then r.raise flNV else r)) s.ctx.rnd src
    vxDue s (.v d.toNat) (ofLanes f.width xs) 4 r

/-- VCORD (R112): every lane; OF and UF come from the final rounding. That the rounded π/2 of an infinite operand sets no NX is the model's choice (log 74). -/
def execVcord (sp : BitVec 3) (d a n : BitVec 5) (func ty : BitVec 3) (s : State) : Host.Outcome State Fault Refusal :=
  issueSlot sp (.vcord sp d a n func ty) s fun s =>
    let f := tyFmt ty
    let (xs, r) := mapRnd (fun r x =>
      let (v, fl) := cordicLane func.toNat n.toNat x f
      let (y, r') := fround f { r with flags := 0 } v
      (y, { r' with flags := r.flags ||| (r'.flags &&& (flOF ||| flUF)) ||| fl })) s.ctx.rnd (lanes f.width (s.rv a))
    vxDue s (.v d.toNat) (ofLanes f.width xs) (n.toNat + 4) r

/-- PAND (R114). -/
def execPand (sp : BitVec 3) (d a b : BitVec 5) (s : State) : Host.Outcome State Fault Refusal :=
  issueSlot sp (.pand sp d a b) s fun s =>
    let x := s.rp a.toNat
    let y := s.rp b.toNat
    s.due (.p d.toNat) ((x &&& y).zeroExtend 2048) 1 2

/-- POR (R114). -/
def execPor (sp : BitVec 3) (d a b : BitVec 5) (s : State) : Host.Outcome State Fault Refusal :=
  issueSlot sp (.por sp d a b) s fun s =>
    let x := s.rp a.toNat
    let y := s.rp b.toNat
    s.due (.p d.toNat) ((x ||| y).zeroExtend 2048) 1 2

/-- PXOR (R114). -/
def execPxor (sp : BitVec 3) (d a b : BitVec 5) (s : State) : Host.Outcome State Fault Refusal :=
  issueSlot sp (.pxor sp d a b) s fun s =>
    let x := s.rp a.toNat
    let y := s.rp b.toNat
    s.due (.p d.toNat) ((x ^^^ y).zeroExtend 2048) 1 2

/-- PNOT (R114). -/
def execPnot (sp : BitVec 3) (d a : BitVec 5) (s : State) : Host.Outcome State Fault Refusal :=
  issueSlot sp (.pnot sp d a) s fun s => s.due (.p d.toNat) ((~~~(s.rp a.toNat)).zeroExtend 2048) 1 2

/-- PCNT (R114). -/
def execPcnt (sp : BitVec 3) (d a : BitVec 5) (ty : BitVec 3) (s : State) : Host.Outcome State Fault Refusal :=
  issueSlot sp (.pcnt sp d a ty) s fun s =>
    let w := tyWidth ty
    let pr := s.rp a.toNat
    s.due (.x d.toNat) (wide (BitVec.ofNat 64 ((List.range (2048 / w)).filter (active pr w)).length)) 1 2

/-- PFIRST (R114). -/
def execPfirst (sp : BitVec 3) (d a : BitVec 5) (ty : BitVec 3) (s : State) : Host.Outcome State Fault Refusal :=
  issueSlot sp (.pfirst sp d a ty) s fun s =>
    let w := tyWidth ty
    let pr := s.rp a.toNat
    s.due (.x d.toNat) (wide (BitVec.ofNat 64 (((List.range (2048 / w)).find? (active pr w)).getD (2048 / w)))) 1 2

/-- PTAIL (R114). -/
def execPtail (sp : BitVec 3) (d a : BitVec 5) (ty : BitVec 3) (s : State) : Host.Outcome State Fault Refusal :=
  issueSlot sp (.ptail sp d a ty) s fun s =>
    let w := tyWidth ty
    let n := (s.rx a).toNat
    s.due (.p d.toNat) ((ofLaneBits w ((List.range (2048 / w)).map fun i => i < n)).zeroExtend 2048) 1 2

end Sys2Proof.Machine
end

