-- ==== Sys2Proof/Machine/Dispatch.lean ====
section
/-! DEFINITION. The one match from an operation or event to its meaning. -/

namespace Sys2Proof.Machine

open Sys2Proof

/-- The meaning of every operation and event of the opcode table. -/
def exec (i : Instr) (s : State) : Host.Outcome State Fault Refusal :=
  match i with
  | .add sp d a b => Sys2Proof.Machine.execAdd sp d a b s
  | .sub sp d a b => Sys2Proof.Machine.execSub sp d a b s
  | .and sp d a b => Sys2Proof.Machine.execAnd sp d a b s
  | .or sp d a b => Sys2Proof.Machine.execOr sp d a b s
  | .xor sp d a b => Sys2Proof.Machine.execXor sp d a b s
  | .andn sp d a b => Sys2Proof.Machine.execAndn sp d a b s
  | .shl sp d a b => Sys2Proof.Machine.execShl sp d a b s
  | .shr sp d a b => Sys2Proof.Machine.execShr sp d a b s
  | .sar sp d a b => Sys2Proof.Machine.execSar sp d a b s
  | .rol sp d a b => Sys2Proof.Machine.execRol sp d a b s
  | .min sp d a b => Sys2Proof.Machine.execMin sp d a b s
  | .max sp d a b => Sys2Proof.Machine.execMax sp d a b s
  | .minn sp d a b => Sys2Proof.Machine.execMinn sp d a b s
  | .maxn sp d a b => Sys2Proof.Machine.execMaxn sp d a b s
  | .seq sp d a b => Sys2Proof.Machine.execSeq sp d a b s
  | .slt sp d a b => Sys2Proof.Machine.execSlt sp d a b s
  | .sltn sp d a b => Sys2Proof.Machine.execSltn sp d a b s
  | .sel sp d a b c => Sys2Proof.Machine.execSel sp d a b c s
  | .clz sp d a w => Sys2Proof.Machine.execClz sp d a w s
  | .popc sp d a w => Sys2Proof.Machine.execPopc sp d a w s
  | .addsh sp d a b sh => Sys2Proof.Machine.execAddsh sp d a b sh s
  | .addw sp d a b => Sys2Proof.Machine.execAddw sp d a b s
  | .bext sp d a sg len pos => Sys2Proof.Machine.execBext sp d a sg len pos s
  | .bins sp d a len pos => Sys2Proof.Machine.execBins sp d a len pos s
  | .mul sp d a b => Sys2Proof.Machine.execMul sp d a b s
  | .mulh sp d a b => Sys2Proof.Machine.execMulh sp d a b s
  | .mulhn sp d a b => Sys2Proof.Machine.execMulhn sp d a b s
  | .div sp d a b => Sys2Proof.Machine.execDiv sp d a b s
  | .divn sp d a b => Sys2Proof.Machine.execDivn sp d a b s
  | .rem sp d a b => Sys2Proof.Machine.execRem sp d a b s
  | .remn sp d a b => Sys2Proof.Machine.execRemn sp d a b s
  | .addi sp d a imm => Sys2Proof.Machine.execAddi sp d a imm s
  | .andi sp d a imm => Sys2Proof.Machine.execAndi sp d a imm s
  | .ori sp d a imm => Sys2Proof.Machine.execOri sp d a imm s
  | .xori sp d a imm => Sys2Proof.Machine.execXori sp d a imm s
  | .shli sp d a n => Sys2Proof.Machine.execShli sp d a n s
  | .shri sp d a n => Sys2Proof.Machine.execShri sp d a n s
  | .sari sp d a n => Sys2Proof.Machine.execSari sp d a n s
  | .slti sp d a imm => Sys2Proof.Machine.execSlti sp d a imm s
  | .sltni sp d a imm => Sys2Proof.Machine.execSltni sp d a imm s
  | .seqi sp d a imm => Sys2Proof.Machine.execSeqi sp d a imm s
  | .movl sp d imm => Sys2Proof.Machine.execMovl sp d imm s
  | .cati sp d imm => Sys2Proof.Machine.execCati sp d imm s
  | .ldx sp t base off => Sys2Proof.Machine.execLdx sp t base off s
  | .stx sp t base off => Sys2Proof.Machine.execStx sp t base off s
  | .ldv sp t base off => Sys2Proof.Machine.execLdv sp t base off s
  | .stv sp t base off => Sys2Proof.Machine.execStv sp t base off s
  | .stvp sp t base p off => Sys2Proof.Machine.execStvp sp t base p off s
  | .ldxf sp t base off => Sys2Proof.Machine.execLdxf sp t base off s
  | .stxe sp t base off => Sys2Proof.Machine.execStxe sp t base off s
  | .ldvf sp t base off => Sys2Proof.Machine.execLdvf sp t base off s
  | .stve sp t base off => Sys2Proof.Machine.execStve sp t base off s
  | .setfe sp t base off => Sys2Proof.Machine.execSetfe sp t base off s
  | .getfe sp t base off => Sys2Proof.Machine.execGetfe sp t base off s
  | .ldsp sp t k => Sys2Proof.Machine.execLdsp sp t k s
  | .stsp sp t k => Sys2Proof.Machine.execStsp sp t k s
  | .ldspv sp t k => Sys2Proof.Machine.execLdspv sp t k s
  | .stspv sp t k => Sys2Proof.Machine.execStspv sp t k s
  | .aadd sp t base b off => Sys2Proof.Machine.execAadd sp t base b off s
  | .amin sp t base b off => Sys2Proof.Machine.execAmin sp t base b off s
  | .amax sp t base b off => Sys2Proof.Machine.execAmax sp t base b off s
  | .aminn sp t base b off => Sys2Proof.Machine.execAminn sp t base b off s
  | .amaxn sp t base b off => Sys2Proof.Machine.execAmaxn sp t base b off s
  | .aand sp t base b off => Sys2Proof.Machine.execAand sp t base b off s
  | .aor sp t base b off => Sys2Proof.Machine.execAor sp t base b off s
  | .axor sp t base b off => Sys2Proof.Machine.execAxor sp t base b off s
  | .aswp sp t base b off => Sys2Proof.Machine.execAswp sp t base b off s
  | .acas sp t base b off => Sys2Proof.Machine.execAcas sp t base b off s
  | .vaor sp t base off => Sys2Proof.Machine.execVaor sp t base off s
  | .vaadd sp t base off => Sys2Proof.Machine.execVaadd sp t base off s
  | .gldx sp t base q off => Sys2Proof.Machine.execGldx sp t base q off s
  | .gstx sp t base q off => Sys2Proof.Machine.execGstx sp t base q off s
  | .gldv sp t base q off => Sys2Proof.Machine.execGldv sp t base q off s
  | .gstv sp t base q off => Sys2Proof.Machine.execGstv sp t base q off s
  | .gamo sp d a b ret q aop => Sys2Proof.Machine.execGamo sp d a b ret q aop s
  | .gred sp a b q aop => Sys2Proof.Machine.execGred sp a b q aop s
  | .drain sp scope mask => Sys2Proof.Machine.execDrain sp scope mask s
  | .vadd sp d a b p ty z => Sys2Proof.Machine.execVadd sp d a b p ty z s
  | .vsub sp d a b p ty z => Sys2Proof.Machine.execVsub sp d a b p ty z s
  | .vmul sp d a b p ty z => Sys2Proof.Machine.execVmul sp d a b p ty z s
  | .vfma sp d a b p ty z => Sys2Proof.Machine.execVfma sp d a b p ty z s
  | .vfms sp d a b p ty z => Sys2Proof.Machine.execVfms sp d a b p ty z s
  | .vmin sp d a b p ty z => Sys2Proof.Machine.execVmin sp d a b p ty z s
  | .vmax sp d a b p ty z => Sys2Proof.Machine.execVmax sp d a b p ty z s
  | .vminn sp d a b p ty z => Sys2Proof.Machine.execVminn sp d a b p ty z s
  | .vmaxn sp d a b p ty z => Sys2Proof.Machine.execVmaxn sp d a b p ty z s
  | .vabs sp d a p ty z => Sys2Proof.Machine.execVabs sp d a p ty z s
  | .vneg sp d a p ty z => Sys2Proof.Machine.execVneg sp d a p ty z s
  | .vadds sp d a b p ty nat z => Sys2Proof.Machine.execVadds sp d a b p ty nat z s
  | .vsubs sp d a b p ty nat z => Sys2Proof.Machine.execVsubs sp d a b p ty nat z s
  | .vmulh sp d a b p ty z => Sys2Proof.Machine.execVmulh sp d a b p ty z s
  | .vmulhn sp d a b p ty z => Sys2Proof.Machine.execVmulhn sp d a b p ty z s
  | .vdot sp d a b p ty nat z => Sys2Proof.Machine.execVdot sp d a b p ty nat z s
  | .vand sp d a b p ty z => Sys2Proof.Machine.execVand sp d a b p ty z s
  | .vor sp d a b p ty z => Sys2Proof.Machine.execVor sp d a b p ty z s
  | .vxor sp d a b p ty z => Sys2Proof.Machine.execVxor sp d a b p ty z s
  | .vandn sp d a b p ty z => Sys2Proof.Machine.execVandn sp d a b p ty z s
  | .vshl sp d a b p ty z => Sys2Proof.Machine.execVshl sp d a b p ty z s
  | .vshr sp d a b p ty z => Sys2Proof.Machine.execVshr sp d a b p ty z s
  | .vsar sp d a b p ty z => Sys2Proof.Machine.execVsar sp d a b p ty z s
  | .vshli sp d a n p ty z => Sys2Proof.Machine.execVshli sp d a n p ty z s
  | .vshri sp d a n p ty nat z => Sys2Proof.Machine.execVshri sp d a n p ty nat z s
  | .vpopc sp d a p ty z => Sys2Proof.Machine.execVpopc sp d a p ty z s
  | .vclz sp d a p ty z => Sys2Proof.Machine.execVclz sp d a p ty z s
  | .vcmpeq sp d a b p ty z => Sys2Proof.Machine.execVcmpeq sp d a b p ty z s
  | .vcmpne sp d a b p ty z => Sys2Proof.Machine.execVcmpne sp d a b p ty z s
  | .vcmplt sp d a b p ty z => Sys2Proof.Machine.execVcmplt sp d a b p ty z s
  | .vcmple sp d a b p ty z => Sys2Proof.Machine.execVcmple sp d a b p ty z s
  | .vcmpltn sp d a b p ty z => Sys2Proof.Machine.execVcmpltn sp d a b p ty z s
  | .vcmpun sp d a b p ty z => Sys2Proof.Machine.execVcmpun sp d a b p ty z s
  | .vsel sp d a b p ty => Sys2Proof.Machine.execVsel sp d a b p ty s
  | .vmov sp d a p ty z => Sys2Proof.Machine.execVmov sp d a p ty z s
  | .vbcast sp d a p ty z => Sys2Proof.Machine.execVbcast sp d a p ty z s
  | .vext sp d a b ty nat => Sys2Proof.Machine.execVext sp d a b ty nat s
  | .vins sp d a b ty => Sys2Proof.Machine.execVins sp d a b ty s
  | .vperm sp d a b p ty oz z => Sys2Proof.Machine.execVperm sp d a b p ty oz z s
  | .vrot sp d a b p ty z => Sys2Proof.Machine.execVrot sp d a b p ty z s
  | .vmerge sp d a b ty => Sys2Proof.Machine.execVmerge sp d a b ty s
  | .viota sp d a p ty z => Sys2Proof.Machine.execViota sp d a p ty z s
  | .vredadd sp d a p ty nat => Sys2Proof.Machine.execVredadd sp d a p ty nat s
  | .vredmax sp d a p ty nat => Sys2Proof.Machine.execVredmax sp d a p ty nat s
  | .vredmin sp d a p ty nat => Sys2Proof.Machine.execVredmin sp d a p ty nat s
  | .vscan sp d a p ty z => Sys2Proof.Machine.execVscan sp d a p ty z s
  | .vcvt sp d a smod sty h ty dmod z => Sys2Proof.Machine.execVcvt sp d a smod sty h ty dmod z s
  | .vpack4 sp d a b h ty bt => Sys2Proof.Machine.execVpack4 sp d a b h ty bt s
  | .vunpk4 sp d a b h ty => Sys2Proof.Machine.execVunpk4 sp d a b h ty s
  | .vcord sp d a n func ty => Sys2Proof.Machine.execVcord sp d a n func ty s
  | .pand sp d a b => Sys2Proof.Machine.execPand sp d a b s
  | .por sp d a b => Sys2Proof.Machine.execPor sp d a b s
  | .pxor sp d a b => Sys2Proof.Machine.execPxor sp d a b s
  | .pnot sp d a => Sys2Proof.Machine.execPnot sp d a s
  | .pcnt sp d a ty => Sys2Proof.Machine.execPcnt sp d a ty s
  | .pfirst sp d a ty => Sys2Proof.Machine.execPfirst sp d a ty s
  | .ptail sp d a ty => Sys2Proof.Machine.execPtail sp d a ty s
  | .mma sp acc a aoff ws bk kgm1 fmtA fmtB z => Sys2Proof.Machine.execMma sp acc a aoff ws bk kgm1 fmtA fmtB z s
  | .mmat sp acc a aoff ws bk kgm1 ftoff lvl z => Sys2Proof.Machine.execMmat sp acc a aoff ws bk kgm1 ftoff lvl z s
  | .mmae sp acc a aoff ws bk kgm1 ftoff lvl z => Sys2Proof.Machine.execMmae sp acc a aoff ws bk kgm1 ftoff lvl z s
  | .wbld sp ws a roff srow nrm1 kind fmt xfmt tag tg aq scope => Sys2Proof.Machine.execWbld sp ws a roff srow nrm1 kind fmt xfmt tag tg aq scope s
  | .wbclr sp mask tag tg => Sys2Proof.Machine.execWbclr sp mask tag tg s
  | .accz sp mask => Sys2Proof.Machine.execAccz sp mask s
  | .accrd sp acc d q => Sys2Proof.Machine.execAccrd sp acc d q s
  | .accwr sp acc a q => Sys2Proof.Machine.execAccwr sp acc a q s
  | .accbias sp acc a => Sys2Proof.Machine.execAccbias sp acc a s
  | .accst sp acc a roff ofmt rm tag tg tw sx rel scope => Sys2Proof.Machine.execAccst sp acc a roff ofmt rm tag tg tw sx rel scope s
  | .ftset sp e a => Sys2Proof.Machine.execFtset sp e a s
  | .ftget sp e d => Sys2Proof.Machine.execFtget sp e d s
  | .monrd sp d which => Sys2Proof.Machine.execMonrd sp d which s
  | .monclr sp mask => Sys2Proof.Machine.execMonclr sp mask s
  | .mbset sp a => Sys2Proof.Machine.execMbset sp a s
  | .cpy sp dir g a roff nrm1 sx tw tag tg aq rl scope fe => Sys2Proof.Machine.execCpy sp dir g a roff nrm1 sx tw tag tg aq rl scope fe s
  | .cpy2 sp dir g a roff nrm1 st tag tg aq rl scope fe => Sys2Proof.Machine.execCpy2 sp dir g a roff nrm1 st tag tg aq rl scope fe s
  | .cpyg sp l a roff nrm1 tag tg aq rl scope fe => Sys2Proof.Machine.execCpyg sp l a roff nrm1 tag tg aq rl scope fe s
  | .cpys sp l a roff nrm1 tag tg aq rl scope fe => Sys2Proof.Machine.execCpys sp l a roff nrm1 tag tg aq rl scope fe s
  | .cpyr sp w g a nrm1 sem sn tag tg aq rl scope fe => Sys2Proof.Machine.execCpyr sp w g a nrm1 sem sn tag tg aq rl scope fe s
  | .cpyt sp dir g a roff nrm1 tm tag tg aq rl scope fe => Sys2Proof.Machine.execCpyt sp dir g a roff nrm1 tm tag tg aq rl scope fe s
  | .cpyx sp t b a nrm1 sem sn tag tg aq rl scope fe => Sys2Proof.Machine.execCpyx sp t b a nrm1 sem sn tag tg aq rl scope fe s
  | .twany sp d m => Sys2Proof.Machine.execTwany sp d m s
  | .twall sp d m => Sys2Proof.Machine.execTwall sp d m s
  | .tffr sp d m => Sys2Proof.Machine.execTffr sp d m s
  | .tclr sp m => Sys2Proof.Machine.execTclr sp m s
  | .wait sp cm lim => Sys2Proof.Machine.execWait sp cm lim s
  | .semsig sp t loc sem n md scope => Sys2Proof.Machine.execSemsig sp t loc sem n md scope s
  | .semwait sp sem n nd scope => Sys2Proof.Machine.execSemwait sp sem n nd scope s
  | .semrd sp d sem scope => Sys2Proof.Machine.execSemrd sp d sem scope s
  | .bararv sp r loc bar n md scope => Sys2Proof.Machine.execBararv sp r loc bar n md scope s
  | .barwt sp g bar scope => Sys2Proof.Machine.execBarwt sp g bar scope s
  | .treearv sp d tr scope => Sys2Proof.Machine.execTreearv sp d tr scope s
  | .treewt sp g tr scope => Sys2Proof.Machine.execTreewt sp g tr scope s
  | .treemask sp a b tr => Sys2Proof.Machine.execTreemask sp a b tr s
  | .next sp => Sys2Proof.Machine.execNext sp s
  | .launch sp d a slot dep j oj => Sys2Proof.Machine.execLaunch sp d a slot dep j oj s
  | .task sp d a b c n slot dep => Sys2Proof.Machine.execTask sp d a b c n slot dep s
  | .doneUnit sp => Sys2Proof.Machine.execDoneUnit sp s
  | .doneItem sp a => Sys2Proof.Machine.execDoneItem sp a s
  | .cancel sp a lvl => Sys2Proof.Machine.execCancel sp a lvl s
  | .slabtag sp d a md q => Sys2Proof.Machine.execSlabtag sp d a md q s
  | .clkdiv sp fc fv fm fy d => Sys2Proof.Machine.execClkdiv sp fc fv fm fy d s
  | .timewt sp a => Sys2Proof.Machine.execTimewt sp a s
  | .bra sp off => Sys2Proof.Machine.execBra sp off s
  | .bz sp c off => Sys2Proof.Machine.execBz sp c off s
  | .bnz sp c off => Sys2Proof.Machine.execBnz sp c off s
  | .bltz sp c off => Sys2Proof.Machine.execBltz sp c off s
  | .bgez sp c off => Sys2Proof.Machine.execBgez sp c off s
  | .loopb sp lvl off => Sys2Proof.Machine.execLoopb sp lvl off s
  | .loopset sp lvl a n => Sys2Proof.Machine.execLoopset sp lvl a n s
  | .call sp off => Sys2Proof.Machine.execCall sp off s
  | .jr sp a => Sys2Proof.Machine.execJr sp a s
  | .jalr sp d a => Sys2Proof.Machine.execJalr sp d a s
  | .trap sp n => Sys2Proof.Machine.execTrap sp n s
  | .eret sp => Sys2Proof.Machine.execEret sp s
  | .srd sp d reg => Sys2Proof.Machine.execSrd sp d reg s
  | .swr sp a reg => Sys2Proof.Machine.execSwr sp a reg s
  | .fence sp kind scope => Sys2Proof.Machine.execFence sp kind scope s
  | .halt sp => Sys2Proof.Machine.execHalt sp s
  | .locq sp d a => Sys2Proof.Machine.execLocq sp d a s
  | .tsr sp d => Sys2Proof.Machine.execTsr sp d s
  | .cyc sp d n => Sys2Proof.Machine.execCyc sp d n s
  | .emptyBundle ckpt solo => Sys2Proof.Machine.execEmptyBundle ckpt solo s
  | .resultDue t h => Sys2Proof.Machine.execResultDue t h s
  | .clkdivApply t => Sys2Proof.Machine.execClkdivApply t s
  | .arrayPhaseStart t => Sys2Proof.Machine.execArrayPhaseStart t s
  | .mmaeEscalation t => Sys2Proof.Machine.execMmaeEscalation t s
  | .arrayOperationDue t => Sys2Proof.Machine.execArrayOperationDue t s
  | .matrixCommandCompletion t id => Sys2Proof.Machine.execMatrixCommandCompletion t id s
  | .copyCommandStart t => Sys2Proof.Machine.execCopyCommandStart t s
  | .cpytStart t id => Sys2Proof.Machine.execCpytStart t id s
  | .copyRowLand rid => Sys2Proof.Machine.execCopyRowLand rid s
  | .copyCompletion t id => Sys2Proof.Machine.execCopyCompletion t id s
  | .globalLoadCompletion rid => Sys2Proof.Machine.execGlobalLoadCompletion rid s
  | .globalAckArrival pid => Sys2Proof.Machine.execGlobalAckArrival pid s
  | .globalAccessError rid cause => Sys2Proof.Machine.execGlobalAccessError rid cause s
  | .translationWalk die rid => Sys2Proof.Machine.execTranslationWalk die rid s
  | .homePortAccess rid corrected => Sys2Proof.Machine.execHomePortAccess rid s corrected
  | .reductionApply pid => Sys2Proof.Machine.execReductionApply pid s
  | .packetArrival pid noise => Sys2Proof.Machine.execPacketArrival pid s noise
  | .mergeEntrySend node e => Sys2Proof.Machine.execMergeEntrySend node e s
  | .retransmitTimeout node dest cls => Sys2Proof.Machine.execRetransmitTimeout node dest cls s
  | .linkLevelRetry edge m lane failed => Sys2Proof.Machine.execLinkLevelRetry edge m lane s failed
  | .moduleOutOfService edge m => Sys2Proof.Machine.execModuleOutOfService edge m s
  | .moduleRetrainEnd edge m ok lanes => Sys2Proof.Machine.execModuleRetrainEnd edge m ok s lanes
  | .edgeFailure edge => Sys2Proof.Machine.execEdgeFailure edge s
  | .nodeReset node enter => Sys2Proof.Machine.execNodeReset node enter s
  | .routeTableAdoption node => Sys2Proof.Machine.execRouteTableAdoption node s
  | .scaleOutRetrain port up => Sys2Proof.Machine.execScaleOutRetrain port up s
  | .ptcAlignment node skip => Sys2Proof.Machine.execPtcAlignment node skip s
  | .semaphoreUpdate t => Sys2Proof.Machine.execSemaphoreUpdate t s
  | .barrierUpdate t => Sys2Proof.Machine.execBarrierUpdate t s
  | .treeArrivalAtRoot job tree t => Sys2Proof.Machine.execTreeArrivalAtRoot job tree t s
  | .treeMaskAtRoot job tree row k mask => Sys2Proof.Machine.execTreeMaskAtRoot job tree row k mask s
  | .tgenIncrement job tree die => Sys2Proof.Machine.execTgenIncrement job tree die s
  | .nextRotate t h => Sys2Proof.Machine.execNextRotate t h s
  | .nextReplyArrival t h => Sys2Proof.Machine.execNextReplyArrival t h s
  | .nextRequestService t h => Sys2Proof.Machine.execNextRequestService t h s
  | .itemReport rid => Sys2Proof.Machine.execItemReport rid s
  | .launchReady job lid => Sys2Proof.Machine.execLaunchReady job lid s
  | .launchSpecRead job lid => Sys2Proof.Machine.execLaunchSpecRead job lid s
  | .unitPlacement job lid => Sys2Proof.Machine.execUnitPlacement job lid s
  | .unitEnd job uid => Sys2Proof.Machine.execUnitEnd job uid s
  | .launchComplete job lid => Sys2Proof.Machine.execLaunchComplete job lid s
  | .taskDispatch job lid => Sys2Proof.Machine.execTaskDispatch job lid s
  | .graphInstanceStart seq => Sys2Proof.Machine.execGraphInstanceStart seq s
  | .graphInstanceComplete job inst => Sys2Proof.Machine.execGraphInstanceComplete job inst s
  | .phaseComplete job => Sys2Proof.Machine.execPhaseComplete job s
  | .jobClearing job => Sys2Proof.Machine.execJobClearing job s
  | .jobClearingEnd job => Sys2Proof.Machine.execJobClearingEnd job s
  | .checkpointCommit t => Sys2Proof.Machine.execCheckpointCommit t s
  | .timingReplay t back restarts => Sys2Proof.Machine.execTimingReplay t back restarts s
  | .kgroupReplay t restarts => Sys2Proof.Machine.execKgroupReplay t restarts s
  | .dataErrorRollback t kind => Sys2Proof.Machine.execDataErrorRollback t kind s
  | .trapEntry t h => Sys2Proof.Machine.execTrapEntry t h s
  | .preEmption job => Sys2Proof.Machine.execPreEmption job s
  | .restore job => Sys2Proof.Machine.execRestore job s
  | .predictiveLeak node => Sys2Proof.Machine.execPredictiveLeak s node
  | .chinookWindowEnd t => Sys2Proof.Machine.execChinookWindowEnd t s
  | .chinookFlashWrite t => Sys2Proof.Machine.execChinookFlashWrite t s
  | .throttleStep region ik i0 => Sys2Proof.Machine.execThrottleStep region ik i0 s
  | .droopAlarm region begun lasts => Sys2Proof.Machine.execDroopAlarm region s begun lasts
  | .droopStretchRelax region => Sys2Proof.Machine.execDroopStretchRelax region s
  | .powerCapEvaluation power => Sys2Proof.Machine.execPowerCapEvaluation power s
  | .pacingEvaluation job slacks => Sys2Proof.Machine.execPacingEvaluation job slacks s
  | .temperatureRead die temps => Sys2Proof.Machine.execTemperatureRead die temps s
  | .inputSag volt => Sys2Proof.Machine.execInputSag volt s
  | .sagRecovery volt => Sys2Proof.Machine.execSagRecovery volt s
  | .sagTimeout => Sys2Proof.Machine.execSagTimeout s
  | .internalBusLow => Sys2Proof.Machine.execInternalBusLow s
  | .emergencySequence thermal => Sys2Proof.Machine.execEmergencySequence thermal s
  | .powerEnableLow micros => Sys2Proof.Machine.execPowerEnableLow micros s
  | .inputRemoval => Sys2Proof.Machine.execInputRemoval s
  | .moduleReset recovery cd24ok => Sys2Proof.Machine.execModuleReset recovery cd24ok s
  | .flashWrite port off bytes => Sys2Proof.Machine.execFlashWrite port off bytes s
  | .commandRecordWrite port off size data => Sys2Proof.Machine.execCommandRecordWrite port off size data s
  | .recordAccept port => Sys2Proof.Machine.execRecordAccept port s
  | .createJob seq => Sys2Proof.Machine.execCreateJob seq s
  | .loadRange seq => Sys2Proof.Machine.execLoadRange seq s
  | .loadInval seq => Sys2Proof.Machine.execLoadInval seq s
  | .loadMethod seq => Sys2Proof.Machine.execLoadMethod seq s
  | .loadGraph seq => Sys2Proof.Machine.execLoadGraph seq s
  | .runGraph seq => Sys2Proof.Machine.execRunGraph seq s
  | .cancelRecord seq => Sys2Proof.Machine.execCancelRecord seq s
  | .query seq hostOk => Sys2Proof.Machine.execQuery seq hostOk s
  | .selfTest seq fails => Sys2Proof.Machine.execSelfTest seq fails s
  | .setPolicyTree seq => Sys2Proof.Machine.execSetPolicyTree seq s
  | .setPolicyPcap seq => Sys2Proof.Machine.execSetPolicyPcap seq s
  | .setPolicyCslr seq => Sys2Proof.Machine.execSetPolicyCslr seq s
  | .setPolicyMarks seq => Sys2Proof.Machine.execSetPolicyMarks seq s
  | .completionRecord seq => Sys2Proof.Machine.execCompletionRecord seq s
  | .hsemClaim port idx p => Sys2Proof.Machine.execHsemClaim port idx p s
  | .hsemRelease port idx => Sys2Proof.Machine.execHsemRelease port idx s
  | .hostLinkDown port => Sys2Proof.Machine.execHostLinkDown port s
  | .apertureRead port off len => Sys2Proof.Machine.execApertureRead port off len s
  | .apertureWrite port off bytes => Sys2Proof.Machine.execApertureWrite port off bytes s
  | .registerWrite port off value => Sys2Proof.Machine.execRegisterWrite port off value s
  | .acknowledgementDeparture node src cls => Sys2Proof.Machine.execAcknowledgementDeparture node src cls s

end Sys2Proof.Machine
end

