-- ==== Sys2Proof/Machine/Events.lean ====
section
/-! DEFINITION. The meaning of the agenda's events: that of the operation of the same name. Each is called here by itself, as `exec` calls it. -/

namespace Sys2Proof.Machine

/-- What an event does. -/
def Event.run (e : Event) (s : State) : Host.Outcome State Fault Refusal :=
  match e with
  | .resultDue t h => execResultDue t h s
  | .clkdivApply t => execClkdivApply t s
  | .arrayPhaseStart t => execArrayPhaseStart t s
  | .mmaeEscalation t => execMmaeEscalation t s
  | .arrayOperationDue t => execArrayOperationDue t s
  | .matrixCommandCompletion t id => execMatrixCommandCompletion t id s
  | .copyCommandStart t => execCopyCommandStart t s
  | .cpytStart t id => execCpytStart t id s
  | .copyRowLand rid => execCopyRowLand rid s
  | .copyCompletion t id => execCopyCompletion t id s
  | .globalLoadCompletion rid => execGlobalLoadCompletion rid s
  | .globalAckArrival pid => execGlobalAckArrival pid s
  | .globalAccessError rid cause => execGlobalAccessError rid cause s
  | .translationWalk die rid => execTranslationWalk die rid s
  | .homePortAccess rid corrected => execHomePortAccess rid s corrected
  | .reductionApply pid => execReductionApply pid s
  | .packetArrival pid noise => execPacketArrival pid s noise
  | .mergeEntrySend node e => execMergeEntrySend node e s
  | .retransmitTimeout node dest cls => execRetransmitTimeout node dest cls s
  | .linkLevelRetry edge m lane failed => execLinkLevelRetry edge m lane s failed
  | .moduleOutOfService edge m => execModuleOutOfService edge m s
  | .moduleRetrainEnd edge m ok lanes => execModuleRetrainEnd edge m ok s lanes
  | .edgeFailure edge => execEdgeFailure edge s
  | .nodeReset node enter => execNodeReset node enter s
  | .routeTableAdoption node => execRouteTableAdoption node s
  | .scaleOutRetrain port up => execScaleOutRetrain port up s
  | .ptcAlignment node skip => execPtcAlignment node skip s
  | .semaphoreUpdate t => execSemaphoreUpdate t s
  | .barrierUpdate t => execBarrierUpdate t s
  | .treeArrivalAtRoot job tree t => execTreeArrivalAtRoot job tree t s
  | .treeMaskAtRoot job tree row k mask => execTreeMaskAtRoot job tree row k mask s
  | .tgenIncrement job tree die => execTgenIncrement job tree die s
  | .nextRotate t h => execNextRotate t h s
  | .nextReplyArrival t h => execNextReplyArrival t h s
  | .nextRequestService t h => execNextRequestService t h s
  | .itemReport rid => execItemReport rid s
  | .launchReady job lid => execLaunchReady job lid s
  | .launchSpecRead job lid => execLaunchSpecRead job lid s
  | .unitPlacement job lid => execUnitPlacement job lid s
  | .unitEnd job uid => execUnitEnd job uid s
  | .launchComplete job lid => execLaunchComplete job lid s
  | .taskDispatch job lid => execTaskDispatch job lid s
  | .graphInstanceStart seq => execGraphInstanceStart seq s
  | .graphInstanceComplete job inst => execGraphInstanceComplete job inst s
  | .phaseComplete job => execPhaseComplete job s
  | .jobClearing job => execJobClearing job s
  | .jobClearingEnd job => execJobClearingEnd job s
  | .checkpointCommit t => execCheckpointCommit t s
  | .timingReplay t back restarts => execTimingReplay t back restarts s
  | .kgroupReplay t restarts => execKgroupReplay t restarts s
  | .dataErrorRollback t kind => execDataErrorRollback t kind s
  | .trapEntry t h => execTrapEntry t h s
  | .preEmption job => execPreEmption job s
  | .restore job => execRestore job s
  | .predictiveLeak node => execPredictiveLeak s node
  | .chinookWindowEnd t => execChinookWindowEnd t s
  | .chinookFlashWrite t => execChinookFlashWrite t s
  | .throttleStep region ik i0 => execThrottleStep region ik i0 s
  | .droopAlarm region begun lasts => execDroopAlarm region s begun lasts
  | .droopStretchRelax region => execDroopStretchRelax region s
  | .powerCapEvaluation power => execPowerCapEvaluation power s
  | .pacingEvaluation job slacks => execPacingEvaluation job slacks s
  | .temperatureRead die temps => execTemperatureRead die temps s
  | .inputSag volt => execInputSag volt s
  | .sagRecovery volt => execSagRecovery volt s
  | .sagTimeout => execSagTimeout s
  | .internalBusLow => execInternalBusLow s
  | .emergencySequence thermal => execEmergencySequence thermal s
  | .powerEnableLow micros => execPowerEnableLow micros s
  | .inputRemoval => execInputRemoval s
  | .moduleReset recovery cd24ok => execModuleReset recovery cd24ok s
  | .flashWrite port off bytes => execFlashWrite port off bytes s
  | .commandRecordWrite port off size data => execCommandRecordWrite port off size data s
  | .recordAccept port => execRecordAccept port s
  | .createJob seq => execCreateJob seq s
  | .loadRange seq => execLoadRange seq s
  | .loadInval seq => execLoadInval seq s
  | .loadMethod seq => execLoadMethod seq s
  | .loadGraph seq => execLoadGraph seq s
  | .runGraph seq => execRunGraph seq s
  | .cancelRecord seq => execCancelRecord seq s
  | .query seq hostOk => execQuery seq hostOk s
  | .selfTest seq fails => execSelfTest seq fails s
  | .setPolicyTree seq => execSetPolicyTree seq s
  | .setPolicyPcap seq => execSetPolicyPcap seq s
  | .setPolicyCslr seq => execSetPolicyCslr seq s
  | .setPolicyMarks seq => execSetPolicyMarks seq s
  | .completionRecord seq => execCompletionRecord seq s
  | .hsemClaim port i p => execHsemClaim port i p s
  | .hsemRelease port i => execHsemRelease port i s
  | .hostLinkDown port => execHostLinkDown port s
  | .apertureRead port off len => execApertureRead port off len s
  | .apertureWrite port off bytes => execApertureWrite port off bytes s
  | .registerWrite port off value => execRegisterWrite port off value s
  | .acknowledgementDeparture node src cls => execAcknowledgementDeparture node src cls s

end Sys2Proof.Machine
end

