-- ==== Sys2Proof/Machine/Cycle.lean ====
section
/-! DEFINITION. One control cycle of a tile: freezes, inputs, the two issue streams, the engines, and the end of the issue cycle (R251 to
R264, R147, R154 to R159, R327 to R335). -/

namespace Sys2Proof.Machine

/-- A result followed by what comes next; a fault or a refusal stops. -/
def andThen {σ τ : Type} (o : Host.Outcome σ Fault Refusal) (f : σ → Host.Outcome τ Fault Refusal) : Host.Outcome τ Fault Refusal :=
  match o with
  | .next s => f s
  | .fault r => .fault r
  | .refused r => .refused r

/-! ### The slots of a bundle -/

/-- The slots of a bundle whose guard is on (R29). -/
def State.guarded (s : State) (b : Bundle) : List (SlotClass × Instr) := b.slots.filter fun p => s.guardOn p.2.sp

/-- The frame at a slot. -/
def State.atSlot (s : State) (c : SlotClass) : State := { s with cur := { s.cur with pm := c.pm } }

/-- The frame of a context whose next bundle is looked at. -/
def State.look (s : State) (t h : Nat) (pc link : Dword) : State :=
  { s with cur := { Frame.reset with tile := t, hw := h, pc := pc, link := link, sample := s.cur.sample } }

/-- An operation that waits (R159, R175, R196, R209, R217, R267, R270). -/
def Instr.waits (i : Instr) : Bool :=
  match i with
  | .ldxf _ _ _ _ | .stxe _ _ _ _ | .ldvf _ _ _ _ | .stve _ _ _ _ | .twany _ _ _ | .twall _ _ _ | .wait _ _ _ | .semwait _ _ _ _ _
  | .barwt _ _ _ _ | .treewt _ _ _ _ | .timewt _ _ | .drain _ _ _ => true
  | _ => false

/-- The wait of a bundle is over. In a rerun within the log it is over in the issue cycle that the first run logged (R332). -/
def State.waitsPass (s : State) (gs : List (SlotClass × Instr)) : Bool :=
  if !(gs.any fun p => Instr.waits p.2) then true
  else
    let x := s.me
    if x.region.run != 0 && x.core.cycle < x.region.logEnd then x.region.replayed.contains (x.core.cycle, .waitIssue s.cur.hw)
    else gs.all fun p => (s.atSlot p.1).waitHolds p.2

/-- The PM bit of a slot whose wait test reads a register too early in strict mode (R262). -/
def State.earlyTest (s : State) (gs : List (SlotClass × Instr)) : Option Nat :=
  if s.ctx.strict then (gs.find? fun p => (s.atSlot p.1).anyEarly p.2.condRegs).map (·.1.pm) else none

/-- A bundle blocks (R254). -/
def State.bundleBlocks (s : State) (gs : List (SlotClass × Instr)) : Bool :=
  (gs.any fun p => s.commandBlocks p.2) || s.countersFull (gs.map (·.2.oldAdds)).sum (gs.map (·.2.ostAdds)).sum

/-- The execution trap of a bundle: that of its lowest PM bit (log 21). -/
def State.bundleTrap (s : State) (gs : List (SlotClass × Instr)) : Option (Nat × Nat × Nat × Nat) :=
  gs.findSome? fun p => (s.atSlot p.1).slotTrap p.2

/-- The rows that the X-port accesses of a bundle name, LD first (R155). -/
def State.xRows (s : State) (gs : List (SlotClass × Instr)) : List Nat :=
  gs.filterMap fun p => ((p.2.scratch (s.atSlot p.1)).map rowOf)

/-- Two rows lie in one bank and differ. -/
def conflicts (a b : Nat) : Bool := a % 16 == b % 16 && a != b

/-- The bank conflict of a bundle (R155): its first row. -/
def State.bankConflict (s : State) (gs : List (SlotClass × Instr)) : Option Nat :=
  match s.xRows gs with
  | [a, b] => if conflicts a b then some a else none
  | _ => none

/-- What becomes of a bundle that a context may issue. -/
def State.bundleVerdict (s : State) (b : Bundle) : Verdict :=
  let gs := s.guarded b
  match s.earlyTest gs with
  | some pm => .trap 0x05 pm 0 0
  | none =>
    if !s.waitsPass gs then .hold
    else if gs.any fun p => s.me.core.mustFreeze p.2 then .freeze
    else if s.bundleBlocks gs then .block
    else
      match s.bundleTrap gs with
      | some (code, aux, w3, w2) => .trap code aux w3 w2
      | none =>
        match s.bankConflict gs with
        | some r => if s.ctx.strict then .trap 0x06 0 r 0 else .go
        | none => .go

/-! ### The issue of a bundle -/

/-- An operation that samples counters or time as they stand at the start of the cycle (R55, R56, R215). -/
def Instr.samples (i : Instr) : Bool :=
  match i with
  | .srd _ _ _ | .cyc _ _ _ | .tsr _ _ => true
  | _ => false

/-- An operation that stores to scratch or to the spill store. -/
def Instr.stores (i : Instr) : Bool :=
  i.writesRow ||
    (match i with
     | .stsp _ _ _ => true
     | .stspv _ _ _ => true
     | _ => false)

/-- The order in which slots act (R51, R154): what samples first, a load of LS before a store of LD, the BR slot last. That a VX operation under RSR steps
LFSR before an ACCST of its bundle takes it is the model's choice (R74, log 73). -/
def slotOrder (gs : List (SlotClass × Instr)) : List (SlotClass × Instr) :=
  let pick (c : SlotClass) : List (SlotClass × Instr) := gs.filter fun p => p.1 == c && !Instr.samples p.2
  let swap := (pick .ld).any (fun p => Instr.stores p.2) && !(pick .ls).any fun p => Instr.stores p.2
  gs.filter (fun p => Instr.samples p.2) ++ pick .a0 ++ pick .a1 ++ (if swap then pick .ls ++ pick .ld else pick .ld ++ pick .ls) ++
    pick .vx ++ pick .mx ++ pick .ec ++ pick .br

/-- The LD and LS slots of a bundle both write one row (R156). -/
def State.collides (s : State) (gs : List (SlotClass × Instr)) : Bool :=
  match gs.filter fun p => p.2.writesRow with
  | [a, b] => ((a.2.scratch (s.atSlot a.1)).map rowOf) == ((b.2.scratch (s.atSlot b.1)).map rowOf)
  | _ => false

/-- Slots run one after another. -/
def runSlots : List (SlotClass × Instr) → State → Host.Outcome State Fault Refusal
  | [], s => .next s
  | p :: r, s => andThen (exec p.2 (s.atSlot p.1)) (runSlots r)

/-- A bundle that issues, before its slots act: its checks have passed, and the context goes on after it. -/
def State.beginBundle (s : State) (b : Bundle) : State :=
  let gs := s.guarded b
  let x := s.me.core
  let s := { s with cur := { s.cur with checked := true, tb := x.tb, te := x.te, ldDiscard := s.collides gs } }
  s.updSelf fun c => { c with pc := s.cur.link, arrived := false, held := false, froze := false }

/-- What a bundle leaves beside the effects of its slots: CCNT and BCNT (R155, R156), the counts of R327 and R387, its header in the commit
record (R335), and its issue in the log if it waits (R331). -/
def State.endBundle (s : State) (b : Bundle) (conflict collide waited : Bool) : State :=
  let s := s.updMe fun x =>
    let x := if waited ∧ ¬ x.reruns then x.note (.waitIssue s.cur.hw) else x
    { x.sign s.cur.pc with
      core := { x.core with
        bcnt := x.core.bcnt + BitVec.ofNat 64 (b2n conflict)
        ccnt := x.core.ccnt + BitVec.ofNat 64 (b2n collide) }
      chinook := { x.chinook with bundles := x.chinook.bundles + 1 } }
  let s := s.updMe fun x => { x with region := { x.region with bundles := x.region.bundles + 1 } }
  if b.ckpt ∨ 1024 ≤ s.me.region.bundles then s.mustCommit s.cur.tile else s

/-- A bundle issues (R30, R154): its slots act by `exec`. -/
def State.issueBundle (s : State) (b : Bundle) : Host.Outcome State Fault Refusal :=
  let gs := s.guarded b
  let conflict := (s.bankConflict gs).isSome
  let collide := s.collides gs
  let waited := gs.any fun p => Instr.waits p.2
  andThen (runSlots (slotOrder gs) (s.beginBundle b)) fun s' => .next (s'.endBundle b conflict collide waited)

/-! ### The two streams (R251 to R254) -/

/-- The issue stage of a control cycle in progress: the state, the contexts whose bundles have issued, the primary's bundle with its X-port
rows, whether the primary has blocked, and the context whose bundle makes the tile freeze instead (R147). -/
structure Stage where
  s : State
  issued : List Nat
  first : Option (Bundle × List Nat)
  blocked : Bool
  freeze : Option Nat
  deriving DecidableEq, Repr

/-- An operation that waits for other contexts (R396). -/
def Instr.syncs (i : Instr) : Bool :=
  match i with
  | .semwait _ _ _ _ _ | .barwt _ _ _ _ | .treewt _ _ _ _ => true
  | _ => false

/-- A bundle held by a wait (R159); the region commits first if it holds deferred commands (R327). Whether it waits in BARWT, TREEWT or SEMWAIT is noted
(R396). -/
def State.holdNow (s : State) (gs : List (SlotClass × Instr)) : State :=
  let again := s.ctx.held || s.me.region.deferred.isEmpty
  let sync := gs.any fun p => Instr.syncs p.2 && !(s.atSlot p.1).waitHolds p.2
  let s := s.holdBundle.updSelf fun c => { c with sync := sync }
  if again then s else s.mustCommit s.cur.tile

/-- The traps of fetch (R26 to R28). -/
def State.fetchTrap (s : State) (t h : Nat) (r : FetchResult) : State :=
  match r with
  | .malformed pc => (s.look t h pc pc).raise 0x02 0 0 0
  | .illegal pc pm _ => (s.look t h pc pc).raise 0x03 pm 0 0
  | .fault pc code => (s.look t h pc pc).fetchFault code
  | .bundle _ _ _ | .walk _ => s

/-- The primary's turn. -/
def primaryTurn (t h : Nat) (r : Option FetchResult) (s : State) : Host.Outcome Stage Fault Refusal :=
  match r with
  | none => .next ⟨s, [], none, false, none⟩
  | some (.bundle pc b link) =>
    let s := s.look t h pc link
    match s.bundleVerdict b with
    | .go => andThen (s.issueBundle b) fun s' => .next ⟨s', [h], some (b, s.xRows (s.guarded b)), false, none⟩
    | .trap code aux w3 w2 => .next ⟨s.raise code aux w3 w2, [], none, false, none⟩
    | .hold => .next ⟨s.holdNow (s.guarded b), [], none, false, none⟩
    | .freeze => .next ⟨s, [], none, false, some h⟩
    | .block => .next ⟨s, [], none, true, none⟩
  | some r => .next ⟨s.fetchTrap t h r, [], none, false, none⟩

/-- The PM field of a bundle. -/
def slotClasses (b : Bundle) : List SlotClass := b.slots.map (·.1)

/-- A bundle may stand beside the primary's (R252): `gs` are its guarded slots, `p` the primary's bundle with its X-port rows. One that freezes the
tile or has frozen it issues alone (R147). -/
def State.mayMerge (s : State) (b : Bundle) (gs : List (SlotClass × Instr)) (p : Bundle × List Nat) : Bool :=
  !((slotClasses b).any (slotClasses p.1).contains) && !b.solo && !p.1.solo && !(s.xRows gs).any (fun r => p.2.any (conflicts r)) &&
    !s.ctx.froze && !gs.any fun q => s.me.core.mustFreeze q.2

/-- A context of the secondary stream has its turn, once the primary's slots have acted (R159, R251, R252). -/
def secondaryTurn (t h : Nat) (r : FetchResult) (g : Stage) : Host.Outcome Stage Fault Refusal :=
  match r with
  | .bundle pc b link =>
    let s := g.s.look t h pc link
    let gs := s.guarded b
    match s.earlyTest gs with
    | some pm => .next { g with s := s.raise 0x05 pm 0 0 }
    | none =>
      if !s.waitsPass gs then .next { g with s := s.holdNow gs }
      else if g.first.any fun p => !s.mayMerge b gs p then .next g
      else
        match s.bundleVerdict b with
        | .go => andThen (s.issueBundle b) fun s' =>
            .next { g with s := s'.updTile t (fun x => { x with core := { x.core with rrp := (h + 1) % 4 } }), issued := g.issued ++ [h] }
        | .trap code aux w3 w2 => .next { g with s := s.raise code aux w3 w2 }
        | .hold => .next { g with s := s.holdNow gs }
        | .freeze => .next { g with freeze := some h }
        | .block => .next g
  | r => .next { g with s := g.s.fetchTrap t h r }

/-- The secondary stream (R251): contexts in the order of RRP until one issues or the tile freezes. -/
def secondaryTurns (t : Nat) (cands : List (Nat × FetchResult)) : List Nat → Stage → Host.Outcome Stage Fault Refusal
  | [], g => .next g
  | h :: hs, g =>
    match cands.find? fun c => c.1 == h with
    | none => secondaryTurns t cands hs g
    | some c => andThen (secondaryTurn t h c.2 g) fun g' =>
        if g'.freeze.isSome ∨ g'.issued.length ≠ g.issued.length then .next g' else secondaryTurns t cands hs g'

/-- The contexts of the secondary stream in the order of RRP. -/
def Core.scan (k : Core) : List Nat := ((List.range 4).map fun i => (k.rrp + i) % 4).filter (· != k.primary)

/-- Both streams: a primary's bundle that has frozen the tile issues without a partner (R147, R252). -/
def streams (t : Nat) (cands : List (Nat × FetchResult)) (s : State) : Host.Outcome Stage Fault Refusal :=
  let core := (s.tile t).core
  let mine := (cands.find? fun c => c.1 == core.primary).map (·.2)
  let alone : Bool := (core.ctx core.primary).froze
  andThen (primaryTurn t core.primary mine s) fun g =>
    if g.freeze.isSome ∨ (alone = true ∧ g.first.isSome) then .next g else secondaryTurns t cands core.scan g

/-! ### What a context does before it may issue -/

/-- A context stopped by a pre-emption (R379): its PC names the header of the bundle that it has not issued, past any line pads (R26). With the last context
of a tile its region ends. -/
def State.preemptCtx (s : State) (t h : Nat) : State :=
  let s := s.updCtx t h fun c => { c with stopped := true, held := false, froze := false, fetchWait := false, pc := (s.nextPoint t c).1 }
  if (s.tile t).core.settled then s.mustCommit t else s

/-- A pre-emption is put off (R367, R379): a handler runs on the tile, or it rolls back. -/
def State.preemptWaits (s : State) (t : Nat) : Bool :=
  (s.tile t).region.run != 0 || (s.tile t).core.ctxs.any fun p => p.2.inh

/-- The bundle at a point of a context takes a precise trap, before any pre-emption there (R367). -/
def State.trapsHere (s : State) (t h : Nat) (r : FetchResult) : Bool :=
  match r with
  | .bundle pc b link => (match (s.look t h pc link).bundleVerdict b with
    | .trap _ _ _ _ => true
    | _ => false)
  | .malformed _ | .illegal _ _ _ | .fault _ _ => true
  | .walk _ => false

/-- One issue cycle of a context that does not depend on the issue port: its handler, its pauses, requests to stop it, errors it must take
(R52, R248, R366, R371, R379). What it may issue comes with the state. -/
def State.tend (s : State) (t h : Nat) : State × Option FetchResult :=
  let c := s.ctxAt t h
  if c.owner = .idle ∨ c.stopped then (s, none)
  else
    match c.handler with
    | some k =>
      if k.left = 0 then (s.applyDisposition t h k.disp, none)
      else (s.updCtx t h fun c => { c with handler := some { k with left := k.left - 1 } }, none)
    | none =>
      if c.stop = .doneUnit then (s, none)
      else if c.halted then (s.takeDueErr t h, none)
      else if 0 < c.pause then (s.updCtx t h fun c => { c with pause := c.pause - 1 }, none)
      else
        let asked := c.stop == .cancel || (c.stop == .preempt && !s.preemptWaits t)
        let quit := asked && (c.held || c.fetchWait || 4096 ≤ c.stopAge || (s.nextPoint t c).2)
        if quit ∧ c.stop = .cancel then (s.stopCtx t h, none)
        else if (s.dueErr t h).isSome then (s.takeDueErr t h, none)
        else if quit ∧ (c.fetchWait ∨ ¬ s.trapsHere t h (s.fetch t c)) then (s.preemptCtx t h, none)
        else
          let s := if asked then s.updCtx t h fun c => { c with stopAge := c.stopAge + 1 } else s
          if c.fetchWait then (s, none)
          else
            match s.fetch t c with
            | .bundle pc b link => (s.updCtx t h fun c => { c with pc := pc }, some (.bundle pc b link))
            | .walk pc => (s.askFetch t h pc, none)
            | r => (s, some r)

/-- All four contexts. -/
def State.tendAll (s : State) (t : Nat) : State × List (Nat × FetchResult) :=
  hwNumbers.foldl (fun p h =>
    let (s, r) := p.1.tend t h
    (s, match r with
      | some r => p.2 ++ [(h, r)]
      | none => p.2)) (s, [])

/-- A state whose frame holds what stands at the start of an issue cycle of a tile (R56). -/
def State.sampled (s : State) (t : Nat) : State := { s with cur := { s.cur with sample := s.sample t } }

/-- The issue stage of a control cycle. -/
def issueStage (t : Nat) (s : State) : Host.Outcome Stage Fault Refusal :=
  let (s, cands) := s.tendAll t
  streams t cands (s.sampled t)

/-! ### The start of a control cycle -/

/-- The next state of an event of one tile, which never stops. -/
def nextOr (s : State) (o : Host.Outcome State Fault Refusal) : State :=
  match o with
  | .next s' => s'
  | .fault _ => s
  | .refused _ => s

/-- In a rerun, the inputs that the log holds for this issue cycle take effect (R332). -/
def Tile.replayInputs (x : Tile) : Tile :=
  let now (p : Nat × Input) : Bool := p.1 == x.core.cycle && !p.2.isWait
  let x' := (x.region.replayed.filter now).foldl (fun x p => x.applyInput p.2) x
  { x' with region := { x'.region with replayed := x'.region.replayed.filter fun p => !now p } }

/-- What has been held back reaches a first rerun that is past the end of its log (R332). -/
def Tile.releaseHeld (x : Tile) : Tile :=
  if x.region.run ≤ 1 ∧ x.region.logEnd ≤ x.core.cycle ∧ ¬ x.region.held.isEmpty then
    x.region.held.foldl (fun x i => x.input i) { x with region := { x.region with held := [] } }
  else x

/-- Nothing of a tile's region is left to run: its contexts have stopped or halted and its array is empty. -/
def Tile.spent (x : Tile) : Bool := x.core.aq.isEmpty && x.core.settled

/-- A region ends before the bundles of an issue cycle (R327, R332): a second rerun where the first one ended, a first rerun that has taken all of the log
and has nothing left to run, and a first run whose input log is full. -/
def State.overrun (s : State) (t : Nat) : State :=
  let x := s.tile t
  if x.region.run = 2 ∧ x.region.firstEnd.toNat ≤ x.core.cycle then s.endRegion t
  else if x.region.run = 1 ∧ x.region.logEnd ≤ x.core.cycle ∧ x.spent then s.endRegion t
  else if x.region.run = 0 ∧ 512 < x.region.inputs.length then s.endRegion t
  else s

/-- The arrivals at the semaphores and barriers of a tile take effect. -/
def State.arrivals (s : State) (t : Nat) : State :=
  let s := nextOr s (execSemaphoreUpdate t s)
  nextOr s (execBarrierUpdate t s)

/-- The end of the last frozen cycle (R257): what arrived before the freeze takes effect, then what the router has kept, in the order in which it arrived,
each add and arrival by itself. -/
def State.thaw (s : State) (t : Nat) : State :=
  let x := s.tile t
  if x.still then
    let s := if x.ice.isEmpty then s else s.arrivals t
    x.ice.foldl (fun s i => (s.updTile t fun x => x.input i).arrivals t) (s.updTile t fun x => { x with still := false, ice := [] })
  else s

/-- A bundle of the tile has frozen it and has not issued (R147). -/
def Core.frosted (k : Core) : Bool := hwNumbers.any fun h => (k.ctx h).froze

/-- The start of a control cycle, up to the freezes: divisors, the end of a freeze, inputs, arrivals at semaphores and barriers. -/
def State.openCycle (s : State) (t : Nat) : State :=
  let s := s.updCore t fun k => { k with satNow := 0, unfNow := 0, canNow := 0, banks := [] }
  let s := nextOr s (execClkdivApply t s)
  let k := (s.tile t).core
  let s := if k.frosted || !k.laggards.isEmpty || hwNumbers.any k.lateReply then s else s.thaw t
  ((s.updTile t fun x => x.replayInputs.releaseHeld).overrun t).arrivals t

/-- What the array has come to in a control cycle (R126, R130, R144): results that fall due, k-groups, escalations and starts, again while one follows from
another. -/
def State.runArray (s : State) (t : Nat) : Nat → State
  | 0 => s
  | fuel + 1 =>
    let was := (s.tile t).core.aq
    if was.isEmpty then s
    else
      let s := (nextOr s (execArrayOperationDue t s)).runGroups t
      let s := nextOr s (execMmaeEscalation t s)
      let s := (nextOr s (execArrayPhaseStart t s)).runGroups t
      if (s.tile t).core.aq = was then s else s.runArray t fuel

/-- The longest run of events of the array in one control cycle: sixteen passes of an operation, each with its escalation, and its result. -/
def arrayEvents (k : Core) : Nat := 40 * k.aq.length

/-- Every write due in an issue cycle, and the array's events (R30, R126, R130, R144, R240). -/
def State.settle (s : State) (t : Nat) : State :=
  let s := hwNumbers.foldl (fun s h => nextOr s (execNextRotate t h s)) s
  let s := hwNumbers.foldl (fun s h => nextOr s (execResultDue t h s)) s
  ((s.runArray t (arrayEvents (s.tile t).core)).reportFault t)

/-! ### The end of an issue cycle -/

/-- The context that becomes primary after another (R253). -/
def Core.nextPrimary (k : Core) (blocked : Bool) : Nat :=
  if (k.ctx k.primary).live && !blocked then k.primary
  else (([1, 2, 3].map fun i => (k.primary + i) % 4).find? fun h => (k.ctx h).live).getD k.primary

/-- The flags of the results that fell due in an issue cycle enter FCR after an SWR of that cycle, and survive it: R57 and R240 leave open which of the two
comes last (log 72, the model's choice). -/
def Ctx.gather (c : Ctx) : Ctx := { c with fcr := fcrRaise c.fcr c.raised, raised := 0 }

/-- A live context of a unit, which the slack of a region counts (R396). -/
def Ctx.paced (c : Ctx) : Bool :=
  c.live && match c.owner with
    | .unit _ => true
    | .idle | .graph _ | .firmware => false

/-- The counters of an issue cycle. `bcnt` is BCNT as it stood before: a bank conflict freezes the tile for one more control cycle (R155), with which a
replay may overlap (R258). -/
def Tile.tick (x : Tile) (issued : List Nat) (bcnt : Dword) (blocked : Bool) : Tile :=
  let k := [0, 1, 2, 3].foldl Core.runDomain x.core
  let next := x.clock + x.core.dC
  let conflict := x.core.bcnt != bcnt
  { x with
    clock := if conflict then next + x.core.dC else next
    froze := if conflict then some ⟨next, next + x.core.dC, 1, 0⟩ else x.froze
    replayBuf := (x.replayBuf ++ [issued]).drop (x.replayBuf.length - 3)
    fresh := x.fresh.filter fun f => f.inFlight (x.core.cycle + 1)
    ctxCycles := x.ctxCycles + (x.core.ctxs.filter fun p => p.2.paced).length
    waitCycles := x.waitCycles + (x.core.ctxs.filter fun p => p.2.paced && p.2.held && p.2.sync).length
    core := { k with
      isscnt := k.isscnt + 1, arrClk := k.arrClk + 1, primary := k.nextPrimary blocked
      ctxs := k.ctxs.map fun p => (p.1, p.2.gather) } }

/-- The engines of a tile in one control cycle. -/
def State.engines (s : State) (t : Nat) : State :=
  let s := s.runMatrix t false
  let s := (s.tile t).core.mcmds.foldl (fun s m => nextOr s (execMatrixCommandCompletion t m.id s)) s
  let s := ((s.tile t).core.copies.filter fun m => m.state == .timed).foldl (fun s m => nextOr s (execCpytStart t m.id s)) s
  let s := (List.range 8).foldl (fun s _ => nextOr s (execCopyCommandStart t s)) s
  let s := s.runCopies t
  (s.tile t).core.copies.foldl (fun s m => nextOr s (execCopyCompletion t m.id s)) s

/-- Errors of contexts that go no further are recorded (R373); units and graph instances whose contexts are over end (R245, R230). -/
def State.endWork (s : State) (t : Nat) : State :=
  let done (c : Ctx) : Bool := ((c.stopped && c.stop != .preempt) || c.stop == .doneUnit) && !c.errs.isEmpty
  let s := hwNumbers.foldl (fun s h => if done (s.ctxAt t h) then s.recordErrs t h else s) s
  match s.jobOfDie (dieOf t) with
  | none => s
  | some j =>
    let ended (u : WorkUnit) : Bool := u.tile == t && !u.ending && u.ctxs.all (s.ctxOver t)
    let s := (j.units.filter ended).foldl (fun s u => (s.updUnit j.num u.uid fun u => { u with ending := true }).once 0 (.unitEnd j.num u.uid)) s
    (j.insts.filter fun i => i.tile == t && s.instOver j.num i).foldl (fun s i => s.once 0 (.graphInstanceComplete j.num i.num)) s

/-- A context still has something to do. -/
def Ctx.busy (c : Ctx) : Bool :=
  c.live || c.handler.isSome || !c.due.isEmpty || !c.nexts.isEmpty || !c.nqw.isEmpty || !c.errs.isEmpty

/-- A tile still has something to do in each control cycle. -/
def Tile.busy (x : Tile) : Bool :=
  x.core.ctxs.any (fun p => p.2.busy) || !x.ice.isEmpty || !x.core.aq.isEmpty || !x.core.mcmds.isEmpty || !x.core.copies.isEmpty || !x.core.semIn.isEmpty ||
    !x.core.barIn.isEmpty || !x.core.divs.isEmpty || x.region.run != 0 || x.region.commitDue || !x.region.held.isEmpty ||
    x.region.replayed.any fun p => !p.2.isWait

/-- Requests that a protected pair holds back for its commit records leave in a later control cycle (R337). -/
def State.holdsBack (s : State) (t : Nat) : Bool := s.fab.reqs.any fun r => r.tile == t && r.state == .waiting && s.withheld r

/-- The region of a tile ends with an issue cycle that asks for it (R327); with a data error just detected it does not commit, and a rerun disagrees
(R332). -/
def State.endIfDue (s : State) (t : Nat) : State :=
  let r := (s.tile t).region
  let asked := s.rollbackAsked t
  if !r.commitDue || (asked && r.run == 0) then s
  else (s.updTile t fun x => { x with region := { x.region with disagree := x.region.disagree || asked } }).endRegion t

/-- The end of an issue cycle: counters, engines, the commit, what ends. A bank conflict leaves the tile frozen for the control cycle after it. -/
def State.closeCycle (s : State) (t : Nat) (g : Stage) (bcnt : Dword) : State :=
  let conflict := (g.s.tile t).core.bcnt != bcnt
  let s := (s.updTile t fun x => x.tick g.issued bcnt g.blocked).engines t
  let s := (s.updTile t Tile.closeRecord).endIfDue t
  let s := s.endWork t
  let s := if s.windowOver (s.tile t).chinook then s.once 0 (.chinookWindowEnd t) else s
  let s := ((s.noteArray t).endPair t).sendCancels t
  let live := (s.tile t).live && ((s.tile t).busy || s.holdsBack t)
  s.updTile t fun x =>
    { x.repair (s.bandOf t) s.now with still := conflict || x.still, live := live, core := { x.core with banks := if live then x.core.banks else [] } }

/-- The load path in a frozen control cycle (R147, R256). -/
def State.runLoads (s : State) (t : Nat) : State :=
  let s := s.runMatrix t true
  (s.tile t).core.mcmds.foldl (fun s m => if m.loads then nextOr s (execMatrixCommandCompletion t m.id s) else s) s

/-- A frozen control cycle before a context's bundle may issue, in which the array and the load path run (R147). -/
def State.freezeCycle (s : State) (t h : Nat) : State :=
  ((s.updTile t fun x => x.frozen true).updCtx t h fun c => { c with froze := true }).runLoads t

/-- What issues needs a 257th entry of the undo log, or must follow an access that the region defers: the region ends first (R327). -/
def State.commitFirst (s : State) (t : Nat) (g : Stage) : Bool :=
  let waiting := (s.fab.reqs.filter fun r => r.tile == t && r.state == .deferred && r.kind.isAccess).map (·.id)
  256 < (g.s.tile t).region.undo.length || 512 < (g.s.tile t).region.inputs.length ||
    (!waiting.isEmpty &&
      ((g.s.fab.reqs.any fun r => s.ids ≤ r.id && r.tile == t && r.kind.isAccess && r.after.any waiting.contains) ||
       (g.s.tile t).core.ctxs.any fun p => p.2.fences.any fun f => (f.loads ++ f.stores).any waiting.contains))

/-- The place of a count of domain cycles that no result waits for. -/
def longAgo : Nat := 2 ^ 100

/-- The context whose bundle freezes the tile once the results that it now waits for have come (R147), if one does. -/
def State.freezesNext (s : State) (t : Nat) : Option Nat :=
  let s := s.updCore t fun k => { k with units := [0, 1, 2, 3].foldl (fun m d => sput d longAgo m) k.units }
  match issueStage t (s.settle t) with
  | .next g => g.freeze
  | .fault _ => none
  | .refused _ => none

/-- A freeze for the domains that must catch up, each of which runs, the load path with the matrix domain, or for a reply that is late (R240, R256,
R258, R261). Where a bundle freezes the tile for the array too, the array and the load path run in it (R147). -/
def State.stalled (s : State) (t : Nat) : Option State :=
  let k := (s.tile t).core
  if k.laggards.isEmpty && !hwNumbers.any k.lateReply then none
  else
    let both := s.freezesNext t
    let s := s.updTile t fun x => x.lag k.laggards
    let s := match both with
      | some h => (s.updCore t fun k => { k with arrClk := k.arrClk + 1 }).updCtx t h fun c => { c with froze := true }
      | none => s
    some (if both.isSome || k.laggards.contains 2 then s.runLoads t else s)

/-- The rest of a control cycle after its issue stage. -/
def finishCycle (t : Nat) (s : State) (g : Stage) : Host.Outcome State Fault Refusal :=
  match g.freeze with
  | some h => .next (s.freezeCycle t h)
  | none => .next (g.s.closeCycle t g (s.tile t).core.bcnt)

/-- The issue stage of a control cycle and what follows it; the region ends first where what issues asks for that (R327). -/
def issueCycle (t : Nat) (s : State) : Host.Outcome State Fault Refusal :=
  andThen (issueStage t s) fun g =>
    if g.freeze = none ∧ s.commitFirst t g then
      let first := (s.tile t).region.run == 1
      let s := (s.endRegion t).arrivals t
      if first ∨ (s.tile t).retired then .next s else andThen (issueStage t s) (finishCycle t s)
    else finishCycle t s g

/-- A control cycle of a retired tile (R339): what its committed copies have still to move goes on. -/
def State.ghostCycle (s : State) (t : Nat) : State :=
  let s := (s.updTile t fun x => x.tick [] x.core.bcnt false).engines t
  s.updTile t fun x => { x with live := !x.core.copies.isEmpty }

/-- One control cycle of a tile. Where a freeze of R147 is over, what the router has kept takes effect before the bundles are tested again (R257). -/
def controlCycle (t : Nat) (s : State) : Host.Outcome State Fault Refusal :=
  let s := { s with time := max s.time (s.cycleTime t) }.openCycle t
  if (s.tile t).retired then .next (s.ghostCycle t)
  else
    match s.stalled t with
    | some s' => .next s'
    | none =>
      let s := s.settle t
      if (s.tile t).still then
        andThen (issueStage t s) fun g =>
          match g.freeze with
          | some h => .next (s.freezeCycle t h)
          | none => issueCycle t (s.thaw t)
      else issueCycle t s

/-- A state in which a tile has made dirty what of its last image differs from an earlier core (R382). -/
def State.soiled (s : State) (t : Nat) (was : Core) : State :=
  if (s.tile t).clean.isEmpty then s else s.updTile t fun x => x.soilFrom was

/-- One control cycle of a tile, with what it has made dirty of the tile's last image (R382). -/
def cycle (t : Nat) (s : State) : Host.Outcome State Fault Refusal :=
  andThen (controlCycle t s) fun s' => .next (s'.soiled t (s.tile t).core)

/-! ### Which comes next -/

/-- The live tile whose next control cycle comes first, the lowest of several. -/
def State.nextTile (s : State) : Option (Nat × Nat) :=
  s.tiles.foldl (fun (best : Option (Nat × Nat)) p =>
    if !p.2.live then best
    else
      let at_ := (s.regionAt p.1).timeOf p.2.clock
      match best with
      | none => some (p.1, at_)
      | some b => if at_ < b.2 then some (p.1, at_) else best) none

/-- One event of the agenda. -/
def runEvent (s : State) (time : Nat) (e : Event) (rest : List (Nat × Event)) : Host.Outcome State Fault Refusal :=
  e.run { s with time := max s.time time, agenda := rest }

/-- What happens next in the module: the first event of the agenda or a control cycle of a tile. A cycle goes before the events of its time, but for a
tree's generation, which its bundles see (R269, R412). -/
def advance (s : State) : Host.Outcome State Fault Refusal :=
  match s.agenda, s.nextTile with
  | [], none => .next s
  | [], some (t, _) => cycle t s
  | (at_, e) :: r, none => runEvent s at_ e r
  | (at_, e) :: r, some (t, c) => if at_ < c ∨ (at_ = c ∧ e.isTgen = true) then runEvent s at_ e r else cycle t s

end Sys2Proof.Machine
end

