-- ==== Sys2Proof/Machine/Place.lean ====
section
/-! DEFINITION. A first bundle placed for a context, as the host's loads and the dispatcher's placement leave it (log 6). -/

namespace Sys2Proof.Machine

/-- The bytes of a bundle that holds one table word: the word itself for a header of 16 bits, else a SOLO bundle with that slot alone
(R21, R23; log 7). -/
def tableBundle (nbits w : Nat) : Option (List Byte) :=
  if nbits = 16 then some (leBytes 2 w)
  else (tableClass nbits w).map fun c => encodeBundle false true [(c, w)]

/-- The address at which the first bundle stands. -/
def firstPc : Dword := 0x20000000

/-- A range entry that maps one code line at that address to the start of the stack of site 0 (R298): V, BASE, LIMIT, RD and X. -/
def firstRange : List Dword := [0x8000000020000000, 0x20000040, 0x0A00000000000000, 0, 0]

/-- Job 1 on compute die 0, with that range. -/
def firstJob : Job := { Job.create 1 0 1 with ranges := [(0, firstRange)] }

/-- Tile 0 at its first issue cycle, with a unit's context 0 at the first bundle. -/
def firstTile : Tile :=
  let k : Core := { Core.reset with ctxs := [(0, { Ctx.reset with owner := .unit 1, job := 1, pc := firstPc, arrived := true })] }
  { Tile.reset with core := k, region := { Region.reset with start := k }, live := true }

/-- The first bundle in memory, its job and its context. -/
def State.placeFirst (s : State) (bytes : List Byte) : State :=
  { s.storeBytes 0 bytes with jobs := firstJob :: s.jobs, tiles := sput 0 firstTile s.tiles }

end Sys2Proof.Machine
end

