-- ==== Sys2Proof/Machine/Step.lean ====
section
/-! DEFINITION. One step of the module, and an instruction placed where the next step fetches it. -/

namespace Sys2Proof.Machine

/-- One step: the first event of the agenda or one control cycle of a tile, whichever comes first (log 5). Every step draws fresh free
values (log 4). -/
def step (s : State) : Host.Outcome State Fault Refusal := advance { s with free := s.free + 1 }

/-- A state in which context 0 of tile 0 runs a bundle of one slot, or the empty bundle, as its unit's first (log 6). -/
def State.withFetchWord (s : State) (nbits w : Nat) : State :=
  match tableBundle nbits w with
  | some bytes => s.placeFirst bytes
  | none => s

end Sys2Proof.Machine
end

