-- ==== Sys2Proof/Safety.lean ====
section
/-! DEFINITION. What counts as a safe state, and when an operation issues with its own effect: the terms in which claims are made. -/

namespace Sys2Proof.Machine

/-- Device memory has its one form: addresses rise strictly and no listed byte equals what an unlisted address reads as (log 1). -/
abbrev MemoryCanonical (s : State) : Prop := Memory.wf s.mem = true

/-- The conditions under which a slot operation of the acting context has its own effect when it issues by itself. Each is stated over the
state and the operands alone. -/
structure Clear (i : Instr) (s : State) : Prop where
  /-- In strict mode no register of its wait condition is unpredictable (R262). -/
  tested : s.ctx.strict = true → s.anyEarly i.condRegs = false
  /-- Its wait is over; an operation that does not wait has none (R159). -/
  waited : s.waitHolds i = true
  /-- The tile need not freeze before it (R147). -/
  thawed : s.me.core.mustFreeze i = false
  /-- The queue or counter that it takes has room (R254). -/
  room : s.commandBlocks i = false
  /-- OLD and OST stay within 15 (R169, R254). -/
  counted : s.countersFull i.oldAdds i.ostAdds = false
  /-- Its context may issue work (R235). -/
  working : s.workDenied i = false
  /-- It is no supervisor-only form in a user context (R35). -/
  allowed : s.unprivileged i = false
  /-- In strict mode nothing it names is a hazard (R263). -/
  calm : s.hazard i = false
  /-- In strict mode its scratch addresses lie in the scratchpad (R153). -/
  inside : s.ctx.strict = true → ∀ ea ∈ (i.scratch s).toList ++ i.engineEa s, ea.toNat < 2 ^ 18
  /-- It reads no uncorrectable word of scratch (R157). -/
  sound : ∀ ea, i.scratch s = some ea → s.me.core.badBits (rowOf ea) &&& i.wordsRead s ea = 0

/-- A slot operation acts: its stage guard is on (R29), and it issues clear of every wait, freeze, block and trap, by itself or in a bundle
whose checks have passed. -/
def Acts (i : Instr) (s : State) : Prop := s.guardOn i.sp = true ∧ (s.cur.checked = true ∨ Clear i s)

/-- `t` is `s` outside the acting context: every other context, tile and part of the module, device memory among them, is the same. -/
structure OnlyContext (s t : State) : Prop where
  /-- Memory, dies, regions, fabric, jobs, hosts, supply, frame, time and agenda. -/
  outside : { t with tiles := s.tiles } = s
  /-- Every other tile. -/
  others : ∀ u, u ≠ s.cur.tile → t.tile u = s.tile u
  /-- The rest of the acting tile: scratch, engines, counters, region. -/
  tile : { t.me with core := { t.me.core with ctxs := s.me.core.ctxs } } = s.me
  /-- Every other context of the tile. -/
  contexts : ∀ h, h ≠ s.cur.hw → t.me.core.ctx h = s.me.core.ctx h

/-- `t` is `s` after a write of the acting slot to scratch row `n` (R156, R157, R329): its data and full/empty bits, the words of `fresh` no longer
bad, the undo log with the row as the region found it, the commit record, the dirty bits and the list of the last stores; nothing else changes. -/
structure RowWritten (s t : State) (n : Nat) (data : Row) (fe fresh : BitVec 32) : Prop where
  /-- The row reads as what was written. -/
  row : t.me.core.row n = data ∧ t.me.core.feBits n = fe ∧ t.me.core.badBits n = s.me.core.badBits n &&& ~~~fresh
  /-- Every other row is as it was. -/
  others : ∀ m, m % 1024 ≠ n % 1024 → t.me.core.row m = s.me.core.row m ∧ t.me.core.feBits m = s.me.core.feBits m
  /-- The undo log is as before where it holds the row already, else it ends with the row as it was before this write. -/
  logged : t.me.region.undo = if (∃ old fe₀, .row (n % 1024) old fe₀ ∈ s.me.region.undo) then s.me.region.undo
    else s.me.region.undo ++ [.row (n % 1024) (s.me.core.row n) (s.me.core.feBits n)]
  /-- The rest of the acting tile. -/
  tile : { t.me with
    core := { t.me.core with rows := s.me.core.rows, fe := s.me.core.fe, bad := s.me.core.bad }
    region := { t.me.region with undo := s.me.region.undo, record := s.me.region.record }
    clean := s.me.clean, fresh := s.me.fresh } = s.me
  /-- Every other tile. -/
  tiles : ∀ u, u ≠ s.cur.tile → t.tile u = s.tile u
  /-- Everything outside the tiles. -/
  outside : { t with tiles := s.tiles } = s

/-- What the acting context takes again in a rerun: the first thing of a kind that its first run took from outside, unless a rollback has taken that back
(R332, R333). -/
def State.again (s : State) (kind : Taken) : Option Nat :=
  let key := takeKey kind s.cur.hw
  match s.me.region.reuse.find? fun p => p.1 == key || p.1 == goneKey key with
  | some p => if p.1 = key then some p.2 else none
  | none => none

/-- `v` is `s` with one new request `r` of the acting context (R168, R169, R171): counted in OLD or OST, its destination pending; no register, no
memory and no other request changes. -/
structure AccessMade (s v : State) (r : Req) : Prop where
  /-- The request joins those of the fabric under a fresh identifier. -/
  made : v.fab = { s.fab with reqs := s.fab.reqs ++ [r] } ∧ r.id = s.ids ∧ v.ids = s.ids + 1
  /-- It belongs to the acting context. -/
  mine : r.tile = s.cur.tile ∧ r.hw = s.cur.hw ∧ r.job = s.ctx.job ∧ r.cmdix = s.ctx.cmdix
  /-- OLD or OST grows by one. -/
  counted : v.ctx.old = s.ctx.old + b2n r.kind.countsOld ∧ v.ctx.ost = s.ctx.ost + b2n (!r.kind.countsOld)
  /-- Its destination, if it has one, is pending for it from this issue cycle on. -/
  pending : v.ctx.pend.map (fun d => (d.reg, d.issue, d.rid, d.q)) = s.ctx.pend.map (fun d => (d.reg, d.issue, d.rid, d.q)) ++
    if r.reg.wired then [] else [(r.reg, s.me.core.isscnt.toNat, r.id, r.q)]
  /-- Nothing else of the context changes. -/
  kept : { v.ctx with old := s.ctx.old, ost := s.ctx.ost, pend := s.ctx.pend } = s.ctx
  /-- Nor anything else of the tile but its checkpoint region. -/
  tile : { v.me with core := { v.me.core with ctxs := s.me.core.ctxs }, region := s.me.region } = s.me
  /-- Nor anything else at all. -/
  others : (∀ h, h ≠ s.cur.hw → v.me.core.ctx h = s.me.core.ctx h) ∧ (∀ u, u ≠ s.cur.tile → v.tile u = s.tile u) ∧
    { v with tiles := s.tiles, fab := s.fab, ids := s.ids } = s

/-- Lane `k` of a row at width `w`. -/
abbrev laneBits (w : Nat) (v : Row) (k : Nat) : BitVec w := v.extractLsb' (w * k) w

/-- What a gated vector operation leaves (R97, R100): `f k` in each active lane `k`, zero or the old destination in the others, due `l` vector
cycles later; it raises no flag and does not step LFSR. -/
def Gated (i : Instr) (s : State) (d : BitVec 5) (p : BitVec 3) (z : BitVec 1) (w l : Nat) (f : Nat → BitVec w) : Prop :=
  Acts i s → ∃ v, exec i s = .next ((s.updSelf fun c => { c with lfsr := c.lfsr }).due (.v d.toNat) v 1 l) ∧
    ∀ k < 2048 / w, laneBits w v k = if active (s.rp p.toNat) w k then f k else if z = 1 then 0 else laneBits w (s.rv d) k

/-- What a gated vector operation with roundings leaves (R97, R99, R100): in each active lane `k` the pattern of `f k` rounded in FCR.RM, the
flags of all active lanes together, zero or the old destination in the others. Under RSR, LFSR steps `steps` times for each active lane, in the order of the
lanes, and each lane takes it as the lanes before it have left it (R74). -/
def GatedRounded (i : Instr) (s : State) (d : BitVec 5) (p : BitVec 3) (z : BitVec 1) (w l steps : Nat) (f : Rnd → Nat → Nat × Rnd) : Prop :=
  let on (k : Nat) := active (s.rp p.toNat) w k
  let n := 2048 / w
  let seed (k : Nat) : BitVec 32 := if fcrRm s.ctx.fcr = 4 then lfsrStep^[steps * (List.range k).countP on] s.ctx.lfsr else s.ctx.lfsr
  let r (k : Nat) : Rnd := { s.ctx.rnd with lfsr := seed k }
  Acts i s → ∃ v fl, exec i s = .next ((s.updSelf fun c => { c with lfsr := seed n }).dueFlags (.v d.toNat) v 1 l fl) ∧
    (∀ k < n, laneBits w v k = if on k then BitVec.ofNat w (f (r k) k).1 else if z = 1 then 0 else laneBits w (s.rv d) k) ∧
    ∀ j < 6, fl.getLsbD j = (List.range n).any fun k => on k && (f (r k) k).2.flags.getLsbD j

/-- `u` is `s` but for tile `t` and the module's own accounts: device memory and every other tile are the same. -/
structure Elsewhere (s : State) (t : Nat) (u : State) : Prop where
  /-- Device memory. -/
  memory : u.mem = s.mem
  /-- Every other tile. -/
  tiles : ∀ v, v ≠ t → u.tile v = s.tile v

/-- A tile takes what arrives at once: it is busy, not retired, in no freeze, and no rerun holds its inputs back (R257, R333, R339). -/
structure Hears (s : State) (t : Nat) : Prop where
  /-- Busy. -/
  live : (s.tile t).live = true
  /-- Not retired. -/
  serves : (s.tile t).retired = false
  /-- In no rerun that holds inputs back. -/
  first : (s.tile t).reruns = false
  /-- In no freeze, in which its router keeps what arrives. -/
  awake : (s.tile t).still = false

/-- No request of a tile waits to be sent. -/
def NoneWaiting (s : State) (t : Nat) : Prop := ∀ r ∈ s.fab.reqs, r.tile = t → r.state ≠ .waiting

/-- An event stands in the agenda some ticks from now. -/
def Due (s u : State) (ticks : Nat) (e : Event) : Prop := (s.time + 2 * ticks, e) ∈ u.agenda

/-- An event stands in the agenda, whenever it is to come. -/
def Planned (u : State) (e : Event) : Prop := ∃ n, (n, e) ∈ u.agenda

/-- What the completion of a command under a tag leaves of the tag (R180): its count one less, TB once none is left, TE where it failed. -/
def TagDone (k k' : Core) (tag : Option Nat) (failed : Bool) : Prop :=
  (∀ g, tag = some g → sget 0 k'.cnt g = sget 0 k.cnt g - 1 ∧ k'.tb.getLsbD (g % 128) = (k.tb.getLsbD (g % 128) || sget 0 k.cnt g ≤ 1) ∧
    k'.te.getLsbD (g % 128) = (k.te.getLsbD (g % 128) || failed)) ∧
  ∀ j, (∀ g, tag = some g → j ≠ g % 128) → k'.tb.getLsbD j = k.tb.getLsbD j ∧ k'.te.getLsbD j = k.te.getLsbD j

/-- The firmware carries a record out: it holds one of this type and subtype that is well formed and has not ended (R315 to R317). -/
def Carries (s : State) (seq type sub : Nat) (d : List Dword) : Prop :=
  sfind s.ctl.records seq = some d ∧ recordType d = type ∧ recordSub d = sub ∧ s.journalState seq < 3 ∧ recordMalformed d = false

/-- The journal entry of a record that had not ended takes a state and a status, and nothing else of it changes but the time of its last change
(R317). -/
def Recorded (s u : State) (seq state : Nat) (status : Dword) : Prop :=
  ∀ e, sfind s.ctl.journal seq = some e → e.state < 3 →
    ∃ e', sfind u.ctl.journal seq = some e' ∧ e' = { e with state := state, status := status, last := e'.last }

/-- An event is carried out as the operation of the same name. -/
def Event.carried (s : State) : Event → Prop
  | .resultDue t h => Event.run (.resultDue t h) s = exec (.resultDue t h) s
  | .clkdivApply t => Event.run (.clkdivApply t) s = exec (.clkdivApply t) s
  | .arrayPhaseStart t => Event.run (.arrayPhaseStart t) s = exec (.arrayPhaseStart t) s
  | .mmaeEscalation t => Event.run (.mmaeEscalation t) s = exec (.mmaeEscalation t) s
  | .arrayOperationDue t => Event.run (.arrayOperationDue t) s = exec (.arrayOperationDue t) s
  | .matrixCommandCompletion t id => Event.run (.matrixCommandCompletion t id) s = exec (.matrixCommandCompletion t id) s
  | .copyCommandStart t => Event.run (.copyCommandStart t) s = exec (.copyCommandStart t) s
  | .cpytStart t id => Event.run (.cpytStart t id) s = exec (.cpytStart t id) s
  | .copyRowLand rid => Event.run (.copyRowLand rid) s = exec (.copyRowLand rid) s
  | .copyCompletion t id => Event.run (.copyCompletion t id) s = exec (.copyCompletion t id) s
  | .globalLoadCompletion rid => Event.run (.globalLoadCompletion rid) s = exec (.globalLoadCompletion rid) s
  | .globalAckArrival pid => Event.run (.globalAckArrival pid) s = exec (.globalAckArrival pid) s
  | .globalAccessError rid cause => Event.run (.globalAccessError rid cause) s = exec (.globalAccessError rid cause) s
  | .translationWalk die rid => Event.run (.translationWalk die rid) s = exec (.translationWalk die rid) s
  | .homePortAccess rid corrected => Event.run (.homePortAccess rid corrected) s = exec (.homePortAccess rid corrected) s
  | .reductionApply pid => Event.run (.reductionApply pid) s = exec (.reductionApply pid) s
  | .packetArrival pid noise => Event.run (.packetArrival pid noise) s = exec (.packetArrival pid noise) s
  | .mergeEntrySend node e => Event.run (.mergeEntrySend node e) s = exec (.mergeEntrySend node e) s
  | .retransmitTimeout node dest cls => Event.run (.retransmitTimeout node dest cls) s = exec (.retransmitTimeout node dest cls) s
  | .linkLevelRetry edge m lane failed => Event.run (.linkLevelRetry edge m lane failed) s = exec (.linkLevelRetry edge m lane failed) s
  | .moduleOutOfService edge m => Event.run (.moduleOutOfService edge m) s = exec (.moduleOutOfService edge m) s
  | .moduleRetrainEnd edge m ok lanes => Event.run (.moduleRetrainEnd edge m ok lanes) s = exec (.moduleRetrainEnd edge m ok lanes) s
  | .edgeFailure edge => Event.run (.edgeFailure edge) s = exec (.edgeFailure edge) s
  | .nodeReset node enter => Event.run (.nodeReset node enter) s = exec (.nodeReset node enter) s
  | .routeTableAdoption node => Event.run (.routeTableAdoption node) s = exec (.routeTableAdoption node) s
  | .scaleOutRetrain port up => Event.run (.scaleOutRetrain port up) s = exec (.scaleOutRetrain port up) s
  | .ptcAlignment node skip => Event.run (.ptcAlignment node skip) s = exec (.ptcAlignment node skip) s
  | .semaphoreUpdate t => Event.run (.semaphoreUpdate t) s = exec (.semaphoreUpdate t) s
  | .barrierUpdate t => Event.run (.barrierUpdate t) s = exec (.barrierUpdate t) s
  | .treeArrivalAtRoot job tree t => Event.run (.treeArrivalAtRoot job tree t) s = exec (.treeArrivalAtRoot job tree t) s
  | .treeMaskAtRoot job tree row k mask => Event.run (.treeMaskAtRoot job tree row k mask) s = exec (.treeMaskAtRoot job tree row k mask) s
  | .tgenIncrement job tree die => Event.run (.tgenIncrement job tree die) s = exec (.tgenIncrement job tree die) s
  | .nextRotate t h => Event.run (.nextRotate t h) s = exec (.nextRotate t h) s
  | .nextReplyArrival t h => Event.run (.nextReplyArrival t h) s = exec (.nextReplyArrival t h) s
  | .nextRequestService t h => Event.run (.nextRequestService t h) s = exec (.nextRequestService t h) s
  | .itemReport rid => Event.run (.itemReport rid) s = exec (.itemReport rid) s
  | .launchReady job lid => Event.run (.launchReady job lid) s = exec (.launchReady job lid) s
  | .launchSpecRead job lid => Event.run (.launchSpecRead job lid) s = exec (.launchSpecRead job lid) s
  | .unitPlacement job lid => Event.run (.unitPlacement job lid) s = exec (.unitPlacement job lid) s
  | .unitEnd job uid => Event.run (.unitEnd job uid) s = exec (.unitEnd job uid) s
  | .launchComplete job lid => Event.run (.launchComplete job lid) s = exec (.launchComplete job lid) s
  | .taskDispatch job lid => Event.run (.taskDispatch job lid) s = exec (.taskDispatch job lid) s
  | .graphInstanceStart seq => Event.run (.graphInstanceStart seq) s = exec (.graphInstanceStart seq) s
  | .graphInstanceComplete job inst => Event.run (.graphInstanceComplete job inst) s = exec (.graphInstanceComplete job inst) s
  | .phaseComplete job => Event.run (.phaseComplete job) s = exec (.phaseComplete job) s
  | .jobClearing job => Event.run (.jobClearing job) s = exec (.jobClearing job) s
  | .jobClearingEnd job => Event.run (.jobClearingEnd job) s = exec (.jobClearingEnd job) s
  | .checkpointCommit t => Event.run (.checkpointCommit t) s = exec (.checkpointCommit t) s
  | .timingReplay t back restarts => Event.run (.timingReplay t back restarts) s = exec (.timingReplay t back restarts) s
  | .kgroupReplay t restarts => Event.run (.kgroupReplay t restarts) s = exec (.kgroupReplay t restarts) s
  | .dataErrorRollback t kind => Event.run (.dataErrorRollback t kind) s = exec (.dataErrorRollback t kind) s
  | .trapEntry t h => Event.run (.trapEntry t h) s = exec (.trapEntry t h) s
  | .preEmption job => Event.run (.preEmption job) s = exec (.preEmption job) s
  | .restore job => Event.run (.restore job) s = exec (.restore job) s
  | .predictiveLeak node => Event.run (.predictiveLeak node) s = exec (.predictiveLeak node) s
  | .chinookWindowEnd t => Event.run (.chinookWindowEnd t) s = exec (.chinookWindowEnd t) s
  | .chinookFlashWrite t => Event.run (.chinookFlashWrite t) s = exec (.chinookFlashWrite t) s
  | .throttleStep region ik i0 => Event.run (.throttleStep region ik i0) s = exec (.throttleStep region ik i0) s
  | .droopAlarm region begun lasts => Event.run (.droopAlarm region begun lasts) s = exec (.droopAlarm region begun lasts) s
  | .droopStretchRelax region => Event.run (.droopStretchRelax region) s = exec (.droopStretchRelax region) s
  | .powerCapEvaluation power => Event.run (.powerCapEvaluation power) s = exec (.powerCapEvaluation power) s
  | .pacingEvaluation job slacks => Event.run (.pacingEvaluation job slacks) s = exec (.pacingEvaluation job slacks) s
  | .temperatureRead die temps => Event.run (.temperatureRead die temps) s = exec (.temperatureRead die temps) s
  | .inputSag volt => Event.run (.inputSag volt) s = exec (.inputSag volt) s
  | .sagRecovery volt => Event.run (.sagRecovery volt) s = exec (.sagRecovery volt) s
  | .sagTimeout => Event.run (.sagTimeout) s = exec (.sagTimeout) s
  | .internalBusLow => Event.run (.internalBusLow) s = exec (.internalBusLow) s
  | .emergencySequence thermal => Event.run (.emergencySequence thermal) s = exec (.emergencySequence thermal) s
  | .powerEnableLow micros => Event.run (.powerEnableLow micros) s = exec (.powerEnableLow micros) s
  | .inputRemoval => Event.run (.inputRemoval) s = exec (.inputRemoval) s
  | .moduleReset recovery cd24ok => Event.run (.moduleReset recovery cd24ok) s = exec (.moduleReset recovery cd24ok) s
  | .flashWrite port off bytes => Event.run (.flashWrite port off bytes) s = exec (.flashWrite port off bytes) s
  | .commandRecordWrite port off size data => Event.run (.commandRecordWrite port off size data) s = exec (.commandRecordWrite port off size data) s
  | .recordAccept port => Event.run (.recordAccept port) s = exec (.recordAccept port) s
  | .createJob seq => Event.run (.createJob seq) s = exec (.createJob seq) s
  | .loadRange seq => Event.run (.loadRange seq) s = exec (.loadRange seq) s
  | .loadInval seq => Event.run (.loadInval seq) s = exec (.loadInval seq) s
  | .loadMethod seq => Event.run (.loadMethod seq) s = exec (.loadMethod seq) s
  | .loadGraph seq => Event.run (.loadGraph seq) s = exec (.loadGraph seq) s
  | .runGraph seq => Event.run (.runGraph seq) s = exec (.runGraph seq) s
  | .cancelRecord seq => Event.run (.cancelRecord seq) s = exec (.cancelRecord seq) s
  | .query seq hostOk => Event.run (.query seq hostOk) s = exec (.query seq hostOk) s
  | .selfTest seq fails => Event.run (.selfTest seq fails) s = exec (.selfTest seq fails) s
  | .setPolicyTree seq => Event.run (.setPolicyTree seq) s = exec (.setPolicyTree seq) s
  | .setPolicyPcap seq => Event.run (.setPolicyPcap seq) s = exec (.setPolicyPcap seq) s
  | .setPolicyCslr seq => Event.run (.setPolicyCslr seq) s = exec (.setPolicyCslr seq) s
  | .setPolicyMarks seq => Event.run (.setPolicyMarks seq) s = exec (.setPolicyMarks seq) s
  | .completionRecord seq => Event.run (.completionRecord seq) s = exec (.completionRecord seq) s
  | .hsemClaim port i p => Event.run (.hsemClaim port i p) s = exec (.hsemClaim port i p) s
  | .hsemRelease port i => Event.run (.hsemRelease port i) s = exec (.hsemRelease port i) s
  | .hostLinkDown port => Event.run (.hostLinkDown port) s = exec (.hostLinkDown port) s
  | .apertureRead port off len => Event.run (.apertureRead port off len) s = exec (.apertureRead port off len) s
  | .apertureWrite port off bytes => Event.run (.apertureWrite port off bytes) s = exec (.apertureWrite port off bytes) s
  | .registerWrite port off value => Event.run (.registerWrite port off value) s = exec (.registerWrite port off value) s
  | .acknowledgementDeparture node src cls => Event.run (.acknowledgementDeparture node src cls) s = exec (.acknowledgementDeparture node src cls) s

/-- An event completes: its operation answers a next state. That of a request at a home site needs the request to be answered already or its address to lie
in the stack, as every translation gives it (R296). -/
def Event.completes (s : State) : Event → Prop
  | .resultDue t h => ∃ u, exec (.resultDue t h) s = .next u
  | .clkdivApply t => ∃ u, exec (.clkdivApply t) s = .next u
  | .arrayPhaseStart t => ∃ u, exec (.arrayPhaseStart t) s = .next u
  | .mmaeEscalation t => ∃ u, exec (.mmaeEscalation t) s = .next u
  | .arrayOperationDue t => ∃ u, exec (.arrayOperationDue t) s = .next u
  | .matrixCommandCompletion t id => ∃ u, exec (.matrixCommandCompletion t id) s = .next u
  | .copyCommandStart t => ∃ u, exec (.copyCommandStart t) s = .next u
  | .cpytStart t id => ∃ u, exec (.cpytStart t id) s = .next u
  | .copyRowLand rid => ∃ u, exec (.copyRowLand rid) s = .next u
  | .copyCompletion t id => ∃ u, exec (.copyCompletion t id) s = .next u
  | .globalLoadCompletion rid => ∃ u, exec (.globalLoadCompletion rid) s = .next u
  | .globalAckArrival pid => ∃ u, exec (.globalAckArrival pid) s = .next u
  | .globalAccessError rid cause => ∃ u, exec (.globalAccessError rid cause) s = .next u
  | .translationWalk die rid => ∃ u, exec (.translationWalk die rid) s = .next u
  | .homePortAccess rid corrected => (∀ r, s.req rid = some r → r.state = .sent → paLocal r.pa < Config.stackEnd) →
    ∃ u, exec (.homePortAccess rid corrected) s = .next u
  | .reductionApply pid => ∃ u, exec (.reductionApply pid) s = .next u
  | .packetArrival pid noise => ∃ u, exec (.packetArrival pid noise) s = .next u
  | .mergeEntrySend node e => ∃ u, exec (.mergeEntrySend node e) s = .next u
  | .retransmitTimeout node dest cls => ∃ u, exec (.retransmitTimeout node dest cls) s = .next u
  | .linkLevelRetry edge m lane failed => ∃ u, exec (.linkLevelRetry edge m lane failed) s = .next u
  | .moduleOutOfService edge m => ∃ u, exec (.moduleOutOfService edge m) s = .next u
  | .moduleRetrainEnd edge m ok lanes => ∃ u, exec (.moduleRetrainEnd edge m ok lanes) s = .next u
  | .edgeFailure edge => ∃ u, exec (.edgeFailure edge) s = .next u
  | .nodeReset node enter => ∃ u, exec (.nodeReset node enter) s = .next u
  | .routeTableAdoption node => ∃ u, exec (.routeTableAdoption node) s = .next u
  | .scaleOutRetrain port up => ∃ u, exec (.scaleOutRetrain port up) s = .next u
  | .ptcAlignment node skip => ∃ u, exec (.ptcAlignment node skip) s = .next u
  | .semaphoreUpdate t => ∃ u, exec (.semaphoreUpdate t) s = .next u
  | .barrierUpdate t => ∃ u, exec (.barrierUpdate t) s = .next u
  | .treeArrivalAtRoot job tree t => ∃ u, exec (.treeArrivalAtRoot job tree t) s = .next u
  | .treeMaskAtRoot job tree row k mask => ∃ u, exec (.treeMaskAtRoot job tree row k mask) s = .next u
  | .tgenIncrement job tree die => ∃ u, exec (.tgenIncrement job tree die) s = .next u
  | .nextRotate t h => ∃ u, exec (.nextRotate t h) s = .next u
  | .nextReplyArrival t h => ∃ u, exec (.nextReplyArrival t h) s = .next u
  | .nextRequestService t h => ∃ u, exec (.nextRequestService t h) s = .next u
  | .itemReport rid => ∃ u, exec (.itemReport rid) s = .next u
  | .launchReady job lid => ∃ u, exec (.launchReady job lid) s = .next u
  | .launchSpecRead job lid => ∃ u, exec (.launchSpecRead job lid) s = .next u
  | .unitPlacement job lid => ∃ u, exec (.unitPlacement job lid) s = .next u
  | .unitEnd job uid => ∃ u, exec (.unitEnd job uid) s = .next u
  | .launchComplete job lid => ∃ u, exec (.launchComplete job lid) s = .next u
  | .taskDispatch job lid => ∃ u, exec (.taskDispatch job lid) s = .next u
  | .graphInstanceStart seq => ∃ u, exec (.graphInstanceStart seq) s = .next u
  | .graphInstanceComplete job inst => ∃ u, exec (.graphInstanceComplete job inst) s = .next u
  | .phaseComplete job => ∃ u, exec (.phaseComplete job) s = .next u
  | .jobClearing job => ∃ u, exec (.jobClearing job) s = .next u
  | .jobClearingEnd job => ∃ u, exec (.jobClearingEnd job) s = .next u
  | .checkpointCommit t => ∃ u, exec (.checkpointCommit t) s = .next u
  | .timingReplay t back restarts => ∃ u, exec (.timingReplay t back restarts) s = .next u
  | .kgroupReplay t restarts => ∃ u, exec (.kgroupReplay t restarts) s = .next u
  | .dataErrorRollback t kind => ∃ u, exec (.dataErrorRollback t kind) s = .next u
  | .trapEntry t h => ∃ u, exec (.trapEntry t h) s = .next u
  | .preEmption job => ∃ u, exec (.preEmption job) s = .next u
  | .restore job => ∃ u, exec (.restore job) s = .next u
  | .predictiveLeak node => ∃ u, exec (.predictiveLeak node) s = .next u
  | .chinookWindowEnd t => ∃ u, exec (.chinookWindowEnd t) s = .next u
  | .chinookFlashWrite t => ∃ u, exec (.chinookFlashWrite t) s = .next u
  | .throttleStep region ik i0 => ∃ u, exec (.throttleStep region ik i0) s = .next u
  | .droopAlarm region begun lasts => ∃ u, exec (.droopAlarm region begun lasts) s = .next u
  | .droopStretchRelax region => ∃ u, exec (.droopStretchRelax region) s = .next u
  | .powerCapEvaluation power => ∃ u, exec (.powerCapEvaluation power) s = .next u
  | .pacingEvaluation job slacks => ∃ u, exec (.pacingEvaluation job slacks) s = .next u
  | .temperatureRead die temps => ∃ u, exec (.temperatureRead die temps) s = .next u
  | .inputSag volt => ∃ u, exec (.inputSag volt) s = .next u
  | .sagRecovery volt => ∃ u, exec (.sagRecovery volt) s = .next u
  | .sagTimeout => ∃ u, exec (.sagTimeout) s = .next u
  | .internalBusLow => ∃ u, exec (.internalBusLow) s = .next u
  | .emergencySequence thermal => ∃ u, exec (.emergencySequence thermal) s = .next u
  | .powerEnableLow micros => ∃ u, exec (.powerEnableLow micros) s = .next u
  | .inputRemoval => ∃ u, exec (.inputRemoval) s = .next u
  | .moduleReset recovery cd24ok => ∃ u, exec (.moduleReset recovery cd24ok) s = .next u
  | .flashWrite port off bytes => ∃ u, exec (.flashWrite port off bytes) s = .next u
  | .commandRecordWrite port off size data => ∃ u, exec (.commandRecordWrite port off size data) s = .next u
  | .recordAccept port => ∃ u, exec (.recordAccept port) s = .next u
  | .createJob seq => ∃ u, exec (.createJob seq) s = .next u
  | .loadRange seq => ∃ u, exec (.loadRange seq) s = .next u
  | .loadInval seq => ∃ u, exec (.loadInval seq) s = .next u
  | .loadMethod seq => ∃ u, exec (.loadMethod seq) s = .next u
  | .loadGraph seq => ∃ u, exec (.loadGraph seq) s = .next u
  | .runGraph seq => ∃ u, exec (.runGraph seq) s = .next u
  | .cancelRecord seq => ∃ u, exec (.cancelRecord seq) s = .next u
  | .query seq hostOk => ∃ u, exec (.query seq hostOk) s = .next u
  | .selfTest seq fails => ∃ u, exec (.selfTest seq fails) s = .next u
  | .setPolicyTree seq => ∃ u, exec (.setPolicyTree seq) s = .next u
  | .setPolicyPcap seq => ∃ u, exec (.setPolicyPcap seq) s = .next u
  | .setPolicyCslr seq => ∃ u, exec (.setPolicyCslr seq) s = .next u
  | .setPolicyMarks seq => ∃ u, exec (.setPolicyMarks seq) s = .next u
  | .completionRecord seq => ∃ u, exec (.completionRecord seq) s = .next u
  | .hsemClaim port i p => ∃ u, exec (.hsemClaim port i p) s = .next u
  | .hsemRelease port i => ∃ u, exec (.hsemRelease port i) s = .next u
  | .hostLinkDown port => ∃ u, exec (.hostLinkDown port) s = .next u
  | .apertureRead port off len => ∃ u, exec (.apertureRead port off len) s = .next u
  | .apertureWrite port off bytes => ∃ u, exec (.apertureWrite port off bytes) s = .next u
  | .registerWrite port off value => ∃ u, exec (.registerWrite port off value) s = .next u
  | .acknowledgementDeparture node src cls => ∃ u, exec (.acknowledgementDeparture node src cls) s = .next u

end Sys2Proof.Machine
end

