-- ==== Sys2Proof/Certificates/Slice0/Obligations.lean ====
section
/-! DEFINITION. The statements for the provers. Each says what it formalises; OBLIGATIONS.json lists them. -/

open Sys2Proof Sys2Proof.Machine

/-! ### The A0 and A1 slots -/

/-- R84, R86, R89, R90, R91: sums, logic, constants, minimum, maximum, comparison and selection, one issue cycle later. Operands are what the slot reads
(an early read of R262 included); an immediate is sign-extended; CATI reads its destination too. -/
def Obligations.SumsLogicAndComparisonsGiveTheirResult : Prop :=
  (∀ (sp : BitVec 3) (d a b : BitVec 5) (sh : BitVec 4) (imm : BitVec 13) (big : BitVec 18) (s : State),
    let x := s.rx a
    let y := s.rx b
    let i : Dword := imm.signExtend 64
    ∀ q ∈ ([(.add sp d a b, x + y), (.sub sp d a b, x - y), (.and sp d a b, x &&& y), (.or sp d a b, x ||| y), (.xor sp d a b, x ^^^ y),
        (.andn sp d a b, x &&& ~~~y), (.addw sp d a b, ((x + y).setWidth 32).signExtend 64), (.addsh sp d a b sh, x + y * 2 ^ sh.toNat),
        (.addi sp d a imm, x + i), (.andi sp d a imm, x &&& i), (.ori sp d a imm, x ||| i), (.xori sp d a imm, x ^^^ i),
        (.movl sp d big, big.signExtend 64), (.cati sp d big, s.rx d * 2 ^ 18 + big.zeroExtend 64)] : List (Instr × Dword)),
      Acts q.1 s → exec q.1 s = .next (s.dueX d q.2 1)) ∧
  (∀ (sp : BitVec 3) (d a b c : BitVec 5) (imm : BitVec 13) (s : State),
    let x := s.rx a
    let y := s.rx b
    let i : Dword := imm.signExtend 64
    ∀ q ∈ ([(.min sp d a b, if x.toInt ≤ y.toInt then x else y), (.max sp d a b, if x.toInt ≥ y.toInt then x else y),
        (.minn sp d a b, if x.toNat ≤ y.toNat then x else y), (.maxn sp d a b, if x.toNat ≥ y.toNat then x else y),
        (.seq sp d a b, if x = y then 1 else 0), (.slt sp d a b, if x.toInt < y.toInt then 1 else 0),
        (.sltn sp d a b, if x.toNat < y.toNat then 1 else 0), (.seqi sp d a imm, if x = i then 1 else 0),
        (.slti sp d a imm, if x.toInt < i.toInt then 1 else 0), (.sltni sp d a imm, if x.toNat < i.toNat then 1 else 0),
        (.sel sp d a b c, if s.rx c ≠ 0 then x else y)] : List (Instr × Dword)),
      Acts q.1 s → exec q.1 s = .next (s.dueX d q.2 1))

/-- R85, R87, R88, R92, R93: products after 3 issue cycles, quotients and remainders after 18 (a division by zero gives all ones and leaves the dividend
as the remainder); shifts, and counts and bit fields bit by bit, one issue cycle later. A count covers the low 64, 32, 16 or 8 bits of its operand;
BINS reads its destination too. -/
def Obligations.ProductsShiftsAndFieldsGiveTheirResult : Prop :=
  (∀ (sp : BitVec 3) (d a b : BitVec 5) (s : State),
    let x := s.rx a
    let y := s.rx b
    ∀ q ∈ ([(.mul sp d a b, 3, x * y), (.mulh sp d a b, 3, (x.signExtend 128 * y.signExtend 128).extractLsb' 64 64),
        (.mulhn sp d a b, 3, (x.zeroExtend 128 * y.zeroExtend 128).extractLsb' 64 64),
        (.div sp d a b, 18, if y = 0 then -1 else x.sdiv y), (.divn sp d a b, 18, if y = 0 then -1 else x / y),
        (.rem sp d a b, 18, if y = 0 then x else x.srem y), (.remn sp d a b, 18, if y = 0 then x else x % y)] : List (Instr × Nat × Dword)),
      Acts q.1 s → exec q.1 s = .next (s.dueX d q.2.2 q.2.1)) ∧
  (∀ (sp : BitVec 3) (d a b : BitVec 5) (k : BitVec 6) (w : BitVec 2) (sg : BitVec 1) (len pos : BitVec 6) (s : State),
    let x := s.rx a
    let n := (s.rx b).toNat % 64
    let old := s.rx d
    let m := 64 >>> w.toNat
    let l := len.toNat + 1
    (∀ q ∈ ([(.shl sp d a b, x <<< n), (.shli sp d a k, x <<< k.toNat), (.shr sp d a b, x >>> n), (.shri sp d a k, x >>> k.toNat),
        (.sar sp d a b, x.sshiftRight n), (.sari sp d a k, x.sshiftRight k.toNat), (.rol sp d a b, x.rotateLeft n),
        (.popc sp d a w, BitVec.ofNat 64 ((List.range m).countP fun j => x.getLsbD j)),
        (.bext sp d a sg len pos, if sg = 1 then (x.extractLsb' pos.toNat l).signExtend 64 else (x.extractLsb' pos.toNat l).zeroExtend 64)] :
          List (Instr × Dword)),
      Acts q.1 s → exec q.1 s = .next (s.dueX d q.2 1)) ∧
    (Acts (.clz sp d a w) s → ∃ z, exec (.clz sp d a w) s = .next (s.dueX d (BitVec.ofNat 64 z) 1) ∧ z ≤ m ∧
      (∀ j, m - z ≤ j → j < m → x.getLsbD j = false) ∧ (z < m → x.getLsbD (m - 1 - z) = true)) ∧
    (Acts (.bins sp d a len pos) s → ∃ v : Dword, exec (.bins sp d a len pos) s = .next (s.dueX d v 1) ∧
      ∀ j < 64, v.getLsbD j = if pos.toNat ≤ j ∧ j < pos.toNat + l then x.getLsbD (j - pos.toNat) else old.getLsbD j))

/-! ### Encodings -/

/-- R22, R31, R33: every operation of a slot has a word of its table, within 32 or 64 bits, and the table's decoder reads the operation back
from it, every field at every value; what R27 allows in the fields does not enter. -/
def Obligations.EncodedWordsDecodeToTheirOperation : Prop :=
  (∀ i : Instr, i.layout ≠ none → i.wf = true → ∃ u w, i.encode = some (u, w) ∧ w < 2 ^ u.home.bits ∧ decodeSlot u.home w = .ok i) ∧
  ∀ (i : Instr) (u : SlotUnit) (w : Nat), i.encode = some (u, w) → w < 2 ^ u.home.bits ∧ u.decode w = .ok i

/-- R27: a word that the decoder accepts is the word of the operation that it reads: no bit of an accepted word is passed over. -/
def Obligations.DecodedWordsAreTheWordsOfTheirOperation : Prop :=
  ∀ (u : SlotUnit) (w : Nat) (i : Instr), w < 2 ^ u.home.bits → u.decode w = .ok i → i.encode = some (u, w)

/-- Words written out from the manual's tables (R31 to R34; the words of the worked examples in R89 and R91). -/
def Obligations.WordsWrittenOutDecode : Prop :=
  decodeSlot .a0 0x50080108 = .ok (.addsh 0 2 0 1 8) ∧ decodeSlot .a0 0x58104248 = .ok (.bext 0 4 2 0 9 8) ∧
  decodeSlot .a0 0xA8140004 = .ok (.movl 0 5 4) ∧ decodeSlot .a0 0xAC163456 = .ok (.cati 0 5 0x23456) ∧
  decodeBundle 64 true [0x00, 0x80] = .bundle ⟨false, false, 2, []⟩

/-! ### Reset, memory, the step -/

/-- What the manual gives for a module, a tile and a context after reset (R39, R40, R260, R306, R318, R374, R391, R393, R394): no job, no unit,
divisors 2, 2, 2 and 4, every limit 64, the reset values of CSLR and PCAP. That memory lists nothing, that a context's x, v and p registers hold
zero and that LFSR holds 1 are the model's choices (log 1, log 2, log 3), not the manual's. -/
def Obligations.ResetLeavesTheModuleEmpty : Prop :=
  State.reset.mem = [] ∧ State.reset.jobs = [] ∧ State.reset.agenda = [] ∧ State.reset.power.mstate = 0 ∧ State.reset.ctl.jnext = 1 ∧
  (∀ t, let k := (State.reset.tile t).core
    (k.dC, k.dV, k.dM, k.dY) = (2, 2, 2, 4) ∧ k.isscnt = 0 ∧ k.tb = 0 ∧ k.te = 0 ∧ (State.reset.tile t).retired = false ∧
    ∀ h, (k.ctx h).owner = .idle ∧ (k.ctx h).sp = 1 ∧ (k.ctx h).status = 0 ∧ (k.ctx h).fcr = 0 ∧ (k.ctx h).due = [] ∧
      (∀ n, n ≠ 0 → (k.ctx h).x n = 0 ∧ (k.ctx h).p n = 0) ∧ ∀ n, (k.ctx h).v n = 0) ∧
  (∀ r, let g := sget PowerRegion.reset State.reset.regions r
    (g.n, g.capLimit, g.stepLimit, g.thermal, g.pacing, g.sag) = (64, 64, 64, 64, 64, 64) ∧ g.cslr = 0x80400040) ∧
  State.reset.ctl.pcap = 0x00000BB880641111

/-- The memory of the module after reset has its one form. -/
def Obligations.ResetMemoryIsCanonical : Prop := MemoryCanonical State.reset

/-- Every step of the module, from any state, keeps device memory in its one form. -/
def Obligations.EveryStepKeepsMemoryCanonical : Prop := ∀ s t, MemoryCanonical s → step s = .next t → MemoryCanonical t

/-- A step of a tile whose only live context stands at a bundle of one slot, which issues clear (R251): it runs the decoded operation by `exec`
in the frame of its bundle (PC, link value, the checks passed), then ends the bundle and the control cycle (R5, R30, R51, R327, R335). `w` is the
tile once the writes due have been made and, where it stood in a freeze of R147 that is over, once the router's buffers have been applied (R257); what the
cycle changes of the tile's last image becomes dirty (R382). No event comes before the cycle, and no tree's generation with it (R269). -/
def Obligations.StepRunsTheDecodedOperation : Prop :=
  ∀ (s s0 o v w r u e : State) (t h clock : Nat) (x : Ctx) (line : List Byte) (b : Bundle) (c : SlotClass) (i : Instr) (g : Stage),
    s0 = { s with free := s.free + 1 } → o = { s0 with time := max s0.time (s0.cycleTime t) }.openCycle t → v = o.settle t →
    w = (if (v.tile t).still then v.thaw t else v) → ((v.tile t).still = true → ∃ g', issueStage t v = .next g' ∧ g'.freeze = none) →
    s0.nextTile = some (t, clock) → (∀ p ∈ s0.agenda.head?, clock ≤ p.1 ∧ (p.1 = clock → p.2.isTgen = false)) → (o.tile t).retired = false → o.stalled t = none →
    h < 4 → (w.tile t).core.primary = h → (∀ k < 4, k ≠ h → (w.ctxAt t k).owner = .idle) → w.ctxAt t h = x →
    x.owner ≠ .idle → x.stopped = false → x.handler = none → x.stop = .run → x.halted = false → x.pause = 0 → x.errs = [] →
    x.fetchWait = false → (w.tile t).region.run = 0 → w.codeMiss t x.job x.pc = false → w.codeLine t x.job x.pc = .ok line →
    decodeBundle (64 - x.pc.toNat % 64) x.arrived (line.drop (x.pc.toNat % 64)) = .bundle b → b.slots = [(c, i)] →
    r = ((w.updCtx t h fun k => { k with pc := x.pc }).sampled t).look t h x.pc (w.linkValue t x.job x.pc line b.len) →
    r.guardOn i.sp = true → Clear i (r.atSlot c) → exec i ((r.beginBundle b).atSlot c) = .next u →
    e = u.endBundle b false (r.collides [(c, i)]) (Instr.waits i) → g = ⟨e, [h], some (b, r.xRows [(c, i)]), false, none⟩ →
    w.commitFirst t g = false →
    step s = .next ((e.closeCycle t g (w.tile t).core.bcnt).soiled t (s0.tile t).core)

/-- An event of the agenda, or one that happens within a control cycle, is carried out as the operation of its name. -/
def Obligations.EventsActAsTheirOperations : Prop := ∀ (e : Event) (s : State), e.carried s

/-! ### Issue, registers and traps -/

/-- R29, R147, R157, R159, R254, R263: a slot operation whose stage guard is off does nothing (SP[0] always reads as 1, so sp = 0 is never off). One that
issues by itself and is held, freezes the tile, is blocked or traps has no other effect, in this order; a slot's own traps stand in the order of
log 21, the model's choice. -/
def Obligations.OperationsThatDoNotActHaveNoOtherEffect : Prop :=
  (∀ (i : Instr) (s : State), i.encode ≠ none → i.sp ≠ 0 → s.ctx.sp.getLsbD i.sp.toNat = false → exec i s = .next s) ∧
  (∀ (i : Instr) (s : State), i.encode ≠ none → s.guardOn i.sp = true → s.cur.checked = false →
    (s.ctx.strict = true → s.anyEarly i.condRegs = true → exec i s = .next (s.raise 0x05 s.cur.pm 0 0)) ∧
    ((s.ctx.strict = true → s.anyEarly i.condRegs = false) →
      (s.waitHolds i = false → exec i s = .next (s.updSelf fun c => { c with held := true })) ∧
      (s.waitHolds i = true →
        (s.me.core.mustFreeze i = true → exec i s = .next (s.updMe fun t =>
          { t with clock := t.clock + t.core.dC, still := true, core := { t.core with arrClk := t.core.arrClk + 1 } })) ∧
        (s.me.core.mustFreeze i = false →
          (s.commandBlocks i = true ∨ s.countersFull i.oldAdds i.ostAdds = true → exec i s = .next s) ∧
          (s.commandBlocks i = false → s.countersFull i.oldAdds i.ostAdds = false →
            (s.workDenied i = true → exec i s = .next (s.raise 0x14 0 10 0x50000000)) ∧
            (s.workDenied i = false → s.unprivileged i = true → exec i s = .next (s.raise 0x04 s.cur.pm 0 0)) ∧
            (s.workDenied i = false → s.unprivileged i = false → s.hazard i = true → exec i s = .next (s.raise 0x05 s.cur.pm 0 0)) ∧
            ∀ ea, i.scratch s = some ea → i.engineEa s = [] → s.workDenied i = false → s.unprivileged i = false → s.hazard i = false →
              (s.ctx.strict = true → 2 ^ 18 ≤ ea.toNat → exec i s = .next (s.raise 0x07 s.cur.pm 0 0)) ∧
              ((s.ctx.strict = true → ea.toNat < 2 ^ 18) → s.me.core.badBits (rowOf ea) &&& i.wordsRead s ea ≠ 0 →
                exec i s = .next (s.raise 0x08 s.cur.pm (rowOf ea) 0)))))))

/-- R35, R260: in a user context the supervisor-only forms raise the privilege trap 0x04 with the slot's PM bit in AUX. A LAUNCH into another
job comes so far only from a context that may issue work, and traps whether or not its slot counter has room (R235). -/
def Obligations.SupervisorFormsTrapInUserContexts : Prop :=
  ∀ (i : Instr) (s : State), s.guardOn i.sp = true → s.cur.checked = false → s.ctx.status.getLsbD 0 = false → s.ctx.inh = false →
    ((∃ sp d a slot n j oj, i = .launch sp d a slot n j oj ∧ oj = 1 ∧ ∃ g, s.ctx.owner = .graph g) ∨
      (∃ sp a l, i = .cancel sp a l ∧ 2 ≤ l.toNat) ∨ (∃ sp a b tr, i = .treemask sp a b tr) ∨ (∃ sp, i = .eret sp) ∨
      (∃ sp a r, i = .swr sp a r ∧ r ∈ [0x014, 0x015, 0x016, 0x017, 0x081, 0x082]) ∨
      (∃ sp fc fv fm fy d, i = .clkdiv sp fc fv fm fy d ∧
        ((fc ≠ 0 ∧ fc.toNat < pcapFloor s.ctl.pcap 0) ∨ (fv ≠ 0 ∧ fv.toNat < pcapFloor s.ctl.pcap 1) ∨
          (fm ≠ 0 ∧ fm.toNat < pcapFloor s.ctl.pcap 2) ∨ (fy ≠ 0 ∧ fy.toNat < pcapFloor s.ctl.pcap 3)))) →
    exec i s = .next (s.raise 0x04 s.cur.pm 0 0)

/-- R28, R366, R369, R371: a precise trap outside the handler saves the bundle's header in EPC and the record in CAUSE and TRAPREC, sets
STATUS.INH, has the region commit, and changes no other register; inside the handler the record is DOUBLE with the first cause in AUX. That the
handler's entry is one fixed address is the model's choice (log 8). -/
def Obligations.PreciseTrapsSaveTheBundleAndEnterTheHandler : Prop :=
  ∀ (s : State) (code aux w3 w2 : Nat) (c c' : Ctx), code ≠ 0x08 → code < 256 → aux < 4096 → s.ctx = c → (s.raise code aux w3 w2).ctx = c' →
    c'.epc = s.cur.pc ∧ c'.pc = Config.trapEntry ∧ c'.status = c.status ||| 8 ∧ c'.cause = c'.tr0 ∧
    c'.tr1 = c.cmdix.zeroExtend 64 ∧
    (c.inh = false → c'.cause.extractLsb' 0 8 = BitVec.ofNat 8 code ∧ c'.cause.extractLsb' 12 12 = BitVec.ofNat 12 aux ∧
      c'.cause.extractLsb' 30 34 = 0 ∧ c'.tr2 = (BitVec.ofNat 32 w2).zeroExtend 64 ∧ c'.tr3 = (BitVec.ofNat 32 w3).zeroExtend 64) ∧
    (c.inh = true → c'.cause.extractLsb' 0 8 = 0x20 ∧ c'.cause.extractLsb' 12 12 = (c.cause.extractLsb' 0 8).zeroExtend 12 ∧
      c'.cause.extractLsb' 28 36 = 1 ∧ c'.tr2 = 0 ∧ c'.tr3 = BitVec.ofNat 64 code) ∧
    { c' with
      cause := c.cause, epc := c.epc, tr0 := c.tr0, tr1 := c.tr1, tr2 := c.tr2, tr3 := c.tr3, status := c.status, pc := c.pc
      arrived := c.arrived, held := c.held, pause := c.pause, halted := c.halted, froze := c.froze, handler := c.handler } = c ∧
    (s.raise code aux w3 w2).me.region.commitDue = true ∧ (s.raise code aux w3 w2).mem = s.mem

/-- R36, R37, R96, R259, R262: x0 reads as zero, p0 as all ones, and a write to either is discarded; every other register reads as it was last written.
A write that is due later joins the pending ones, due the least positive number of issue cycles later in which its domain runs `l` cycles; no
register changes meanwhile, and nothing outside the acting context. A load pending on its register clashes with it (R171). -/
def Obligations.WiredRegistersReadAndPendingWritesFallDue : Prop :=
  (∀ (c : Ctx) (val : Row), (∀ r, (c.write r val).x 0 = 0 ∧ (c.write r val).p 0 = -1) ∧ c.write (.x 0) val = c ∧ c.write (.p 0) val = c ∧
    (∀ n, (c.write (.v n) val).v n = val) ∧
    ∀ n, n ≠ 0 → (c.write (.x n) val).x n = val.truncate 64 ∧ (c.write (.p n) val).p n = val.truncate 256) ∧
  (∀ (s t : State) (dst : Reg) (val : Row) (dom l : Nat) (f : BitVec 6), t = s.dueFlags dst val dom l f → 0 < s.me.core.dC →
    (∃ p, t.ctx.due = s.ctx.due ++ [p] ∧ p.dst = dst ∧ p.val = val ∧ p.flags = f ∧ p.issue = s.me.core.isscnt.toNat ∧ p.pm = s.cur.pm ∧
      (p.clash = none ↔ dst.wired = true ∨ ∀ d ∈ s.ctx.pend, d.reg ≠ dst) ∧
      ∃ n, p.due = s.me.core.isscnt.toNat + n ∧ 1 ≤ n ∧ l * s.me.core.div dom ≤ n * s.me.core.dC ∧
        ∀ m, 1 ≤ m → l * s.me.core.div dom ≤ m * s.me.core.dC → n ≤ m) ∧
    { t.ctx with due := s.ctx.due, pend := s.ctx.pend } = s.ctx ∧ t.ctx.pend.map (·.reg) = s.ctx.pend.map (·.reg) ∧ OnlyContext s t)

/-- R30, R57, R261, R262: RESULT_DUE. When every domain has kept up, each register takes the last of the writes due to it (by due cycle, then issue,
then PM bit), a register that none names keeps its value and later writes stay pending; the flags are raised, and FCR takes them at the end of the
issue cycle. Otherwise the tile spends a frozen control cycle. What a write leaves that a pending load clashed with is unspecified (R171) and not stated. -/
def Obligations.ResultsTakeEffectInOrderWhenDue : Prop :=
  ∀ (t h : Nat) (s : State) (c : Ctx), s.ctxAt t h = c → ∃ u, exec (.resultDue t h) s = .next u ∧ u.mem = s.mem ∧
    let now := (s.tile t).core.isscnt.toNat
    let hit (p : Pending) : Prop := p ∈ c.due ∧ p.due ≤ now
    let last (p : Pending) : Prop := hit p ∧ ∀ q, hit q → q.dst = p.dst → q ≠ p → q.before p = true
    ((s.tile t).core.lagging h = [] →
      (∀ p n, last p → p.clash = none → n ≠ 0 → p.dst = .x n → (u.ctxAt t h).x n = p.val.truncate 64) ∧
      (∀ p n, last p → p.clash = none → p.dst = .v n → (u.ctxAt t h).v n = p.val) ∧
      (∀ p n, last p → p.clash = none → n ≠ 0 → p.dst = .p n → (u.ctxAt t h).p n = p.val.truncate 256) ∧
      (∀ n, (∀ p, hit p → p.dst ≠ .x n) → (u.ctxAt t h).x n = c.x n) ∧ (∀ n, (∀ p, hit p → p.dst ≠ .v n) → (u.ctxAt t h).v n = c.v n) ∧
      (∀ n, (∀ p, hit p → p.dst ≠ .p n) → (u.ctxAt t h).p n = c.p n) ∧
      (u.ctxAt t h).fcr = c.fcr ∧
      (∀ j < 6, (u.ctxAt t h).raised.getLsbD j = (c.raised.getLsbD j || c.due.any fun p => p.due ≤ now && p.flags.getLsbD j)) ∧
      (∀ j < 6, c.gather.fcr.getLsbD (8 + j) = (c.fcr.getLsbD (8 + j) || c.raised.getLsbD j)) ∧
      (u.ctxAt t h).due = c.due.filter fun p => now < p.due) ∧
    ((s.tile t).core.lagging h ≠ [] → (u.ctxAt t h) = c ∧ (u.tile t).clock = (s.tile t).clock + (s.tile t).core.dC ∧
      (u.tile t).core.isscnt = (s.tile t).core.isscnt)

/-! ### Scratch and the spill store -/

/-- R153, R162, R164, R165: loads. A dword or a row is due three issue cycles later from scratch, one from the spill store; scalar spill slot
`k` is dword `k % 32` of block `k / 32`. Nothing else changes. -/
def Obligations.LoadsReadScratchAndSpill : Prop :=
  ∀ (sp : BitVec 3) (t base : BitVec 5) (off : BitVec 13) (k : BitVec 11) (r : BitVec 6) (s : State),
    let ea := s.rx base + off.signExtend 64 * 8
    let er := s.rx base + off.signExtend 64 * 256
    let row (a : Dword) := s.me.core.row (a.extractLsb' 8 10).toNat
    let fe := s.me.core.feBits (er.extractLsb' 8 10).toNat
    (∀ q ∈ ([(.ldx sp t base off, 3, (row ea).extractLsb' (64 * (ea.extractLsb' 3 5).toNat) 64), (.getfe sp t base off, 3, fe.zeroExtend 64),
        (.ldsp sp t k, 1, (sget 0 s.ctx.spill (k.toNat / 32)).extractLsb' (64 * (k.toNat % 32)) 64)] : List (Instr × Nat × Dword)),
      Acts q.1 s → exec q.1 s = .next (s.dueX t q.2.2 q.2.1)) ∧
    ∀ q ∈ ([(.ldv sp t base off, 3, row er), (.ldspv sp t r, 1, sget 0 s.ctx.spill r.toNat)] : List (Instr × Nat × Row)),
      Acts q.1 s → exec q.1 s = .next (s.due (.v t.toNat) q.2.2 0 q.2.1)

/-- R3, R152, R156, R160, R162 to R165: stores and full/empty forms write the row of their effective address and nothing else, and the loads among them
deliver what it held; the LD slot's write is discarded where the LS slot writes the row too. The spill stores write their slot of the acting context's
spill store alone. A dword put into a row leaves the other 31 as they were, a store under a predicate takes the bytes that it selects. -/
def Obligations.StoresWriteTheirRowOrSlotAlone : Prop :=
  (∀ (sp : BitVec 3) (t base : BitVec 5) (off : BitVec 13) (p : BitVec 3) (o : BitVec 10) (s : State),
    let ea := scratchEa s base off.toInt 8
    let er := scratchEa s base off.toInt 256
    let ep := scratchEa s base o.toInt 256
    let w := wordOf ea
    let bit : BitVec 32 := 1 <<< w
    let row (a : Dword) := s.me.core.row (rowOf a)
    let fe (a : Dword) := s.me.core.feBits (rowOf a)
    let old := rowWord (row ea) w
    ∀ q ∈ ([(.stx sp t base off, s, ea, setRowWord (row ea) w (s.rx t), fe ea, bit),
        (.stxe sp t base off, s, ea, setRowWord (row ea) w (s.rx t), fe ea ||| bit, bit),
        (.ldxf sp t base off, s.dueX t old 3, ea, row ea, fe ea &&& ~~~bit, 0), (.stv sp t base off, s, er, s.rv t, fe er, -1),
        (.stve sp t base off, s, er, s.rv t, -1, -1), (.ldvf sp t base off, s.due (.v t.toNat) (row er) 0 3, er, row er, 0, 0),
        (.setfe sp t base off, s, er, row er, (s.rx t).truncate 32, 0),
        (.stvp sp t base p o, s, ep, mergeBytes (s.rp p.toNat) (s.rv t) (row ep), fe ep, wordsTouched (s.rp p.toNat))] :
          List (Instr × State × Dword × Row × BitVec 32 × BitVec 32)),
      Acts q.1 s → ∃ u, exec q.1 s = .next u ∧
        (s.cur.ldDiscard = true ∧ s.cur.pm = 2 → u = q.2.1) ∧
        (¬(s.cur.ldDiscard = true ∧ s.cur.pm = 2) →
          RowWritten q.2.1 u (rowOf q.2.2.1) q.2.2.2.1 q.2.2.2.2.1 q.2.2.2.2.2)) ∧
  (∀ (sp : BitVec 3) (t : BitVec 5) (k : BitVec 11) (r : BitVec 6) (s : State),
    ∀ q ∈ ([(.stsp sp t k, k.toNat / 32, setRowWord (sget 0 s.ctx.spill (k.toNat / 32)) (k.toNat % 32) (s.rx t)),
        (.stspv sp t r, r.toNat, s.rv t)] : List (Instr × Nat × Row)),
      Acts q.1 s → ∃ u, exec q.1 s = .next u ∧ sget 0 u.ctx.spill q.2.1 = q.2.2 ∧
        (∀ n, n ≠ q.2.1 → sget 0 u.ctx.spill n = sget 0 s.ctx.spill n) ∧ { u.ctx with spill := s.ctx.spill } = s.ctx ∧
        (∀ h, h ≠ s.cur.hw → u.me.core.ctx h = s.me.core.ctx h) ∧ { u.me.core with ctxs := s.me.core.ctxs } = s.me.core ∧
        (∀ n, n ≠ s.cur.tile → u.tile n = s.tile n) ∧ { u with tiles := s.tiles } = s) ∧
  ((∀ (r : Row) (w v : Nat) (x : Dword), w < 32 → v < 32 → rowWord (setRowWord r w x) v = if v = w then x else rowWord r v) ∧
  ∀ (p : Pred) (new old : Row) (k : Nat), k < 256 → laneBits 8 (mergeBytes p new old) k = if p.getLsbD k then laneBits 8 new k else laneBits 8 old k)

/-- R156, R166, R167: a scratch atomic delivers the old word or row three issue cycles later and writes the new one, full/empty bits as they
were. -/
def Obligations.ScratchAtomicsReadModifyAndWrite : Prop :=
  ∀ (sp : BitVec 3) (t base b : BitVec 5) (off : BitVec 8) (o : BitVec 13) (s : State),
    let ea := scratchEa s base off.toInt 8
    let er := scratchEa s base o.toInt 256
    let n := rowOf ea
    let old := rowWord (s.me.core.row n) (wordOf ea)
    let x := s.rx b
    let discard := s.cur.ldDiscard = true ∧ s.cur.pm = 2
    (∀ q ∈ ([(.aadd sp t base b off, old + x), (.amin sp t base b off, if old.toInt < x.toInt then old else x),
        (.amax sp t base b off, if old.toInt > x.toInt then old else x), (.aminn sp t base b off, if old.toNat < x.toNat then old else x),
        (.amaxn sp t base b off, if old.toNat > x.toNat then old else x), (.aand sp t base b off, old &&& x), (.aor sp t base b off, old ||| x),
        (.axor sp t base b off, old ^^^ x), (.aswp sp t base b off, x), (.acas sp t base b off, if old = s.rx t then x else old)] :
          List (Instr × Dword)),
      Acts q.1 s → ∃ u, exec q.1 s = .next u ∧ (discard → u = s.dueX t old 3) ∧
        (¬discard → RowWritten (s.dueX t old 3) u n (setRowWord (s.me.core.row n) (wordOf ea) q.2) (s.me.core.feBits n) (1 <<< wordOf ea))) ∧
    ∀ q ∈ ([(.vaor sp t base o, fun k => laneBits 32 (s.me.core.row (rowOf er)) k ||| laneBits 32 (s.rv t) k),
        (.vaadd sp t base o, fun k => laneBits 32 (s.me.core.row (rowOf er)) k + laneBits 32 (s.rv t) k)] : List (Instr × (Nat → BitVec 32))),
      Acts q.1 s → ∃ u new, exec q.1 s = .next u ∧ (∀ k < 64, laneBits 32 new k = q.2 k) ∧
        (discard → u = s.due (.v t.toNat) (s.me.core.row (rowOf er)) 0 3) ∧
        (¬discard → RowWritten (s.due (.v t.toNat) (s.me.core.row (rowOf er)) 0 3) u (rowOf er) new (s.me.core.feBits (rowOf er)) (-1))

/-! ### Global accesses -/

/-- R168, R169, R171, R173, R174, R176, R278, R328, R333: GLDX, GLDV and LOCQ make their request at issue, count in OLD, leave their destination pending
and are sent with the tile's other requests; a rerun takes the request of the first run again and makes none. Stores, atomics and reductions capture
their operands at issue, count in OST, or in OLD where they return, and wait for the commit of their region; a returning GAMO ends the region (R327). -/
def Obligations.GlobalAccessesAreMadeAtIssue : Prop :=
  (∀ (sp : BitVec 3) (t base : BitVec 5) (q : BitVec 2) (off : BitVec 11) (s : State),
    ∀ i ∈ ([(.gldx sp t base q off, .load, q.toNat, s.rx base + off.signExtend 64 * 8, .x t.toNat),
        (.gldv sp t base q off, .loadRow, q.toNat, s.rx base + off.signExtend 64 * 256, .v t.toNat),
        (.locq sp t base, .locq, 4, s.rx base, .x t.toNat)] : List (Instr × ReqKind × Nat × Dword × Reg)),
      Acts i.1 s →
        (s.again .access = none → ∃ (v : State) (r : Req), exec i.1 s = .next (v.kick s.cur.tile) ∧
          AccessMade s v r ∧ r.state = .waiting ∧ r.kind = i.2.1 ∧ r.q = i.2.2.1 ∧ r.ea = i.2.2.2.1 ∧ r.reg = i.2.2.2.2) ∧
        ∀ n, s.again .access = some n → ∃ v : State, exec i.1 s = .next (v.kick s.cur.tile) ∧ v.fab = s.fab ∧
          v.me.region.reuse = s.me.region.reuse.erase (takeKey .access s.cur.hw, n) ∧ v.ctx.old = s.ctx.old + 1 ∧
          (i.2.2.2.2.wired = false → ∃ d ∈ v.ctx.pend, d.reg = i.2.2.2.2 ∧ d.rid = n)) ∧
  (∀ (sp : BitVec 3) (t a b : BitVec 5) (q : BitVec 2) (off : BitVec 11) (aop : BitVec 4) (s : State),
    let dst (ret : Bool) : Reg := if ret then .x t.toNat else .none
    let cmp : Dword := if aop = 9 then s.rx t else 0
    ∀ i ∈ ([(.gstx sp t a q off, .store, s.rx a + off.signExtend 64 * 8, .none, 0, 0, (s.rx t).zeroExtend 2048, false),
        (.gstv sp t a q off, .storeRow, s.rx a + off.signExtend 64 * 256, .none, 0, 0, s.rv t, false),
        (.gamo sp t a b 1 q aop, .amo aop.toNat true, s.rx a, dst true, s.rx b, cmp, 0, true),
        (.gamo sp t a b 0 q aop, .amo aop.toNat false, s.rx a, .none, s.rx b, cmp, 0, false),
        (.gred sp a b q aop, .red aop.toNat, s.rx a, .none, s.rx b, 0, 0, false)] :
          List (Instr × ReqKind × Dword × Reg × Dword × Dword × Row × Bool)),
      Acts i.1 s → ∃ (v : State) (r : Req), exec i.1 s = .next v ∧ AccessMade s v r ∧ r.state = .deferred ∧ r.q = q.toNat ∧ r.kind = i.2.1 ∧ r.ea = i.2.2.1 ∧
        r.reg = i.2.2.2.1 ∧ r.opnd = i.2.2.2.2.1 ∧ r.aux = i.2.2.2.2.2.1 ∧ r.data = i.2.2.2.2.2.2.1 ∧
        v.me.region = { s.me.region with
          deferred := s.me.region.deferred ++ [.access r.id]
          commitDue := s.me.region.commitDue || i.2.2.2.2.2.2.2 })

/-- R25, R175, R205, R278, R327: FENCE marks the accesses of the context that are still open, its loads and its stores, for every later access; the empty
bundle has no effect but that of its CKPT bit. SLABTAG reads a handle's tag word at once or has its write wait for the commit, through the address
that the slab table gives or as an access without one; DRAIN, once it issues, has no effect of its own. -/
def Obligations.FencesDrainsTagsAndEmptyBundlesAct : Prop :=
  (∀ (sp : BitVec 3) (kind sc : BitVec 2) (solo : BitVec 1) (s : State),
    (Acts (.fence sp kind sc) s → ∃ u m, exec (.fence sp kind sc) s = .next u ∧ OnlyContext s u ∧
      u.ctx = { s.ctx with fences := s.ctx.fences ++ [m] } ∧ m.kind = kind.toNat ∧
      (∀ n, n ∈ m.loads ↔ ∃ r ∈ s.fab.reqs, r.id = n ∧ r.tile = s.cur.tile ∧ r.hw = s.cur.hw ∧ r.settled = false ∧
        (r.kind = .load ∨ r.kind = .loadRow ∨ (∃ k, r.kind = .amo k true) ∨ ∃ k, r.kind = .slabtag k)) ∧
      ∀ n, n ∈ m.stores ↔ ∃ r ∈ s.fab.reqs, r.id = n ∧ r.tile = s.cur.tile ∧ r.hw = s.cur.hw ∧ r.settled = false ∧
        (r.kind = .store ∨ r.kind = .storeRow ∨ (∃ k b, r.kind = .amo k b) ∨ (∃ k, r.kind = .red k) ∨ ∃ k, r.kind = .slabtag k)) ∧
    (exec (.emptyBundle 0 solo) s = .next s) ∧
    ∃ u, exec (.emptyBundle 1 solo) s = .next u ∧ u.me.region.commitDue = true ∧ u.me.core = s.me.core ∧ { u with tiles := s.tiles } = s) ∧
  (∀ (sp : BitVec 3) (d a : BitVec 5) (md q : BitVec 2) (scope : BitVec 2) (mask : BitVec 4) (s : State),
    (Acts (.drain sp scope mask) s → exec (.drain sp scope mask) s = .next s) ∧
    (Acts (.slabtag sp d a md q) s → ∃ (v : State) (r : Req) (u : State), exec (.slabtag sp d a md q) s = .next u ∧
      (md = 0 → s.again .access = none →
        AccessMade s v r ∧ r.state = .waiting ∧ u = (v.kick s.cur.tile).countCommand) ∧
      (md ≠ 0 → AccessMade s v r ∧ r.state = .deferred ∧ u = v.countCommand ∧ v.me.region.commitDue = true ∧
        v.me.region.deferred = s.me.region.deferred ++ [.access r.id]) ∧
      (md ≠ 0 ∨ s.again .access = none → r.kind = .slabtag md.toNat ∧ r.q = q.toNat ∧ r.reg = .x d.toNat ∧
        r.opnd = ((s.rx a).truncate 32).zeroExtend 64 ∧
        r.ea = match slabEntry (s.ranges s.ctx.job) ((s.rx a).toNat / 2 ^ 32) with | some e => e + 16 | none => badHandle)))

/-! ### The VX slot -/

/-- R100, R102, R103: the integer forms of the gated lane functions, where lanes wrap or, in VADDS and VSUBS, stop at the ends of the signed or natural
range; logic at every type; shifts, counts and the dot product of bytes at integer types. -/
def Obligations.IntegerAndLogicLanesGiveTheirResult : Prop :=
  (∀ (sp : BitVec 3) (d a b : BitVec 5) (p ty : BitVec 3) (nat z : BitVec 1) (s : State), tyInt ty = true →
    let w := tyWidth ty
    let A (k : Nat) := laneBits w (s.rv a) k
    let B (k : Nat) := laneBits w (s.rv b) k
    let C (k : Nat) := laneBits w (s.rv d) k
    let hi : Int := 2 ^ (w - 1) - 1
    let clamp (n : Int) : BitVec w := BitVec.ofInt w (max (-hi - 1) (min n hi))
    ∀ q ∈ ([(.vadd sp d a b p ty z, fun k => A k + B k), (.vsub sp d a b p ty z, fun k => A k - B k),
        (.vmul sp d a b p ty z, fun k => A k * B k), (.vfma sp d a b p ty z, fun k => C k + A k * B k),
        (.vfms sp d a b p ty z, fun k => C k - A k * B k), (.vmin sp d a b p ty z, fun k => if (A k).toInt ≤ (B k).toInt then A k else B k),
        (.vmax sp d a b p ty z, fun k => if (A k).toInt ≥ (B k).toInt then A k else B k),
        (.vminn sp d a b p ty z, fun k => if A k ≤ B k then A k else B k), (.vmaxn sp d a b p ty z, fun k => if A k ≥ B k then A k else B k),
        (.vabs sp d a p ty z, fun k => if (A k).toInt < 0 then -A k else A k), (.vneg sp d a p ty z, fun k => -A k),
        (.vmulh sp d a b p ty z, fun k => ((A k).signExtend (2 * w) * (B k).signExtend (2 * w)).extractLsb' w w),
        (.vmulhn sp d a b p ty z, fun k => ((A k).zeroExtend (2 * w) * (B k).zeroExtend (2 * w)).extractLsb' w w),
        (.vadds sp d a b p ty nat z, fun k => if nat = 1 then (if (A k).toNat + (B k).toNat < 2 ^ w then A k + B k else -1)
          else clamp ((A k).toInt + (B k).toInt)),
        (.vsubs sp d a b p ty nat z, fun k => if nat = 1 then BitVec.ofNat w ((A k).toNat - (B k).toNat)
          else clamp ((A k).toInt - (B k).toInt))] : List (Instr × (Nat → BitVec w))),
      Gated q.1 s d p z w 2 q.2) ∧
  (∀ (sp : BitVec 3) (d a b n : BitVec 5) (p ty : BitVec 3) (nat z : BitVec 1) (s : State),
    let w := tyWidth ty
    let A (k : Nat) := laneBits w (s.rv a) k
    let B (k : Nat) := laneBits w (s.rv b) k
    (∀ q ∈ ([(.vand sp d a b p ty z, fun k => A k &&& B k), (.vor sp d a b p ty z, fun k => A k ||| B k),
        (.vxor sp d a b p ty z, fun k => A k ^^^ B k), (.vandn sp d a b p ty z, fun k => A k &&& ~~~(B k))] : List (Instr × (Nat → BitVec w))),
      Gated q.1 s d p z w 2 q.2) ∧
    (tyInt ty = true → ∀ q ∈ ([(.vshl sp d a b p ty z, fun k => A k <<< (B k).toNat), (.vshr sp d a b p ty z, fun k => A k >>> (B k).toNat),
        (.vsar sp d a b p ty z, fun k => (A k).sshiftRight (B k).toNat), (.vshli sp d a n p ty z, fun k => A k <<< n.toNat),
        (.vshri sp d a n p ty nat z, fun k => if nat = 1 then A k >>> n.toNat else (A k).sshiftRight n.toNat),
        (.vpopc sp d a p ty z, fun k => BitVec.ofNat w ((List.range w).countP fun j => (A k).getLsbD j)),
        (.vclz sp d a p ty z, fun k => BitVec.ofNat w (((List.range w).find? fun j => (A k).getLsbD (w - 1 - j)).getD w))] :
          List (Instr × (Nat → BitVec w))),
      Gated q.1 s d p z w 2 q.2) ∧
    let x (r : BitVec 5) (k j : Nat) : Int := if nat = 1 then (laneBits 8 (s.rv r) (4 * k + j)).toNat else (laneBits 8 (s.rv r) (4 * k + j)).toInt
    Gated (.vdot sp d a b p 0 nat z) s d p z 32 2 fun k => BitVec.ofInt 32
      ((laneBits 32 (s.rv d) k).toInt + x a k 0 * x b k 0 + x a k 1 * x b k 1 + x a k 2 * x b k 2 + x a k 3 * x b k 3))

/-- R99, R100, R101, R102: the floating forms. Each lane is the exact value of R100 rounded once in FCR.RM, under RSR by LFSR as the lanes below
have stepped it (R74); minimum, maximum and the sign changes do not round, and read neither. -/
def Obligations.FloatingVectorLanesGiveTheirResult : Prop :=
  ∀ (sp : BitVec 3) (d a b : BitVec 5) (p ty : BitVec 3) (z : BitVec 1) (s : State), tyFlt ty = true →
    let w := tyWidth ty
    let f := tyFmt ty
    let v (n : BitVec 5) (k : Nat) : FV := fvalue f (lane w (s.rv n) k)
    let prod (k : Nat) : FV × Bool := FV.mul (v a k) (v b k)
    let nv (bad : Bool) (q : Nat × Rnd) : Nat × Rnd := if bad then (q.1, q.2.raise flNV) else q
    let half (n : BitVec 5) (k : Nat) : FV := fvalue f (lane 16 (s.rv n) k)
    let dot (k : Nat) : FV × Bool := FV.mul (half a k) (half b k)
    (∀ q ∈ ([(.vadd sp d a b p ty z, 2, 1, fun r k => roundSum f r false [v a k, v b k]),
        (.vsub sp d a b p ty z, 2, 1, fun r k => roundSum f r false [v a k, (v b k).negate]),
        (.vmul sp d a b p ty z, 4, 1, fun r k => nv (prod k).2 (fround f r (prod k).1)),
        (.vfma sp d a b p ty z, 4, 1, fun r k => roundSum f r (prod k).2 [v d k, (prod k).1]),
        (.vfms sp d a b p ty z, 4, 1, fun r k => roundSum f r (prod k).2 [v d k, (prod k).1.negate]),
        (.vmin sp d a b p ty z, 2, 0, fun r k => (fminmax f false (lane w (s.rv a) k) (lane w (s.rv b) k), r)),
        (.vmax sp d a b p ty z, 2, 0, fun r k => (fminmax f true (lane w (s.rv a) k) (lane w (s.rv b) k), r)),
        (.vabs sp d a p ty z, 2, 0, fun r k => (if (v a k).isNan then f.canonNan else lane w (s.rv a) k % 2 ^ (w - 1), r)),
        (.vneg sp d a p ty z, 2, 0, fun r k => (if (v a k).isNan then f.canonNan else (lane w (s.rv a) k + 2 ^ (w - 1)) % 2 ^ w, r))] :
          List (Instr × Nat × Nat × (Rnd → Nat → Nat × Rnd))),
      GatedRounded q.1 s d p z w q.2.1 q.2.2.1 q.2.2.2) ∧
    (ty ≠ 7 → GatedRounded (.vdot sp d a b p ty 0 z) s d p z 32 4 1 fun r k => roundSum fmt32 r ((dot (2 * k)).2 || (dot (2 * k + 1)).2)
      [fvalue fmt32 (lane 32 (s.rv d) k), (dot (2 * k)).1, (dot (2 * k + 1)).1])

/-- R96, R104, R114: comparisons set all bits of each active lane of p[d], the other lanes kept or cleared; the predicate operations act on all 256
bits, PTAIL on whole lanes, and PCNT and PFIRST count active lanes. -/
def Obligations.ComparisonsAndPredicatesGiveTheirResult : Prop :=
  ∀ (sp : BitVec 3) (d a b : BitVec 5) (p ty : BitVec 3) (z : BitVec 1) (s : State),
    let w := tyWidth ty
    let n := 2048 / w
    let A (k : Nat) := laneBits w (s.rv a) k
    let B (k : Nat) := laneBits w (s.rv b) k
    let X (k : Nat) := fvalue (tyFmt ty) (A k).toNat
    let Y (k : Nat) := fvalue (tyFmt ty) (B k).toNat
    let sets (i : Instr) (f : Nat → Prop) : Prop := Acts i s → ∃ v : Row, exec i s = .next (s.due (.p d.toNat) v 1 2) ∧
      ∀ k < n, ∀ j < w / 8, (v.getLsbD (k * (w / 8) + j) = true ↔ if active (s.rp p.toNat) w k then f k
        else z = 0 ∧ (s.rp d.toNat).getLsbD (k * (w / 8) + j) = true)
    let bits (i : Instr) (f : Nat → Bool) : Prop := Acts i s → ∃ v : Row, exec i s = .next (s.due (.p d.toNat) v 1 2) ∧
      ∀ k < 256, v.getLsbD k = f k
    (tyInt ty = true → sets (.vcmpeq sp d a b p ty z) (fun k => A k = B k) ∧ sets (.vcmpne sp d a b p ty z) (fun k => A k ≠ B k) ∧
      sets (.vcmplt sp d a b p ty z) (fun k => (A k).toInt < (B k).toInt) ∧ sets (.vcmple sp d a b p ty z) (fun k => (A k).toInt ≤ (B k).toInt) ∧
      sets (.vcmpltn sp d a b p ty z) (fun k => A k < B k)) ∧
    (tyFlt ty = true → sets (.vcmpeq sp d a b p ty z) (fun k => (X k).same (Y k)) ∧ sets (.vcmpne sp d a b p ty z) (fun k => (X k).same (Y k) = false) ∧
      sets (.vcmplt sp d a b p ty z) (fun k => (X k).less false (Y k)) ∧
      sets (.vcmple sp d a b p ty z) (fun k => (X k).less false (Y k) ∨ (X k).same (Y k)) ∧
      sets (.vcmpun sp d a b p ty z) (fun k => X k = .nan ∨ Y k = .nan)) ∧
    bits (.pand sp d a b) (fun k => (s.rp a.toNat).getLsbD k && (s.rp b.toNat).getLsbD k) ∧
    bits (.por sp d a b) (fun k => (s.rp a.toNat).getLsbD k || (s.rp b.toNat).getLsbD k) ∧
    bits (.pxor sp d a b) (fun k => (s.rp a.toNat).getLsbD k != (s.rp b.toNat).getLsbD k) ∧
    bits (.pnot sp d a) (fun k => !(s.rp a.toNat).getLsbD k) ∧ bits (.ptail sp d a ty) (fun k => k / (w / 8) < (s.rx a).toNat) ∧
    (Acts (.pcnt sp d a ty) s → exec (.pcnt sp d a ty) s =
      .next (s.due (.x d.toNat) (BitVec.ofNat 2048 ((List.range n).countP (active (s.rp a.toNat) w))) 1 2)) ∧
    (Acts (.pfirst sp d a ty) s → ∃ k, exec (.pfirst sp d a ty) s = .next (s.due (.x d.toNat) (BitVec.ofNat 2048 k) 1 2) ∧ k ≤ n ∧
      (∀ j < k, active (s.rp a.toNat) w j = false) ∧ (k < n → active (s.rp a.toNat) w k = true))

/-- R105 to R107: moves, broadcasts, permutes and rotations of lanes, single lanes to and from an x register, reductions and scans. Integer reductions are
the sum modulo 2^64, the maximum or the minimum of the active lanes as extended to 64 bits, zero without one; floating ones are the roots of the tree
of R106 over the active lanes converted to FP32. A scan gives each active lane the sum of the active lanes up to it. -/
def Obligations.VectorMovesAndReductionsGiveTheirResult : Prop :=
  (∀ (sp : BitVec 3) (d a b : BitVec 5) (p ty : BitVec 3) (m z : BitVec 1) (s : State),
    let w := tyWidth ty
    let n := 2048 / w
    let A (k : Nat) := laneBits w (s.rv a) k
    let B (k : Nat) := laneBits w (s.rv b) k
    let r := (s.rx b).toNat % n
    (∀ q ∈ ([(.vmov sp d a p ty z, A), (.vbcast sp d a p ty z, fun _ => (s.rx a).truncate w),
        (.vperm sp d a b p ty m z, fun k => if m = 1 ∧ n ≤ (B k).toNat then 0 else A ((B k).toNat % n)),
        (.vrot sp d a b p ty z, fun k => A ((k + r) % n))] : List (Instr × (Nat → BitVec w))),
      Gated q.1 s d p z w 2 q.2) ∧
    (tyInt ty = true → Gated (.viota sp d a p ty z) s d p z w 2 fun k => (s.rx a).truncate w + BitVec.ofNat w k) ∧
    (∀ q ∈ ([(.vsel sp d a b p ty, fun k => if active (s.rp p.toNat) w k then A k else B k),
        (.vmerge sp d a b ty, fun k => if n - r ≤ k then A k else laneBits w (s.rv d) k),
        (.vins sp d a b ty, fun k => if k = r then (s.rx a).truncate w else laneBits w (s.rv d) k)] : List (Instr × (Nat → BitVec w))),
      Acts q.1 s → ∃ v, exec q.1 s = .next (s.due (.v d.toNat) v 1 2) ∧ ∀ k < n, laneBits w v k = q.2 k) ∧
    (Acts (.vext sp d a b ty m) s → exec (.vext sp d a b ty m) s = .next (s.due (.x d.toNat)
      ((if tyInt ty = true ∧ m = 0 then (A r).signExtend 64 else (A r).zeroExtend 64 : Dword).zeroExtend 2048) 1 2))) ∧
  (∀ (sp : BitVec 3) (d a : BitVec 5) (p ty : BitVec 3) (nat z : BitVec 1) (s : State),
    let w := tyWidth ty
    let n := 2048 / w
    let live := (List.range n).filter (active (s.rp p.toNat) w)
    let val (k : Nat) : Int := if nat = 1 then (laneBits w (s.rv a) k).toNat else (laneBits w (s.rv a) k).toInt
    let due (i : Instr) (v : Dword) (l : Nat) : Prop :=
      exec i s = .next ((s.updSelf fun c => { c with lfsr := c.lfsr }).due (.x d.toNat) (v.zeroExtend 2048) 1 l)
    let leaves := (List.range n).map fun k => if active (s.rp p.toNat) w k then
      some (fround fmt32 rndRne (fvalue (tyFmt ty) (lane w (s.rv a) k))).1 else none
    let root (f : Rnd → Nat → Nat → Nat × Rnd) := treeRoot f 8 s.ctx.rnd leaves
    let fdue (i : Instr) (f : Rnd → Nat → Nat → Nat × Rnd) (empty : Nat) : Prop := exec i s = .next
      ((s.updSelf fun c => { c with lfsr := (root f).2.lfsr }).dueFlags (.x d.toNat) (BitVec.ofNat 2048 ((root f).1.getD empty % 2 ^ 64)) 1 6
        (root f).2.flags)
    (tyInt ty = true →
      (Acts (.vredadd sp d a p ty nat) s → due (.vredadd sp d a p ty nat) (BitVec.ofInt 64 (live.map val).sum) 6) ∧
      (Acts (.vredmax sp d a p ty nat) s → ∃ v, due (.vredmax sp d a p ty nat) (BitVec.ofInt 64 v) 6 ∧
        (live = [] → v = 0) ∧ (live ≠ [] → (∃ k ∈ live, v = val k) ∧ ∀ k ∈ live, val k ≤ v)) ∧
      (Acts (.vredmin sp d a p ty nat) s → ∃ v, due (.vredmin sp d a p ty nat) (BitVec.ofInt 64 v) 6 ∧
        (live = [] → v = 0) ∧ (live ≠ [] → (∃ k ∈ live, v = val k) ∧ ∀ k ∈ live, v ≤ val k)) ∧
      Gated (.vscan sp d a p ty z) s d p z w 6 fun k => ((List.range (k + 1)).filter (active (s.rp p.toNat) w)).foldl
        (fun t j => t + laneBits w (s.rv a) j) 0) ∧
    (tyFlt ty = true →
      (Acts (.vredadd sp d a p ty 0) s → fdue (.vredadd sp d a p ty 0) (fun r x y => roundSum fmt32 r false [fvalue fmt32 x, fvalue fmt32 y]) 0) ∧
      (Acts (.vredmax sp d a p ty 0) s → fdue (.vredmax sp d a p ty 0) (fun r x y => (fminmax fmt32 true x y, r)) 0x7FC00000) ∧
      (Acts (.vredmin sp d a p ty 0) s → fdue (.vredmin sp d a p ty 0) (fun r x y => (fminmax fmt32 false x y, r)) 0x7FC00000) ∧
      (Acts (.vscan sp d a p ty z) s → ∃ v fl l', exec (.vscan sp d a p ty z) s =
          .next ((s.updSelf fun c => { c with lfsr := l' }).dueFlags (.v d.toNat) v 1 6 fl) ∧
        (∀ k < n, active (s.rp p.toNat) w k = false → laneBits w v k = if z = 1 then 0 else laneBits w (s.rv d) k) ∧
        (fcrRm s.ctx.fcr ≠ 4 → ∀ k < n, active (s.rp p.toNat) w k = true → (laneBits w v k).toNat =
          ((List.range (k + 1)).filter (active (s.rp p.toNat) w)).foldl (fun t j =>
            (roundSum (tyFmt ty) s.ctx.rnd false [fvalue (tyFmt ty) t, fvalue (tyFmt ty) (lane w (s.rv a) j)]).1) 0))))

/-- R76, R108 to R112: conversions. VCVT and VUNPK4 fill whole registers or, narrowing, one part of the destination; VPACK4 writes the codes and scale
bytes of its blocks and keeps every other byte; VCORD writes every lane, `n` + 4 vector cycles later, its bits inside the error bound free (log 12).
The values are stated outside RSR. -/
def Obligations.ConversionsFillTheirLanes : Prop :=
  ∀ (sp : BitVec 3) (d a b n : BitVec 5) (h ty sty fn : BitVec 3) (sm dm z : BitVec 1) (bt : BitVec 2) (s : State),
    let w := tyWidth ty
    let ws := tyWidth sty
    let r := s.ctx.rnd
    let steady := fcrRm s.ctx.fcr ≠ 4
    let conv (k : Nat) := BitVec.ofNat w (convert (NumFmt.ofCode sty.toNat (sm == 1)) (NumFmt.ofCode ty.toNat (dm == 1)) r (lane ws (s.rv a) k)).1
    let nb := 2048 / w / 32
    let src (k : Nat) : List FV := (List.range 32).map fun j =>
      if tyInt ty then FV.ofInt (laneBits w (s.rv a) (32 * k + j)).toInt else fvalue (tyFmt ty) (lane w (s.rv a) (32 * k + j))
    let fills (i : Instr) (l : Nat) (w : Nat) (f : Nat → BitVec w) : Prop := Acts i s → ∃ v fl l', exec i s =
        .next ((s.updSelf fun c => { c with lfsr := l' }).dueFlags (.v d.toNat) v 1 l fl) ∧ (steady → ∀ k < 2048 / w, laneBits w v k = f k)
    ((Instr.vcvt sp d a sm sty h ty dm z).wf = true → fills (.vcvt sp d a sm sty h ty dm z) 4 w fun k =>
      if ws ≤ w then conv (h.toNat * (2048 / w) + k)
      else if h.toNat * (2048 / ws) ≤ k ∧ k < (h.toNat + 1) * (2048 / ws) then conv (k - h.toNat * (2048 / ws))
      else if z = 1 then 0 else laneBits w (s.rv d) k) ∧
    ((Instr.vunpk4 sp d a b h ty).wf = true → fills (.vunpk4 sp d a b h ty) 4 w fun k => BitVec.ofNat w (fround (tyFmt ty) r
      (blockValue (lane 8 (s.rv b) (h.toNat * nb + k / 32)) (lane 4 (s.rv a) (32 * (h.toNat * nb) + k))).1).1) ∧
    ((Instr.vcord sp d a n fn ty).wf = true → fills (.vcord sp d a n fn ty) (n.toNat + 4) w fun k => BitVec.ofNat w (fround (tyFmt ty) r
      (cordicLane fn.toNat n.toNat (lane w (s.rv a) k) (tyFmt ty)).1).1) ∧
    ((Instr.vpack4 sp d a b h ty bt).wf = true → Acts (.vpack4 sp d a b h ty bt) s → ∃ v u fl l', exec (.vpack4 sp d a b h ty bt) s =
        .next (((s.updSelf fun c => { c with lfsr := l' }).dueFlags (.v d.toNat) v 1 4 fl).due (.v b.toNat) u 1 4) ∧
      (∀ k < 512, ¬(32 * (h.toNat * nb) ≤ k ∧ k < 32 * (h.toNat * nb) + 32 * nb) → laneBits 4 v k = laneBits 4 (s.rv d) k) ∧
      (∀ k < 256, ¬(h.toNat * nb ≤ k ∧ k < h.toNat * nb + nb) → laneBits 8 u k = laneBits 8 (s.rv b) k) ∧
      (steady → ∀ k < nb, lane 8 u (h.toNat * nb + k) = (packBlock bt.toNat r (src k)).1 ∧
        ∀ j < 32, lane 4 v (32 * (h.toNat * nb + k) + j) = (packBlock bt.toNat r (src k)).2.1.getD j 0))

/-! ### The MX slot -/

/-- R126, R128, R134, R137, R261, R366: an array operation joins the end of the matrix queue with everything it reads at issue; its nominal phase
starts where the last one ends and its due cycle is 12 matrix cycles after its own end, under the divisors of its issue. The context counts the
command and has its due cycle among its exposed results. -/
def Obligations.ArrayOperationsJoinTheQueue : Prop :=
  ∀ (sp : BitVec 3) (acc : BitVec 2) (x : BitVec 5) (off : BitVec 10) (ws : BitVec 3) (bk kg fa fb e mask q : BitVec 4) (lvl z : BitVec 1)
    (s : State),
    let k := s.me.core
    let row := (((s.rx x).extractLsb' 8 10).toNat + off.toNat) % 1024
    let ent := ((if lvl = 0 then s.ctx.lc0 else s.ctx.lc1).toNat + e.toNat) % 16
    let w := (sget 0 k.ft ent).toNat
    let cycles (m n : Nat) := (kg.toNat + 1) * opCpg m n
    ∀ i ∈ ([(.mma sp acc x off ws bk kg fa fb z, row, 0, cycles fa.toNat fb.toNat, 0),
        (.mmat sp acc x off ws bk kg e lvl z, row, ent, cycles (ftA w) (ftB w), 0),
        (.mmae sp acc x off ws bk kg e lvl z, row, ent, cycles (ftA w) (ftB w), 0), (.accz sp mask, 0, 0, 1, 0),
        (.accwr sp acc x q, 0, 0, 1, s.rv x), (.accbias sp acc x, 0, 0, 1, s.rv x)] : List (Instr × Nat × Nat × Nat × Row)),
      Acts i.1 s → ∃ (v : State) (o : ArrayOp) (p : Pending), exec i.1 s = .next v ∧ v.me.core.aq = k.aq ++ [o] ∧ o.op = i.1 ∧
        o.row = i.2.1 ∧ o.entry = i.2.2.1 ∧ o.phase = i.2.2.2.1 ∧ o.data = i.2.2.2.2 ∧ o.ft = k.ft ∧ o.mbud = k.mbud ∧ o.started = false ∧
        o.cmdix = s.ctx.cmdix ∧ o.hw = s.cur.hw ∧ o.nomStart = max k.isscnt.toNat k.nomEnd ∧
        o.nomEnd = o.nomStart + max 1 (ceilDiv (i.2.2.2.1 * k.dM) k.dC) ∧
        o.nomDue = o.nomStart + max 1 (ceilDiv ((i.2.2.2.1 + 12) * k.dM) k.dC) ∧ v.me.core.nomEnd = o.nomEnd ∧
        v.me.core.accs = k.accs ∧ v.me.core.wslots = k.wslots ∧ v.me.core.ft = k.ft ∧
        p.dst = .none ∧ p.due = o.nomDue ∧ v.ctx = { s.ctx with due := s.ctx.due ++ [p], cmdix := s.ctx.cmdix + 1 }

/-- R74, R129, R135, R136, R138, R180, R328, R366: WBLD, WBCLR and ACCST are counted in OMX and under their tag at issue and wait for their region to
commit; rm = 7 takes FCR.RM, and the row, the slab tag and the accesses that an acquire or release waits for are those of the issue. An ACCST under
RSR takes LFSR as it stands and steps it once for each of its 1,024 values. -/
def Obligations.MatrixCommandsWaitForTheCommit : Prop :=
  ∀ (sp ws : BitVec 3) (acc : BitVec 2) (x : BitVec 5) (off : BitVec 10) (srow n sx : BitVec 5) (kind : BitVec 2) (fmt xf ofmt : BitVec 4)
    (rm : BitVec 3) (mask : BitVec 8) (tag : BitVec 7) (tg tw aq : BitVec 1) (sc : BitVec 2) (s : State),
    let row := (((s.rx x).extractLsb' 8 10).toNat + off.toNat) % 1024
    ∀ i ∈ ([(.wbld sp ws x off srow n kind fmt xf tag tg aq sc, row, 0, 0, aq), (.wbclr sp mask tag tg, 0, 0, 0, 0),
        (.accst sp acc x off ofmt rm tag tg tw sx aq sc, row, if rm = 7 then s.ctx.fcr.toNat % 8 else rm.toNat,
          if tw = 1 then s.rx sx else 0, aq)] : List (Instr × Nat × Nat × Dword × BitVec 1)),
      Acts i.1 s → ∃ (v : State) (m : MatCmd), exec i.1 s = .next v ∧ v.me.core.mcmds = s.me.core.mcmds ++ [m] ∧ m.op = i.1 ∧ m.row = i.2.1 ∧
        m.rm = i.2.2.1 ∧ m.slab = i.2.2.2.1 ∧ m.deferred = true ∧ m.begun = false ∧ m.id = s.ids ∧ m.lfsr = s.ctx.lfsr ∧
        m.after = (if i.2.2.2.2 = 1 then s.openAccesses else []) ∧
        v.me.region.deferred = s.me.region.deferred ++ [.matrix s.ids] ∧ v.ctx = { s.ctx with
          omx := s.ctx.omx + 1, cmdix := s.ctx.cmdix + 1, lfsr := if i.2.2.1 = 4 then lfsrStep^[1024] s.ctx.lfsr else s.ctx.lfsr } ∧
        (tg = 1 → sget 0 v.me.core.cnt tag.toNat = sget 0 s.me.core.cnt tag.toNat + 1 ∧ v.me.core.tb.getLsbD tag.toNat = false ∧
          ∀ k, k ≠ tag.toNat → v.me.core.tb.getLsbD k = s.me.core.tb.getLsbD k) ∧
        (tg = 0 → v.me.core.cnt = s.me.core.cnt ∧ v.me.core.tb = s.me.core.tb)

/-- R123, R137, R139, R150, R151: ACCRD delivers its two rows of the accumulator three matrix cycles later, or an unspecified value where an
operation that issued before has not fallen due (R127); the format table, the monitors and the budget are read one issue cycle later and
written at once, a cleared counter to what the running cycle has already added. -/
def Obligations.MatrixRegistersReadAndWrite : Prop :=
  ∀ (sp : BitVec 3) (acc : BitVec 2) (d a : BitVec 5) (q e : BitVec 4) (sel mask : BitVec 3) (s : State),
    let k := s.me.core
    (Acts (.accrd sp acc d q) s → ∃ v : Row, exec (.accrd sp acc d q) s = .next (s.due (.v d.toNat) v 2 3).countCommand ∧
      ((∀ o ∈ k.aq, acc.toNat ∈ o.op.accs → o.issue < k.isscnt.toNat → False) → v = (k.acc acc.toNat).extractLsb' (2048 * q.toNat) 2048)) ∧
    (Acts (.ftget sp e d) s → exec (.ftget sp e d) s = .next (s.dueX d (sget 0 k.ft e.toNat) 1).countCommand) ∧
    (Acts (.monrd sp d sel) s → sel.toNat ≤ 4 → exec (.monrd sp d sel) s =
      .next (s.dueX d ([k.satc, k.unfc, k.canc, k.esccnt, k.mbud].getD sel.toNat 0) 1).countCommand) ∧
    (Acts (.ftset sp e a) s → ∃ v, exec (.ftset sp e a) s = .next v ∧ v.ctx = { s.ctx with cmdix := s.ctx.cmdix + 1 } ∧
      (∀ j, sget 0 v.me.core.ft j = if j = e.toNat then s.rx a &&& 0x7FFFF1FFF else sget 0 k.ft j) ∧
      { v.me.core with ft := k.ft, ctxs := k.ctxs } = k) ∧
    (Acts (.mbset sp a) s → ∃ v, exec (.mbset sp a) s = .next v ∧ v.ctx = { s.ctx with cmdix := s.ctx.cmdix + 1 } ∧
      v.me.core.mbud = ((s.rx a).extractLsb' 0 53).zeroExtend 64 ∧ { v.me.core with mbud := k.mbud, ctxs := k.ctxs } = k) ∧
    (Acts (.monclr sp mask) s → ∃ v, exec (.monclr sp mask) s = .next v ∧ v.ctx = { s.ctx with cmdix := s.ctx.cmdix + 1 } ∧
      v.me.core.satc = (if mask.getLsbD 0 then BitVec.ofNat 64 k.satNow else k.satc) ∧
      v.me.core.unfc = (if mask.getLsbD 1 then BitVec.ofNat 64 k.unfNow else k.unfc) ∧
      v.me.core.canc = (if mask.getLsbD 2 then BitVec.ofNat 64 k.canNow else k.canc) ∧
      { v.me.core with satc := k.satc, unfc := k.unfc, canc := k.canc, ctxs := k.ctxs } = k)

/-! ### The EC slot -/

/-- R178, R180, R187, R190 to R193, R328, R366: a copy command is counted in OCP and under its tag at issue and waits for its region to commit, with
the scratch row, the source row and the registers that it reads at issue, and the accesses that an acquire or release waits for. -/
def Obligations.CopyCommandsWaitForTheCommit : Prop :=
  ∀ (sp : BitVec 3) (dir : BitVec 2) (g x y : BitVec 5) (off : BitVec 10) (n sn : BitVec 8) (sem : BitVec 6) (tag : BitVec 7)
    (tw tg aq rl fe : BitVec 1) (sc : BitVec 2) (s : State),
    let G := s.rx g
    let row (n : Nat) := (((s.rx x).extractLsb' 8 10).toNat + n) % 1024
    let src := (G.extractLsb' 8 10).toNat
    ∀ i ∈ ([(.cpy sp dir g x off n y tw tag tg aq rl sc fe, G, row off.toNat, src, if tw = 1 then s.rx y else 0),
        (.cpy2 sp dir g x off n y tag tg aq rl sc fe, G, row off.toNat, 0, s.rx y), (.cpyg sp g x off n tag tg aq rl sc fe, 0, row off.toNat, src, 0),
        (.cpys sp g x off n tag tg aq rl sc fe, 0, row off.toNat, src, 0), (.cpyr sp y g x n sem sn tag tg aq rl sc fe, G, row 0, 0, s.rx y),
        (.cpyt sp dir g x off n y tag tg aq rl sc fe, G, row off.toNat, src, s.rx y),
        (.cpyx sp y g x n sem sn tag tg aq rl sc fe, 0, row 0, src, s.rx y)] : List (Instr × Dword × Nat × Nat × Dword)),
      Acts i.1 s → ∃ (v : State) (m : CopyCmd), exec i.1 s = .next v ∧ v.me.core.copies = s.me.core.copies ++ [m] ∧ m.op = i.1 ∧ m.g = i.2.1 ∧
        m.row = i.2.2.1 ∧ m.src = i.2.2.2.1 ∧ m.third = i.2.2.2.2 ∧ m.state = .deferred ∧ m.next = 0 ∧ m.id = s.ids ∧ m.hw = s.cur.hw ∧
        m.after = (if aq = 1 ∨ rl = 1 then s.openAccesses else []) ∧ v.me.region.deferred = s.me.region.deferred ++ [.copy s.ids] ∧
        v.ctx = { s.ctx with ocp := s.ctx.ocp + 1, cmdix := s.ctx.cmdix + 1 } ∧
        (tg = 1 → sget 0 v.me.core.cnt tag.toNat = sget 0 s.me.core.cnt tag.toNat + 1 ∧ v.me.core.tb.getLsbD tag.toNat = false ∧
          (sget 0 s.me.core.cnt tag.toNat = 0 → v.me.core.te.getLsbD tag.toNat = false) ∧
          ∀ k, k ≠ tag.toNat → v.me.core.tb.getLsbD k = s.me.core.tb.getLsbD k ∧ v.me.core.te.getLsbD k = s.me.core.te.getLsbD k) ∧
        (tg = 0 → v.me.core.cnt = s.me.core.cnt ∧ v.me.core.tb = s.me.core.tb ∧ v.me.core.te = s.me.core.te)

/-- R159, R163, R175, R195, R196, R209, R217, R267, R270, R366: what each waiting form waits for. Once they issue, the waits of the EC slot have no effect
but their report, and TFFR and TCLR clear tags; the report names the lowest set tag with its error bit, all ones in its top bit alone where there is
none. TB and TE are read as they stood at the start of the issue cycle. -/
def Obligations.WaitsReportWhatTheyWaitedFor : Prop :=
  (∀ (sp : BitVec 3) (d m : BitVec 5) (off : BitVec 13) (cm : BitVec 4) (lim : BitVec 7) (sem : BitVec 6) (n : BitVec 8) (nd : BitVec 1)
    (sc : BitVec 2) (tr : BitVec 3) (mask : BitVec 4) (s : State),
    let k := s.me.core
    let M : BitVec 128 := s.rx (m + 1) ++ s.rx m
    let e := scratchEa s m off.toInt 8
    let r := scratchEa s m off.toInt 256
    (s.waitHolds (.ldxf sp d m off) = true ↔ (k.feBits (rowOf e)).getLsbD (wordOf e) = true) ∧
    (s.waitHolds (.stxe sp d m off) = true ↔ (k.feBits (rowOf e)).getLsbD (wordOf e) = false) ∧
    (s.waitHolds (.ldvf sp d m off) = true ↔ k.feBits (rowOf r) = -1) ∧ (s.waitHolds (.stve sp d m off) = true ↔ k.feBits (rowOf r) = 0) ∧
    (s.waitHolds (.twany sp d m) = true ↔ M = 0 ∨ k.tb &&& M ≠ 0) ∧ (s.waitHolds (.twall sp d m) = true ↔ k.tb &&& M = M) ∧
    (s.waitHolds (.wait sp cm lim) = true ↔ (cm.getLsbD 0 = true → s.ctx.old ≤ lim.toNat) ∧ (cm.getLsbD 1 = true → s.ctx.ost ≤ lim.toNat) ∧
      (cm.getLsbD 2 = true → s.ctx.ocp ≤ lim.toNat) ∧ (cm.getLsbD 3 = true → s.ctx.omx ≤ lim.toNat)) ∧
    (s.waitHolds (.semwait sp sem n nd sc) = true ↔ n.toNat ≤ (k.sem sem.toNat).count.toNat) ∧
    (s.waitHolds (.barwt sp m sem sc) = true ↔ (k.bar sem.toNat).gen ≠ (s.rx m).truncate 16) ∧
    (s.waitHolds (.treewt sp m tr sc) = true ↔ s.tgen s.cur.tile s.ctx.job tr.toNat ≠ (s.rx m).truncate 16) ∧
    (s.waitHolds (.timewt sp m) = true ↔ (s.rx m).toNat ≤ s.ptc (dieOf s.cur.tile)) ∧
    (s.waitHolds (.drain sp sc mask) = true ↔ ∀ q ∈ s.fab.reqs, q.tile = s.cur.tile → q.hw = s.cur.hw → q.kind.isAccess = true →
      mask.getLsbD q.q = true → q.settled = true)) ∧
  (∀ (sp : BitVec 3) (d m : BitVec 5) (cm : BitVec 4) (lim : BitVec 7) (sem : BitVec 6) (sc : BitVec 2) (tr : BitVec 3) (s : State),
    let M : BitVec 128 := s.rx (m + 1) ++ s.rx m
    let H := s.tagsSet &&& M
    let E := s.tagErrors
    let lowest (h : BitVec 128) (t : Nat) : Prop := h.getLsbD t = true ∧ ∀ j < t, h.getLsbD j = false
    let names (t : Nat) : Dword := BitVec.ofNat 64 ((if E.getLsbD t then 128 else 0) + t)
    (∀ i ∈ ([.wait sp cm lim, .barwt sp m sem sc, .treewt sp m tr sc, .timewt sp m] : List Instr), Acts i s → exec i s = .next s.countCommand) ∧
    (Acts (.twany sp d m) s → ∃ v, exec (.twany sp d m) s = .next (s.dueX d v 1).countCommand ∧
      (H = 0 → v = 0x8000000000000000) ∧ ∀ t, lowest H t → v = names t) ∧
    (Acts (.twall sp d m) s → ∃ v, exec (.twall sp d m) s = .next (s.dueX d v 1).countCommand ∧
      (E &&& M = 0 → v = 0) ∧ ∀ t, lowest (E &&& M) t → v = BitVec.ofNat 64 (128 + t)) ∧
    (Acts (.tffr sp d m) s → ∃ v u, exec (.tffr sp d m) s = .next u ∧
      (H = 0 → v = 0x8000000000000000 ∧ u = (s.dueX d v 1).countCommand) ∧
      ∀ t, lowest H t → v = names t ∧ u.ctx = (s.dueX d v 1).countCommand.ctx ∧
        ∀ j, u.me.core.tb.getLsbD j = (s.me.core.tb.getLsbD j && j != t) ∧ u.me.core.te.getLsbD j = (s.me.core.te.getLsbD j && j != t)) ∧
    (Acts (.tclr sp m) s → ∃ u, exec (.tclr sp m) s = .next u ∧ u.ctx = { s.ctx with cmdix := s.ctx.cmdix + 1 } ∧
      u.me.core.tb = s.me.core.tb &&& ~~~M ∧ u.me.core.te = s.me.core.te &&& ~~~M ∧ u.me.core.cnt = s.me.core.cnt))

/-- R206, R208, R245, R265, R266, R269, R270, R328: SEMSIG, BARARV, TREEARV and DONE.ITEM count in OST at issue and make a signal that waits for the
commit of its region and for the context's earlier accesses; a local BARARV and a TREEARV also deliver the generation. -/
def Obligations.SignalsWaitForTheCommit : Prop :=
  ∀ (sp : BitVec 3) (x : BitVec 5) (loc md : BitVec 1) (k : BitVec 6) (n : BitVec 8) (tr : BitVec 3) (sc : BitVec 2) (s : State),
    let dst := if loc = 1 then s.cur.tile else (s.rx x).toNat % 65536
    let plain (v : State) := v.countCommand
    let gives (w : Dword) (v : State) := (v.dueX x w 1).countCommand
    ∀ i ∈ ([(.semsig sp x loc k n md sc, .sem dst k.toNat n.toNat (md == 1) none, plain),
        (.bararv sp x loc k n md sc, .bar dst k.toNat n.toNat (md == 1),
          if loc = 1 then gives ((s.me.core.bar k.toNat).gen.zeroExtend 64) else plain),
        (.treearv sp x tr sc, .tree tr.toNat, gives ((s.tgen s.cur.tile s.ctx.job tr.toNat).zeroExtend 64)),
        (.doneItem sp x, .item (s.rx x), plain)] : List (Instr × ReqKind × (State → State))),
      Acts i.1 s → ∃ (v : State) (r : Req), exec i.1 s = .next (i.2.2 v) ∧ AccessMade s v r ∧ r.kind = i.2.1 ∧ r.state = .deferred ∧
        r.after = (s.unsettled s.cur.tile s.cur.hw).map (·.id) ∧
        v.me.region = { s.me.region with deferred := s.me.region.deferred ++ [.signal r.id] }

/-- R206, R209, R210, R260, R271, R327, R333: SEMWAIT takes its count from the semaphore in its issue cycle unless it only tests; SEMRD reads it with its
overflow; TREEMASK has its mask wait for the commit of its region, and then sends it to the root of the job's tree, a segment outside the grid or the
partition changing nothing; CLKDIV delivers the divisors in force and schedules the others for 16 issue cycles later. -/
def Obligations.SemaphoresMasksAndDivisorsAct : Prop :=
  ∀ (sp : BitVec 3) (d x y : BitVec 5) (k : BitVec 6) (n : BitVec 8) (nd : BitVec 1) (tr : BitVec 3) (sc : BitVec 2) (fc fv fm fy : BitVec 4)
    (s : State),
    let c := s.me.core
    let seg := (s.rx x).toNat
    (Acts (.semwait sp k n nd sc) s → ∃ v, exec (.semwait sp k n nd sc) s = .next v ∧ v.ctx = { s.ctx with cmdix := s.ctx.cmdix + 1 } ∧
      (v.me.core.sem k.toNat).ovf = (c.sem k.toNat).ovf ∧
      (v.me.core.sem k.toNat).count = (if nd = 1 then (c.sem k.toNat).count else (c.sem k.toNat).count - n.zeroExtend 32) ∧
      (∀ j, j % 64 ≠ k.toNat → v.me.core.sem j = c.sem j) ∧ { v.me.core with sems := c.sems, ctxs := c.ctxs } = c) ∧
    (Acts (.semrd sp d k sc) s → exec (.semrd sp d k sc) s = .next (s.dueX d ((if (c.sem k.toNat).ovf then (1 : BitVec 1) else 0) ++
      (0 : BitVec 31) ++ (c.sem k.toNat).count) 1).countCommand) ∧
    (Acts (.treemask sp x y tr) s → ∃ v, exec (.treemask sp x y tr) s = .next v ∧ v.ctx = { s.ctx with cmdix := s.ctx.cmdix + 1 } ∧
      { v.me with core := s.me.core, region := s.me.region } = s.me ∧ v.me.region = { s.me.region with
        deferred := s.me.region.deferred ++ [.mask s.ctx.job tr.toNat (seg / 256 % 256) (seg % 8) ((s.rx y).truncate 25) s.now] } ∧
      { v with tiles := s.tiles } = s) ∧
    (∀ (die job row spent : Nat) (mask : BitVec 25) (j : Job), s.job job = some j →
      let die' := 8 * (row / 25) + k.toNat % 8
      (200 ≤ row ∨ inPart j.part die' = false → s.sendTreeMask die job tr.toNat row (k.toNat % 8) mask spent = s) ∧
      (row < 200 → inPart j.part die' = true → s.cutOff die j.root = false → s.sendTreeMask die job tr.toNat row (k.toNat % 8) mask spent =
        s.atTick (s.now + (treeTicks (latBandOf (s.hopCount die j.root)) - spent)) (.treeMaskAtRoot job tr.toNat row (k.toNat % 8) mask))) ∧
    (Acts (.clkdiv sp fc fv fm fy d) s → ∃ v, exec (.clkdiv sp fc fv fm fy d) s = .next v ∧
      v.ctx = (s.dueX d (BitVec.ofNat 64 ((c.dC - 1) * 4096 + (c.dV - 1) * 256 + (c.dM - 1) * 16 + (c.dY - 1))) 1).countCommand.ctx ∧
      v.me.core.divs = c.divs ++ (if fc = 0 ∧ fv = 0 ∧ fm = 0 ∧ fy = 0 then [] else
        [⟨c.isscnt.toNat + 16, fc.toNat, fv.toNat, fm.toNat, fy.toNat⟩]) ∧
      (v.me.core.dC, v.me.core.dV, v.me.core.dM, v.me.core.dY) = (c.dC, c.dV, c.dM, c.dY) ∧ v.me.region.commitDue = true)

/-! ### The BR slot -/

/-- R48, R49, R51, R52: a taken transfer sets PC to its target and costs two extra issue cycles, or three through a register; one not taken changes
nothing. CALL and JALR have the link value due in their link register one issue cycle later. A taken LOOPB goes to its label without extra issue
cycles; at level 0 it shifts the stage window, with stage 1 on while LC0 lasts and off while DC drains. -/
def Obligations.BranchesAndLoopsTransferControl : Prop :=
  (∀ (sp : BitVec 3) (c d : BitVec 5) (off : BitVec 18) (s : State),
    let x := s.rx c
    let label := s.cur.pc + off.signExtend 64 * 2
    let goes (u : State) (target : Dword) (extra : Nat) : State :=
      u.updSelf fun k => { k with pc := target, arrived := true, pause := extra }
    (∀ i ∈ ([(.bra sp off, True), (.bz sp c off, x = 0), (.bnz sp c off, x ≠ 0), (.bltz sp c off, x.toInt < 0), (.bgez sp c off, 0 ≤ x.toInt)] :
        List (Instr × Prop)),
      Acts i.1 s → (i.2 → exec i.1 s = .next (goes s label 2)) ∧ (¬i.2 → exec i.1 s = .next s)) ∧
    (Acts (.call sp off) s → exec (.call sp off) s = .next (goes (s.dueX 31 s.cur.link 1) label 2)) ∧
    (Acts (.jr sp c) s → exec (.jr sp c) s = .next (goes s x 3)) ∧
    (Acts (.jalr sp d c) s → exec (.jalr sp d c) s = .next (goes (s.dueX d s.cur.link 1) x 3))) ∧
  (∀ (sp : BitVec 3) (off : BitVec 18) (a : BitVec 5) (n : BitVec 13) (s : State),
    let c := s.ctx
    let label := s.cur.pc + off.signExtend 64 * 2
    (Acts (.loopset sp 0 a n) s → ∃ u, exec (.loopset sp 0 a n) s = .next u ∧ OnlyContext s u ∧
      u.ctx = { c with lc0 := s.rx a, dc := n, sp := 0b00000011 }) ∧
    (Acts (.loopset sp 1 a n) s → ∃ u, exec (.loopset sp 1 a n) s = .next u ∧ OnlyContext s u ∧ u.ctx = { c with lc1 := s.rx a }) ∧
    (Acts (.loopb sp 0 off) s → ∃ u, exec (.loopb sp 0 off) s = .next u ∧ u.mem = s.mem ∧
      (1 < c.lc0.toNat → ∃ w, u.ctx = { c with lc0 := c.lc0 - 1, sp := w, pc := label, arrived := true, pause := 0 } ∧
        w.getLsbD 0 = true ∧ w.getLsbD 1 = true ∧ ∀ j, 2 ≤ j → j < 8 → w.getLsbD j = c.sp.getLsbD (j - 1)) ∧
      (c.lc0.toNat ≤ 1 → c.dc ≠ 0 → ∃ w, u.ctx = { c with dc := c.dc - 1, sp := w, pc := label, arrived := true, pause := 0 } ∧
        w.getLsbD 0 = true ∧ w.getLsbD 1 = false ∧ ∀ j, 2 ≤ j → j < 8 → w.getLsbD j = c.sp.getLsbD (j - 1)) ∧
      (c.lc0.toNat ≤ 1 → c.dc = 0 → u = s)) ∧
    (Acts (.loopb sp 1 off) s → ∃ u, exec (.loopb sp 1 off) s = .next u ∧ u.mem = s.mem ∧
      (1 < c.lc1.toNat → u.ctx = { c with lc1 := c.lc1 - 1, pc := label, arrived := true, pause := 0 }) ∧ (c.lc1.toNat ≤ 1 → u = s)))

/-- R53, R54, R366, R372: TRAP takes the software trap 0x09 with its number in AUX and EPC at the link value, at the handler's one address, the model's
choice (log 8); ERET returns to EPC with INH cleared and
costs three extra issue cycles; HALT stops the context at its header. Each commits the region (R327). -/
def Obligations.TrapReturnAndHaltAct : Prop :=
  ∀ (sp : BitVec 3) (n : BitVec 12) (s : State),
    let c := s.ctx
    (Acts (.trap sp n) s → ∃ u, exec (.trap sp n) s = .next u ∧ u.me.region.commitDue = true ∧ u.ctx.epc = s.cur.link ∧
      u.ctx.pc = Config.trapEntry ∧ u.ctx.status = c.status ||| 8 ∧
      (c.inh = false → u.ctx.cause = (n.zeroExtend 64 <<< 12) ||| 9 ∧ u.ctx.tr0 = u.ctx.cause ∧ u.ctx.tr1 = c.cmdix.zeroExtend 64 ∧
        u.ctx.tr2 = 0 ∧ u.ctx.tr3 = 0)) ∧
    (Acts (.eret sp) s → ∃ u, exec (.eret sp) s = .next u ∧ u.me.region.commitDue = true ∧
      u.ctx = { c with pc := c.epc, status := c.status &&& ~~~8, arrived := true, pause := 3, handler := none }) ∧
    (Acts (.halt sp) s → ∃ u, exec (.halt sp) s = .next u ∧ u.me.region.commitDue = true ∧
      u.ctx = { c with halted := true, haltPc := s.cur.pc })

/-- R7, R40, R55, R56, R68, R177, R214, R215, R240, R241, R327, R393, R394: SRD, TSR and CYC deliver the register, the PTC of the tile's die and the counters
one issue cycle later; TSR in a rerun delivers what the first run read (the model's reading, log 23). SWR writes the register's writable bits and ignores a register that
is read only; an NQ register waits for the next cycle; a write to a register that the tile or device shares ends the region, with whose commit a device
register is written: PCAP at once, CSLR by the next throttle step (that the old CSLR reads until then is log 58). What a tile's contexts and engines share is read as it stood at the start of the issue cycle. -/
def Obligations.SystemRegistersReadAndTakeTheirBits : Prop :=
  (∀ (sp : BitVec 3) (d : BitVec 5) (s : State),
    let c := s.ctx
    let k := s.me.core
    let w (n : Nat) : Dword := BitVec.ofNat 64 n
    let m : Sample := if s.cur.checked = true then s.cur.sample else s.sample s.cur.tile
    (∀ r ∈ ([(0x000, c.cause), (0x001, c.epc), (0x002, c.status), (0x003, c.fcr), (0x004, c.tr0), (0x005, c.tr1), (0x006, c.tr2), (0x007, c.tr3),
        (0x008, c.lfsr.zeroExtend 64), (0x010, c.sp.zeroExtend 64), (0x011, c.lc0), (0x012, c.lc1), (0x013, c.dc.zeroExtend 64),
        (0x014, c.nq0), (0x015, c.nq1), (0x016, c.nq2), (0x017, c.nq3), (0x018, w c.old), (0x019, w c.ost), (0x01A, w c.ocp), (0x01B, w c.omx),
        (0x020, w (s.me.pair.getD s.cur.tile)), (0x021, c.unitid), (0x022, c.grpidx), (0x023, c.launchid), (0x040, k.isscnt),
        (0x041, s.me.rplcnt), (0x042, m.esccnt), (0x043, s.me.repcnt), (0x044, m.bcnt), (0x045, m.ccnt), (0x046, m.satc), (0x047, m.unfc),
        (0x048, m.canc), (0x049, m.mbud), (0x04A, m.tb.extractLsb' 0 64), (0x04B, m.tb.extractLsb' 64 64), (0x080, 0x00380008),
        (0x081, (sget PowerRegion.reset s.regions (regionOf s.cur.tile)).cslr), (0x082, m.pcap), (0x083, 0x000A0401)] :
          List (BitVec 12 × Dword)),
      Acts (.srd sp d r.1) s → exec (.srd sp d r.1) s = .next (s.dueX d r.2 1)) ∧
    (Acts (.cyc sp d 0) s → exec (.cyc sp d 0) s = .next (s.dueX d k.isscnt 1)) ∧
    (Acts (.cyc sp d 1) s → exec (.cyc sp d 1) s = .next (s.dueX d s.me.rplcnt 1)) ∧
    (Acts (.tsr sp d) s → ∃ (v : Nat) (u : State), exec (.tsr sp d) s = .next (u.dueX d (w v) 1) ∧ u.ctx = c ∧ u.me.core = k ∧
      (s.again .ptc = none → v = s.ptc (dieOf s.cur.tile)) ∧
      ∀ n, s.again .ptc = some n → v = n ∧ u.me.region.reuse = s.me.region.reuse.erase (takeKey .ptc s.cur.hw, n))) ∧
  (∀ (sp : BitVec 3) (a : BitVec 5) (s : State),
    let c := s.ctx
    let v := s.rx a
    let g := sget PowerRegion.reset s.regions (regionOf s.cur.tile)
    (∀ r ∈ ([(0x001, { c with epc := v }), (0x011, { c with lc0 := v }), (0x012, { c with lc1 := v }), (0x013, { c with dc := v.truncate 13 }),
        (0x003, { c with fcr := (v &&& 0x3F00) ||| (if 5 ≤ v.toNat % 8 then c.fcr &&& 7 else v &&& 7) }),
        (0x008, { c with lfsr := if v.extractLsb' 0 32 = 0 then 1 else v.extractLsb' 0 32 }), (0x010, { c with sp := v.truncate 8 ||| 1 }),
        (0x014, { c with nqw := c.nqw ++ [(0, v &&& 0xE007FFFFFFFFFFFF)] }), (0x015, { c with nqw := c.nqw ++ [(1, v &&& 0xE007FFFFFFFFFFFF)] }),
        (0x016, { c with nqw := c.nqw ++ [(2, v &&& 0xE007FFFFFFFFFFFF)] }), (0x017, { c with nqw := c.nqw ++ [(3, v &&& 0xE007FFFFFFFFFFFF)] })] :
          List (BitVec 12 × Ctx)),
      Acts (.swr sp a r.1) s → ∃ u, exec (.swr sp a r.1) s = .next u ∧ u.ctx = r.2 ∧ OnlyContext s u) ∧
    (∀ r ∈ ([0x000, 0x002, 0x004, 0x005, 0x006, 0x007, 0x018, 0x019, 0x01A, 0x01B, 0x021, 0x022, 0x023] : List (BitVec 12)),
      Acts (.swr sp a r) s → exec (.swr sp a r) s = .next s) ∧
    (∀ r ∈ ([0x020, 0x040, 0x041, 0x042, 0x043, 0x044, 0x045, 0x046, 0x047, 0x048, 0x049, 0x04A, 0x04B, 0x080, 0x083] : List (BitVec 12)),
      Acts (.swr sp a r) s → exec (.swr sp a r) s = .next (s.mustCommit s.cur.tile)) ∧
    (∀ r ∈ ([0x081, 0x082] : List (BitVec 12)), Acts (.swr sp a r) s → ∃ u, exec (.swr sp a r) s = .next u ∧ u.ctx = c ∧
      u.me.region = { s.me.region with commitDue := true, deferred := s.me.region.deferred ++ [.device r.toNat v] } ∧ { u with tiles := s.tiles } = s) ∧
    (∃ u, s.writeDevice s.cur.tile 0x081 v = u ∧ sget PowerRegion.reset u.regions (regionOf s.cur.tile) = { g with cslrNext := some v } ∧
      u.tiles = s.tiles ∧ u.mem = s.mem) ∧
    (∃ u, s.writeDevice s.cur.tile 0x082 v = u ∧ { u with ctl := { u.ctl with pcap := s.ctl.pcap } } = s ∧
      (u.ctl.pcap.extractLsb' 31 17, u.ctl.pcap.extractLsb' 48 16, u.ctl.pcap.extractLsb' 28 3) = (v.extractLsb' 31 17, 0, 0) ∧
      u.ctl.pcap.extractLsb' 16 12 = (if v.extractLsb' 16 12 = 0 then 1 else v.extractLsb' 16 12) ∧
      ∀ j < 4, u.ctl.pcap.extractLsb' (4 * j) 4 = if v.extractLsb' (4 * j) 4 = 0 then 1 else v.extractLsb' (4 * j) 4))

/-! ### Work -/

/-- R235, R236, R240, R245, R248, R282, R328, R333, R366: LAUNCH and TASK take the next LAUNCHID, or in a rerun the one of the first run (the model's reading, log 23), deliver it two issue
cycles later, count in K[slot], and make a deferred launch or task with its dependences, released by its commit. A LAUNCH into a job that is not live
is made in its own job and marked to fail. NEXT asks for work once, its step due 32 issue cycles later, with the reply NUL at once outside a resident
launch; in a rerun it takes the request of the first run. DONE.UNIT stops every context of its unit, or halts a context outside any; CANCEL waits for
the commit with the identifier of its level. -/
def Obligations.WorkOperationsMakeTheirWork : Prop :=
  (∀ (sp : BitVec 3) (d a b c : BitVec 5) (slot : BitVec 4) (dep : BitVec 16) (x : BitVec 5) (oj : BitVec 1) (n : BitVec 2) (s : State) (j : Job),
    let asked := if oj = 1 then (s.rx x).toNat % 65536 else s.ctx.job
    let target := if (s.job asked).isNone then s.ctx.job else asked
    let h := (s.rx b).toNat
    let was := s.again .lid
    let made (i : Instr) (num : Nat) (bad : Bool) (w : Work → Prop) : Prop :=
      Acts i s → s.job num = some j → let lid := was.getD j.nextLid
      ∃ (u : State) (k : Work) (j' : Job), exec i s = .next u ∧
        u.ctx.due = (s.dueX d (BitVec.ofNat 64 lid) 2).ctx.due ∧ u.job num = some j' ∧ j'.works = j.works ++ [k] ∧
        (was = none → j'.nextLid = if j.nextLid < 0xFFFFFF then j.nextLid + 1 else 1) ∧
        (∀ n, was = some n → j'.nextLid = j.nextLid ∧ u.me.region.reuse = s.me.region.reuse.erase (takeKey .lid s.cur.hw, n)) ∧
        k.lid = lid ∧ k.state = .deferred ∧ k.slot = slot.toNat ∧
        k.tile = s.cur.tile ∧ k.hw = s.cur.hw ∧ k.job = s.ctx.job ∧ k.waits = s.dependences dep ∧ k.after = s.openAccesses ∧ k.badJob = bad ∧ w k ∧
        u.me.region.deferred = s.me.region.deferred ++ [.work num lid] ∧ u.ctx.cmdix = s.ctx.cmdix + 1 ∧
        (s.ctx.owner = .firmware ∨ (∃ g, s.ctx.owner = .graph g ∧ s.instance_ s.ctx.job g ≠ none) → s.slotCount s.ctx slot.toNat + 1 = u.slotCount u.ctx slot.toNat)
    made (.launch sp d a slot dep x oj) target (s.job asked).isNone (fun k => k.isTask = false ∧ k.specAddr = s.rx a &&& ~~~127) ∧
    made (.task sp d a b c n slot dep) s.ctx.job false (fun k => k.isTask = true ∧ k.oper = (s.rx a).toNat % 65536 ∧ k.nops = n.toNat ∧
      k.handles = [h % 2 ^ 32, h / 2 ^ 32, (s.rx c).toNat % 2 ^ 32].take n.toNat)) ∧
  (∀ (sp : BitVec 3) (a : BitVec 5) (lvl : BitVec 2) (s : State),
    let c := s.ctx
    (Acts (.next sp) s → ∃ u r, exec (.next sp) s = .next u ∧ u.ctx = { c with nexts := c.nexts ++ [r], cmdix := c.cmdix + 1 } ∧
      r.due = s.me.core.isscnt.toNat + 32 ∧ (s.resident c = false → r.reply = some 0x8000000000000000) ∧
      (s.resident c = true → s.again .next = none → r.reply = none ∧ r.id = s.ids ∧ u.agenda = insertEvent
        (s.time + 2 * s.freeTime siteNext) (.nextRequestService s.cur.tile s.cur.hw) s.agenda) ∧
      ∀ n, s.resident c = true → s.again .next = some n → r.reply = none ∧ r.id = n ∧ u.agenda = s.agenda) ∧
    (Acts (.doneUnit sp) s → ∃ u, exec (.doneUnit sp) s = .next u ∧ u.me.region.commitDue = true ∧
      (∀ n, c.owner = .unit n → u.me.region.deferred = s.me.region.deferred ++ [.doneUnit s.cur.hw] ∧
        u.ctx = { c with stop := .doneUnit, cmdix := c.cmdix + 1 } ∧
        ∀ h, (s.me.core.ctx h).owner = c.owner → (s.me.core.ctx h).job = c.job → (u.me.core.ctx h).stop = .doneUnit) ∧
      ((∀ n, c.owner ≠ .unit n) → u.ctx = { c with halted := true, haltPc := s.cur.pc, cmdix := c.cmdix + 1 })) ∧
    (Acts (.cancel sp a lvl) s → ∃ u, exec (.cancel sp a lvl) s = .next u ∧ u.ctx = { c with cmdix := c.cmdix + 1 } ∧
      u.me.region.deferred = s.me.region.deferred ++
        [.cancel s.cur.hw lvl.toNat (if lvl = 0 then (s.rx a).toNat % 2 ^ 24 else (s.rx a).toNat % 65536)]))

/-! ### What operations leave alone -/

/-- R30, R36, R81, R99, R154, R156, R160, R165: an A0, A1 or VX operation that acts has its results due in its destinations and changes nothing else, save
LFSR under a stochastic rounding. A scratch, full/empty, atomic or spill operation that acts changes at most the row of its effective address, its own
context's spill store and the results due in its destinations: no register, no other row, no other context and no device memory. -/
def Obligations.OperationsLeaveOtherRegistersAndRowsAlone : Prop :=
  (∀ (i : Instr) (w : Nat) (s t : State), i.encode = some (.arith, w) ∨ i.encode = some (.vector, w) → Acts i s → exec i s = .next t →
    OnlyContext s t ∧ t.mem = s.mem ∧ { t.ctx with due := s.ctx.due, pend := s.ctx.pend, lfsr := s.ctx.lfsr } = s.ctx ∧
    t.ctx.pend.map (fun d => (d.reg, d.rid)) = s.ctx.pend.map (fun d => (d.reg, d.rid)) ∧
    (∃ ps, t.ctx.due = s.ctx.due ++ ps ∧ ps.map (·.dst) = i.dests) ∧ (fcrRm s.ctx.fcr ≠ 4 → t.ctx.lfsr = s.ctx.lfsr)) ∧
  (∀ (i : Instr) (w : Nat) (s t : State), i.encode = some (.access, w) → i.oldAdds = 0 → i.ostAdds = 0 → Acts i s → exec i s = .next t →
    t.mem = s.mem ∧ { t with tiles := s.tiles } = s ∧ (∀ u, u ≠ s.cur.tile → t.tile u = s.tile u) ∧
    (∀ h, h ≠ s.cur.hw → t.me.core.ctx h = s.me.core.ctx h) ∧
    (∀ n, (∀ ea, i.scratch s = some ea → n % 1024 ≠ rowOf ea) → t.me.core.row n = s.me.core.row n ∧ t.me.core.feBits n = s.me.core.feBits n) ∧
    (i.writesRow = false → ∀ n, t.me.core.row n = s.me.core.row n ∧ t.me.core.feBits n = s.me.core.feBits n) ∧
    { t.ctx with due := s.ctx.due, pend := s.ctx.pend, spill := s.ctx.spill } = s.ctx ∧ ∃ ps, t.ctx.due = s.ctx.due ++ ps ∧ ps.map (·.dst) = i.dests)

/-- R35, R41, R168, R201, R348, R371, R372: no operation of a slot writes device memory; only a request that reaches its home, or the module's own agents,
do. None changes STATUS but for INH, so that none raises its context's privilege; only taking a trap sets INH, at the handler's one address, the model's choice (log 8), and only
ERET clears it. -/
def Obligations.SlotOperationsKeepMemoryAndMode : Prop :=
  (∀ (i : Instr) (s t : State), i.encode ≠ none → exec i s = .next t → t.mem = s.mem) ∧
  (∀ (i : Instr) (s t : State), i.encode ≠ none → exec i s = .next t →
    (∀ b, b ≠ 3 → t.ctx.status.getLsbD b = s.ctx.status.getLsbD b) ∧
    (t.ctx.status ≠ s.ctx.status → (∃ sp, i = .eret sp) ∨ (t.ctx.inh = true ∧ t.ctx.pc = Config.trapEntry)))

/-! ### The events of one tile -/

/-- R118, R126, R130, R144, R260, R261, R387: divisors change at their issue cycle; the oldest waiting array operation starts when the array is free,
takes the accumulator as the queue delivers it, and ends and falls due by the divisors of its issue; the k-groups of a product, one after another, give
its pass; a discarded MMAE pass runs again from the next entry; an operation that is due writes those of its accumulators that no later one has
written, its counters and its flags, and leaves the queue. -/
def Obligations.DivisorsAndTheArrayQueueAdvance : Prop :=
  ∀ (t : Nat) (s : State),
    let k := (s.tile t).core
    let new (old f : Nat) := if f = 0 then old else f + 1
    (∀ d rest, k.divs = d :: rest → d.at_ ≤ k.isscnt.toNat → (∀ e ∈ rest, k.isscnt.toNat < e.at_) →
      ∃ u, exec (.clkdivApply t) s = .next u ∧ Elsewhere s t u ∧ (u.tile t).core =
        { k with dC := new k.dC d.fc, dV := new k.dV d.fv, dM := new k.dM d.fm, dY := new k.dY d.fy, divs := rest }) ∧
    (∀ pre o rest, k.aq = pre ++ o :: rest → (∀ e ∈ pre, e.started = true ∧ e.again = false ∧ e.actEnd ≤ k.arrClk) → o.started = false →
      (∀ e ∈ rest, e.started = false) → (∀ e ∈ pre, e.id ≠ o.id ∧ (e.fault = none ∨ e.reported = true)) → o.kept = false → o.reported = false →
      o.nomStart ≤ k.isscnt.toNat →
      k.loadPending o.id (o.slots k) = false → max o.actStart k.actEnd ≤ k.arrClk →
      ∃ u r, exec (.arrayPhaseStart t) s = .next u ∧ Elsewhere s t u ∧ (u.tile t).core.accs = k.accs ∧
        (u.tile t).core.aq = k.aq.map (fun e => if e.id = o.id then r else e) ∧ r.started = true ∧ r.actStart = max o.actStart k.actEnd ∧
        r.actEnd = r.actStart + max 1 (ceilDiv (o.phase * o.dm) o.dc) ∧
        r.actDue = r.actStart + max 1 (ceilDiv ((o.phase + 12) * o.dm) o.dc) ∧ (u.tile t).core.actEnd = r.actEnd ∧
        (∀ a, o.op.accs.head? = some a → (∀ e ∈ k.aq, e.id < o.id → a ∉ e.op.accs) → r.snap = k.acc a) ∧
        (∀ sp m, o.op = .accz sp m → r.res = 0) ∧
        (∀ sp a x q, o.op = .accwr sp a x q → ∀ j < 32768, r.res.getLsbD j =
          if 2048 * q.toNat ≤ j ∧ j < 2048 * (q.toNat + 1) then o.data.getLsbD (j - 2048 * q.toNat) else r.snap.getLsbD j)) ∧
    (∀ o fa fb, o.op.isProduct = true → o.op.formats (ftEntry o.ft o.curEntry) = (fa, fb) →
      operandFault k fa fb o.curSlot o.op.bk o.op.kg = none → (∀ n ∈ o.rowsA fa, k.badBits n = 0) →
      (k.runGroup^[o.op.kg] (k.beginPass o)).res = ofPatterns (k.pass (bitsOf o.mbud.toNat 48 5) fa fb o.curRow o.curSlot o.op.bk o.op.kg
        (if o.op.zeroAcc then 0 else o.snap)).acc) ∧
    (∀ o, k.aq.find? (fun o => o.started && o.again && o.actEnd ≤ k.arrClk) = some o → (∀ e ∈ k.aq, e.fault = none ∨ e.reported = true) →
      ∃ u r, exec (.mmaeEscalation t) s = .next u ∧ Elsewhere s t u ∧ (u.tile t).core.accs = k.accs ∧
        (u.tile t).core.aq = k.aq.map (fun e => if e.id = o.id then r else e) ∧ r.curEntry = ftNext (ftEntry o.ft o.curEntry) ∧
        r.curRow = ((o.curRow + ftDelta (ftEntry o.ft o.curEntry)) % 1024).toNat ∧ r.curSlot = ftSlot (ftEntry o.ft o.curEntry) ∧
        r.used = o.used ++ [r.curEntry] ∧ r.esc = o.esc + 1 ∧ (r.fault = none →
          let f := o.op.formats (ftEntry o.ft r.curEntry)
          r.phase = o.phase + o.op.kg * opCpg f.1 f.2 ∧ r.actEnd = o.actStart + max 1 (ceilDiv (r.phase * o.dm) o.dc))) ∧
    ∀ o, k.aq.find? (fun o => o.started && !o.again && o.nomDue ≤ k.isscnt.toNat && o.actDue ≤ k.arrClk) = some o → o.fault = none →
      ∃ u, exec (.arrayOperationDue t) s = .next u ∧ Elsewhere s t u ∧
        let k' := (u.tile t).core
        k'.aq = ((k.aq.filter fun e => e.id != o.id).map fun e => if e.id < o.id then { e with stale := e.stale ++ o.op.accs } else e) ∧
        (∀ n < 4, k'.acc n = if n ∈ o.op.accs ∧ n ∉ o.stale then o.res else k.acc n) ∧ k'.satc = k.satc + BitVec.ofNat 64 o.ts ∧
        k'.unfc = k.unfc + BitVec.ofNat 64 o.tu ∧ k'.canc = k.canc + BitVec.ofNat 64 o.tc ∧ k'.esccnt = k.esccnt + BitVec.ofNat 64 o.esc ∧
        (∀ j < 6, (k'.ctx o.hw).raised.getLsbD j = ((k.ctx o.hw).raised.getLsbD j || o.flags.getLsbD j || (o.exhausted && j == 5))) ∧
        { k'.ctx o.hw with raised := (k.ctx o.hw).raised } = k.ctx o.hw

/-- R129, R136, R138, R180, R184, R185: a command that has moved its last row and whose release and tag write are over completes: it leaves its
engine, OMX or OCP falls, and its tag takes the completion; a failed one without a tag leaves the copy error for its context. A queued copy takes
one of eight places, a timed one once its time has come, and fails at once where its target is none or a node that it still has to reach is cut off; a row that lands is in scratch, and one that finds no copy cycle or no port of its bank free
tries again a tick later. -/
def Obligations.EngineCommandsStartAndComplete : Prop :=
  ∀ (t id : Nat) (s : State),
    let k := (s.tile t).core
    let report (op : Instr) (err : Option (BitVec 32)) (ix : BitVec 32) : List Err :=
      match err with | some w => if tagOf op = none then [copyError op w ix] else [] | none => []
    let starts (i : Instr) (m : CopyCmd) : Prop :=
      ∃ u r, exec i s = .next u ∧ Elsewhere s t u ∧ (u.tile t).core = { k with copies := k.copies.map fun e => if e.id = m.id then r else e } ∧
        (∀ ts, s.copyTargets t m = some ts → let m' := { m with state := .active, targets := ts }
          (s.copyCut t m' = false → r = m') ∧ (s.copyCut t m' = true → m.err = none → r = { m' with next := m.rows, err := some 5 })) ∧
        (s.copyTargets t m = none → m.err = none → r = { m with state := .active, next := m.rows, err := some 2 })
    (∀ m, k.mcmds.find? (fun m => m.id == id) = some m → m.deferred = false → m.total ≤ m.moved →
      (releases m.op = true → m.after.all s.settled = true) →
      (m.tagWrite = 2 ∨ m.tagWrite = 0 ∧ ∀ sp acc x off f rm tag tg tw sx rl sc, m.op = .accst sp acc x off f rm tag tg tw sx rl sc → tw = 0) →
      Hears s t → ∃ u, exec (.matrixCommandCompletion t id) s = .next u ∧ Elsewhere s t u ∧
        let k' := (u.tile t).core
        k'.mcmds = k.mcmds.filter (·.id != id) ∧ TagDone k k' (tagOf m.op) m.err.isSome ∧
        k'.ctx m.hw = { k.ctx m.hw with
          omx := (k.ctx m.hw).omx - 1, fcr := (k.ctx m.hw).fcr ||| (m.flags.zeroExtend 64 <<< 8)
          errs := (k.ctx m.hw).errs ++ report m.op m.err m.cmdix }) ∧
    (∀ m, k.copies.find? (fun m => m.state == .queued) = some m → k.activeCopies < 8 → k.preempting = false →
      starts (.copyCommandStart t) m) ∧
    (∀ m, k.copies.find? (fun m => m.id == id && m.state == .timed) = some m → k.activeCopies < 8 → k.preempting = false →
      m.third.toNat ≤ s.ptc (dieOf t) → starts (.cpytStart t id) m) ∧
    (∀ m, k.copies.find? (fun m => m.id == id) = some m → m.state = .active ∨ m.state = .finishing →
      (m.err.isSome = true ∨ m.next = m.rows ∧ (m.signals = true ∨ m.add.2 = 0)) → s.copyOpen id = false →
      (releases m.op = true → m.after.all s.settled = true) →
      (m.err.isSome = true ∨ m.tagWrite ≠ 0 ∨
        ∀ sp dir g x off n y tw tag tg aq rl sc fe, m.op = .cpy sp dir g x off n y tw tag tg aq rl sc fe → tw = 0) →
      Hears s t → ∃ u, exec (.copyCompletion t id) s = .next u ∧ Elsewhere s t u ∧
        let k' := (u.tile t).core
        k'.copies = k.copies.filter (·.id != id) ∧ TagDone k k' (tagOf m.op) m.err.isSome ∧
        k'.ctx m.hw = { k.ctx m.hw with
          ocp := (k.ctx m.hw).ocp - 1, errs := (k.ctx m.hw).errs ++ report m.op m.err m.cmdix }) ∧
    ∀ r row fe, s.req id = some r → Hears s t →
      ((∃ c m, r.kind = .copyIn c row fe ∧ r.tile = t ∧ r.state ≠ .performed ∧ k.copies.find? (fun m => m.id == c) = some m ∧ m.multicast = false ∧
          m.err = none) ∨
        ∃ c, r.kind = .copyTo c t row fe) →
      (s.mayLand t row (t != r.tile) = false → exec (.copyRowLand id) s = .next (s.after 1 (.copyRowLand id))) ∧
      (s.mayLand t row (t != r.tile) = true → ∃ u, exec (.copyRowLand id) s = .next u ∧ Elsewhere s t u ∧
        let k' := (u.tile t).core
        k'.row row = r.data ∧ k'.badBits row = 0 ∧ k'.feBits row = (if fe then -1 else k.feBits row) ∧
        (∀ n, n % 1024 ≠ row % 1024 → k'.row n = k.row n ∧ k'.feBits n = k.feBits n) ∧ k'.ctxs = k.ctxs ∧
        (dieOf r.tile = dieOf t → ∀ q ∈ u.fab.reqs, q.id ≠ id))

/-! ### Semaphores, barriers, trees and NEXT -/

/-- R206, R208, R265, R268, R269, R271: adds that arrive in one control cycle are summed and saturate with the overflow bit, and a set wins over them;
arrivals at a barrier count modulo its expected number and move its generation. An arrival at a root is held until every participant of the tree has
arrived; then the arrivals are cleared and every die of the partition is to see the generation, one that is cut off once a route leads to it. A mask
leaves supervisor and retired tiles out, and the last arrival of a retired tile takes it out of the tree. -/
def Obligations.SemaphoresBarriersAndTreesGatherArrivals : Prop :=
  (∀ (t : Nat) (s : State),
    let k := (s.tile t).core
    let at_ (ins : List Arrival) (j : Nat) := ins.filter fun a => a.k == j
    let total (ins : List Arrival) := (ins.map (·.n)).sum
    (∃ u, exec (.semaphoreUpdate t) s = .next u ∧ Elsewhere s t u ∧
      let k' := (u.tile t).core
      { k' with sems := k.sems, semIn := k.semIn } = k ∧ k'.semIn = [] ∧ ∀ j < 64,
        let ins := at_ k.semIn j
        let n := (k.sem j).count.toNat + total ins
        ((∀ a ∈ ins, a.set = false) →
          k'.sem j = if 0xFFFFFFFF < n then ⟨0xFFFFFFFF, true⟩ else ⟨BitVec.ofNat 32 n, (k.sem j).ovf⟩) ∧
        ∀ pre a post, ins = pre ++ a :: post → a.set = true → (∀ b ∈ post, b.set = false) → k'.sem j = ⟨BitVec.ofNat 32 a.n, false⟩) ∧
    ∃ u, exec (.barrierUpdate t) s = .next u ∧ Elsewhere s t u ∧
      let k' := (u.tile t).core
      { k' with bars := k.bars, barIn := k.barIn } = k ∧ k'.barIn = [] ∧ ∀ j < 64,
        let ins := at_ k.barIn j
        let b := k.bar j
        let n := min 0xFFFFFFFF (b.cnt.toNat + total ins)
        (ins = [] → k'.bar j = b) ∧
        (ins ≠ [] → (∀ a ∈ ins, a.set = false) → k'.bar j = if b.exp = 0 then ⟨0, BitVec.ofNat 32 n, b.gen⟩
          else ⟨b.exp, BitVec.ofNat 32 (n % b.exp.toNat), b.gen + BitVec.ofNat 16 (n / b.exp.toNat)⟩) ∧
        ∀ pre a post, ins = pre ++ a :: post → a.set = true → (∀ b ∈ post, b.set = false) → k'.bar j = ⟨BitVec.ofNat 8 a.n, 0, b.gen⟩) ∧
  (∀ (job tree t row c die : Nat) (mask : BitVec 25) (s : State) (j : Job), s.job job = some j →
    (t ∈ j.participants tree → (s.tile t).retired = false → t ∉ sget [] j.arv tree →
      ∃ u j', exec (.treeArrivalAtRoot job tree t) s = .next u ∧ u.job job = some j' ∧ u.tiles = s.tiles ∧ u.mem = s.mem ∧
        let arrived := sget [] j.arv tree ++ [t]
        ((∃ p ∈ j.participants tree, p ∉ arrived) → j' = { j with arv := sput tree arrived j.arv } ∧ u.agenda = s.agenda) ∧
        ((∀ p ∈ j.participants tree, p ∈ arrived) → sget [] j'.arv tree = [] ∧ ∀ d < 64, inPart j.part d = true →
          (s.cutOff j.root d = false → Planned u (.tgenIncrement job tree d)) ∧
          (s.cutOff j.root d = true → (j.root, d, Event.tgenIncrement job tree d) ∈ u.fab.trees))) ∧
    ((s.tile t).retired = true → (∀ p ∈ s.agenda, p.2 ≠ .treeArrivalAtRoot job tree t) →
      ∃ u j', exec (.treeArrivalAtRoot job tree t) s = .next u ∧ u.job job = some j' ∧ u.tiles = s.tiles ∧ u.mem = s.mem ∧
        j'.participates tree t = false) ∧
    (row < 200 → c < 8 → inPart j.part (8 * (row / 25) + c) = true →
      ∃ u j', exec (.treeMaskAtRoot job tree row c mask) s = .next u ∧ u.job job = some j' ∧ u.tiles = s.tiles ∧
        (∀ i < 25, (j'.mask tree row c).getLsbD i =
          (mask.getLsbD i && !isSupervisor (tileAt row (25 * c + i)) && !(s.tile (tileAt row (25 * c + i))).retired)) ∧
        ∀ n, n ≠ tree * 1600 + row * 8 + c → sget 0 j'.masks n = sget 0 j.masks n) ∧
    ∃ u j', exec (.tgenIncrement job tree die) s = .next u ∧ u.job job = some j' ∧
      sget 0 j'.tgen (64 * tree + die) = sget 0 j.tgen (64 * tree + die) + 1 ∧
      (∀ n, n ≠ 64 * tree + die → sget 0 j'.tgen n = sget 0 j.tgen n) ∧
      (dieOf t = die → u.tgen t job tree = s.tgen t job tree +
        if (s.tile t).retired = true ∨ (s.tile t).live = true ∧ ((s.tile t).reruns = true ∨ (s.tile t).still = true) then 0 else 1) ∧
      (dieOf t ≠ die → u.tile t = s.tile t))

/-- R240 to R243, R245, R331: the dispatcher answers a NEXT outside a pipeline with the next item of its launch or, after the last, with NUL; the
reply reaches its NEXT; and in its due cycle NQ1, NQ2 and NQ3 move down and the reply enters NQ3, or the tile freezes a control cycle for a late
one. A report takes its item from its unit. -/
def Obligations.NextRepliesRotateIn : Prop :=
  ∀ (t h id rid : Nat) (v : Dword) (s : State),
    let c := s.ctxAt t h
    (∀ n r, c.nexts = n :: r → n.due ≤ (s.tile t).core.isscnt.toNat → c.nqw = [] →
      ∃ u, exec (.nextRotate t h) s = .next u ∧ Elsewhere s t u ∧
        (n.reply = some v → u.ctxAt t h = { c with nq0 := c.nq1, nq1 := c.nq2, nq2 := c.nq3, nq3 := v, nexts := r }) ∧
        (n.reply = none → u.ctxAt t h = c ∧ (u.tile t).clock = (s.tile t).clock + (s.tile t).core.dC)) ∧
    (c.nexts = [] → ∀ n < 4, c.nqw = [(n, v)] → ∃ u, exec (.nextRotate t h) s = .next u ∧ Elsewhere s t u ∧
      u.ctxAt t h = { c with
        nq0 := if n = 0 then v else c.nq0, nq1 := if n = 1 then v else c.nq1, nq2 := if n = 2 then v else c.nq2
        nq3 := if n = 3 then v else c.nq3, nqw := [] }) ∧
    (∀ w k, s.unitOf c = some w → w.onWay.find? (fun p => p.1 == h) = some (k, id, v) → Hears s t →
      ∃ u, exec (.nextReplyArrival t h) s = .next u ∧ Elsewhere s t u ∧
        u.ctxAt t h = { c with nexts := c.nexts.map fun n => if n.id = id ∧ n.reply = none then { n with reply := some v } else n }) ∧
    (∀ j w l k, s.job c.job = some j → s.unitOf c = some w → s.work c.job w.lid = some l → w.asked.find? (fun p => p.1 == h) = some (k, id) →
      (∀ n ∈ c.nexts, n.id = id → n.due + s.pairSkew t h ≤ (s.tile t).core.isscnt.toNat + 32) →
      specPipe l.spec = false → l.given = [] → ∃ u j', exec (.nextRequestService t h) s = .next u ∧ u.tiles = s.tiles ∧ u.mem = s.mem ∧
        u.job c.job = some j' ∧ (∃ n, Due s u n (.nextReplyArrival t h)) ∧
        let w' := { w with asked := w.asked.erase (h, id) }
        let put (x : WorkUnit) := j.units.map fun y => if y.uid = w.uid then x else y
        (l.nextItem < specWork l.spec →
          j'.units = put { w' with
            items := w.items ++ [⟨l.nextItem, w.tile, 0⟩], stage := 0, replies := w.replies + 1
            onWay := w.onWay ++ [(h, id, BitVec.ofNat 64 (l.nextItem % 2 ^ 32 * 65536 + w.tile))] } ∧
          ∀ y ∈ j'.works, y.lid = l.lid → y.nextItem = l.nextItem + 1) ∧
        (specWork l.spec ≤ l.nextItem → j'.units = put { w' with nul := true, onWay := w.onWay ++ [(h, id, 0x8000000000000000)] })) ∧
    ∀ r w i, s.req rid = some r → r.kind = .item v → r.tile = t → r.hw = h → s.unitOf c = some w → Hears s t → NoneWaiting s t →
      w.items.find? (fun i => v.getLsbD 63 == false && v.getLsbD 61 == false && i.stage == (v.extractLsb' 48 3).toNat &&
        i.num % 2 ^ 32 == (v.extractLsb' 16 32).toNat) = some i →
      ∃ u j', exec (.itemReport rid) s = .next u ∧ Elsewhere s t u ∧ (u.ctxAt t h).ost = c.ost - 1 ∧ (∀ q ∈ u.fab.reqs, q.id ≠ rid) ∧
        u.job c.job = some j' ∧ ∃ y ∈ j'.units, y.uid = w.uid ∧ y.items = w.items.erase i

/-! ### The fabric -/

/-- R169, R171, R197, R341, R353, R375: a load read at its home comes back and is written, its pending destination free and OLD one lower, unless an
earlier load through its queue into its register has still to complete; an acknowledged store leaves OST (the model's reading of R169 and R353, log 57); an error leaves the counter and waits for its
context as GLOBAL of R369 and R370, and a page not present parks the access, unless a cancel has reached its context. -/
def Obligations.AccessesCompleteAtTheirTile : Prop :=
  ∀ (rid pid cause : Nat) (s : State) (r : Req), s.req rid = some r → Hears s r.tile → NoneWaiting s r.tile →
    let c := s.ctxAt r.tile r.hw
    (r.kind.countsOld = true → s.laterLoad r = true →
      exec (.globalLoadCompletion rid) s = .next (s.updReq rid fun q => { q with state := .done })) ∧
    (r.kind.countsOld = true → s.laterLoad r = false →
      ∃ u, exec (.globalLoadCompletion rid) s = .next u ∧ Elsewhere s r.tile u ∧ (∀ q ∈ u.fab.reqs, q.id ≠ rid) ∧ (u.tile r.tile).core.rows = (s.tile r.tile).core.rows ∧
      ((∀ d ∈ c.pend, d.rid = rid → d.tainted = false) → u.ctxAt r.tile r.hw =
        { c.write r.reg r.data with old := c.old - 1, pend := c.pend.filter (·.rid != rid) })) ∧
    (∀ a st p, s.packet pid = some a → a.load = .ack 0 p.seq [] → (s.node a.dst).streams = [(streamKey a.src 0, st)] →
      st.unacked = [p] → st.waiting = [] → p.cls = 0 → p.dst = a.src → p.load = .request rid → r.kind = .store ∨ r.kind = .storeRow → outbound r.pa = false → r.state ≠ .failing →
      ∃ u, exec (.globalAckArrival pid) s = .next u ∧ Elsewhere s r.tile u ∧ (∀ q ∈ u.fab.reqs, q.id ≠ rid) ∧
        ((u.node a.dst).stream (streamKey a.src 0)).unacked = [] ∧ u.ctxAt r.tile r.hw = { c with ost := c.ost - 1 }) ∧
    (r.kind = .load ∨ r.kind = .loadRow ∨ r.kind = .store ∨ r.kind = .storeRow →
      (cause ≠ 4 → ∃ u, exec (.globalAccessError rid cause) s = .next u ∧ Elsewhere s r.tile u ∧ (∀ q ∈ u.fab.reqs, q.id ≠ rid) ∧
        u.ctxAt r.tile r.hw = { c with
          old := c.old - b2n r.kind.countsOld, ost := c.ost - b2n (!r.kind.countsOld)
          pend := if r.kind.countsOld then c.pend.filter (·.rid != rid) else c.pend
          errs := c.errs ++ [⟨1, 0x10, 0, (3 : BitVec 4) ++ r.ea.extractLsb' 8 28,
            BitVec.ofNat 32 ((r.ea.extractLsb' 36 21).toNat * 2048 + r.q % 4 * 512 + r.kind.form * 64 + cause), 0⟩] }) ∧
      (cause = 4 → s.cancelled r.tile r.hw = false → ∃ u, exec (.globalAccessError rid cause) s = .next u ∧ u.tiles = s.tiles ∧ u.mem = s.mem ∧
        (∃ q ∈ u.fab.reqs, q.id = rid ∧ q.state = .parked) ∧
        ((∃ i < 60, sfind (sget Die.reset s.dies (dieOf r.tile)).traps i = none) →
          ∃ i e, sfind (sget Die.reset u.dies (dieOf r.tile)).traps i = some e ∧ e.rid = some rid ∧ e.state = 1 ∧
            e.w0 = 0x60000010 ∧ e.job = r.job ∧ e.tile = r.tile ∧ e.hw = r.hw)))

/-- R166, R173, R174, R197, R198, R296, R299, R304, R341, R362, R363: a request is performed at its home port on the bytes of its address: a store puts its
data there, an atomic its result, and nothing else of memory changes. Bad data leaves memory as it is, and an address in no part of a stack, which no
translation gives, is a fault of the model's own (log 55). One in the window of a border site goes on to the peer module, unless the path has failed. A
walk that ends in a leaf leaves the leaf with the tile that waits for it, in its page TLB or, for a fetch, among its leaves of code (which leaves stay cached is the model's choice, log 18); one that ends in a
fault leaves the walker and completes its request with that fault. -/
def Obligations.HomePortsAndWalksPerformRequests : Prop :=
  (∀ (rid : Nat) (err : Bool) (s : State) (r : Req), s.req rid = some r → r.state = .remote →
    ∃ u, exec (.homePortAccess rid err) s = .next u ∧ u.mem = s.mem) ∧
  (∀ (rid : Nat) (err : Bool) (s : State) (r : Req), MemoryCanonical s → s.req rid = some r → r.state = .sent →
    (Config.stackEnd ≤ paLocal r.pa → exec (.homePortAccess rid err) s = .fault (.absentAddress r.pa)) ∧
    (paLocal r.pa < Config.stackEnd → outbound r.pa = true → ∃ u, exec (.homePortAccess rid err) s = .next u ∧ u.mem = s.mem ∧ u.tiles = s.tiles ∧
      (s.pathDown (paSite r.pa) = false → ∃ q ∈ u.fab.reqs, q.id = rid ∧ q.state = .remote)) ∧
    (paLocal r.pa < Config.stackEnd → outbound r.pa = false → s.readsBad r = true →
      ∃ u, exec (.homePortAccess rid err) s = .next u ∧ u.mem = s.mem ∧ u.tiles = s.tiles) ∧
    (paLocal r.pa < Config.stackEnd → outbound r.pa = false → s.readsBad r = false →
      let old := Memory.readNat s.mem r.pa r.kind.size
      let a := r.opnd.toNat
      ∃ u, exec (.homePortAccess rid err) s = .next u ∧
        (∀ pa, pa < r.pa ∨ r.pa + r.kind.size ≤ pa → Memory.read u.mem pa = Memory.read s.mem pa) ∧
        let new := Memory.readNat u.mem r.pa r.kind.size
        (r.kind = .store ∨ r.kind = .storeRow ∨ (∃ c, r.kind = .copyOut c) → new = r.data.toNat % 256 ^ r.kind.size) ∧
        (r.kind = .load ∨ r.kind = .loadRow ∨ (∃ c n f, r.kind = .copyIn c n f) ∨ r.kind = .slabtag 0 → u.mem = s.mem) ∧
        ∀ aop, (∃ ret, r.kind = .amo aop ret) ∨ r.kind = .red aop →
          (aop = 0 → new = (old + a) % 2 ^ 64) ∧
          (aop = 1 → new = if (BitVec.ofNat 64 old).toInt ≤ r.opnd.toInt then old else a) ∧
          (aop = 2 → new = if (BitVec.ofNat 64 old).toInt ≤ r.opnd.toInt then a else old) ∧
          (aop = 3 → new = min old a) ∧ (aop = 4 → new = max old a) ∧ (aop = 5 → new = old &&& a) ∧ (aop = 6 → new = old ||| a) ∧
          (aop = 7 → new = old ^^^ a) ∧ (aop = 8 → new = a) ∧
          (aop = 10 → new = (roundSum fmt32 rndRne false [fvalue fmt32 old, fvalue fmt32 (a % 2 ^ 32)]).1 % 2 ^ 32) ∧
          (aop = 11 → new = (roundSum fmt64 rndRne false [fvalue fmt64 old, fvalue fmt64 a]).1 % 2 ^ 64) ∧
          (∀ ret, r.kind = .amo 9 ret → new = if old = r.aux.toNat then a else old))) ∧
  (∀ (die rid : Nat) (s : State) (r : Req) (w : Walk),
    (sget Die.reset s.dies die).walks = [w] → (sget Die.reset s.dies die).fifo = [] → w.rids = [rid] → s.req rid = some r → r.state = .walking →
    sget [] (s.ranges w.job) w.range = w.entry →
    ∃ u, exec (.translationWalk die rid) s = .next u ∧ u.mem = s.mem ∧
      (∀ out size perm, walkRange s w.entry (w.page * 4096) = .leaf out size perm →
        let l : TlbEntry := ⟨w.job, w.range, w.page * 4096 / size * size, size, out, perm⟩
        (r.kind ≠ .fetch → l ∈ (u.tile r.tile).ptlb) ∧ (r.kind = .fetch → Hears s r.tile → l ∈ (u.tile r.tile).core.ctlb)) ∧
      ∀ c pa, walkRange s w.entry (w.page * 4096) = .fault c pa → r.kind ≠ .locq → r.kind ≠ .fetch →
        Due s u 0 (.globalAccessError rid c) ∧ u.tiles = s.tiles ∧ (sget Die.reset u.dies die).walks = [])

/-- R348, R352 to R354, R357, R358: a packet whose CRC fails is discarded, and one of the ordered class is taken in its turn alone; a source sends its
unacknowledged packets again after RTO; an acknowledgement names what has arrived; a merge entry that is full, or MW old by the site's counter, goes out
in the switch's own stream; a reduction is applied once, a duplicate never. -/
def Obligations.PacketsArriveInOrderAndOnce : Prop :=
  ∀ (node src dst cls e fid pid noise : Nat) (s : State),
    (∀ f p, s.fab.flights.find? (fun f => f.id == fid) = some f → s.packet f.pid = some p → s.intact p noise = false → p.cls ≠ 3 →
      ∃ u, exec (.packetArrival fid noise) s = .next u ∧ u.mem = s.mem ∧ u.tiles = s.tiles ∧ u.agenda = s.agenda ∧ u.fab.nodes = s.fab.nodes ∧
        ∀ g ∈ u.fab.flights, g.id ≠ fid) ∧
    (∀ f p r rid, s.fab.flights.find? (fun f => f.id == fid) = some f → s.packet f.pid = some p → (s.node f.node).down = false →
      s.intact p noise = true → p.cls = 0 →
      p.load = .request rid → s.req rid = some r → r.state = .sent → r.kind = .load ∨ r.kind = .store →
      ∃ u, exec (.packetArrival fid noise) s = .next u ∧ u.mem = s.mem ∧ u.tiles = s.tiles ∧ (∀ g ∈ u.fab.flights, g.id ≠ fid) ∧
        let ne := sget 0 (s.node f.node).ne p.src
        (p.seq % 65536 = ne % 65536 → ne < 65536 → sget 0 (u.node f.node).ne p.src = (ne + 1) % 65536 ∧ (∃ c, Due s u 0 (.homePortAccess rid c)) ∧
          ∃ n ≤ 128, Due s u n (.acknowledgementDeparture f.node p.src 0)) ∧
        (p.seq % 65536 ≠ ne % 65536 → p.seq < 65536 → ne < 65536 → sget 0 (u.node f.node).ne p.src = ne ∧
          ∀ n c, Due s u n (.homePortAccess rid c) → Due s s n (.homePortAccess rid c))) ∧
    (∀ p rest, ((s.node node).stream (streamKey dst cls)).unacked = p :: rest →
      ∃ u, exec (.retransmitTimeout node dst cls) s = .next u ∧ u.mem = s.mem ∧ u.tiles = s.tiles ∧
        (s.ptc node < p.sentAt + 16384 → u.fab = s.fab ∧ Due s u (p.sentAt + 16384 - s.ptc node) (.retransmitTimeout node dst cls)) ∧
        (p.sentAt + 16384 ≤ s.ptc node → Due s u 16384 (.retransmitTimeout node dst cls) ∧
          ((u.node node).stream (streamKey dst cls)).unacked =
            ((p :: rest).zipIdx).map fun q => { q.1 with sentAt := s.ptc node + 2 * q.2 })) ∧
    (∀ m, (s.node node).entries.find? (fun x => x.e == e) = some m → 16 ≤ m.cs.length ∨ m.first + 32 ≤ s.ptc node → node ≠ m.dst →
      ∃ u, exec (.mergeEntrySend node e) s = .next u ∧ u.mem = s.mem ∧ u.tiles = s.tiles ∧ (∀ x ∈ (u.node node).entries, x.e ≠ e) ∧
        let st := (s.node node).stream (streamKey m.dst 1)
        let st' := (u.node node).stream (streamKey m.dst 1)
        st'.seq = (st.seq + 1) % 65536 ∧ ∃ q ∈ st'.unacked ++ st'.waiting, q.load = .reduction m.pa m.aop m.job m.cs m.via ∧ q.seq = st.seq) ∧
    ((s.node node).down = true → exec (.acknowledgementDeparture node src cls) s = .next s) ∧
    (node ≠ src → (∀ n, (s.node n).down = false) → (s.node node).downEdges = [] → (s.node node).downNodes = [] → s.fab.edgesDown = [] →
      (∃ u f p, exec (.acknowledgementDeparture node src 0) s = .next u ∧ u.tiles = s.tiles ∧ f ∈ u.fab.flights ∧ p ∈ u.fab.packets ∧ f.pid = p.id ∧
        p.src = node ∧ p.dst = src ∧ p.cls = 2 ∧ p.load = .ack 0 ((sget 0 (s.node node).ne src + 65535) % 65536) []) ∧
      (sget [] (s.node node).redAcks src ≠ [] → ∃ u f p, exec (.acknowledgementDeparture node src 1) s = .next u ∧ u.tiles = s.tiles ∧
        f ∈ u.fab.flights ∧ p ∈ u.fab.packets ∧ f.pid = p.id ∧ p.load = .ack 1 0 ((sget [] (s.node node).redAcks src).take 8) ∧
        sget [] (u.node node).redAcks src = (sget [] (s.node node).redAcks src).drop 8)) ∧
    ∀ p pa job k via, MemoryCanonical s → s.packet pid = some p → p.load = .reduction pa 0 job [k] via → s.badMem = [] →
      ∃ u, exec (.reductionApply pid) s = .next u ∧ u.tiles = s.tiles ∧
        sget [] (u.node p.dst).redAcks p.src = sget [] (s.node p.dst).redAcks p.src ++ [p.stamp] ∧
        (∀ a, a < pa ∨ pa + 8 ≤ a → Memory.read u.mem a = Memory.read s.mem a) ∧
        let w := (s.node p.dst).window k.src
        ((k.seq + 65536 - w.base) % 65536 < 1024 → k.seq ∉ w.bits →
          Memory.readNat u.mem pa 8 = (Memory.readNat s.mem pa 8 + k.opnd.toNat) % 2 ^ 64) ∧
        (1024 ≤ (k.seq + 65536 - w.base) % 65536 ∨ k.seq ∈ w.bits → u.mem = s.mem)

/-- R213, R342, R347, R350, R351, R360 to R362: retries feed the predictive counters, and the fourth failure in a row takes the module out of service or
makes the port retrain; a module leaves and returns to service and takes its edge with it at once; a failed edge loses what had still to cross it, and every node
adopts the new routes TRT later; a node that enters reset loses its requests and its tiles' state; a clock skips or doubles one increment, not again
within 256 ticks, moves the throttle steps that it times, and tells its neighbours. -/
def Obligations.LinksRoutesAndClocksFollowTheirEvents : Prop :=
  ∀ (edge m lane node port : Nat) (lanes : List Nat) (on ok skip failed : Bool) (s : State),
    let level (s : State) := (sget ⟨0, false⟩ s.ctl.buckets (2 ^ 24 + (256 * (16 * edge + m) + lane))).level
    (∃ u, exec (.linkLevelRetry edge m lane failed) s = .next u ∧ u.tiles = s.tiles ∧ u.mem = s.mem ∧
      level u = min 0xFFFF (level s + (s.policy 1).fill) ∧
      (level u < (s.policy 1).mark → u.ctl.jnext = s.ctl.jnext) ∧
      (16 * edge + m < 4096 → let n := (s.linkModule edge m).retries + 1
        (u.linkModule edge m).retries = (if failed = true ∧ n ≠ 4 then n else 0) ∧ (failed = true → n = 4 → Planned u (.moduleOutOfService edge m))) ∧
      (16 * edge + m = 4096 + port → failed = true → sget 0 s.fab.portRetries port = 3 → Planned u (.scaleOutRetrain port false))) ∧
    ((s.linkModule edge m).active = false → exec (.moduleOutOfService edge m) s = .next s) ∧
    (m < 16 → (s.linkModule edge m).active = true → ∃ u n b l, exec (.moduleOutOfService edge m) s = .next u ∧ u.tiles = s.tiles ∧
      (u.linkModule edge m).active = false ∧
      (∀ k < 16, k ≠ m → u.linkModule edge k = s.linkModule edge k) ∧ n ≤ 102400 ∧ Due s u n (.moduleRetrainEnd edge m b l) ∧
      (u.activeModules edge < 8 → edge ∈ u.fab.edgesDown) ∧ (8 ≤ u.activeModules edge → u.fab.edgesDown = s.fab.edgesDown)) ∧
    ((s.linkModule edge m).active = false → (s.linkModule edge m).stays = false → ∃ u, exec (.moduleRetrainEnd edge m ok lanes) s = .next u ∧
      u.tiles = s.tiles ∧
      (ok = true → u.linkModule edge m = ⟨true, false, 0, 0⟩ ∧ (8 ≤ u.activeModules edge → edge ∉ u.fab.edgesDown)) ∧
      (ok = false → let f := (s.linkModule edge m).fails + 1
        u.linkModule edge m = ⟨false, decide (3 ≤ f), f, 0⟩ ∧ (f < 3 → ∃ n ≤ 102400, ∃ b l, Due s u n (.moduleRetrainEnd edge m b l)))) ∧
    (edge ∉ s.fab.edgesDown → ∃ u, exec (.edgeFailure edge) s = .next u ∧ u.tiles = s.tiles ∧ u.fab.edgesDown = s.fab.edgesDown ++ [edge] ∧
      u.fab.flights = s.fab.flights.filter (fun f => !f.stillCrosses (· == edge) s.now) ∧
      ∃ k due, (k = (edgeEnds edge).1 ∨ k = (edgeEnds edge).2) ∧ due = s.ptc k + 4096 ∧
      u.fab.decls = s.fab.decls ++ [(due, s.fab.edgesDown ++ [edge], s.nodesDown)] ∧
      ∀ n < 128, Due s u (due - s.ptc n) (.routeTableAdoption n)) ∧
    ((s.node node).down ≠ on → ∃ u, exec (.nodeReset node on) s = .next u ∧ u.mem = s.mem ∧ (u.node node).down = on ∧ (u.node node).entries = [] ∧
      (∀ n < 128, ∃ d, Due s u d (.routeTableAdoption n)) ∧
      (on = true → node < 64 → (∀ r ∈ u.fab.reqs, dieOf r.tile ≠ node) ∧
        ∀ i < 625, (u.tile (tileOfDie node i)).core = Core.reset ∧
          (u.tile (tileOfDie node i)).retired = (s.tile (tileOfDie node i)).retired)) ∧
    (∀ d, (s.fab.decls.filter fun d => d.1 ≤ s.ptc node).getLast? = some d → ∃ u, exec (.routeTableAdoption node) s = .next u ∧ u.mem = s.mem ∧
      (u.node node).downEdges = d.2.1 ∧ (u.node node).downNodes = d.2.2.filter (· != node)) ∧
    (∃ u, exec (.scaleOutRetrain port on) s = .next u ∧ (∀ p, sget true u.fab.scalePorts p = if p = port then on else sget true s.fab.scalePorts p) ∧
      u.mem = s.mem ∧ u.tiles = s.tiles ∧ (on = true → { u with fab := { u.fab with scalePorts := s.fab.scalePorts, portRetries := s.fab.portRetries } } = s) ∧
      (on = false → ∃ n b, Due s u n (.scaleOutRetrain port b))) ∧
    let n := s.node node
    let step : Int := if skip then -1 else 1
    (n.step ≠ 0 → s.now < n.lastStep + 256 → exec (.ptcAlignment node skip) s = .next s) ∧
    (n.step = 0 ∨ n.lastStep + 256 ≤ s.now → 0 < s.ptcBase + s.now →
      (∀ k < 128, k ≠ node → ((s.node k).skew + (s.node k).step - (n.skew + n.step + step)).natAbs ≤ 8) →
      ∃ u, exec (.ptcAlignment node skip) s = .next u ∧ u.tiles = s.tiles ∧
        { u.node node with streams := n.streams } = { n with skew := n.skew + n.step, step := step, lastStep := s.now } ∧
        (∀ k, k ≠ node → u.node k = s.node k) ∧
        (∀ n e r, (n, e) ∈ s.agenda → e.stepOf = some r → regionDie r = node → s.time + 3 < n → ((if skip then n + 2 else n - 2), e) ∈ u.agenda) ∧
        ∀ k ∈ neighbours node, k.1 ≠ node →
          let st := (u.node node).stream (streamKey k.1 0)
          ∃ q ∈ st.unacked ++ st.waiting, q.load = .control)

/-! ### The dispatcher -/

/-- R231, R233 to R236, R238, R282, R283, R286: a launch or task whose dependences are over becomes ready, as of the moment of the last one; a spec is read
from its 128 bytes in the issuing job while dependences may still wait (the model's reading, log 40) and checked; a task takes the spec of the method
that its table gives, inserts a conversion in front of itself, or fails. A completed launch leaves its status record, with the PTC of the die of its
issuing tile (the model's choice, log 79), and is gone. -/
def Obligations.LaunchesAndTasksRunTheirCourse : Prop :=
  ∀ (job lid : Nat) (s : State) (w : Work), s.work job lid = some w →
    let failed (u : State) (err : Nat) : Prop :=
      ∃ v, u.work job lid = some v ∧ v.state = .ended ∧ v.outcome = 2 ∧ v.err = err ∧ Planned u (.launchComplete job lid)
    (w.state = .waiting → w.outcome = 0 → s.specOver w = true → (∀ k ∈ w.waits, s.workDone k = true) → (w.isTask = true ∨ w.spec ≠ []) →
      ∃ u v, exec (.launchReady job lid) s = .next u ∧ u.tiles = s.tiles ∧ u.mem = s.mem ∧ u.work job lid = some v ∧
        v.readyAt = (if w.readyAt = 0 then s.now + 1 else w.readyAt) ∧
        (v.isTask = true → v.state = .ready ∧ Planned u (.taskDispatch job lid)) ∧
        (v.isTask = false → v.state = .placing ∧ (v.unplaced = true → Planned u (.unitPlacement job lid)))) ∧
    (w.isTask = false → w.state = .waiting → w.spec = [] → NoneWaiting s w.tile →
      ∃ u, exec (.launchSpecRead job lid) s = .next u ∧ u.tiles = s.tiles ∧ u.mem = s.mem ∧ (∀ r, w.specReq = some r → ∀ q ∈ u.fab.reqs, q.id ≠ r) ∧
        (∀ c, s.readJob w.job w.specAddr 128 = .error c → w.outcome ≠ 3 → failed u 12) ∧
        ∀ bs, s.readJob w.job w.specAddr 128 = .ok bs →
          (∃ v, u.work job lid = some v ∧ v.spec.length = 16 ∧
            ∀ i < 16, v.spec.getD i 0 = BitVec.ofNat 64 (leNat ((bs.drop (8 * i)).take 8))) ∧
          (s.specError job (specDwords bs) ≠ 0 → w.outcome ≠ 3 → failed u (s.specError job (specDwords bs)))) ∧
    (∀ j, s.job job = some j → w.isTask = true → w.state = .ready →
      let ok := w.handles.filterMap fun h => (s.readSlab job h).1
      ∃ u, exec (.taskDispatch job lid) s = .next u ∧ u.tiles = s.tiles ∧ u.mem = s.mem ∧
        (ok.length ≠ w.nops → failed u 8) ∧
        (ok.length = w.nops → j.mtCount = none → failed u errNoMethod) ∧
        (ok.length = w.nops → ∀ count, j.mtCount = some count →
          let pick := s.chooseEntry job w.oper w.nops (ok.map fun p => p.2.toNat) j.mtAddr count 0 none
          (pick = .nothing → failed u errNoMethod) ∧ (∀ ea, pick = .unreadable ea → failed u 14) ∧
          ∀ e, pick = .entry e → methodField e 0 62 1 ≠ 0 →
            let dst := methodField e 3 32 32
            let k := methodField e 1 50 2
            (3 ≤ w.depth → failed u errNoMethod) ∧
            (w.depth < 3 → (s.readSlab job dst).1 = none → failed u 8) ∧
            ∀ b tag d, w.depth < 3 → (s.readSlab job dst).1 = some (b, tag) →
              s.readMethodSpec job e [(ok.map fun p => p.1.toNat).getD k 0, b.toNat, 0,
                (if k < w.nops then w.handles.getD k 0 * 2 ^ 32 + (ok.map fun p => p.2.toNat).getD k 0 else 0),
                dst * 2 ^ 32 + methodField e 3 0 16, 0] = (d, 0) →
              (∃ v, u.work job lid = some v ∧ v.state = .reading ∧ v.depth = w.depth + 1) ∧
              ∃ j', u.job job = some j' ∧ j'.nextLid = nextLid j.nextLid ∧ ∃ c ∈ j'.works, c.lid = j.nextLid ∧ c.parent = some lid ∧ c.spec = d ∧
                c.convHandle = dst ∧ c.oper = k ∧ c.waits = j.beforeConversion lid dst) ∧
        (ok.length = w.nops → ∀ count e, j.mtCount = some count →
          s.chooseEntry job w.oper w.nops (ok.map fun p => p.2.toNat) j.mtAddr count 0 none = .entry e → methodField e 0 62 1 = 0 →
          let tagged (i : Nat) : Nat := if i < w.nops then w.handles.getD i 0 * 2 ^ 32 + (ok.map fun p => p.2.toNat).getD i 0 else 0
          let base (i : Nat) : Nat := (ok.map fun p => p.1.toNat).getD i 0
          ∀ d, s.readMethodSpec job e [base 0, base 1, base 2, tagged 0, tagged 1, tagged 2] = (d, 0) →
            ∃ v, u.work job lid = some v ∧ v.spec = d ∧ v.state = .placing ∧ v.readyAt = s.now + 1)) ∧
    (w.state = .ended → MemoryCanonical s → ∃ u, exec (.launchComplete job lid) s = .next u ∧
      (∀ j, u.job job = some j → ∀ v ∈ j.works, v.lid ≠ lid) ∧ (w.spec = [] ∨ specRecord w.spec = 0 → u.mem = s.mem) ∧
      ∀ pa, w.spec ≠ [] → specRecord w.spec ≠ 0 → s.translateIn job (specRecord w.spec) permW = .ok pa → outbound pa = false →
        Memory.readNat u.mem pa 8 = (w.err % 256 * 2 ^ 32 + w.outcome * 2 ^ 24 + w.lid) % 2 ^ 64 ∧
        Memory.readNat u.mem (pa + 8) 8 = w.esc.toNat ∧ Memory.readNat u.mem (pa + 16) 8 = (w.ufail * 2 ^ 32 + w.uok) % 2 ^ 64 ∧
        Memory.readNat u.mem (pa + 24) 8 = s.ptc (dieOf w.tile) % 2 ^ 64 ∧
        ∀ a, a < pa ∨ pa + 32 ≤ a → Memory.read u.mem a = Memory.read s.mem a)

/-- R237, R239, R245: the next unit of a launch whose window is one usable tile is placed there when it fits: its contexts start at the entry with
the arguments, the base registers and the identifiers of R239, the group index of its place in the launch, in a new region. A unit whose contexts
are over leaves its tile. -/
def Obligations.UnitsStartAndEnd : Prop :=
  ∀ (job lid uid t : Nat) (s : State) (j : Job), s.job job = some j →
    (∀ w cs g b, j.works = [w] → w.lid = lid → w.state = .placing → w.again = [] → w.nextUnit < specUnits w.spec → w.cursor = 0 →
      specResident w.spec = false → specProt w.spec = false → windowTiles (specWindow w.spec) = some [t] → isSupervisor t = false →
      (s.tile t).retired = false → fitTiles [s.tile t] w.spec = some (cs, g, b) → j.frozen = false → (s.tile t).region.run = 0 →
      (s.tile t).region.deferred = [] → (s.tile t).region.held = [] → NoneWaiting s t →
      ∃ u j' x, exec (.unitPlacement job lid) s = .next u ∧ Elsewhere s t u ∧ u.job job = some j' ∧ j'.units = j.units ++ [x] ∧
        x.tile = t ∧ x.ctxs = cs ∧ x.gran = g ∧ x.bar = b ∧ x.lid = lid ∧ x.grp = w.nextUnit ∧
        ((∀ y ∈ j.units, y.uid ≠ j.nextUid % 2 ^ 32) → x.uid = j.nextUid % 2 ^ 32) ∧
        (u.tile t).region.deferred = [] ∧ (u.tile t).region.start = (u.tile t).snapshot ∧
        ∀ n h, cs[n]? = some h →
          let c := u.ctxAt t h
          c.owner = .unit x.uid ∧ c.job = job ∧ c.pc = ((w.spec.getD 0 0).extractLsb' 0 57).zeroExtend 64 ∧
          c.status = BitVec.ofNat 64 (16 * n + if specStrict w.spec then 2 else 0) ∧ c.unitid = BitVec.ofNat 64 x.uid ∧
          c.grpidx = BitVec.ofNat 64 w.nextUnit ∧ c.launchid = BitVec.ofNat 64 lid ∧ c.lfsr = lfsrSeed t n lid ∧
          (∀ k < specArgs w.spec, c.x (k + 1) = w.spec.getD (4 + k) 0) ∧
          (specBase w.spec = true → c.x 27 = BitVec.ofNat 64 (4096 * g) ∧ c.x 28 = BitVec.ofNat 64 b)) ∧
    ∀ x, j.units.find? (fun x => x.uid == uid) = some x →
      ((∀ h ∈ x.ctxs, s.ctxOver x.tile h = true) → ∃ u, exec (.unitEnd job uid) s = .next u ∧
        (∀ j', u.job job = some j' → ∀ y ∈ j'.units, y.uid ≠ uid) ∧ ∀ h ∈ x.ctxs, (u.ctxAt x.tile h).owner = .idle) ∧
      ((∃ h ∈ x.ctxs, s.ctxOver x.tile h = false) → ∃ u, exec (.unitEnd job uid) s = .next u ∧ u.tiles = s.tiles ∧ u.mem = s.mem)

/-- R230, R246, R247, R306, R308: a graph instance whose turn has come starts in the first free graph context with its arguments, one that is over frees it, its registers as they were,
and its record ends; a job whose open phase is closed and whose work is over is no longer live and is to be cleared. The clearing clears its tiles and
every byte that it could write, drops its requests, sets the divisors to 2, 2, 2 and 4 (the model's choice, log 81), and ends within 20 µs; then the job is gone and its CREATE-JOB record ends. -/
def Obligations.GraphsPhasesAndJobsRunTheirCourse : Prop :=
  (∀ (job inst seq t h : Nat) (s : State),
    (∀ j i g, s.jobs.find? (fun j => !j.clearing && j.insts.any fun i => i.seq == seq) = some j → j.insts.find? (fun i => i.seq == seq) = some i →
      s.freeGraphContext j.part = some (t, h) → sfind j.graphs i.graph = some g → j.mayStart i = true → j.frozen = false →
      (s.tile t).region.run = 0 → (s.tile t).region.deferred = [] → (s.tile t).region.held = [] → NoneWaiting s t →
      ∃ u, exec (.graphInstanceStart seq) s = .next u ∧ Elsewhere s t u ∧ Recorded s u seq 2 (BitVec.ofNat 64 (j.nextInst * 65536)) ∧
        (∃ j' ∈ u.jobs, ∃ k ∈ j'.insts, k.seq = seq ∧ k.state = 1 ∧ k.num = j.nextInst ∧ k.tile = t ∧ k.hw = h) ∧
        let c := u.ctxAt t h
        c.owner = .graph j.nextInst ∧ c.job = j.num ∧ c.pc = (g.entry.extractLsb' 0 57).zeroExtend 64 ∧
        c.status = BitVec.ofNat 64 (16 * h + if g.strict then 2 else 0) ∧ ∀ k < 5, c.x (k + 1) = i.args.getD k 0) ∧
    (∀ i, s.instance_ job inst = some i → s.instOver job i = true →
      ∃ u, exec (.graphInstanceComplete job inst) s = .next u ∧ Elsewhere s i.tile u ∧ (u.ctxAt i.tile i.hw).owner = .idle ∧
        (∀ n, (u.ctxAt i.tile i.hw).x n = (s.ctxAt i.tile i.hw).x n ∧ (u.ctxAt i.tile i.hw).v n = (s.ctxAt i.tile i.hw).v n) ∧
        (∀ j, u.job job = some j → ∀ k ∈ j.insts, k.seq = i.seq → k.state = if i.cancelled then 4 else 3) ∧
        (i.cancelled = false → Recorded s u i.seq 3 (BitVec.ofNat 64 (inst * 65536))) ∧
        (i.cancelled = true → Recorded s u i.seq 5 (BitVec.ofNat 64 (inst * 65536 + 6)))) ∧
    ∀ j, s.job job = some j → j.closed = true → (∀ i ∈ j.insts, 3 ≤ i.state) → j.works = [] →
      ∃ u, exec (.phaseComplete job) s = .next u ∧ u.job job = none ∧ Due s u 0 (.jobClearing job) ∧ u.tiles = s.tiles ∧ u.mem = s.mem) ∧
  (∀ (job : Nat) (s : State) (j : Job), MemoryCanonical s →
    (s.jobs.find? (fun j => j.num == job && j.clearing && !j.cleared) = some j →
      ∃ u, exec (.jobClearing job) s = .next u ∧ (∃ n ≤ 32000, Due s u n (.jobClearingEnd job)) ∧
        (∀ r ∈ u.fab.reqs, inPart j.part (dieOf r.tile) = false) ∧
        (∀ pa, Memory.read u.mem pa =
          if mapsWritable (j.ranges.map fun p => (p.2, writableSpans s p.2)) pa then 0 else Memory.read s.mem pa) ∧
        (∀ t, inPart j.part (dieOf t) = false → u.tile t = s.tile t) ∧
        ∀ t, inPart j.part (dieOf t) = true → (u.tile t).live = false ∧ (u.tile t).region = Region.reset ∧
          (u.tile t).retired = (s.tile t).retired ∧
          let k := (u.tile t).core
          (∀ n, k.row n = 0 ∧ k.feBits n = 0 ∧ k.badBits n = 0 ∧ k.acc n = 0 ∧ k.sem n = ⟨0, false⟩ ∧ k.bar n = ⟨0, 0, 0⟩) ∧ k.tb = 0 ∧ k.te = 0 ∧
          (k.dC, k.dV, k.dM, k.dY) = (2, 2, 2, 4) ∧ ((s.tile t).live = true → k.isscnt = (s.tile t).core.isscnt) ∧ ∀ h, (k.ctx h).owner = .idle ∨ (k.ctx h).owner = .firmware) ∧
    (s.jobs.find? (fun j => j.num == job && j.cleared) = some j →
      ∃ u, exec (.jobClearingEnd job) s = .next u ∧ u.tiles = s.tiles ∧ u.mem = s.mem ∧
        u.jobs = s.jobs.filter (fun k => !(k.seq == j.seq && k.cleared)) ∧
        (j.cancelled = true → Recorded s u j.seq 5 6) ∧ (j.cancelled = false → Recorded s u j.seq 3 0)))

/-! ### Recovery -/

/-- R258, R325 to R328, R332, R333, R335, R336, R338, R341, R342: a region that commits begins anew from the tile as it stands and starts what it deferred, in its order: copies and matrix commands,
accesses and signals, launches and tasks, cancels; the first rerun is followed by a second, and reruns whose signatures differ retire the tile. A timing or k-group replay freezes the tile for its control
cycles, in the union with a freeze in which it stands, and changes no architectural state but RPLCNT; both tiles of a pair freeze. A data error puts back
the registers, the scratchpad and the counters of the last commit, freezes the tile for 24 cycles and one for each entry of the undo log, and runs the
region again with its inputs; one during a rerun makes the reruns disagree. One that the code has corrected counts for the cluster; one that stands in the
snapshot too retires the tile. What a follower's RPLCNT counts is the model's reading (log 24). -/
def Obligations.RegionsCommitReplayAndRunAgain : Prop :=
  (∀ (t : Nat) (s : State),
    let x := s.tile t
    (x.live = false → exec (.checkpointCommit t) s = .next s) ∧
    (x.live = true → ∃ u, exec (.checkpointCommit t) s = .next u ∧ u.mem = s.mem ∧
      (x.region.run = 0 → (u.tile t).region.start = (u.tile t).snapshot ∧
        (x.region.held = [] → let w := (x.region.deferred.foldl (fun s d => s.performDeferred t d) (s.updTile t fun x =>
            { x with region := { x.logLeft with record := x.region.record } })).kick t
          (w.tile t).core.preempting = false →
          u.fab = w.fab ∧ u.jobs = w.jobs ∧ u.agenda = w.agenda ∧ u.ctl = w.ctl ∧ (u.tile t).core = (w.tile t).core) ∧
        (x.region.held = [] → NoneWaiting s t → x.core.preempting = false →
          (∀ id, x.region.deferred = [.copy id] → (u.tile t).core = { x.core with
            copies := x.core.copies.map fun m => if m.id = id then { m with state := if m.op.isTimed then .timed else .queued } else m }) ∧
          (∀ id, x.region.deferred = [.matrix id] → (u.tile t).core = { x.core with
            mcmds := x.core.mcmds.map fun m => if m.id = id then { m with deferred := false } else m }) ∧
          (x.region.deferred = [] → (u.tile t).core = x.core ∧
            (x.region.logEnd ≤ x.core.cycle → (u.tile t).region = { Region.reset with start := x.snapshot, record := x.region.record }) ∧
            (x.core.cycle < x.region.logEnd → (u.tile t).region.replayed = x.region.replayed ∧ (u.tile t).region.logEnd = x.region.logEnd)))) ∧
      (x.region.run = 1 → let r := (u.tile t).region
        r.run = 2 ∧ r.firstSig = x.region.sig ∧ r.firstEnd = x.core.isscnt ∧ r.sig = -1 ∧ r.replayed = x.region.inputs ∧
        (s.follower t = none → (u.tile t).repcnt = x.repcnt + 1) ∧ (∀ n, (u.tile t).core.row n = x.region.start.row n) ∧
        (u.tile t).core.isscnt = x.region.start.isscnt) ∧
      (2 ≤ x.region.run → x.region.sig ≠ x.region.firstSig → (u.tile t).retired = true))) ∧
  (∀ (t : Nat) (s : State),
    let kept (u : State) : Prop := u.tiles = s.tiles ∧ u.mem = s.mem
    (∀ r q, s.req r = some q → ∀ d ∈ ([.access r, .signal r, .item r] : List Deferred), ∃ u, s.performDeferred t d = u ∧ { u with fab := s.fab } = s ∧
      u.req r = some { q with state := .waiting } ∧ ∀ n, n ≠ r → u.req n = s.req n) ∧
    (∀ job lid w r, s.work job lid = some w → w.state = .deferred → w.specReq = some r → ∃ u v, s.performDeferred t (.work job lid) = u ∧ kept u ∧
      u.work job lid = some v ∧
      (w.badJob = false → v = { w with state := .waiting } ∧ u.agenda = s.agenda ∧ ∀ q, s.req r = some q → u.req r = some { q with state := .waiting }) ∧
      (w.badJob = true → v.state = .ended ∧ v.outcome = 2 ∧ v.err = 13 ∧ u.req r = none ∧ Planned u (.launchComplete job lid))) ∧
    (∀ h lvl ident, (s.releaseCycle t h = 0 → s.performDeferred t (.cancel h lvl ident) = s.cancel (s.ctxAt t h).job lvl ident) ∧
      (s.releaseCycle t h ≠ 0 → ∃ u q, s.performDeferred t (.cancel h lvl ident) = u ∧ kept u ∧ u.fab.reqs = s.fab.reqs ++ [q] ∧
        q.kind = .cancel lvl ident ∧ q.state = .waiting ∧ q.tile = t ∧ q.job = (s.ctxAt t h).job)) ∧
    ∀ h, s.performDeferred t (.doneUnit h) = s) ∧
  (∀ (t back kind : Nat) (rs : List Nat) (s : State),
    let x := s.tile t
    let now := s.pulsesAt t
    let froze (y y' : Tile) (n : Nat) : Prop :=
      let f := y.freezing now
      let e := f.spent now + n
      y'.still = true ∧ y'.rplcnt = y.rplcnt + BitVec.ofNat 64 (e - max f.replays (f.spent now)) ∧
        y'.clock = f.start + max f.cycles e * y.core.dC ∧
        (y.froze = none → y'.rplcnt = y.rplcnt + BitVec.ofNat 64 n ∧ y'.clock = y.clock + n * y.core.dC)
    (x.pair = none → x.live = true → back = 3 → x.replayBuf.length = 4 → x.replayBuf.getD 0 [] ≠ [] → flagsOk rs x.replayBuf = true →
      ∃ u, exec (.timingReplay t back rs) s = .next u ∧ Elsewhere s t u ∧
        { u.tile t with clock := x.clock, still := x.still, froze := x.froze, rplcnt := x.rplcnt, chinook := x.chinook, fresh := x.fresh } = x ∧
        (∀ id, (u.tile t).engineView id = x.core) ∧ (u.tile t).chinook.replays = x.chinook.replays + 1 + rs.length ∧ froze x (u.tile t) (rs.sum + 8)) ∧
    (∀ l, x.pair = some l → l ≠ t → let y := s.tile l
      y.live = true → back = 3 → y.replayBuf.length = 4 → y.replayBuf.getD 0 [] ≠ [] → flagsOk rs y.replayBuf = true →
      let f := y.freezing (s.pulsesAt l)
      let e := f.spent (s.pulsesAt l) + rs.sum + 8
      ∃ u, exec (.timingReplay t back rs) s = .next u ∧
        (∀ g, x.froze = some g → g.start = f.start →
          (u.tile t).rplcnt = x.rplcnt + BitVec.ofNat 64 (e - max g.replays (f.spent (s.pulsesAt l)))) ∧
        ((∀ g, x.froze = some g → g.start ≠ f.start) → (u.tile t).rplcnt = x.rplcnt + BitVec.ofNat 64 (rs.sum + 8)) ∧
        (u.tile t).core = x.core ∧ (u.tile l).core = y.core ∧ (u.tile l).still = true ∧ (u.tile l).rplcnt = y.rplcnt ∧
        (y.froze = none → (u.tile l).clock = y.clock + (rs.sum + 8) * y.core.dC)) ∧
    (∀ o fa fb, x.pair = none → x.core.aq.find? (fun o => o.started && decide (x.core.arrClk < o.actEnd) && o.op.isProduct) = some o →
      o.op.formats (ftEntry o.ft o.curEntry) = (fa, fb) → (∀ r ∈ rs, 0 < r ∧ r ≤ 2 * opCpg fa fb) →
      let n := ceilDiv ((rs.sum + 2 * opCpg fa fb) * x.core.dM) x.core.dC
      ∃ u, exec (.kgroupReplay t rs) s = .next u ∧ Elsewhere s t u ∧
        { u.tile t with clock := x.clock, still := x.still, froze := x.froze, rplcnt := x.rplcnt } = x ∧ froze x (u.tile t) n) ∧
    (x.retired = true → exec (.dataErrorRollback t kind) s = .next s) ∧
    (x.retired = false → kind = 2 → ∃ u, exec (.dataErrorRollback t kind) s = .next u ∧ u.tiles = s.tiles ∧ u.mem = s.mem ∧
      (sget ⟨0, false⟩ u.ctl.buckets (bucketKey 2 (clusterSource t))).level =
        min 0xFFFF ((sget ⟨0, false⟩ s.ctl.buckets (bucketKey 2 (clusterSource t))).level + 1)) ∧
    (x.retired = false → kind = 3 → ∃ u, exec (.dataErrorRollback t kind) s = .next u ∧ u.mem = s.mem ∧ (u.tile t).retired = true) ∧
    (x.live = true → x.retired = false → kind < 2 → x.pair = none → s.follower t = none →
      ∃ u, exec (.dataErrorRollback t kind) s = .next u ∧ Elsewhere s t u ∧
      (x.region.run ≠ 0 → u.tile t = { x with region := { x.region with disagree := true } }) ∧
      (x.region.run = 0 →
        let k := (u.tile t).core
        let b := x.region.start
        (∀ h n, (k.ctx h).x n = (b.ctx h).x n ∧ (k.ctx h).v n = (b.ctx h).v n ∧ (k.ctx h).p n = (b.ctx h).p n ∧
          (k.ctx h).pc = (b.ctx h).pc ∧ (k.ctx h).fcr = (b.ctx h).fcr) ∧
        (∀ n, k.row n = b.row n ∧ k.feBits n = b.feBits n ∧ k.acc n = b.acc n ∧ k.sem n = b.sem n ∧ k.bar n = b.bar n) ∧
        k.isscnt = b.isscnt ∧ k.tb = b.tb ∧ k.te = b.te ∧ (u.tile t).repcnt = x.repcnt + 1 ∧ (u.tile t).region.run = 1 ∧
        (u.tile t).region.replayed = x.region.inputs ∧ (NoneWaiting s t → (u.tile t).region.reuse = x.region.sent) ∧ (u.tile t).region.logEnd = x.core.cycle ∧
        (u.tile t).region.disagree = (kind == 1) ∧ (u.tile t).still = true ∧
        (x.froze = none → (u.tile t).clock = x.clock + (24 + x.region.undo.length) * b.dC))))

/-- R366 to R371: the error that waits longest is taken at the context's next header, at an engine-command boundary or, in the class of global
accesses, at any: EPC holds that header, CAUSE and the trap registers the record, INH is set, and the region commits. The handler's address is the
model's choice (log 8). -/
def Obligations.PendingErrorsEnterTheHandler : Prop :=
  ∀ (t h : Nat) (s : State) (c : Ctx) (e : Err) (es : List Err) (pc : Dword) (b : Bool), s.ctxAt t h = c → c.owner ≠ .idle → c.stopped = false →
    c.handler = none → c.errs = e :: es → s.nextPoint t c = (pc, b) → (b = true ∨ e.cls = 1) → e.cls < 4 → e.code < 256 → e.aux < 4096 →
    ∃ u, exec (.trapEntry t h) s = .next u ∧ Elsewhere s t u ∧ (u.tile t).region.commitDue = true ∧
      let c' := u.ctxAt t h
      c'.errs = es ∧ c'.epc = pc ∧ c'.pc = Config.trapEntry ∧ c'.status = c.status ||| 8 ∧ c'.tr0 = c'.cause ∧
      (c.inh = false → c'.cause.extractLsb' 0 8 = BitVec.ofNat 8 e.code ∧ c'.cause.extractLsb' 12 12 = BitVec.ofNat 12 e.aux ∧
        c'.cause.extractLsb' 30 34 = BitVec.ofNat 34 e.cls ∧ c'.tr1 = (if e.cls = 2 then e.cmdix else c.cmdix).zeroExtend 64 ∧
        c'.tr2 = e.w2.zeroExtend 64 ∧ c'.tr3 = e.w3.zeroExtend 64) ∧
      { c' with
        cause := c.cause, epc := c.epc, tr0 := c.tr0, tr1 := c.tr1, tr2 := c.tr2, tr3 := c.tr3, status := c.status, pc := c.pc
        arrived := c.arrived, held := c.held, pause := c.pause, halted := c.halted, froze := c.froze, handler := c.handler, errs := c.errs } = c

/-- R342, R343, R378 to R380, R382, R383, R402: a pre-emption asks the first running contexts of each die, in the order of the save, to stop, and once
every tile is quiet saves the partition, which takes the time of its slowest die; a restore gives each tile its image back, after the time of a swap-in, when
the dies are cool and the input holds, keeping the tile's own counters; one that was not saved is cancelled. The predictive counters of a node leak when its
PTC has passed a multiple of the period; which node keeps a counter is the model's choice (log 15). -/
def Obligations.PartitionsAreSavedAndRestored : Prop :=
  ∀ (job node : Nat) (s : State),
    (∀ j, s.job job = some j → (∀ w ∈ s.ctl.shadows, w.job ≠ job) →
      let ts := s.partTiles j.part
      let running (d : Nat) := (s.saveList (ts.filter fun t => dieOf t == d)).filter fun p => (s.ctxAt p.2.1 p.2.2).live
      let asked (t h : Nat) : Prop := dieOf t < 64 ∧ inPart j.part (dieOf t) = true ∧ ∃ p ∈ running (dieOf t), p.2 = (t, h) ∧
        (running (dieOf t)).head?.map (·.1) = some p.1
      ∃ u, exec (.preEmption job) s = .next u ∧ u.mem = s.mem ∧ (∀ j', u.job job = some j' → j'.frozen = true) ∧
      ((∃ t h, asked t h) → (∀ t ∈ ts, (s.tile t).region.deferred = []) → u.ctl.shadows = s.ctl.shadows ∧ Planned u (.preEmption job) ∧ ∀ t h,
        u.ctxAt t h = s.ctxAt t h ∨ (asked t h ∧ u.ctxAt t h = { s.ctxAt t h with stop := .preempt, stopAge := 0 })) ∧
      (∀ t h, asked t h → (∀ t ∈ ts, (s.tile t).region.deferred = []) → (s.ctxAt t h).stop = .run → (u.ctxAt t h).stop = .preempt) ∧
      (ts.Nodup → (∀ t ∈ ts, s.quiet t = true) → (∀ w ∈ j.units, w.asked = [] ∧ w.onWay = []) →
        (∀ p ∈ s.agenda, ∀ tree t, p.2 ≠ .treeArrivalAtRoot job tree t) →
        sget 0 u.ctl.swaps (2 * job) = s.now + s.swapOut j ∧
        ∃ im order, u.ctl.shadows = s.ctl.shadows ++ [⟨job, im, order⟩] ∧ im.map (·.1) = ts ∧
          ∀ t ∈ ts, (u.tile t).live = false ∧ sfind im t = some (u.tile t).core ∧ (u.tile t).clean = allDirty ∧
            (∀ n, (u.tile t).core.row n = (s.tile t).core.row n) ∧ ∀ h, (u.ctxAt t h).due = [] ∧ (u.ctxAt t h).nexts = [])) ∧
    (∀ j, s.job job = some j → (∀ w ∈ s.ctl.shadows, w.job ≠ job) →
      (job ∉ s.power.lost → exec (.restore job) s = .next s) ∧
      (job ∈ s.power.lost → s.mayRestore = false → ∃ u, exec (.restore job) s = .next u ∧ u.tiles = s.tiles ∧ Planned u (.restore job)) ∧
      (job ∈ s.power.lost → s.mayRestore = true → ∃ u, exec (.restore job) s = .next u ∧ u.tiles = s.tiles ∧ Planned u (.jobClearing job))) ∧
    (∀ j w, s.job job = some j → s.ctl.shadows.find? (fun w => w.job == job) = some w →
      let out := sget 0 s.ctl.swaps (2 * job)
      let ends := sget 0 s.ctl.swaps (2 * job + 1)
      (s.now < out ∨ s.mayRestore = false ∨ s.now < ends → ∃ u, exec (.restore job) s = .next u ∧ u.tiles = s.tiles ∧ Planned u (.restore job)) ∧
      (out ≤ s.now → s.mayRestore = true → ends = 0 → ∃ u, exec (.restore job) s = .next u ∧ u.tiles = s.tiles ∧
        sget 0 u.ctl.swaps (2 * job + 1) = s.now + swapIn j.part ∧ Planned u (.restore job)) ∧
      (∀ t k, out ≤ s.now → s.mayRestore = true → ends ≠ 0 → ends ≤ s.now → w.tiles = [(t, k)] → (s.tile t).retired = false → (s.tile t).live = true →
        ∃ u, exec (.restore job) s = .next u ∧ Elsewhere s t u ∧ (∀ w ∈ u.ctl.shadows, w.job ≠ job) ∧
        (∀ j', u.job job = some j' → j'.frozen = false) ∧ (u.tile t).clean = allDirty ∧
        let k' := (u.tile t).core
        k'.isscnt = (s.tile t).core.isscnt ∧ k'.esccnt = k.esccnt ∧ ((∀ p ∈ k.ctxs, j.cancelledCtx p.2 = false) → k'.tb = k.tb ∧ k'.copies = k.copies) ∧
        (∀ n, k'.row n = k.row n ∧ k'.feBits n = k.feBits n ∧ k'.acc n = k.acc n ∧ k'.sem n = k.sem n) ∧
        ∀ h, (k.ctx h).owner ≠ .firmware → (∀ p ∈ (s.tile t).core.ctxs, p.1 = h → p.2.owner ≠ .firmware) →
          (∀ n, (k'.ctx h).x n = (k.ctx h).x n ∧ (k'.ctx h).v n = (k.ctx h).v n ∧ (k'.ctx h).p n = (k.ctx h).p n) ∧
          (k'.ctx h).pc = (k.ctx h).pc ∧
          ((k.ctx h).owner ≠ .idle → (k.ctx h).stop = .preempt → (k.ctx h).halted = false →
            (∀ w ∈ j.units, w.cancelled = false ∧ w.fatal = false ∧ s.protected_ job w = false) → (∀ i ∈ j.insts, i.cancelled = false) →
            (k'.ctx h).stopped = false ∧ (k'.ctx h).pause = 3 ∧ (k'.ctx h).stop = .run ∧ (k'.ctx h).arrived = true))) ∧
    ∃ u, exec (.predictiveLeak node) s = .next u ∧ u.tiles = s.tiles ∧ u.mem = s.mem ∧ Planned u (.predictiveLeak node) ∧
      ∀ key, (sget ⟨0, false⟩ u.ctl.buckets key).level =
        if bucketNode key = node ∧ s.ptc node % 1600000 < 800000 then (sget ⟨0, false⟩ s.ctl.buckets key).level - (s.policy (key / 2 ^ 24)).leak
        else (sget ⟨0, false⟩ s.ctl.buckets key).level

/-! ### Power and temperature -/

/-- R386 to R388, R390, R397, R400: a window that is over judges its tile: a step nearer Vf when it replayed above the target, a step away when a whole one
replayed less than half of it; the lowest point that a whole window held is learned. Whether a tile whose window failed at its learned point has aged past
it is a free bit of the model: its point then rises a step, and where that takes it to Vf the tile is retired (log 16). The tables go to the flash at most once an hour of powered time. The hottest reading
is what the status block shows; a die of 95 °C warns until it is back at 85 °C (log 53), lowers the region's limit, which rises once no die of the region
warns, 110 °C starts the emergency sequence, 125 °C removes the compute rails. -/
def Obligations.VoltagesAndTemperaturesAreWatched : Prop :=
  (∀ (t : Nat) (s : State),
    let c := (s.tile t).chinook
    let key := 4 * c.div + c.band
    let target := (s.ctl.pcap.extractLsb' 16 12).toNat * c.bundles
    let r := c.replays * 10 ^ 9
    let whole := 2 ^ 26 ≤ c.bundles
    let time := s.ctl.powered + s.now
    let judged : Prop := (s.tile t).retired = false ∧ (target < r ∨ whole ∨ c.began + 1600000000 ≤ s.now)
    let aged : Prop := target < r ∧ 0 < c.below ∧ sfind c.learned key = some c.below ∧ s.freeVal 1 (siteAged + t) = 1
    (¬judged → exec (.chinookWindowEnd t) s = .next s) ∧
    (judged → aged → c.below = 1 → ∃ u, exec (.chinookWindowEnd t) s = .next u ∧ (u.tile t).retired = true) ∧
    (judged → ¬(aged ∧ c.below = 1) → ∃ u, exec (.chinookWindowEnd t) s = .next u ∧ Elsewhere s t u ∧
        { u.tile t with chinook := c } = s.tile t ∧
        let c' := (u.tile t).chinook
        c'.bundles = 0 ∧ c'.replays = 0 ∧ c'.began = s.now ∧ (target < r → c'.below = c.below - 1) ∧
        (r ≤ target → whole → 2 * r < target → c'.below = min 64 (c.below + 1)) ∧
        (r ≤ target → ¬(whole ∧ 2 * r < target) → c'.below = c.below) ∧
        (whole → r ≤ target → sfind c'.learned key = some (max c.below (sget 0 c.learned key))) ∧
        (target < r → ¬aged → c'.learned = c.learned) ∧ (aged → sfind c'.learned key = some (c.below - 1)) ∧
        (¬whole → r ≤ target → c'.learned = c.learned) ∧ (∀ k, k ≠ key → sfind c'.learned k = sfind c.learned k) ∧
        ((∀ l, c.lastFlash = some l → l + 5760000000000 ≤ time) → Planned u (.chinookFlashWrite t))) ∧
    ((∀ l, c.lastFlash = some l → l + 5760000000000 ≤ time) → ∃ u, exec (.chinookFlashWrite t) s = .next u ∧ Elsewhere s t u ∧
      sget [] u.ctl.learned t = c.learned ∧ (u.tile t).chinook.lastFlash = some time ∧ (u.tile t).core = (s.tile t).core ∧
      sget [] u.ctl.history t = c.history ++ c.learned.map fun p => (time, p.1, p.2)) ∧
    ∀ l, c.lastFlash = some l → time < l + 5760000000000 → exec (.chinookFlashWrite t) s = .next s) ∧
  (∀ (die : Nat) (temps : List Nat) (s : State), die < 64 →
    let hot := (temps.take 25).foldl max 0
    let group (d : Nat) := 4 * (d / 16) + d % 8 / 2
    let reg (s : State) := sget PowerRegion.reset s.regions (group die)
    ∃ u, exec (.temperatureRead die temps) s = .next u ∧ u.mem = s.mem ∧ (sget Die.reset u.dies die).temps = temps.take 25 ∧
      (∀ d < 64, u.hottest d ≤ u.power.tmax) ∧ u.power.tmaxDie < 64 ∧ u.hottest u.power.tmaxDie = u.power.tmax ∧
      (∀ d, (sget Die.reset u.dies d).warned = if d = die then decide (95 ≤ hot ∨ (sget Die.reset s.dies die).warned = true ∧ 85 < hot)
        else (sget Die.reset s.dies d).warned) ∧
      (u.power.flags.getLsbD 2 = true ↔ ∃ p ∈ u.dies, p.2.warned = true) ∧
      (hot < 125 → ∀ t, (u.tile t).core = (s.tile t).core) ∧
      (95 ≤ hot → hot < 125 → (reg s).lastThermal = 0 → (reg u).thermal = max 16 ((reg s).thermal - 8)) ∧
      (hot ≤ 85 → (∀ p ∈ u.dies, group p.1 = group die → p.2.warned = false) → (reg s).thermal < 64 →
        (reg s).lastThermal = 0 ∨ (reg s).lastThermal + 160000 ≤ s.now → (reg u).thermal = min 64 ((reg s).thermal + 8)) ∧
      (110 ≤ hot → hot < 125 → s.power.emergency = false → s.power.computeRails = true → Planned u (.emergencySequence true)) ∧
      (125 ≤ hot → u.power.computeRails = false))

/-- R391 to R393, R395, R396, R414: the limits of a region: the current step that CSLR allows, once at each boundary of 320 PTC values of its first die after its first
array operation, before which the other limits and CSLR alone take effect there; the
clock stretch of a droop alarm, which deepens while alarms that meet last and relaxes after them (log 42); the cap of the module's power; and the pacing of a
job's regions by the waits of their contexts: that the slowest keeps its limit for the dwell too, and that a region without issue cycles has slack 0, are the
model's reading (log 70). N is the smallest of the limits. The estimates of a step are the model's inputs (log 58). -/
def Obligations.ThrottlesLimitTheirRegions : Prop :=
  ∀ (region ik i0 power job lasts : Nat) (s : State),
    let reg (s : State) (r : Nat) := sget PowerRegion.reset s.regions r
    let p := reg s region
    let die := regionDie region
    let ptc := s.ptc die
    let begins : Prop := ptc % 320 = 0 ∨ ptc % 320 = 1 ∧ (s.node die).step = 1 ∧ (s.node die).lastStep + 1 = s.now
    let alone (u : State) : Prop := u.tiles = s.tiles ∧ u.mem = s.mem ∧ ∀ k, k ≠ region → reg u k = reg s k
    (p.stepAt = some (ptc / 320 * 320) ∨ ¬begins → (∃ e ∈ s.agenda, e.2.stepOf = some region) → exec (.throttleStep region ik i0) s = .next s) ∧
    (region < 16 → p.stepAt = some (ptc / 320 * 320) ∨ ¬begins → (∀ e ∈ s.agenda, e.2.stepOf ≠ some region) → ∃ u x y, exec (.throttleStep region ik i0) s = .next u ∧ u.regions = s.regions ∧
      alone u ∧ Due s u (320 - ptc % 320) (.throttleStep region x y)) ∧
    (region < 16 → p.stepAt ≠ some (ptc / 320 * 320) → begins → p.firstOp = none → ∃ u, exec (.throttleStep region ik i0) s = .next u ∧ alone u ∧
      let q := reg u region
      q.stepAt = some (ptc / 320 * 320) ∧ (p.cslrNext = none → q.cslr = p.cslr) ∧ (∀ v, p.cslrNext = some v → q.cslr = cslrStored v) ∧ q.cslrNext = none ∧
      q.n = min (min (min p.capLimit p.stepLimit) (min p.thermal p.pacing)) p.sag ∧ q.received s.time = p.received s.time ∧
      { q with n := p.n, cslr := p.cslr, cslrNext := p.cslrNext, stepAt := p.stepAt, passed := p.passed, mark := p.mark } = p) ∧
    (region < 16 → p.stepAt ≠ some (ptc / 320 * 320) → begins → p.firstOp ≠ none → ∃ u x y, exec (.throttleStep region ik i0) s = .next u ∧ alone u ∧
      Due s u (320 - ptc % 320) (.throttleStep region x y) ∧
      let q := reg u region
      let up := (q.cslr.extractLsb' 0 12).toNat
      let down := (q.cslr.extractLsb' 16 12).toNat
      let last := p.allowed.getD i0
      let lim := q.allowed.getD 0
      q.stepAt = some (ptc / 320 * 320) ∧ (p.cslrNext = none → q.cslr = p.cslr) ∧ (∀ v, p.cslrNext = some v → q.cslr = cslrStored v) ∧ q.cslrNext = none ∧
      (q.ballast = true ↔ q.cslr.getLsbD 31 = true ∧ s.power.flags.getLsbD 3 = false ∧ ik + down < last) ∧
      q.allowed = some (if q.ballast then last - down else min ik (last + up)) ∧
      q.stepLimit = (if ik ≤ i0 then 64 else max 1 (min 64 (64 * (lim - i0) / (ik - i0)))) ∧
      q.n = min (min (min p.capLimit q.stepLimit) (min p.thermal p.pacing)) p.sag ∧ q.received s.time = p.received s.time ∧
      { q with
        n := p.n, stepLimit := p.stepLimit, cslr := p.cslr, cslrNext := p.cslrNext, allowed := p.allowed, ballast := p.ballast, stepAt := p.stepAt
        passed := p.passed, mark := p.mark } = p) ∧
    (region < 16 → ∃ u, exec (.droopAlarm region false lasts) s = .next u ∧ alone u ∧ Planned u (.droopStretchRelax region) ∧
      let since := if s.now ≤ p.lastAlarm then p.alarmSince.getD s.now else s.now
      let ends := max p.lastAlarm (s.now + lasts)
      (since + 26 ≤ ends → s.now ≤ since + 26 → Due s u (since + 26 - s.now) (.droopAlarm region true 0)) ∧
      (reg u region).droops = p.droops + 1 ∧ (reg u region).lastAlarm = ends ∧ (reg u region).alarmSince = some since ∧ (reg u region).stretch = max 2 p.stretch) ∧
    (∀ a, region < 16 → p.alarmSince = some a → a + 26 ≤ s.now → s.now ≤ p.lastAlarm → ∃ u, exec (.droopAlarm region true lasts) s = .next u ∧ alone u ∧
      (reg u region).stretch = 4 ∧ (reg u region).droops = p.droops) ∧
    (p.alarmSince = none ∨ p.lastAlarm < s.now → exec (.droopAlarm region true lasts) s = .next s) ∧
    (region < 16 → p.lastAlarm + 308 ≤ s.now → p.stretch ≠ 0 → ∃ u, exec (.droopStretchRelax region) s = .next u ∧ alone u ∧
      (reg u region).stretch = p.stretch - 1 ∧ (reg u region).alarmSince = none ∧ (reg u region).droops = p.droops ∧
      (p.stretch ≠ 1 → Planned u (.droopStretchRelax region))) ∧
    (region < 16 → s.now < p.lastAlarm + 308 → p.stretch ≠ 0 → ∃ u, exec (.droopStretchRelax region) s = .next u ∧ u.regions = s.regions ∧
      alone u ∧ Planned u (.droopStretchRelax region)) ∧
    (p.stretch = 0 → exec (.droopStretchRelax region) s = .next s) ∧
    (let cap := (s.ctl.pcap.extractLsb' 32 16).toNat
      ∃ u, exec (.powerCapEvaluation power) s = .next u ∧ u.tiles = s.tiles ∧ u.power.modpwr = power ∧ ∀ r < 16,
        (cap < power → s.power.lastCap + 16000 ≤ s.now → (reg u r).capLimit = max 8 ((reg s r).capLimit - 4)) ∧
        (power ≤ cap → 95 * cap ≤ power * 100 → (reg u r).capLimit = (reg s r).capLimit) ∧
        (∀ b, power * 100 < 95 * cap → s.power.lastCap + 16000 ≤ s.now → s.power.below95 = some b → b + 160000 ≤ s.now →
          (reg u r).capLimit = min 64 ((reg s r).capLimit + 4))) ∧
    (s.ctl.pcap.getLsbD 31 = false → ∀ sl, ∃ u, exec (.pacingEvaluation job sl) s = .next u ∧ u.tiles = s.tiles ∧ ∀ r < 16, (reg u r).pacing = 64) ∧
    (s.ctl.pcap.getLsbD 31 = true → ∀ sl, ∀ a ∈ s.groupRegions job, ∃ u, exec (.pacingEvaluation job sl) s = .next u ∧ u.tiles = s.tiles ∧
      let v := (s.groupRegions job).foldl State.takeSample s
      let slack (r : Nat) := (reg v r).slack
      let lowest := v.lowestSlack (s.groupRegions job)
      let old := sget Pace.reset s.power.pacing (16 * job + a)
      let q := sget Pace.reset u.power.pacing (16 * job + a)
      let free : Prop := ∀ c, old.change = some c → c + 320000 ≤ s.now
      Planned u (.pacingEvaluation job []) ∧ (reg u a).pacing ≤ q.limit ∧
      (slackFar (slack a) lowest = true → q.high = old.high + 1 ∧ q.low = 0) ∧ (slackFar (slack a) lowest = false → q.high = 0 ∧ q.low = old.low + 1) ∧
      (¬free → q.limit = old.limit) ∧ (free → slackGe lowest (slack a) = true → old.limit ≤ 64 → q.limit = 64) ∧
      (free → slackGe lowest (slack a) = false → slackFar (slack a) lowest = true → 4 ≤ old.high → 16 < old.limit →
        q.limit = max 16 (old.limit - 8)) ∧
      (free → slackGe lowest (slack a) = false → slackFar (slack a) lowest = false → 4 ≤ old.low → old.limit < 64 →
        q.limit = min 64 (old.limit + 8))) ∧
    ∀ x y : Nat × Nat, 0 < x.2 → 0 < y.2 → ((slackGe x y = true ↔ (y.1 : ℚ) / y.2 ≤ (x.1 : ℚ) / x.2) ∧
      (slackFar x y = true ↔ (y.1 : ℚ) / y.2 + 1 / 10 ≤ (x.1 : ℚ) / x.2))

/-- R319, R342, R385, R398, R399, R401, R402, R405: a sag limits every region and recovers or runs out; the bus that falls, or the sequence that has nothing
left to save, takes the compute rails and keeps memory and what a saved partition waits for; the sequence saves partition after partition; 10 ms of a low
power-enable start it, and what follows from the end of the pulse comes after it; a long pulse with the rails off or a removed input leaves the
flash alone; a module reset boots the first accepted slot into every supervisor tile, with the retired tiles of the flash, and the predictive counters begin
to leak. When the event of a low pulse comes is the model's reading (log 47), and that memory without contents lists nothing its choice (log 1). -/
def Obligations.SupplyEventsSaveOrRemoveTheState : Prop :=
  ∀ (volt micros : Nat) (th cd rec : Bool) (s : State),
    let reg (s : State) (r : Nat) := sget PowerRegion.reset s.regions r
    let dark (u : State) : Prop := u.power.computeRails = false ∧ u.mem = s.mem ∧
      (∀ r ∈ u.fab.reqs, r ∈ s.fab.reqs ∧ r.state = .waiting ∧ s.swappedOut r.job = true) ∧ u.fab.packets = [] ∧ u.ctl.journal = s.ctl.journal ∧
      ∀ t, (u.tile t).live = false ∧ ∀ n, (u.tile t).core.row n = 0
    let bare (u : State) : Prop := u.mem = [] ∧ u.jobs = [] ∧ u.ctl.journal = [] ∧ u.fab = Fabric.reset ∧ u.ctl.flashA = s.ctl.flashA ∧
      u.ctl.flashB = s.ctl.flashB ∧ u.ctl.retireMap = s.ctl.retireMap ∧ u.ctl.learned = s.ctl.learned
    (volt < 4200 → s.power.sagging = false → s.power.computeRails = true → ∃ u, exec (.inputSag volt) s = .next u ∧ u.tiles = s.tiles ∧
      u.power = { s.power with involt := volt, sagging := true } ∧ (∀ r < 16, { reg u r with passed := (reg s r).passed, mark := (reg s r).mark } = { reg s r with sag := 13 }) ∧ Planned u .sagTimeout) ∧
    (4300 ≤ volt → s.power.sagging = true → ∃ u, exec (.sagRecovery volt) s = .next u ∧ u.tiles = s.tiles ∧
      u.power = { s.power with involt := volt, sagging := false } ∧ (∀ r < 16, { reg u r with passed := (reg s r).passed, mark := (reg s r).mark } = { reg s r with sag := 64 }) ∧ ¬Planned u .sagTimeout) ∧
    (s.power.sagging = true → ∃ u, exec .sagTimeout s = .next u ∧ u.tiles = s.tiles ∧ Planned u (.emergencySequence false)) ∧
    (s.power.sagging = false → exec .sagTimeout s = .next s) ∧
    (s.power.computeRails = true → ∃ u, exec .internalBusLow s = .next u ∧ dark u ∧ u.power.tripped = true ∧
      ∀ m k, s.power.enableLow = some (m, k) → Due s u (k - s.now) (.powerEnableLow m) ∧ u.power.enableLow = none) ∧
    (s.power.computeRails = true → s.power.memoryRail = true →
      (∀ j rest, s.power.emergency = false → s.saveOrder th = j :: rest → s.job j ≠ none → s.swappedOut j = false →
        ∃ u, exec (.emergencySequence th) s = .next u ∧ u.tiles = s.tiles ∧ u.power.emergency = true ∧ u.power.mstate = 4 ∧
          u.power.toSave = j :: rest ∧ Planned u (.preEmption j) ∧ Planned u (.emergencySequence th)) ∧
      (∀ j rest, s.power.emergency = true → s.power.toSave = j :: rest → s.job j = none ∨ s.swappedOut j = true →
        ∃ u, exec (.emergencySequence th) s = .next u ∧ u.tiles = s.tiles ∧ u.power = { s.power with toSave := rest } ∧ Planned u (.emergencySequence th)) ∧
      (s.power.emergency = true → s.power.toSave = [] → ∃ u, exec (.emergencySequence th) s = .next u ∧ dark u)) ∧
    (micros < 10000 → exec (.powerEnableLow micros) s = .next s) ∧
    (10000 ≤ micros → s.power.computeRails = true → s.power.memoryRail = true → ∃ u, exec (.powerEnableLow micros) s = .next u ∧ u.tiles = s.tiles ∧
      u.mem = s.mem ∧ u.power = { s.power with enableLow := some (micros, s.now + 1600 * (min micros 1000000 - 10000)) } ∧
      (s.power.emergency = true → u.agenda = s.agenda) ∧ (s.power.emergency = false → Planned u (.emergencySequence false))) ∧
    (1000000 ≤ micros → s.power.computeRails = false ∨ s.power.memoryRail = false → ∃ u, exec (.powerEnableLow micros) s = .next u ∧ bare u ∧ u.power.computeRails = false) ∧
    (10000 ≤ micros → micros < 1000000 → s.power.computeRails = false → s.power.memoryRail = true → ∃ u, exec (.powerEnableLow micros) s = .next u ∧
      u.mem = s.mem ∧ u.power.computeRails = true ∧ (u.power.mstate = 1 ∨ u.power.mstate = 3)) ∧
    (∃ u, exec .inputRemoval s = .next u ∧ bare u ∧ u.power.computeRails = false) ∧
    ∃ u, exec (.moduleReset rec cd) s = .next u ∧ bare u ∧ (∀ t ∈ s.ctl.retireMap, (u.tile t).retired = true) ∧
      (∀ t h, (u.ctxAt t h).owner = .idle ∨ (u.ctxAt t h).owner = .firmware) ∧
      (u.power.mstate = 2 → (∀ d < 64, (u.ctxAt (supervisorOf d) 0).owner = .firmware ∧ (u.ctxAt (supervisorOf d) 0).supervisor = true) ∧
        ∀ n < 128, Planned u (.predictiveLeak n)) ∧ (rec = true → u.power.mstate = 1) ∧
      (rec = false → slotAccepted s.ctl.flashA = true → u.power.mstate = 2 ∧ u.ctl.bootSlot = 0) ∧
      (rec = false → slotAccepted s.ctl.flashA = false → slotAccepted s.ctl.flashB = true → u.power.mstate = 2 ∧ u.ctl.bootSlot = 1) ∧
      (slotAccepted s.ctl.flashA = false → slotAccepted s.ctl.flashB = false → u.power.mstate = 1)

/-! ### The hosts -/

/-- R18, R310, R311, R314, R317, R405: a record of 64 aligned bytes takes an intake place, any other is dropped and counted; the oldest is accepted
with the next number and an entry of the journal; a record that has ended is written to its host and signals vector 0; in the recovery mode a byte is
programmed into its flash slot. -/
def Obligations.RecordsAreTakenAndJournalled : Prop :=
  ∀ (port off size seq : Nat) (data : BitVec 512) (b : Byte) (s : State),
    let p := s.port port
    (port < 2 → off < 0x4000 → ∃ u, exec (.commandRecordWrite port off size data) s = .next u ∧ u.tiles = s.tiles ∧ u.mem = s.mem ∧
      (size = 64 → off % 64 = 0 → s.credit port ≠ 0 → s.power.computeRails = true →
        u.port port = { p with intake := p.intake ++ [(List.range 8).map fun i => data.extractLsb' (64 * i) 64] } ∧ Planned u (.recordAccept port)) ∧
      (size ≠ 64 ∨ off % 64 ≠ 0 ∨ s.credit port = 0 → u.port port = { p with drops := p.drops + 1 })) ∧
    (∀ d rest, p.intake = d :: rest → s.power.computeRails = true → 2 ≤ s.power.mstate → s.power.lost = [] → ∃ u e, exec (.recordAccept port) s = .next u ∧
      u.tiles = s.tiles ∧ u.mem = s.mem ∧ (u.port port).intake = rest ∧ u.ctl.jnext = s.ctl.jnext + 1 ∧ sfind u.ctl.journal s.ctl.jnext = some e ∧
      e.seq = s.ctl.jnext ∧ e.port = port ∧ e.type = recordType d ∧ e.sub = recordSub d ∧ e.job = recordJob d ∧ e.tag = d.getD 1 0 ∧
      (∀ v, recordEvent s.ctl.jnext d = some v → e.state = 1 ∧ Due s u 0 v ∧ sfind u.ctl.records s.ctl.jnext = some d) ∧
      (recordEvent s.ctl.jnext d = none → e.state = 4 ∧ e.status = 1)) ∧
    (∀ e, sfind s.ctl.journal seq = some e → 3 ≤ e.state → e.port < 2 → ∃ u bytes, exec (.completionRecord seq) s = .next u ∧ u.tiles = s.tiles ∧
      u.mem = s.mem ∧ (u.port e.port).k = (s.port e.port).k + 1 ∧ bytes.length = 32 ∧
      let q := s.port e.port
      leNat (bytes.take 8) = e.seq % 2 ^ 64 ∧ leNat ((bytes.drop 8).take 8) = e.tag.toNat ∧ leNat ((bytes.drop 16).take 8) = e.status.toNat ∧
      leNat ((bytes.drop 24).take 8) = ((1 - q.k / 2 ^ q.cmpcfg % 2) * 2 ^ 63 + e.state * 2 ^ 24) % 2 ^ 64 ∧
      (q.masked 0 = false → u.ctl.out = s.ctl.out ++ [.write e.port (q.cmpbase + BitVec.ofNat 64 (32 * (q.k % 2 ^ q.cmpcfg))) bytes, .signal e.port 0])) ∧
    (s.power.mstate = 1 → off < 0x8000000 → ∃ u, exec (.flashWrite port off [b]) s = .next u ∧ u.tiles = s.tiles ∧ u.mem = s.mem ∧
      (off < 0x4000000 → flashByte u.ctl.flashA off = b ∧ u.ctl.flashB = s.ctl.flashB) ∧
      (0x4000000 ≤ off → flashByte u.ctl.flashB (off - 0x4000000) = b ∧ u.ctl.flashA = s.ctl.flashA)) ∧
    (s.power.mstate ≠ 1 → exec (.flashWrite port off [b]) s = .next s)

/-- R279, R298, R305, R306, R308, R315, R316, R382: CREATE-JOB makes an empty job on free dies; the LOAD records write a range, drop the translations
of a span, name the method table or a graph. A LOAD that changes translations stays started, and looks again, while an access of
its job that was made before it and has its old translation is still to be performed, and ends once none is. -/
def Obligations.JobsAndTablesAreLoaded : Prop :=
  ∀ (seq : Nat) (d : List Dword) (s : State),
    let D (i : Nat) := d.getD i 0
    let drops (u : State) (j : Job) (range : Nat) (lo hi : Nat) : Prop := ∀ t, inPart j.part (dieOf t) = true → ∀ l ∈ (u.tile t).ptlb ++ (u.tile t).core.ctlb,
      l.job = j.num → l.range = range → ¬(l.off < hi ∧ lo < l.off + l.size)
    let opens (j : Job) (bound : Nat) : Prop := ∃ r ∈ s.fab.reqs, r.job = j.num ∧ r.id < bound ∧ r.pa ≠ noPa ∧
      (r.state = .sent ∨ r.state = .remote ∨ r.state = .failing)
    let hosted : Prop := seq < s.ctl.jnext ∧ ∀ e, sfind s.ctl.journal seq = some e → e.port < 2
    let waits (u : State) (e : Event) (j : Job) : Prop :=
      (opens j s.ids → Recorded s u seq 2 0 ∧ Planned u e ∧ sget 0 u.ctl.loads seq = s.ids) ∧ (¬opens j s.ids → hosted → Recorded s u seq 3 0)
    let again (i : Instr) (e : Event) (j : Job) : Prop := ∃ u, exec i s = .next u ∧ u.mem = s.mem ∧
      (opens j (sget 0 s.ctl.loads seq) → { u with agenda := s.agenda } = s ∧ Planned u e) ∧
      (¬opens j (sget 0 s.ctl.loads seq) → hosted → Recorded s u seq 3 0)
    (Carries s seq 1 0 d → D 2 ≠ 0 → s.logFull = false →
      (∀ j ∈ s.jobs, (j.clearing = true ∨ j.num ≠ recordJob d) ∧ j.part &&& D 2 = 0) → ∃ u, exec (.createJob seq) s = .next u ∧ u.mem = s.mem ∧
      Recorded s u seq 2 0 ∧ u.jobs = s.jobs ++ [Job.create (recordJob d) seq (D 2)] ∧ u.ctl.log.length = s.ctl.log.length + 1 ∧
      ∀ t, (inPart (D 2) (dieOf t) = false → u.tile t = s.tile t) ∧ (inPart (D 2) (dieOf t) = true → (u.tile t).core =
        { (s.tile t).core with dC := 2, dV := 2, dM := 2, dY := 4, divs := [], isscnt := (u.tile t).core.isscnt, arrClk := (u.tile t).core.arrClk } ∧
          (u.tile t).clean = [] ∧ ((s.tile t).live = true → (u.tile t).core.isscnt = (s.tile t).core.isscnt) ∧
          ∃ k, (u.tile t).core.isscnt = (s.tile t).core.isscnt + BitVec.ofNat 64 k ∧ (u.tile t).clock = (s.tile t).clock + k * (s.tile t).core.dC)) ∧
    (∀ j, s.job (recordJob d) = some j → s.journalState seq = 2 →
      (Carries s seq 2 0 d → again (.loadRange seq) (.loadRange seq) j) ∧ (Carries s seq 2 1 d → again (.loadInval seq) (.loadInval seq) j)) ∧
    ∀ j, s.job (recordJob d) = some j → j.closed = false → s.journalState seq ≠ 2 →
      (Carries s seq 2 0 d → rangeRefused (d.drop 3) = false → ∃ u j', exec (.loadRange seq) s = .next u ∧ u.mem = s.mem ∧
        u.job j.num = some j' ∧ sget [] j'.ranges (D 2).toNat = d.drop 3 ∧
        (∀ i, i ≠ (D 2).toNat → sget [] j'.ranges i = sget [] j.ranges i) ∧ drops u j (D 2).toNat 0 (2 ^ 57) ∧ waits u (.loadRange seq) j) ∧
      (Carries s seq 2 1 d → let base := rangeBase (sget [] j.ranges (D 2).toNat)
        ∃ u j', exec (.loadInval seq) s = .next u ∧ u.mem = s.mem ∧ u.job j.num = some j' ∧ j'.ranges = j.ranges ∧
          drops u j (D 2).toNat ((D 3).toNat - base) ((D 3).toNat + (D 4).toNat - base) ∧ waits u (.loadInval seq) j) ∧
      (Carries s seq 2 2 d → (D 3).toNat ≤ 4096 → (D 2).toNat % 32 = 0 → ∃ u j', exec (.loadMethod seq) s = .next u ∧ u.tiles = s.tiles ∧
        u.mem = s.mem ∧ Recorded s u seq 3 0 ∧ u.job j.num = some j' ∧ j' = { j with mtAddr := D 2, mtCount := some (D 3).toNat }) ∧
      (Carries s seq 2 3 d → (D 2).toNat ≤ 1023 → ∃ u j', exec (.loadGraph seq) s = .next u ∧ u.tiles = s.tiles ∧ u.mem = s.mem ∧
        Recorded s u seq 3 0 ∧ u.job j.num = some j' ∧ sfind j'.graphs (D 2).toNat = some ⟨D 3, (D 4).getLsbD 0, (D 4).getLsbD 1⟩)

/-- R240, R246 to R248, R271, R315, R316, R321, R344, R403, R404: RUN-GRAPH makes an instance in the open phase or the next once a SELF-TEST has passed; a
close closes the job; QUERY writes the status block to its host, whose bytes are the model's reading (log 44); SELF-TEST starts and reports; the policies are
set. That a tree policy for a closed job fails with code 5 of R316 is the model's reading (log 49). -/
def Obligations.GraphQueryTestAndPolicyRecordsAct : Prop :=
  ∀ (seq : Nat) (fails : List Nat) (d : List Dword) (s : State),
    let D (i : Nat) := d.getD i 0
    (∀ j g, Carries s seq 3 0 d → s.power.passed = true → s.job (recordJob d) = some j → (∀ i ∈ j.insts, i.seq ≠ seq) → j.closed = false →
      sfind j.graphs ((D 2).toNat % 65536) = some g →
      let ph := ((D 2).extractLsb' 16 16).toNat
      ((j.phase = none ∧ ph = 0) ∨ ∃ p, j.phase = some p ∧ (ph = p ∨ ph = p + 1)) →
      ∃ u j' i, exec (.runGraph seq) s = .next u ∧ u.tiles = s.tiles ∧ u.mem = s.mem ∧ u.job j.num = some j' ∧ j'.insts = j.insts ++ [i] ∧
        i.seq = seq ∧ i.graph = (D 2).toNat % 65536 ∧ i.phase = ph ∧ i.args = (d.drop 3).take 5 ∧ i.state = 0 ∧ j'.phase = some ph ∧
        Planned u (.graphInstanceStart seq)) ∧
    (∀ j, Carries s seq 4 0 d → s.job (recordJob d) = some j → (D 2).toNat % 8 = 4 → ∃ u, exec (.cancelRecord seq) s = .next u ∧ u.tiles = s.tiles ∧
      u.mem = s.mem ∧ Recorded s u seq 3 0 ∧ u.job j.num = some { j with closed := true } ∧ Planned u (.phaseComplete j.num)) ∧
    (Carries s seq 5 0 d → (D 2).toNat % 16 = 0 → ∃ u, exec (.query seq true) s = .next u ∧ u.tiles = s.tiles ∧ u.mem = s.mem ∧ Recorded s u seq 3 0 ∧
      u.ctl.out = s.ctl.out ++ [.write ((sfind s.ctl.journal seq).elim 0 (·.port)) (D 3) s.statusBytes]) ∧
    (Carries s seq 5 0 d → ∃ u, exec (.query seq false) s = .next u ∧ u.tiles = s.tiles ∧ u.ctl.out = s.ctl.out ∧
      (s.power.passed = true → Recorded s u seq 4 10)) ∧
    (Carries s seq 6 0 d → s.journalState seq = 1 → (∀ j ∈ s.jobs, j.clearing = true) → ∃ u, exec (.selfTest seq fails) s = .next u ∧
      u.tiles = s.tiles ∧ Recorded s u seq 2 0 ∧ ∃ n, Due s u n (.selfTest seq fails)) ∧
    (Carries s seq 6 0 d → s.journalState seq = 2 → ∃ u, exec (.selfTest seq []) s = .next u ∧ u.mem = s.mem ∧ Recorded s u seq 3 0 ∧
      u.power.mstate = 3 ∧ u.power.stresult = BitVec.ofNat 64 (1 + (D 2).toNat % 4 * 256)) ∧
    (s.logFull = false →
      (∀ j, Carries s seq 7 0 d → s.journalState seq = 1 → s.job (recordJob d) = some j →
        let row := (D 3).toNat % 256
        let k := ((D 3).extractLsb' 8 3).toNat
        let ticks := treeTicks (latBandOf (s.hopCount (8 * (row / 25) + k) j.root))
        (j.closed = true → ∃ u, exec (.setPolicyTree seq) s = .next u ∧ u.tiles = s.tiles ∧ Recorded s u seq 4 5) ∧
        let way : Event := .treeMaskAtRoot j.num ((D 3).extractLsb' 12 3).toNat row k ((D 4).truncate 25)
        (j.closed = false → row < 200 → inPart j.part (8 * (row / 25) + k) = true →
          ∃ u, exec (.setPolicyTree seq) s = .next u ∧ u.tiles = s.tiles ∧ Recorded s u seq 2 0 ∧ Due s u ticks (.setPolicyTree seq) ∧
          (s.cutOff (8 * (row / 25) + k) j.root = false → (2 * (s.now + ticks), way) ∈ u.agenda) ∧
          (s.cutOff (8 * (row / 25) + k) j.root = true → (8 * (row / 25) + k, j.root, way) ∈ u.fab.trees))) ∧
      (Carries s seq 7 1 d → 500 ≤ ((D 3).extractLsb' 32 16).toNat → ((D 3).extractLsb' 32 16).toNat ≤ 3000 →
        ∃ u, exec (.setPolicyPcap seq) s = .next u ∧ u.tiles = s.tiles ∧ Recorded s u seq 3 0 ∧
          u.ctl.pcap.extractLsb' 32 16 = (D 3).extractLsb' 32 16 ∧ u.ctl.pcap.getLsbD 31 = (D 3).getLsbD 31) ∧
      (Carries s seq 7 2 d → ∃ u, exec (.setPolicyCslr seq) s = .next u ∧ u.tiles = s.tiles ∧ Recorded s u seq 3 0 ∧
        ∀ r < 16, sget PowerRegion.reset u.regions r = { sget PowerRegion.reset s.regions r with
          cslrNext := if (D 3).getLsbD 4 = true ∨ r = (D 3).toNat % 16 then some (D 4) else (sget PowerRegion.reset s.regions r).cslrNext }) ∧
      (Carries s seq 7 3 d → (D 4).extractLsb' 16 16 ≠ 0 → ∃ u, exec (.setPolicyMarks seq) s = .next u ∧ u.tiles = s.tiles ∧
        (s.ctl.buckets = [] → Recorded s u seq 3 0) ∧ u.policy ((D 3).toNat % 4) = ⟨(D 4).toNat % 256, ((D 4).extractLsb' 8 8).toNat, ((D 4).extractLsb' 16 16).toNat⟩))

/-- R17, R310, R312, R313, R341, R360: a port claims a free hardware semaphore with its own number and releases what it holds; a link that goes down releases all
that its port held. In the physical mode the aperture reads and writes the bytes of one page of job memory where the port's site and the home serve and a route leads there, and aborts a read and
drops a write where not; a register takes its writable bits. -/
def Obligations.HostAccessesActOnTheModule : Prop :=
  ∀ (port i p off len : Nat) (bytes : List Byte) (v : Dword) (s : State),
    let same (u : State) : Prop := { u with ctl := { u.ctl with hsems := s.ctl.hsems } } = s
    let at_ (u : State) (k : Nat) := sget ⟨false, 0⟩ u.ctl.hsems k
    let P := s.port port
    let a := (P.apbase.toNat + off) % 2 ^ 64
    (∃ u, exec (.hsemClaim port i p) s = .next u ∧ same u ∧ ∀ k, at_ u k =
      if k = i ∧ i < 16 ∧ p = port ∧ (at_ s i).held = false then ⟨true, port⟩ else at_ s k) ∧
    (∃ u, exec (.hsemRelease port i) s = .next u ∧ same u ∧ ∀ k, at_ u k =
      if k = i ∧ i < 16 ∧ (at_ s i).held = true ∧ (at_ s i).owner = port then ⟨false, 0⟩ else at_ s k) ∧
    (∃ u, exec (.hostLinkDown port) s = .next u ∧ same u ∧ ∀ k, at_ u k =
      if k < 16 ∧ (at_ s k).held = true ∧ (at_ s k).owner = port then ⟨false, 0⟩ else at_ s k) ∧
    (s.power.mstate ≠ 1 → s.power.computeRails = true → P.apctl.toNat % 4 = 2 → 0 < len → a % 4096 + len ≤ 4096 → a < 2 ^ 42 → off + len ≤ 2 ^ 36 →
      paLocal a < Config.jobMemEnd → outbound a = false →
      (s.reached port a = none → (∃ u, exec (.apertureRead port off len) s = .next u ∧ u.tiles = s.tiles ∧ u.mem = s.mem ∧
        u.ctl.out = s.ctl.out ++ [.abort port]) ∧
        (bytes.length = len → ∃ u, exec (.apertureWrite port off bytes) s = .next u ∧ u.tiles = s.tiles ∧ u.mem = s.mem ∧
          u.port port = { P with drops := P.drops + 1 })) ∧
      (s.reached port a = some a → (s.badMem = [] → ∃ u, exec (.apertureRead port off len) s = .next u ∧ u.mem = s.mem ∧ u.tiles = s.tiles ∧
        u.ctl.out = s.ctl.out ++ [.data port (Memory.readBytes s.mem a len)]) ∧
      (MemoryCanonical s → bytes.length = len → ∃ u, exec (.apertureWrite port off bytes) s = .next u ∧ u.tiles = s.tiles ∧ u.ctl = s.ctl ∧
        Memory.readBytes u.mem a len = bytes ∧ ∀ b, b < a ∨ a + len ≤ b → Memory.read u.mem b = Memory.read s.mem b))) ∧
    (port < 2 → ∃ u, exec (.registerWrite port 0x4118 v) s = .next u ∧ u.tiles = s.tiles ∧ u.port port = { P with apbase := v &&& ~~~0x3FFFFFFF }) ∧
    (port < 2 → ∃ u, exec (.registerWrite port 0x4120 v) s = .next u ∧ u.tiles = s.tiles ∧ u.port port = { P with cmpbase := v &&& ~~~0xFFF }) ∧
    (port < 2 → ∃ u, exec (.registerWrite port 0x4110 v) s = .next u ∧ u.tiles = s.tiles ∧
      (v.toNat % 4 ≠ 3 → u.port port = { P with apctl := v &&& 0x3FFFF })) ∧
    (port < 2 → ∃ u, exec (.registerWrite port (0x4000 + 8 * (i % 16)) 0) s = .next u ∧ same u ∧
      ((at_ s (i % 16)).owner = port → (at_ u (i % 16)).held = false))

/-! ### Completion -/

/-- R28, R29, R30, R157, R159, R254, R263, R296: every operation of a slot answers a next state where it acts, and so does an empty bundle. Every event
answers one in every state, in those that no run reaches too (the model's reading, log 9); a request at its home needs an address below the end of the stack,
which every translation gives and without which the model faults (log 55). What that state holds the statements above say. -/
def Obligations.OperationsAndEventsComplete : Prop :=
  (∀ (i : Instr) (s : State), i.encode ≠ none → Acts i s → ∃ u, exec i s = .next u) ∧
  (∀ (ckpt solo : BitVec 1) (s : State), ∃ u, exec (.emptyBundle ckpt solo) s = .next u) ∧
  ∀ (e : Event) (s : State), e.completes s
end

