-- ==== Sys2Proof/Laws/State.lean ====
section
/-! SUPPORT. What each update of the state leaves alone, field by field, and what reading back an update gives. -/

namespace Sys2Proof.Machine

/-! ### Tables -/

@[simp] theorem sget_sput_same {α : Type} (d : α) (a : Nat) (x : α) (m : Sparse α) : sget d (sput a x m) a = x := by
  induction m with
  | nil => simp [sput, sget]
  | cons p r ih =>
    obtain ⟨k, v⟩ := p
    simp only [sput]
    split
    · simp [sget]
    · split
      · simp [sget]
      · simp [sget, *]

theorem sget_sput_ne {α : Type} (d : α) {a b : Nat} (x : α) (m : Sparse α) (h : b ≠ a) : sget d (sput a x m) b = sget d m b := by
  induction m with
  | nil => simp [sput, sget, h]
  | cons p r ih =>
    obtain ⟨k, v⟩ := p
    simp only [sput]
    split
    · simp [sget, h]
    · split
      · rename_i hk
        subst hk
        simp [sget, h]
      · simp only [sget, ih]

theorem sget_sput {α : Type} (d : α) (a b : Nat) (x : α) (m : Sparse α) :
    sget d (sput a x m) b = if b = a then x else sget d m b := by
  by_cases h : b = a
  · subst h; simp
  · simp [sget_sput_ne d x m h, h]

/-! ### Fields that an update leaves alone -/

@[simp] theorem State.updTile_mem (s : State) (t : Nat) (f : Tile → Tile) : (s.updTile t f).mem = s.mem := rfl
@[simp] theorem State.updTile_badMem (s : State) (t : Nat) (f : Tile → Tile) : (s.updTile t f).badMem = s.badMem := rfl
@[simp] theorem State.updTile_dies (s : State) (t : Nat) (f : Tile → Tile) : (s.updTile t f).dies = s.dies := rfl
@[simp] theorem State.updTile_regions (s : State) (t : Nat) (f : Tile → Tile) : (s.updTile t f).regions = s.regions := rfl
@[simp] theorem State.updTile_fab (s : State) (t : Nat) (f : Tile → Tile) : (s.updTile t f).fab = s.fab := rfl
@[simp] theorem State.updTile_jobs (s : State) (t : Nat) (f : Tile → Tile) : (s.updTile t f).jobs = s.jobs := rfl
@[simp] theorem State.updTile_ctl (s : State) (t : Nat) (f : Tile → Tile) : (s.updTile t f).ctl = s.ctl := rfl
@[simp] theorem State.updTile_power (s : State) (t : Nat) (f : Tile → Tile) : (s.updTile t f).power = s.power := rfl
@[simp] theorem State.updTile_cur (s : State) (t : Nat) (f : Tile → Tile) : (s.updTile t f).cur = s.cur := rfl
@[simp] theorem State.updTile_time (s : State) (t : Nat) (f : Tile → Tile) : (s.updTile t f).time = s.time := rfl
@[simp] theorem State.updTile_ptcBase (s : State) (t : Nat) (f : Tile → Tile) : (s.updTile t f).ptcBase = s.ptcBase := rfl
@[simp] theorem State.updTile_agenda (s : State) (t : Nat) (f : Tile → Tile) : (s.updTile t f).agenda = s.agenda := rfl
@[simp] theorem State.updTile_free (s : State) (t : Nat) (f : Tile → Tile) : (s.updTile t f).free = s.free := rfl
@[simp] theorem State.updTile_ids (s : State) (t : Nat) (f : Tile → Tile) : (s.updTile t f).ids = s.ids := rfl

@[simp] theorem State.updCore_mem (s : State) (t : Nat) (f : Core → Core) : (s.updCore t f).mem = s.mem := rfl
@[simp] theorem State.updCore_badMem (s : State) (t : Nat) (f : Core → Core) : (s.updCore t f).badMem = s.badMem := rfl
@[simp] theorem State.updCore_dies (s : State) (t : Nat) (f : Core → Core) : (s.updCore t f).dies = s.dies := rfl
@[simp] theorem State.updCore_regions (s : State) (t : Nat) (f : Core → Core) : (s.updCore t f).regions = s.regions := rfl
@[simp] theorem State.updCore_fab (s : State) (t : Nat) (f : Core → Core) : (s.updCore t f).fab = s.fab := rfl
@[simp] theorem State.updCore_jobs (s : State) (t : Nat) (f : Core → Core) : (s.updCore t f).jobs = s.jobs := rfl
@[simp] theorem State.updCore_ctl (s : State) (t : Nat) (f : Core → Core) : (s.updCore t f).ctl = s.ctl := rfl
@[simp] theorem State.updCore_power (s : State) (t : Nat) (f : Core → Core) : (s.updCore t f).power = s.power := rfl
@[simp] theorem State.updCore_cur (s : State) (t : Nat) (f : Core → Core) : (s.updCore t f).cur = s.cur := rfl
@[simp] theorem State.updCore_time (s : State) (t : Nat) (f : Core → Core) : (s.updCore t f).time = s.time := rfl
@[simp] theorem State.updCore_ptcBase (s : State) (t : Nat) (f : Core → Core) : (s.updCore t f).ptcBase = s.ptcBase := rfl
@[simp] theorem State.updCore_agenda (s : State) (t : Nat) (f : Core → Core) : (s.updCore t f).agenda = s.agenda := rfl
@[simp] theorem State.updCore_free (s : State) (t : Nat) (f : Core → Core) : (s.updCore t f).free = s.free := rfl
@[simp] theorem State.updCore_ids (s : State) (t : Nat) (f : Core → Core) : (s.updCore t f).ids = s.ids := rfl

@[simp] theorem State.updCtx_mem (s : State) (t h : Nat) (f : Ctx → Ctx) : (s.updCtx t h f).mem = s.mem := rfl
@[simp] theorem State.updCtx_badMem (s : State) (t h : Nat) (f : Ctx → Ctx) : (s.updCtx t h f).badMem = s.badMem := rfl
@[simp] theorem State.updCtx_dies (s : State) (t h : Nat) (f : Ctx → Ctx) : (s.updCtx t h f).dies = s.dies := rfl
@[simp] theorem State.updCtx_regions (s : State) (t h : Nat) (f : Ctx → Ctx) : (s.updCtx t h f).regions = s.regions := rfl
@[simp] theorem State.updCtx_fab (s : State) (t h : Nat) (f : Ctx → Ctx) : (s.updCtx t h f).fab = s.fab := rfl
@[simp] theorem State.updCtx_jobs (s : State) (t h : Nat) (f : Ctx → Ctx) : (s.updCtx t h f).jobs = s.jobs := rfl
@[simp] theorem State.updCtx_ctl (s : State) (t h : Nat) (f : Ctx → Ctx) : (s.updCtx t h f).ctl = s.ctl := rfl
@[simp] theorem State.updCtx_power (s : State) (t h : Nat) (f : Ctx → Ctx) : (s.updCtx t h f).power = s.power := rfl
@[simp] theorem State.updCtx_cur (s : State) (t h : Nat) (f : Ctx → Ctx) : (s.updCtx t h f).cur = s.cur := rfl
@[simp] theorem State.updCtx_time (s : State) (t h : Nat) (f : Ctx → Ctx) : (s.updCtx t h f).time = s.time := rfl
@[simp] theorem State.updCtx_ptcBase (s : State) (t h : Nat) (f : Ctx → Ctx) : (s.updCtx t h f).ptcBase = s.ptcBase := rfl
@[simp] theorem State.updCtx_agenda (s : State) (t h : Nat) (f : Ctx → Ctx) : (s.updCtx t h f).agenda = s.agenda := rfl
@[simp] theorem State.updCtx_free (s : State) (t h : Nat) (f : Ctx → Ctx) : (s.updCtx t h f).free = s.free := rfl
@[simp] theorem State.updCtx_ids (s : State) (t h : Nat) (f : Ctx → Ctx) : (s.updCtx t h f).ids = s.ids := rfl

@[simp] theorem State.updMe_mem (s : State) (f : Tile → Tile) : (s.updMe f).mem = s.mem := rfl
@[simp] theorem State.updMe_badMem (s : State) (f : Tile → Tile) : (s.updMe f).badMem = s.badMem := rfl
@[simp] theorem State.updMe_dies (s : State) (f : Tile → Tile) : (s.updMe f).dies = s.dies := rfl
@[simp] theorem State.updMe_regions (s : State) (f : Tile → Tile) : (s.updMe f).regions = s.regions := rfl
@[simp] theorem State.updMe_fab (s : State) (f : Tile → Tile) : (s.updMe f).fab = s.fab := rfl
@[simp] theorem State.updMe_jobs (s : State) (f : Tile → Tile) : (s.updMe f).jobs = s.jobs := rfl
@[simp] theorem State.updMe_ctl (s : State) (f : Tile → Tile) : (s.updMe f).ctl = s.ctl := rfl
@[simp] theorem State.updMe_power (s : State) (f : Tile → Tile) : (s.updMe f).power = s.power := rfl
@[simp] theorem State.updMe_cur (s : State) (f : Tile → Tile) : (s.updMe f).cur = s.cur := rfl
@[simp] theorem State.updMe_time (s : State) (f : Tile → Tile) : (s.updMe f).time = s.time := rfl
@[simp] theorem State.updMe_ptcBase (s : State) (f : Tile → Tile) : (s.updMe f).ptcBase = s.ptcBase := rfl
@[simp] theorem State.updMe_agenda (s : State) (f : Tile → Tile) : (s.updMe f).agenda = s.agenda := rfl
@[simp] theorem State.updMe_free (s : State) (f : Tile → Tile) : (s.updMe f).free = s.free := rfl
@[simp] theorem State.updMe_ids (s : State) (f : Tile → Tile) : (s.updMe f).ids = s.ids := rfl

@[simp] theorem State.updMyCore_mem (s : State) (f : Core → Core) : (s.updMyCore f).mem = s.mem := rfl
@[simp] theorem State.updMyCore_badMem (s : State) (f : Core → Core) : (s.updMyCore f).badMem = s.badMem := rfl
@[simp] theorem State.updMyCore_dies (s : State) (f : Core → Core) : (s.updMyCore f).dies = s.dies := rfl
@[simp] theorem State.updMyCore_regions (s : State) (f : Core → Core) : (s.updMyCore f).regions = s.regions := rfl
@[simp] theorem State.updMyCore_fab (s : State) (f : Core → Core) : (s.updMyCore f).fab = s.fab := rfl
@[simp] theorem State.updMyCore_jobs (s : State) (f : Core → Core) : (s.updMyCore f).jobs = s.jobs := rfl
@[simp] theorem State.updMyCore_ctl (s : State) (f : Core → Core) : (s.updMyCore f).ctl = s.ctl := rfl
@[simp] theorem State.updMyCore_power (s : State) (f : Core → Core) : (s.updMyCore f).power = s.power := rfl
@[simp] theorem State.updMyCore_cur (s : State) (f : Core → Core) : (s.updMyCore f).cur = s.cur := rfl
@[simp] theorem State.updMyCore_time (s : State) (f : Core → Core) : (s.updMyCore f).time = s.time := rfl
@[simp] theorem State.updMyCore_ptcBase (s : State) (f : Core → Core) : (s.updMyCore f).ptcBase = s.ptcBase := rfl
@[simp] theorem State.updMyCore_agenda (s : State) (f : Core → Core) : (s.updMyCore f).agenda = s.agenda := rfl
@[simp] theorem State.updMyCore_free (s : State) (f : Core → Core) : (s.updMyCore f).free = s.free := rfl
@[simp] theorem State.updMyCore_ids (s : State) (f : Core → Core) : (s.updMyCore f).ids = s.ids := rfl

@[simp] theorem State.updSelf_mem (s : State) (f : Ctx → Ctx) : (s.updSelf f).mem = s.mem := rfl
@[simp] theorem State.updSelf_badMem (s : State) (f : Ctx → Ctx) : (s.updSelf f).badMem = s.badMem := rfl
@[simp] theorem State.updSelf_dies (s : State) (f : Ctx → Ctx) : (s.updSelf f).dies = s.dies := rfl
@[simp] theorem State.updSelf_regions (s : State) (f : Ctx → Ctx) : (s.updSelf f).regions = s.regions := rfl
@[simp] theorem State.updSelf_fab (s : State) (f : Ctx → Ctx) : (s.updSelf f).fab = s.fab := rfl
@[simp] theorem State.updSelf_jobs (s : State) (f : Ctx → Ctx) : (s.updSelf f).jobs = s.jobs := rfl
@[simp] theorem State.updSelf_ctl (s : State) (f : Ctx → Ctx) : (s.updSelf f).ctl = s.ctl := rfl
@[simp] theorem State.updSelf_power (s : State) (f : Ctx → Ctx) : (s.updSelf f).power = s.power := rfl
@[simp] theorem State.updSelf_cur (s : State) (f : Ctx → Ctx) : (s.updSelf f).cur = s.cur := rfl
@[simp] theorem State.updSelf_time (s : State) (f : Ctx → Ctx) : (s.updSelf f).time = s.time := rfl
@[simp] theorem State.updSelf_ptcBase (s : State) (f : Ctx → Ctx) : (s.updSelf f).ptcBase = s.ptcBase := rfl
@[simp] theorem State.updSelf_agenda (s : State) (f : Ctx → Ctx) : (s.updSelf f).agenda = s.agenda := rfl
@[simp] theorem State.updSelf_free (s : State) (f : Ctx → Ctx) : (s.updSelf f).free = s.free := rfl
@[simp] theorem State.updSelf_ids (s : State) (f : Ctx → Ctx) : (s.updSelf f).ids = s.ids := rfl

@[simp] theorem State.updJob_mem (s : State) (n : Nat) (f : Job → Job) : (s.updJob n f).mem = s.mem := rfl
@[simp] theorem State.updJob_badMem (s : State) (n : Nat) (f : Job → Job) : (s.updJob n f).badMem = s.badMem := rfl
@[simp] theorem State.updJob_tiles (s : State) (n : Nat) (f : Job → Job) : (s.updJob n f).tiles = s.tiles := rfl
@[simp] theorem State.updJob_dies (s : State) (n : Nat) (f : Job → Job) : (s.updJob n f).dies = s.dies := rfl
@[simp] theorem State.updJob_regions (s : State) (n : Nat) (f : Job → Job) : (s.updJob n f).regions = s.regions := rfl
@[simp] theorem State.updJob_fab (s : State) (n : Nat) (f : Job → Job) : (s.updJob n f).fab = s.fab := rfl
@[simp] theorem State.updJob_ctl (s : State) (n : Nat) (f : Job → Job) : (s.updJob n f).ctl = s.ctl := rfl
@[simp] theorem State.updJob_power (s : State) (n : Nat) (f : Job → Job) : (s.updJob n f).power = s.power := rfl
@[simp] theorem State.updJob_cur (s : State) (n : Nat) (f : Job → Job) : (s.updJob n f).cur = s.cur := rfl
@[simp] theorem State.updJob_time (s : State) (n : Nat) (f : Job → Job) : (s.updJob n f).time = s.time := rfl
@[simp] theorem State.updJob_ptcBase (s : State) (n : Nat) (f : Job → Job) : (s.updJob n f).ptcBase = s.ptcBase := rfl
@[simp] theorem State.updJob_agenda (s : State) (n : Nat) (f : Job → Job) : (s.updJob n f).agenda = s.agenda := rfl
@[simp] theorem State.updJob_free (s : State) (n : Nat) (f : Job → Job) : (s.updJob n f).free = s.free := rfl
@[simp] theorem State.updJob_ids (s : State) (n : Nat) (f : Job → Job) : (s.updJob n f).ids = s.ids := rfl

@[simp] theorem State.updFab_mem (s : State) (f : Fabric → Fabric) : (s.updFab f).mem = s.mem := rfl
@[simp] theorem State.updFab_badMem (s : State) (f : Fabric → Fabric) : (s.updFab f).badMem = s.badMem := rfl
@[simp] theorem State.updFab_tiles (s : State) (f : Fabric → Fabric) : (s.updFab f).tiles = s.tiles := rfl
@[simp] theorem State.updFab_dies (s : State) (f : Fabric → Fabric) : (s.updFab f).dies = s.dies := rfl
@[simp] theorem State.updFab_regions (s : State) (f : Fabric → Fabric) : (s.updFab f).regions = s.regions := rfl
@[simp] theorem State.updFab_jobs (s : State) (f : Fabric → Fabric) : (s.updFab f).jobs = s.jobs := rfl
@[simp] theorem State.updFab_ctl (s : State) (f : Fabric → Fabric) : (s.updFab f).ctl = s.ctl := rfl
@[simp] theorem State.updFab_power (s : State) (f : Fabric → Fabric) : (s.updFab f).power = s.power := rfl
@[simp] theorem State.updFab_cur (s : State) (f : Fabric → Fabric) : (s.updFab f).cur = s.cur := rfl
@[simp] theorem State.updFab_time (s : State) (f : Fabric → Fabric) : (s.updFab f).time = s.time := rfl
@[simp] theorem State.updFab_ptcBase (s : State) (f : Fabric → Fabric) : (s.updFab f).ptcBase = s.ptcBase := rfl
@[simp] theorem State.updFab_agenda (s : State) (f : Fabric → Fabric) : (s.updFab f).agenda = s.agenda := rfl
@[simp] theorem State.updFab_free (s : State) (f : Fabric → Fabric) : (s.updFab f).free = s.free := rfl
@[simp] theorem State.updFab_ids (s : State) (f : Fabric → Fabric) : (s.updFab f).ids = s.ids := rfl

@[simp] theorem State.updNode_mem (s : State) (n : Nat) (f : Node → Node) : (s.updNode n f).mem = s.mem := rfl
@[simp] theorem State.updNode_badMem (s : State) (n : Nat) (f : Node → Node) : (s.updNode n f).badMem = s.badMem := rfl
@[simp] theorem State.updNode_tiles (s : State) (n : Nat) (f : Node → Node) : (s.updNode n f).tiles = s.tiles := rfl
@[simp] theorem State.updNode_dies (s : State) (n : Nat) (f : Node → Node) : (s.updNode n f).dies = s.dies := rfl
@[simp] theorem State.updNode_regions (s : State) (n : Nat) (f : Node → Node) : (s.updNode n f).regions = s.regions := rfl
@[simp] theorem State.updNode_jobs (s : State) (n : Nat) (f : Node → Node) : (s.updNode n f).jobs = s.jobs := rfl
@[simp] theorem State.updNode_ctl (s : State) (n : Nat) (f : Node → Node) : (s.updNode n f).ctl = s.ctl := rfl
@[simp] theorem State.updNode_power (s : State) (n : Nat) (f : Node → Node) : (s.updNode n f).power = s.power := rfl
@[simp] theorem State.updNode_cur (s : State) (n : Nat) (f : Node → Node) : (s.updNode n f).cur = s.cur := rfl
@[simp] theorem State.updNode_time (s : State) (n : Nat) (f : Node → Node) : (s.updNode n f).time = s.time := rfl
@[simp] theorem State.updNode_ptcBase (s : State) (n : Nat) (f : Node → Node) : (s.updNode n f).ptcBase = s.ptcBase := rfl
@[simp] theorem State.updNode_agenda (s : State) (n : Nat) (f : Node → Node) : (s.updNode n f).agenda = s.agenda := rfl
@[simp] theorem State.updNode_free (s : State) (n : Nat) (f : Node → Node) : (s.updNode n f).free = s.free := rfl
@[simp] theorem State.updNode_ids (s : State) (n : Nat) (f : Node → Node) : (s.updNode n f).ids = s.ids := rfl

@[simp] theorem State.updPort_mem (s : State) (p : Nat) (f : Port → Port) : (s.updPort p f).mem = s.mem := rfl
@[simp] theorem State.updPort_badMem (s : State) (p : Nat) (f : Port → Port) : (s.updPort p f).badMem = s.badMem := rfl
@[simp] theorem State.updPort_tiles (s : State) (p : Nat) (f : Port → Port) : (s.updPort p f).tiles = s.tiles := rfl
@[simp] theorem State.updPort_dies (s : State) (p : Nat) (f : Port → Port) : (s.updPort p f).dies = s.dies := rfl
@[simp] theorem State.updPort_regions (s : State) (p : Nat) (f : Port → Port) : (s.updPort p f).regions = s.regions := rfl
@[simp] theorem State.updPort_fab (s : State) (p : Nat) (f : Port → Port) : (s.updPort p f).fab = s.fab := rfl
@[simp] theorem State.updPort_jobs (s : State) (p : Nat) (f : Port → Port) : (s.updPort p f).jobs = s.jobs := rfl
@[simp] theorem State.updPort_power (s : State) (p : Nat) (f : Port → Port) : (s.updPort p f).power = s.power := rfl
@[simp] theorem State.updPort_cur (s : State) (p : Nat) (f : Port → Port) : (s.updPort p f).cur = s.cur := rfl
@[simp] theorem State.updPort_time (s : State) (p : Nat) (f : Port → Port) : (s.updPort p f).time = s.time := rfl
@[simp] theorem State.updPort_ptcBase (s : State) (p : Nat) (f : Port → Port) : (s.updPort p f).ptcBase = s.ptcBase := rfl
@[simp] theorem State.updPort_agenda (s : State) (p : Nat) (f : Port → Port) : (s.updPort p f).agenda = s.agenda := rfl
@[simp] theorem State.updPort_free (s : State) (p : Nat) (f : Port → Port) : (s.updPort p f).free = s.free := rfl
@[simp] theorem State.updPort_ids (s : State) (p : Nat) (f : Port → Port) : (s.updPort p f).ids = s.ids := rfl

@[simp] theorem State.after_mem (s : State) (n : Nat) (e : Event) : (s.after n e).mem = s.mem := rfl
@[simp] theorem State.after_badMem (s : State) (n : Nat) (e : Event) : (s.after n e).badMem = s.badMem := rfl
@[simp] theorem State.after_tiles (s : State) (n : Nat) (e : Event) : (s.after n e).tiles = s.tiles := rfl
@[simp] theorem State.after_dies (s : State) (n : Nat) (e : Event) : (s.after n e).dies = s.dies := rfl
@[simp] theorem State.after_regions (s : State) (n : Nat) (e : Event) : (s.after n e).regions = s.regions := rfl
@[simp] theorem State.after_fab (s : State) (n : Nat) (e : Event) : (s.after n e).fab = s.fab := rfl
@[simp] theorem State.after_jobs (s : State) (n : Nat) (e : Event) : (s.after n e).jobs = s.jobs := rfl
@[simp] theorem State.after_ctl (s : State) (n : Nat) (e : Event) : (s.after n e).ctl = s.ctl := rfl
@[simp] theorem State.after_power (s : State) (n : Nat) (e : Event) : (s.after n e).power = s.power := rfl
@[simp] theorem State.after_cur (s : State) (n : Nat) (e : Event) : (s.after n e).cur = s.cur := rfl
@[simp] theorem State.after_time (s : State) (n : Nat) (e : Event) : (s.after n e).time = s.time := rfl
@[simp] theorem State.after_ptcBase (s : State) (n : Nat) (e : Event) : (s.after n e).ptcBase = s.ptcBase := rfl
@[simp] theorem State.after_free (s : State) (n : Nat) (e : Event) : (s.after n e).free = s.free := rfl
@[simp] theorem State.after_ids (s : State) (n : Nat) (e : Event) : (s.after n e).ids = s.ids := rfl

@[simp] theorem State.emit_mem (s : State) (o : HostOut) : (s.emit o).mem = s.mem := rfl
@[simp] theorem State.emit_badMem (s : State) (o : HostOut) : (s.emit o).badMem = s.badMem := rfl
@[simp] theorem State.emit_tiles (s : State) (o : HostOut) : (s.emit o).tiles = s.tiles := rfl
@[simp] theorem State.emit_dies (s : State) (o : HostOut) : (s.emit o).dies = s.dies := rfl
@[simp] theorem State.emit_regions (s : State) (o : HostOut) : (s.emit o).regions = s.regions := rfl
@[simp] theorem State.emit_fab (s : State) (o : HostOut) : (s.emit o).fab = s.fab := rfl
@[simp] theorem State.emit_jobs (s : State) (o : HostOut) : (s.emit o).jobs = s.jobs := rfl
@[simp] theorem State.emit_power (s : State) (o : HostOut) : (s.emit o).power = s.power := rfl
@[simp] theorem State.emit_cur (s : State) (o : HostOut) : (s.emit o).cur = s.cur := rfl
@[simp] theorem State.emit_time (s : State) (o : HostOut) : (s.emit o).time = s.time := rfl
@[simp] theorem State.emit_ptcBase (s : State) (o : HostOut) : (s.emit o).ptcBase = s.ptcBase := rfl
@[simp] theorem State.emit_agenda (s : State) (o : HostOut) : (s.emit o).agenda = s.agenda := rfl
@[simp] theorem State.emit_free (s : State) (o : HostOut) : (s.emit o).free = s.free := rfl
@[simp] theorem State.emit_ids (s : State) (o : HostOut) : (s.emit o).ids = s.ids := rfl

@[simp] theorem State.dueFlags_mem (s : State) (r : Reg) (v : Row) (dom l : Nat) (g : BitVec 6) : (s.dueFlags r v dom l g).mem = s.mem := rfl
@[simp] theorem State.dueFlags_badMem (s : State) (r : Reg) (v : Row) (dom l : Nat) (g : BitVec 6) : (s.dueFlags r v dom l g).badMem = s.badMem := rfl
@[simp] theorem State.dueFlags_dies (s : State) (r : Reg) (v : Row) (dom l : Nat) (g : BitVec 6) : (s.dueFlags r v dom l g).dies = s.dies := rfl
@[simp] theorem State.dueFlags_regions (s : State) (r : Reg) (v : Row) (dom l : Nat) (g : BitVec 6) : (s.dueFlags r v dom l g).regions = s.regions := rfl
@[simp] theorem State.dueFlags_fab (s : State) (r : Reg) (v : Row) (dom l : Nat) (g : BitVec 6) : (s.dueFlags r v dom l g).fab = s.fab := rfl
@[simp] theorem State.dueFlags_jobs (s : State) (r : Reg) (v : Row) (dom l : Nat) (g : BitVec 6) : (s.dueFlags r v dom l g).jobs = s.jobs := rfl
@[simp] theorem State.dueFlags_ctl (s : State) (r : Reg) (v : Row) (dom l : Nat) (g : BitVec 6) : (s.dueFlags r v dom l g).ctl = s.ctl := rfl
@[simp] theorem State.dueFlags_power (s : State) (r : Reg) (v : Row) (dom l : Nat) (g : BitVec 6) : (s.dueFlags r v dom l g).power = s.power := rfl
@[simp] theorem State.dueFlags_cur (s : State) (r : Reg) (v : Row) (dom l : Nat) (g : BitVec 6) : (s.dueFlags r v dom l g).cur = s.cur := rfl
@[simp] theorem State.dueFlags_time (s : State) (r : Reg) (v : Row) (dom l : Nat) (g : BitVec 6) : (s.dueFlags r v dom l g).time = s.time := rfl
@[simp] theorem State.dueFlags_ptcBase (s : State) (r : Reg) (v : Row) (dom l : Nat) (g : BitVec 6) : (s.dueFlags r v dom l g).ptcBase = s.ptcBase := rfl
@[simp] theorem State.dueFlags_agenda (s : State) (r : Reg) (v : Row) (dom l : Nat) (g : BitVec 6) : (s.dueFlags r v dom l g).agenda = s.agenda := rfl
@[simp] theorem State.dueFlags_free (s : State) (r : Reg) (v : Row) (dom l : Nat) (g : BitVec 6) : (s.dueFlags r v dom l g).free = s.free := rfl
@[simp] theorem State.dueFlags_ids (s : State) (r : Reg) (v : Row) (dom l : Nat) (g : BitVec 6) : (s.dueFlags r v dom l g).ids = s.ids := rfl

@[simp] theorem State.due_mem (s : State) (r : Reg) (v : Row) (dom l : Nat) : (s.due r v dom l).mem = s.mem := rfl
@[simp] theorem State.due_badMem (s : State) (r : Reg) (v : Row) (dom l : Nat) : (s.due r v dom l).badMem = s.badMem := rfl
@[simp] theorem State.due_dies (s : State) (r : Reg) (v : Row) (dom l : Nat) : (s.due r v dom l).dies = s.dies := rfl
@[simp] theorem State.due_regions (s : State) (r : Reg) (v : Row) (dom l : Nat) : (s.due r v dom l).regions = s.regions := rfl
@[simp] theorem State.due_fab (s : State) (r : Reg) (v : Row) (dom l : Nat) : (s.due r v dom l).fab = s.fab := rfl
@[simp] theorem State.due_jobs (s : State) (r : Reg) (v : Row) (dom l : Nat) : (s.due r v dom l).jobs = s.jobs := rfl
@[simp] theorem State.due_ctl (s : State) (r : Reg) (v : Row) (dom l : Nat) : (s.due r v dom l).ctl = s.ctl := rfl
@[simp] theorem State.due_power (s : State) (r : Reg) (v : Row) (dom l : Nat) : (s.due r v dom l).power = s.power := rfl
@[simp] theorem State.due_cur (s : State) (r : Reg) (v : Row) (dom l : Nat) : (s.due r v dom l).cur = s.cur := rfl
@[simp] theorem State.due_time (s : State) (r : Reg) (v : Row) (dom l : Nat) : (s.due r v dom l).time = s.time := rfl
@[simp] theorem State.due_ptcBase (s : State) (r : Reg) (v : Row) (dom l : Nat) : (s.due r v dom l).ptcBase = s.ptcBase := rfl
@[simp] theorem State.due_agenda (s : State) (r : Reg) (v : Row) (dom l : Nat) : (s.due r v dom l).agenda = s.agenda := rfl
@[simp] theorem State.due_free (s : State) (r : Reg) (v : Row) (dom l : Nat) : (s.due r v dom l).free = s.free := rfl
@[simp] theorem State.due_ids (s : State) (r : Reg) (v : Row) (dom l : Nat) : (s.due r v dom l).ids = s.ids := rfl

@[simp] theorem State.dueX_mem (s : State) (d : BitVec 5) (v : Dword) (l : Nat) : (s.dueX d v l).mem = s.mem := rfl
@[simp] theorem State.dueX_badMem (s : State) (d : BitVec 5) (v : Dword) (l : Nat) : (s.dueX d v l).badMem = s.badMem := rfl
@[simp] theorem State.dueX_dies (s : State) (d : BitVec 5) (v : Dword) (l : Nat) : (s.dueX d v l).dies = s.dies := rfl
@[simp] theorem State.dueX_regions (s : State) (d : BitVec 5) (v : Dword) (l : Nat) : (s.dueX d v l).regions = s.regions := rfl
@[simp] theorem State.dueX_fab (s : State) (d : BitVec 5) (v : Dword) (l : Nat) : (s.dueX d v l).fab = s.fab := rfl
@[simp] theorem State.dueX_jobs (s : State) (d : BitVec 5) (v : Dword) (l : Nat) : (s.dueX d v l).jobs = s.jobs := rfl
@[simp] theorem State.dueX_ctl (s : State) (d : BitVec 5) (v : Dword) (l : Nat) : (s.dueX d v l).ctl = s.ctl := rfl
@[simp] theorem State.dueX_power (s : State) (d : BitVec 5) (v : Dword) (l : Nat) : (s.dueX d v l).power = s.power := rfl
@[simp] theorem State.dueX_cur (s : State) (d : BitVec 5) (v : Dword) (l : Nat) : (s.dueX d v l).cur = s.cur := rfl
@[simp] theorem State.dueX_time (s : State) (d : BitVec 5) (v : Dword) (l : Nat) : (s.dueX d v l).time = s.time := rfl
@[simp] theorem State.dueX_ptcBase (s : State) (d : BitVec 5) (v : Dword) (l : Nat) : (s.dueX d v l).ptcBase = s.ptcBase := rfl
@[simp] theorem State.dueX_agenda (s : State) (d : BitVec 5) (v : Dword) (l : Nat) : (s.dueX d v l).agenda = s.agenda := rfl
@[simp] theorem State.dueX_free (s : State) (d : BitVec 5) (v : Dword) (l : Nat) : (s.dueX d v l).free = s.free := rfl
@[simp] theorem State.dueX_ids (s : State) (d : BitVec 5) (v : Dword) (l : Nat) : (s.dueX d v l).ids = s.ids := rfl

@[simp] theorem State.mustCommit_mem (s : State) (t : Nat) : (s.mustCommit t).mem = s.mem := rfl
@[simp] theorem State.mustCommit_badMem (s : State) (t : Nat) : (s.mustCommit t).badMem = s.badMem := rfl
@[simp] theorem State.mustCommit_dies (s : State) (t : Nat) : (s.mustCommit t).dies = s.dies := rfl
@[simp] theorem State.mustCommit_regions (s : State) (t : Nat) : (s.mustCommit t).regions = s.regions := rfl
@[simp] theorem State.mustCommit_fab (s : State) (t : Nat) : (s.mustCommit t).fab = s.fab := rfl
@[simp] theorem State.mustCommit_jobs (s : State) (t : Nat) : (s.mustCommit t).jobs = s.jobs := rfl
@[simp] theorem State.mustCommit_ctl (s : State) (t : Nat) : (s.mustCommit t).ctl = s.ctl := rfl
@[simp] theorem State.mustCommit_power (s : State) (t : Nat) : (s.mustCommit t).power = s.power := rfl
@[simp] theorem State.mustCommit_cur (s : State) (t : Nat) : (s.mustCommit t).cur = s.cur := rfl
@[simp] theorem State.mustCommit_time (s : State) (t : Nat) : (s.mustCommit t).time = s.time := rfl
@[simp] theorem State.mustCommit_ptcBase (s : State) (t : Nat) : (s.mustCommit t).ptcBase = s.ptcBase := rfl
@[simp] theorem State.mustCommit_agenda (s : State) (t : Nat) : (s.mustCommit t).agenda = s.agenda := rfl
@[simp] theorem State.mustCommit_free (s : State) (t : Nat) : (s.mustCommit t).free = s.free := rfl
@[simp] theorem State.mustCommit_ids (s : State) (t : Nat) : (s.mustCommit t).ids = s.ids := rfl

@[simp] theorem State.jump_mem (s : State) (a : Dword) (n : Nat) : (s.jump a n).mem = s.mem := rfl
@[simp] theorem State.jump_badMem (s : State) (a : Dword) (n : Nat) : (s.jump a n).badMem = s.badMem := rfl
@[simp] theorem State.jump_dies (s : State) (a : Dword) (n : Nat) : (s.jump a n).dies = s.dies := rfl
@[simp] theorem State.jump_regions (s : State) (a : Dword) (n : Nat) : (s.jump a n).regions = s.regions := rfl
@[simp] theorem State.jump_fab (s : State) (a : Dword) (n : Nat) : (s.jump a n).fab = s.fab := rfl
@[simp] theorem State.jump_jobs (s : State) (a : Dword) (n : Nat) : (s.jump a n).jobs = s.jobs := rfl
@[simp] theorem State.jump_ctl (s : State) (a : Dword) (n : Nat) : (s.jump a n).ctl = s.ctl := rfl
@[simp] theorem State.jump_power (s : State) (a : Dword) (n : Nat) : (s.jump a n).power = s.power := rfl
@[simp] theorem State.jump_cur (s : State) (a : Dword) (n : Nat) : (s.jump a n).cur = s.cur := rfl
@[simp] theorem State.jump_time (s : State) (a : Dword) (n : Nat) : (s.jump a n).time = s.time := rfl
@[simp] theorem State.jump_ptcBase (s : State) (a : Dword) (n : Nat) : (s.jump a n).ptcBase = s.ptcBase := rfl
@[simp] theorem State.jump_agenda (s : State) (a : Dword) (n : Nat) : (s.jump a n).agenda = s.agenda := rfl
@[simp] theorem State.jump_free (s : State) (a : Dword) (n : Nat) : (s.jump a n).free = s.free := rfl
@[simp] theorem State.jump_ids (s : State) (a : Dword) (n : Nat) : (s.jump a n).ids = s.ids := rfl

@[simp] theorem State.countCommand_mem (s : State) : (s.countCommand).mem = s.mem := rfl
@[simp] theorem State.countCommand_badMem (s : State) : (s.countCommand).badMem = s.badMem := rfl
@[simp] theorem State.countCommand_dies (s : State) : (s.countCommand).dies = s.dies := rfl
@[simp] theorem State.countCommand_regions (s : State) : (s.countCommand).regions = s.regions := rfl
@[simp] theorem State.countCommand_fab (s : State) : (s.countCommand).fab = s.fab := rfl
@[simp] theorem State.countCommand_jobs (s : State) : (s.countCommand).jobs = s.jobs := rfl
@[simp] theorem State.countCommand_ctl (s : State) : (s.countCommand).ctl = s.ctl := rfl
@[simp] theorem State.countCommand_power (s : State) : (s.countCommand).power = s.power := rfl
@[simp] theorem State.countCommand_cur (s : State) : (s.countCommand).cur = s.cur := rfl
@[simp] theorem State.countCommand_time (s : State) : (s.countCommand).time = s.time := rfl
@[simp] theorem State.countCommand_ptcBase (s : State) : (s.countCommand).ptcBase = s.ptcBase := rfl
@[simp] theorem State.countCommand_agenda (s : State) : (s.countCommand).agenda = s.agenda := rfl
@[simp] theorem State.countCommand_free (s : State) : (s.countCommand).free = s.free := rfl
@[simp] theorem State.countCommand_ids (s : State) : (s.countCommand).ids = s.ids := rfl

@[simp] theorem State.defer_mem (s : State) (d : Deferred) : (s.defer d).mem = s.mem := rfl
@[simp] theorem State.defer_badMem (s : State) (d : Deferred) : (s.defer d).badMem = s.badMem := rfl
@[simp] theorem State.defer_dies (s : State) (d : Deferred) : (s.defer d).dies = s.dies := rfl
@[simp] theorem State.defer_regions (s : State) (d : Deferred) : (s.defer d).regions = s.regions := rfl
@[simp] theorem State.defer_fab (s : State) (d : Deferred) : (s.defer d).fab = s.fab := rfl
@[simp] theorem State.defer_jobs (s : State) (d : Deferred) : (s.defer d).jobs = s.jobs := rfl
@[simp] theorem State.defer_ctl (s : State) (d : Deferred) : (s.defer d).ctl = s.ctl := rfl
@[simp] theorem State.defer_power (s : State) (d : Deferred) : (s.defer d).power = s.power := rfl
@[simp] theorem State.defer_cur (s : State) (d : Deferred) : (s.defer d).cur = s.cur := rfl
@[simp] theorem State.defer_time (s : State) (d : Deferred) : (s.defer d).time = s.time := rfl
@[simp] theorem State.defer_ptcBase (s : State) (d : Deferred) : (s.defer d).ptcBase = s.ptcBase := rfl
@[simp] theorem State.defer_agenda (s : State) (d : Deferred) : (s.defer d).agenda = s.agenda := rfl
@[simp] theorem State.defer_free (s : State) (d : Deferred) : (s.defer d).free = s.free := rfl
@[simp] theorem State.defer_ids (s : State) (d : Deferred) : (s.defer d).ids = s.ids := rfl

@[simp] theorem State.holdBundle_mem (s : State) : (s.holdBundle).mem = s.mem := rfl
@[simp] theorem State.holdBundle_badMem (s : State) : (s.holdBundle).badMem = s.badMem := rfl
@[simp] theorem State.holdBundle_dies (s : State) : (s.holdBundle).dies = s.dies := rfl
@[simp] theorem State.holdBundle_regions (s : State) : (s.holdBundle).regions = s.regions := rfl
@[simp] theorem State.holdBundle_fab (s : State) : (s.holdBundle).fab = s.fab := rfl
@[simp] theorem State.holdBundle_jobs (s : State) : (s.holdBundle).jobs = s.jobs := rfl
@[simp] theorem State.holdBundle_ctl (s : State) : (s.holdBundle).ctl = s.ctl := rfl
@[simp] theorem State.holdBundle_power (s : State) : (s.holdBundle).power = s.power := rfl
@[simp] theorem State.holdBundle_cur (s : State) : (s.holdBundle).cur = s.cur := rfl
@[simp] theorem State.holdBundle_time (s : State) : (s.holdBundle).time = s.time := rfl
@[simp] theorem State.holdBundle_ptcBase (s : State) : (s.holdBundle).ptcBase = s.ptcBase := rfl
@[simp] theorem State.holdBundle_agenda (s : State) : (s.holdBundle).agenda = s.agenda := rfl
@[simp] theorem State.holdBundle_free (s : State) : (s.holdBundle).free = s.free := rfl
@[simp] theorem State.holdBundle_ids (s : State) : (s.holdBundle).ids = s.ids := rfl

@[simp] theorem State.storeBytes_tiles (s : State) (pa : Nat) (bs : List Byte) : (s.storeBytes pa bs).tiles = s.tiles := rfl
@[simp] theorem State.storeBytes_dies (s : State) (pa : Nat) (bs : List Byte) : (s.storeBytes pa bs).dies = s.dies := rfl
@[simp] theorem State.storeBytes_regions (s : State) (pa : Nat) (bs : List Byte) : (s.storeBytes pa bs).regions = s.regions := rfl
@[simp] theorem State.storeBytes_fab (s : State) (pa : Nat) (bs : List Byte) : (s.storeBytes pa bs).fab = s.fab := rfl
@[simp] theorem State.storeBytes_jobs (s : State) (pa : Nat) (bs : List Byte) : (s.storeBytes pa bs).jobs = s.jobs := rfl
@[simp] theorem State.storeBytes_ctl (s : State) (pa : Nat) (bs : List Byte) : (s.storeBytes pa bs).ctl = s.ctl := rfl
@[simp] theorem State.storeBytes_power (s : State) (pa : Nat) (bs : List Byte) : (s.storeBytes pa bs).power = s.power := rfl
@[simp] theorem State.storeBytes_cur (s : State) (pa : Nat) (bs : List Byte) : (s.storeBytes pa bs).cur = s.cur := rfl
@[simp] theorem State.storeBytes_time (s : State) (pa : Nat) (bs : List Byte) : (s.storeBytes pa bs).time = s.time := rfl
@[simp] theorem State.storeBytes_ptcBase (s : State) (pa : Nat) (bs : List Byte) : (s.storeBytes pa bs).ptcBase = s.ptcBase := rfl
@[simp] theorem State.storeBytes_agenda (s : State) (pa : Nat) (bs : List Byte) : (s.storeBytes pa bs).agenda = s.agenda := rfl
@[simp] theorem State.storeBytes_free (s : State) (pa : Nat) (bs : List Byte) : (s.storeBytes pa bs).free = s.free := rfl
@[simp] theorem State.storeBytes_ids (s : State) (pa : Nat) (bs : List Byte) : (s.storeBytes pa bs).ids = s.ids := rfl

@[simp] theorem State.storeSpill_mem (s : State) (n : Nat) (v : Row) : (s.storeSpill n v).mem = s.mem := rfl
@[simp] theorem State.storeSpill_cur (s : State) (n : Nat) (v : Row) : (s.storeSpill n v).cur = s.cur := rfl

@[simp] theorem State.storeRow_mem (s : State) (n : Nat) (v : Row) (a b : BitVec 32) : (s.storeRow n v a b).mem = s.mem := by
  unfold State.storeRow; split <;> rfl
@[simp] theorem State.storeRow_badMem (s : State) (n : Nat) (v : Row) (a b : BitVec 32) : (s.storeRow n v a b).badMem = s.badMem := by
  unfold State.storeRow; split <;> rfl
@[simp] theorem State.storeRow_dies (s : State) (n : Nat) (v : Row) (a b : BitVec 32) : (s.storeRow n v a b).dies = s.dies := by
  unfold State.storeRow; split <;> rfl
@[simp] theorem State.storeRow_regions (s : State) (n : Nat) (v : Row) (a b : BitVec 32) : (s.storeRow n v a b).regions = s.regions := by
  unfold State.storeRow; split <;> rfl
@[simp] theorem State.storeRow_fab (s : State) (n : Nat) (v : Row) (a b : BitVec 32) : (s.storeRow n v a b).fab = s.fab := by
  unfold State.storeRow; split <;> rfl
@[simp] theorem State.storeRow_jobs (s : State) (n : Nat) (v : Row) (a b : BitVec 32) : (s.storeRow n v a b).jobs = s.jobs := by
  unfold State.storeRow; split <;> rfl
@[simp] theorem State.storeRow_ctl (s : State) (n : Nat) (v : Row) (a b : BitVec 32) : (s.storeRow n v a b).ctl = s.ctl := by
  unfold State.storeRow; split <;> rfl
@[simp] theorem State.storeRow_power (s : State) (n : Nat) (v : Row) (a b : BitVec 32) : (s.storeRow n v a b).power = s.power := by
  unfold State.storeRow; split <;> rfl
@[simp] theorem State.storeRow_cur (s : State) (n : Nat) (v : Row) (a b : BitVec 32) : (s.storeRow n v a b).cur = s.cur := by
  unfold State.storeRow; split <;> rfl
@[simp] theorem State.storeRow_time (s : State) (n : Nat) (v : Row) (a b : BitVec 32) : (s.storeRow n v a b).time = s.time := by
  unfold State.storeRow; split <;> rfl
@[simp] theorem State.storeRow_ptcBase (s : State) (n : Nat) (v : Row) (a b : BitVec 32) : (s.storeRow n v a b).ptcBase = s.ptcBase := by
  unfold State.storeRow; split <;> rfl
@[simp] theorem State.storeRow_agenda (s : State) (n : Nat) (v : Row) (a b : BitVec 32) : (s.storeRow n v a b).agenda = s.agenda := by
  unfold State.storeRow; split <;> rfl
@[simp] theorem State.storeRow_free (s : State) (n : Nat) (v : Row) (a b : BitVec 32) : (s.storeRow n v a b).free = s.free := by
  unfold State.storeRow; split <;> rfl
@[simp] theorem State.storeRow_ids (s : State) (n : Nat) (v : Row) (a b : BitVec 32) : (s.storeRow n v a b).ids = s.ids := by
  unfold State.storeRow; split <;> rfl

/-! ### Reading back an update -/

@[simp] theorem State.updTile_tile (s : State) (t : Nat) (f : Tile → Tile) : (s.updTile t f).tile t = f (s.tile t) := by
  simp [State.updTile, State.tile]

theorem State.updTile_tile_ne (s : State) {t u : Nat} (f : Tile → Tile) (h : u ≠ t) : (s.updTile t f).tile u = s.tile u := by
  simp [State.updTile, State.tile, sget_sput_ne _ _ _ h]

theorem State.updTile_tile_if (s : State) (t u : Nat) (f : Tile → Tile) :
    (s.updTile t f).tile u = if u = t then f (s.tile u) else s.tile u := by
  by_cases h : u = t
  · subst h; simp
  · simp [State.updTile_tile_ne s f h, h]

@[simp] theorem State.updCore_core (s : State) (t : Nat) (f : Core → Core) : ((s.updCore t f).tile t).core = f (s.tile t).core := by
  simp [State.updCore]

@[simp] theorem Core.updCtx_ctx (c : Core) (h : Nat) (f : Ctx → Ctx) : (c.updCtx h f).ctx h = f (c.ctx h) := by
  simp [Core.updCtx, Core.ctx]

theorem Core.updCtx_ctx_ne (c : Core) {h k : Nat} (f : Ctx → Ctx) (n : k ≠ h) : (c.updCtx h f).ctx k = c.ctx k := by
  simp [Core.updCtx, Core.ctx, sget_sput_ne _ _ _ n]

theorem Core.updCtx_ctx_if (c : Core) (h k : Nat) (f : Ctx → Ctx) : (c.updCtx h f).ctx k = if k = h then f (c.ctx k) else c.ctx k := by
  by_cases n : k = h
  · subst n; simp
  · simp [Core.updCtx_ctx_ne c f n, n]

@[simp] theorem State.updCtx_ctxAt (s : State) (t h : Nat) (f : Ctx → Ctx) : (s.updCtx t h f).ctxAt t h = f (s.ctxAt t h) := by
  simp [State.updCtx, State.ctxAt]

theorem State.updCtx_ctxAt_ne (s : State) {t h u k : Nat} (f : Ctx → Ctx) (n : (u, k) ≠ (t, h)) :
    (s.updCtx t h f).ctxAt u k = s.ctxAt u k := by
  by_cases e : u = t
  · subst e
    have hk : k ≠ h := fun e => n (by rw [e])
    simp [State.updCtx, State.updCore, State.ctxAt, Core.updCtx_ctx_ne _ f hk]
  · simp [State.updCtx, State.updCore, State.ctxAt, State.updTile_tile_ne s _ e]

@[simp] theorem State.updMe_me (s : State) (f : Tile → Tile) : (s.updMe f).me = f s.me := by simp [State.me, State.updMe]

@[simp] theorem State.updMyCore_core (s : State) (f : Core → Core) : (s.updMyCore f).me.core = f s.me.core := by
  simp [State.me, State.updMyCore]

@[simp] theorem State.updSelf_ctx (s : State) (f : Ctx → Ctx) : (s.updSelf f).ctx = f s.ctx := by
  simp [State.ctx, State.me, State.updSelf, State.updCtx]

theorem State.updSelf_core (s : State) (f : Ctx → Ctx) : (s.updSelf f).me.core = s.me.core.updCtx s.cur.hw f := by
  simp [State.me, State.updSelf, State.updCtx]

theorem State.updSelf_me (s : State) (f : Ctx → Ctx) : (s.updSelf f).me = { s.me with core := s.me.core.updCtx s.cur.hw f } := by
  simp [State.me, State.updSelf, State.updCtx, State.updCore]

@[simp] theorem State.updNode_node (s : State) (n : Nat) (f : Node → Node) : (s.updNode n f).node n = f (s.node n) := by
  simp [State.updNode, State.node]

@[simp] theorem State.updPort_port (s : State) (p : Nat) (f : Port → Port) : (s.updPort p f).port p = f (s.port p) := by
  simp [State.updPort, State.port]

/-! ### A context changed within a core -/

@[simp] theorem Core.updCtx_isscnt (c : Core) (h : Nat) (f : Ctx → Ctx) : (c.updCtx h f).isscnt = c.isscnt := rfl
@[simp] theorem Core.updCtx_esccnt (c : Core) (h : Nat) (f : Ctx → Ctx) : (c.updCtx h f).esccnt = c.esccnt := rfl
@[simp] theorem Core.updCtx_bcnt (c : Core) (h : Nat) (f : Ctx → Ctx) : (c.updCtx h f).bcnt = c.bcnt := rfl
@[simp] theorem Core.updCtx_ccnt (c : Core) (h : Nat) (f : Ctx → Ctx) : (c.updCtx h f).ccnt = c.ccnt := rfl
@[simp] theorem Core.updCtx_satc (c : Core) (h : Nat) (f : Ctx → Ctx) : (c.updCtx h f).satc = c.satc := rfl
@[simp] theorem Core.updCtx_unfc (c : Core) (h : Nat) (f : Ctx → Ctx) : (c.updCtx h f).unfc = c.unfc := rfl
@[simp] theorem Core.updCtx_canc (c : Core) (h : Nat) (f : Ctx → Ctx) : (c.updCtx h f).canc = c.canc := rfl
@[simp] theorem Core.updCtx_satNow (c : Core) (h : Nat) (f : Ctx → Ctx) : (c.updCtx h f).satNow = c.satNow := rfl
@[simp] theorem Core.updCtx_unfNow (c : Core) (h : Nat) (f : Ctx → Ctx) : (c.updCtx h f).unfNow = c.unfNow := rfl
@[simp] theorem Core.updCtx_canNow (c : Core) (h : Nat) (f : Ctx → Ctx) : (c.updCtx h f).canNow = c.canNow := rfl
@[simp] theorem Core.updCtx_mbud (c : Core) (h : Nat) (f : Ctx → Ctx) : (c.updCtx h f).mbud = c.mbud := rfl
@[simp] theorem Core.updCtx_tb (c : Core) (h : Nat) (f : Ctx → Ctx) : (c.updCtx h f).tb = c.tb := rfl
@[simp] theorem Core.updCtx_te (c : Core) (h : Nat) (f : Ctx → Ctx) : (c.updCtx h f).te = c.te := rfl
@[simp] theorem Core.updCtx_cnt (c : Core) (h : Nat) (f : Ctx → Ctx) : (c.updCtx h f).cnt = c.cnt := rfl
@[simp] theorem Core.updCtx_accs (c : Core) (h : Nat) (f : Ctx → Ctx) : (c.updCtx h f).accs = c.accs := rfl
@[simp] theorem Core.updCtx_wslots (c : Core) (h : Nat) (f : Ctx → Ctx) : (c.updCtx h f).wslots = c.wslots := rfl
@[simp] theorem Core.updCtx_ft (c : Core) (h : Nat) (f : Ctx → Ctx) : (c.updCtx h f).ft = c.ft := rfl
@[simp] theorem Core.updCtx_aq (c : Core) (h : Nat) (f : Ctx → Ctx) : (c.updCtx h f).aq = c.aq := rfl
@[simp] theorem Core.updCtx_nomEnd (c : Core) (h : Nat) (f : Ctx → Ctx) : (c.updCtx h f).nomEnd = c.nomEnd := rfl
@[simp] theorem Core.updCtx_actEnd (c : Core) (h : Nat) (f : Ctx → Ctx) : (c.updCtx h f).actEnd = c.actEnd := rfl
@[simp] theorem Core.updCtx_arrClk (c : Core) (h : Nat) (f : Ctx → Ctx) : (c.updCtx h f).arrClk = c.arrClk := rfl
@[simp] theorem Core.updCtx_mcmds (c : Core) (h : Nat) (f : Ctx → Ctx) : (c.updCtx h f).mcmds = c.mcmds := rfl
@[simp] theorem Core.updCtx_copies (c : Core) (h : Nat) (f : Ctx → Ctx) : (c.updCtx h f).copies = c.copies := rfl
@[simp] theorem Core.updCtx_outAt (c : Core) (h : Nat) (f : Ctx → Ctx) : (c.updCtx h f).outAt = c.outAt := rfl
@[simp] theorem Core.updCtx_inAt (c : Core) (h : Nat) (f : Ctx → Ctx) : (c.updCtx h f).inAt = c.inAt := rfl
@[simp] theorem Core.updCtx_rowAt (c : Core) (h : Nat) (f : Ctx → Ctx) : (c.updCtx h f).rowAt = c.rowAt := rfl
@[simp] theorem Core.updCtx_rows (c : Core) (h : Nat) (f : Ctx → Ctx) : (c.updCtx h f).rows = c.rows := rfl
@[simp] theorem Core.updCtx_fe (c : Core) (h : Nat) (f : Ctx → Ctx) : (c.updCtx h f).fe = c.fe := rfl
@[simp] theorem Core.updCtx_bad (c : Core) (h : Nat) (f : Ctx → Ctx) : (c.updCtx h f).bad = c.bad := rfl
@[simp] theorem Core.updCtx_sems (c : Core) (h : Nat) (f : Ctx → Ctx) : (c.updCtx h f).sems = c.sems := rfl
@[simp] theorem Core.updCtx_semIn (c : Core) (h : Nat) (f : Ctx → Ctx) : (c.updCtx h f).semIn = c.semIn := rfl
@[simp] theorem Core.updCtx_bars (c : Core) (h : Nat) (f : Ctx → Ctx) : (c.updCtx h f).bars = c.bars := rfl
@[simp] theorem Core.updCtx_barIn (c : Core) (h : Nat) (f : Ctx → Ctx) : (c.updCtx h f).barIn = c.barIn := rfl
@[simp] theorem Core.updCtx_tgenLag (c : Core) (h : Nat) (f : Ctx → Ctx) : (c.updCtx h f).tgenLag = c.tgenLag := rfl
@[simp] theorem Core.updCtx_dC (c : Core) (h : Nat) (f : Ctx → Ctx) : (c.updCtx h f).dC = c.dC := rfl
@[simp] theorem Core.updCtx_dV (c : Core) (h : Nat) (f : Ctx → Ctx) : (c.updCtx h f).dV = c.dV := rfl
@[simp] theorem Core.updCtx_dM (c : Core) (h : Nat) (f : Ctx → Ctx) : (c.updCtx h f).dM = c.dM := rfl
@[simp] theorem Core.updCtx_dY (c : Core) (h : Nat) (f : Ctx → Ctx) : (c.updCtx h f).dY = c.dY := rfl
@[simp] theorem Core.updCtx_divs (c : Core) (h : Nat) (f : Ctx → Ctx) : (c.updCtx h f).divs = c.divs := rfl
@[simp] theorem Core.updCtx_units (c : Core) (h : Nat) (f : Ctx → Ctx) : (c.updCtx h f).units = c.units := rfl
@[simp] theorem Core.updCtx_primary (c : Core) (h : Nat) (f : Ctx → Ctx) : (c.updCtx h f).primary = c.primary := rfl
@[simp] theorem Core.updCtx_rrp (c : Core) (h : Nat) (f : Ctx → Ctx) : (c.updCtx h f).rrp = c.rrp := rfl
@[simp] theorem Core.updCtx_matAt (c : Core) (h : Nat) (f : Ctx → Ctx) : (c.updCtx h f).matAt = c.matAt := rfl
@[simp] theorem Core.updCtx_banks (c : Core) (h : Nat) (f : Ctx → Ctx) : (c.updCtx h f).banks = c.banks := rfl
@[simp] theorem Core.updCtx_landAt (c : Core) (h : Nat) (f : Ctx → Ctx) : (c.updCtx h f).landAt = c.landAt := rfl
@[simp] theorem Core.updCtx_ctlb (c : Core) (h : Nat) (f : Ctx → Ctx) : (c.updCtx h f).ctlb = c.ctlb := rfl

@[simp] theorem Core.updCtx_row (c : Core) (h : Nat) (f : Ctx → Ctx) (n : Nat) : (c.updCtx h f).row n = c.row n := rfl
@[simp] theorem Core.updCtx_feBits (c : Core) (h : Nat) (f : Ctx → Ctx) (n : Nat) : (c.updCtx h f).feBits n = c.feBits n := rfl
@[simp] theorem Core.updCtx_cycle (c : Core) (h : Nat) (f : Ctx → Ctx) : (c.updCtx h f).cycle = c.cycle := rfl
@[simp] theorem Core.updCtx_latency (c : Core) (h : Nat) (f : Ctx → Ctx) (d l : Nat) : (c.updCtx h f).latency d l = c.latency d l := rfl

/-! ### A core changed within a tile -/

@[simp] theorem State.updCore_tile_region (s : State) (t : Nat) (f : Core → Core) : ((s.updCore t f).tile t).region = (s.tile t).region := by
  simp [State.updCore]
@[simp] theorem State.updCore_tile_rplcnt (s : State) (t : Nat) (f : Core → Core) : ((s.updCore t f).tile t).rplcnt = (s.tile t).rplcnt := by
  simp [State.updCore]
@[simp] theorem State.updCore_tile_repcnt (s : State) (t : Nat) (f : Core → Core) : ((s.updCore t f).tile t).repcnt = (s.tile t).repcnt := by
  simp [State.updCore]
@[simp] theorem State.updCore_tile_clock (s : State) (t : Nat) (f : Core → Core) : ((s.updCore t f).tile t).clock = (s.tile t).clock := by
  simp [State.updCore]
@[simp] theorem State.updCore_tile_froze (s : State) (t : Nat) (f : Core → Core) : ((s.updCore t f).tile t).froze = (s.tile t).froze := by
  simp [State.updCore]
@[simp] theorem State.updCore_tile_still (s : State) (t : Nat) (f : Core → Core) : ((s.updCore t f).tile t).still = (s.tile t).still := by
  simp [State.updCore]
@[simp] theorem State.updCore_tile_ice (s : State) (t : Nat) (f : Core → Core) : ((s.updCore t f).tile t).ice = (s.tile t).ice := by
  simp [State.updCore]
@[simp] theorem State.updCore_tile_live (s : State) (t : Nat) (f : Core → Core) : ((s.updCore t f).tile t).live = (s.tile t).live := by
  simp [State.updCore]
@[simp] theorem State.updCore_tile_replayBuf (s : State) (t : Nat) (f : Core → Core) : ((s.updCore t f).tile t).replayBuf = (s.tile t).replayBuf := by
  simp [State.updCore]
@[simp] theorem State.updCore_tile_retired (s : State) (t : Nat) (f : Core → Core) : ((s.updCore t f).tile t).retired = (s.tile t).retired := by
  simp [State.updCore]
@[simp] theorem State.updCore_tile_grans (s : State) (t : Nat) (f : Core → Core) : ((s.updCore t f).tile t).grans = (s.tile t).grans := by
  simp [State.updCore]
@[simp] theorem State.updCore_tile_barsUsed (s : State) (t : Nat) (f : Core → Core) : ((s.updCore t f).tile t).barsUsed = (s.tile t).barsUsed := by
  simp [State.updCore]
@[simp] theorem State.updCore_tile_clean (s : State) (t : Nat) (f : Core → Core) : ((s.updCore t f).tile t).clean = (s.tile t).clean := by
  simp [State.updCore]
@[simp] theorem State.updCore_tile_rtlb (s : State) (t : Nat) (f : Core → Core) : ((s.updCore t f).tile t).rtlb = (s.tile t).rtlb := by
  simp [State.updCore]
@[simp] theorem State.updCore_tile_ptlb (s : State) (t : Nat) (f : Core → Core) : ((s.updCore t f).tile t).ptlb = (s.tile t).ptlb := by
  simp [State.updCore]
@[simp] theorem State.updCore_tile_chinook (s : State) (t : Nat) (f : Core → Core) : ((s.updCore t f).tile t).chinook = (s.tile t).chinook := by
  simp [State.updCore]
@[simp] theorem State.updCore_tile_pair (s : State) (t : Nat) (f : Core → Core) : ((s.updCore t f).tile t).pair = (s.tile t).pair := by
  simp [State.updCore]
@[simp] theorem State.updCore_tile_trail (s : State) (t : Nat) (f : Core → Core) : ((s.updCore t f).tile t).trail = (s.tile t).trail := by
  simp [State.updCore]
@[simp] theorem State.updCore_tile_ctxCycles (s : State) (t : Nat) (f : Core → Core) : ((s.updCore t f).tile t).ctxCycles = (s.tile t).ctxCycles := by
  simp [State.updCore]
@[simp] theorem State.updCore_tile_waitCycles (s : State) (t : Nat) (f : Core → Core) : ((s.updCore t f).tile t).waitCycles = (s.tile t).waitCycles := by
  simp [State.updCore]
@[simp] theorem State.updCore_tile_fresh (s : State) (t : Nat) (f : Core → Core) : ((s.updCore t f).tile t).fresh = (s.tile t).fresh := by
  simp [State.updCore]

/-! ### A power region changed -/

@[simp] theorem State.updRegion_mem (s : State) (r : Nat) (f : PowerRegion → PowerRegion) : (s.updRegion r f).mem = s.mem := rfl
@[simp] theorem State.updRegion_badMem (s : State) (r : Nat) (f : PowerRegion → PowerRegion) : (s.updRegion r f).badMem = s.badMem := rfl
@[simp] theorem State.updRegion_tiles (s : State) (r : Nat) (f : PowerRegion → PowerRegion) : (s.updRegion r f).tiles = s.tiles := rfl
@[simp] theorem State.updRegion_dies (s : State) (r : Nat) (f : PowerRegion → PowerRegion) : (s.updRegion r f).dies = s.dies := rfl
@[simp] theorem State.updRegion_fab (s : State) (r : Nat) (f : PowerRegion → PowerRegion) : (s.updRegion r f).fab = s.fab := rfl
@[simp] theorem State.updRegion_jobs (s : State) (r : Nat) (f : PowerRegion → PowerRegion) : (s.updRegion r f).jobs = s.jobs := rfl
@[simp] theorem State.updRegion_ctl (s : State) (r : Nat) (f : PowerRegion → PowerRegion) : (s.updRegion r f).ctl = s.ctl := rfl
@[simp] theorem State.updRegion_power (s : State) (r : Nat) (f : PowerRegion → PowerRegion) : (s.updRegion r f).power = s.power := rfl
@[simp] theorem State.updRegion_cur (s : State) (r : Nat) (f : PowerRegion → PowerRegion) : (s.updRegion r f).cur = s.cur := rfl
@[simp] theorem State.updRegion_time (s : State) (r : Nat) (f : PowerRegion → PowerRegion) : (s.updRegion r f).time = s.time := rfl
@[simp] theorem State.updRegion_ptcBase (s : State) (r : Nat) (f : PowerRegion → PowerRegion) : (s.updRegion r f).ptcBase = s.ptcBase := rfl
@[simp] theorem State.updRegion_agenda (s : State) (r : Nat) (f : PowerRegion → PowerRegion) : (s.updRegion r f).agenda = s.agenda := rfl
@[simp] theorem State.updRegion_free (s : State) (r : Nat) (f : PowerRegion → PowerRegion) : (s.updRegion r f).free = s.free := rfl
@[simp] theorem State.updRegion_ids (s : State) (r : Nat) (f : PowerRegion → PowerRegion) : (s.updRegion r f).ids = s.ids := rfl

/-- What a change of a power region gives: the pulses received are counted up to now where the rate changes (R391). -/
theorem State.updRegion_region (s : State) (r k : Nat) (f : PowerRegion → PowerRegion) :
    sget PowerRegion.reset (s.updRegion r f).regions k =
      let p := sget PowerRegion.reset s.regions r
      if k = r then (if (f p).rate = p.rate then f p else { f p with passed := p.received s.time, mark := s.time })
      else sget PowerRegion.reset s.regions k := by
  simp only [State.updRegion, sget_sput]

/-! ### Events put into the agenda -/

@[simp] theorem State.atTick_mem (s : State) (tick : Nat) (e : Event) : (s.atTick tick e).mem = s.mem := rfl
@[simp] theorem State.atTick_badMem (s : State) (tick : Nat) (e : Event) : (s.atTick tick e).badMem = s.badMem := rfl
@[simp] theorem State.atTick_tiles (s : State) (tick : Nat) (e : Event) : (s.atTick tick e).tiles = s.tiles := rfl
@[simp] theorem State.atTick_dies (s : State) (tick : Nat) (e : Event) : (s.atTick tick e).dies = s.dies := rfl
@[simp] theorem State.atTick_regions (s : State) (tick : Nat) (e : Event) : (s.atTick tick e).regions = s.regions := rfl
@[simp] theorem State.atTick_fab (s : State) (tick : Nat) (e : Event) : (s.atTick tick e).fab = s.fab := rfl
@[simp] theorem State.atTick_jobs (s : State) (tick : Nat) (e : Event) : (s.atTick tick e).jobs = s.jobs := rfl
@[simp] theorem State.atTick_ctl (s : State) (tick : Nat) (e : Event) : (s.atTick tick e).ctl = s.ctl := rfl
@[simp] theorem State.atTick_power (s : State) (tick : Nat) (e : Event) : (s.atTick tick e).power = s.power := rfl
@[simp] theorem State.atTick_cur (s : State) (tick : Nat) (e : Event) : (s.atTick tick e).cur = s.cur := rfl
@[simp] theorem State.atTick_time (s : State) (tick : Nat) (e : Event) : (s.atTick tick e).time = s.time := rfl
@[simp] theorem State.atTick_ptcBase (s : State) (tick : Nat) (e : Event) : (s.atTick tick e).ptcBase = s.ptcBase := rfl
@[simp] theorem State.atTick_free (s : State) (tick : Nat) (e : Event) : (s.atTick tick e).free = s.free := rfl
@[simp] theorem State.atTick_ids (s : State) (tick : Nat) (e : Event) : (s.atTick tick e).ids = s.ids := rfl

/-- What one insertion leaves of the agenda: the events that stood there and the new one. -/
theorem mem_insertEvent {n : Nat} {e : Event} {a : List (Nat × Event)} {p : Nat × Event} : p ∈ insertEvent n e a ↔ p = (n, e) ∨ p ∈ a := by
  induction a with
  | nil => simp [insertEvent]
  | cons q r ih =>
    obtain ⟨m, d⟩ := q
    simp only [insertEvent]
    split
    · simp only [List.mem_cons]
    · simp only [List.mem_cons, ih, or_left_comm]

theorem State.mem_atTick {s : State} {tick : Nat} {e : Event} {p : Nat × Event} :
    p ∈ (s.atTick tick e).agenda ↔ p = (2 * tick, e) ∨ p ∈ s.agenda := mem_insertEvent

/-! ### What the engines read (R323) -/

/-- With no store on its way to CM an engine reads the rows as they stand. -/
@[simp] theorem Tile.engineView_of_none {t : Tile} (h : t.fresh = []) (id : Nat) : t.engineView id = t.core := by
  simp [Tile.engineView, h]

end Sys2Proof.Machine
end

