-- ==== Sys2Proof/Laws/Issue.lean ====
section
/-! SUPPORT. The issue of one operation: what it answers when its guard is off, when it acts, and when something holds it. -/

namespace Sys2Proof.Machine

/-- Nothing traps an operation that issues clear. -/
theorem slotTrap_none_of_clear {i : Instr} {s : State} (h : Clear i s) : s.slotTrap i = none := by
  have inside : (s.ctx.strict && ((i.scratch s).toList ++ i.engineEa s).any fun ea => ea.toNat / 2 ^ 18 != 0) = false := by
    cases hs : s.ctx.strict
    · rfl
    · rw [Bool.true_and, List.any_eq_false]
      intro ea m
      simpa using h.inside hs ea m
  unfold State.slotTrap
  rw [h.working, h.allowed, h.calm]
  simp only [Bool.false_eq_true, if_false]
  rw [inside]
  simp only [Bool.false_eq_true, if_false]
  cases he : i.scratch s with
  | none => rfl
  | some ea => simp only [h.sound ea he, if_true]

/-- An operation that issues clear may go. -/
theorem verdict_go_of_clear {i : Instr} {s : State} (h : Clear i s) : s.verdict i = .go := by
  have early : (s.ctx.strict && s.anyEarly i.condRegs) = false := by
    cases hs : s.ctx.strict
    · rfl
    · rw [h.tested hs]; rfl
  unfold State.verdict
  simp [early, h.waited, h.thawed, h.room, h.counted, slotTrap_none_of_clear h]

/-- An operation that acts has its own effect. -/
theorem issueSlot_of_acts {i : Instr} {s : State} (h : Acts i s) (act : State → State) : issueSlot i.sp i s act = .next (act s) := by
  obtain ⟨g, h⟩ := h
  unfold issueSlot
  cases hc : s.cur.checked
  · rw [hc] at h
    rcases h with h | h
    · cases h
    · simp [g, verdict_go_of_clear h]
  · simp [g]

/-- An engine command that acts has its own effect and is counted. -/
theorem issueCommand_of_acts {i : Instr} {s : State} (h : Acts i s) (act : State → State) :
    issueCommand i.sp i s act = .next (act s).countCommand := issueSlot_of_acts h _

/-- What `exec` answers for an operation that acts; the second premise is the meaning's own definition, closed by `rfl`. -/
theorem exec_of_acts {i : Instr} {s : State} {act : State → State} (h : Acts i s) (e : exec i s = issueSlot i.sp i s act) :
    exec i s = .next (act s) := e.trans (issueSlot_of_acts h act)

/-- The same for an engine command. -/
theorem exec_of_acts_command {i : Instr} {s : State} {act : State → State} (h : Acts i s) (e : exec i s = issueCommand i.sp i s act) :
    exec i s = .next (act s).countCommand := e.trans (issueCommand_of_acts h act)

/-- An operation whose guard is off does nothing. -/
theorem issueSlot_of_guardOff {sp : BitVec 3} {i : Instr} {s : State} (h : s.guardOn sp = false) (act : State → State) :
    issueSlot sp i s act = .next s := by simp [issueSlot, h]

/-- The issue of an operation always answers a next state. -/
theorem issueSlot_next (sp : BitVec 3) (i : Instr) (s : State) (act : State → State) : ∃ t, issueSlot sp i s act = .next t := ⟨_, rfl⟩

/-- An operation that something holds, freezes, blocks or traps does that and nothing else. -/
theorem issueSlot_of_verdict {i : Instr} {s : State} (act : State → State) (g : s.guardOn i.sp = true) (u : s.cur.checked = false) :
    issueSlot i.sp i s act = .next (match s.verdict i with
      | .go => act s
      | .trap code aux w3 w2 => s.raise code aux w3 w2
      | .hold => s.holdBundle
      | .freeze => s.updMe fun t => t.frozen true
      | .block => s) := by
  simp only [issueSlot, g, u, Bool.not_true, Bool.false_eq_true, if_false] <;> rfl

end Sys2Proof.Machine
end

