-- ==== Sys2Proof/Laws/Slots.lean ====
section
/-! SUPPORT. Every operation of a slot is the issue of one operation under its own stage field. -/

namespace Sys2Proof.Machine

/-- Every operation that has a word of a slot is issued by `issueSlot`, with some effect of its own. -/
theorem exec_slot (i : Instr) (s : State) (h : i.encode ≠ none) : ∃ act, exec i s = issueSlot i.sp i s act := by
  cases i
  case add => unfold exec execAdd alu2; exact ⟨_, rfl⟩
  case sub => unfold exec execSub alu2; exact ⟨_, rfl⟩
  case and => unfold exec execAnd alu2; exact ⟨_, rfl⟩
  case or => unfold exec execOr alu2; exact ⟨_, rfl⟩
  case xor => unfold exec execXor alu2; exact ⟨_, rfl⟩
  case andn => unfold exec execAndn alu2; exact ⟨_, rfl⟩
  case shl => unfold exec execShl alu2; exact ⟨_, rfl⟩
  case shr => unfold exec execShr alu2; exact ⟨_, rfl⟩
  case sar => unfold exec execSar alu2; exact ⟨_, rfl⟩
  case rol => unfold exec execRol alu2; exact ⟨_, rfl⟩
  case min => unfold exec execMin alu2; exact ⟨_, rfl⟩
  case max => unfold exec execMax alu2; exact ⟨_, rfl⟩
  case minn => unfold exec execMinn alu2; exact ⟨_, rfl⟩
  case maxn => unfold exec execMaxn alu2; exact ⟨_, rfl⟩
  case seq => unfold exec execSeq alu2; exact ⟨_, rfl⟩
  case slt => unfold exec execSlt alu2; exact ⟨_, rfl⟩
  case sltn => unfold exec execSltn alu2; exact ⟨_, rfl⟩
  case sel => unfold exec execSel; exact ⟨_, rfl⟩
  case clz => unfold exec execClz alu1; exact ⟨_, rfl⟩
  case popc => unfold exec execPopc alu1; exact ⟨_, rfl⟩
  case addsh => unfold exec execAddsh alu2; exact ⟨_, rfl⟩
  case addw => unfold exec execAddw alu2; exact ⟨_, rfl⟩
  case bext => unfold exec execBext alu1; exact ⟨_, rfl⟩
  case bins => unfold exec execBins; exact ⟨_, rfl⟩
  case mul => unfold exec execMul alu2; exact ⟨_, rfl⟩
  case mulh => unfold exec execMulh alu2; exact ⟨_, rfl⟩
  case mulhn => unfold exec execMulhn alu2; exact ⟨_, rfl⟩
  case div => unfold exec execDiv alu2; exact ⟨_, rfl⟩
  case divn => unfold exec execDivn alu2; exact ⟨_, rfl⟩
  case rem => unfold exec execRem alu2; exact ⟨_, rfl⟩
  case remn => unfold exec execRemn alu2; exact ⟨_, rfl⟩
  case addi => unfold exec execAddi alu1; exact ⟨_, rfl⟩
  case andi => unfold exec execAndi alu1; exact ⟨_, rfl⟩
  case ori => unfold exec execOri alu1; exact ⟨_, rfl⟩
  case xori => unfold exec execXori alu1; exact ⟨_, rfl⟩
  case shli => unfold exec execShli alu1; exact ⟨_, rfl⟩
  case shri => unfold exec execShri alu1; exact ⟨_, rfl⟩
  case sari => unfold exec execSari alu1; exact ⟨_, rfl⟩
  case slti => unfold exec execSlti alu1; exact ⟨_, rfl⟩
  case sltni => unfold exec execSltni alu1; exact ⟨_, rfl⟩
  case seqi => unfold exec execSeqi alu1; exact ⟨_, rfl⟩
  case movl => unfold exec execMovl; exact ⟨_, rfl⟩
  case cati => unfold exec execCati; exact ⟨_, rfl⟩
  case ldx => unfold exec execLdx; exact ⟨_, rfl⟩
  case stx => unfold exec execStx; exact ⟨_, rfl⟩
  case ldv => unfold exec execLdv; exact ⟨_, rfl⟩
  case stv => unfold exec execStv; exact ⟨_, rfl⟩
  case stvp => unfold exec execStvp; exact ⟨_, rfl⟩
  case ldxf => unfold exec execLdxf; exact ⟨_, rfl⟩
  case stxe => unfold exec execStxe; exact ⟨_, rfl⟩
  case ldvf => unfold exec execLdvf; exact ⟨_, rfl⟩
  case stve => unfold exec execStve; exact ⟨_, rfl⟩
  case setfe => unfold exec execSetfe; exact ⟨_, rfl⟩
  case getfe => unfold exec execGetfe; exact ⟨_, rfl⟩
  case ldsp => unfold exec execLdsp; exact ⟨_, rfl⟩
  case stsp => unfold exec execStsp; exact ⟨_, rfl⟩
  case ldspv => unfold exec execLdspv; exact ⟨_, rfl⟩
  case stspv => unfold exec execStspv; exact ⟨_, rfl⟩
  case aadd => unfold exec execAadd atomicWord; exact ⟨_, rfl⟩
  case amin => unfold exec execAmin atomicWord; exact ⟨_, rfl⟩
  case amax => unfold exec execAmax atomicWord; exact ⟨_, rfl⟩
  case aminn => unfold exec execAminn atomicWord; exact ⟨_, rfl⟩
  case amaxn => unfold exec execAmaxn atomicWord; exact ⟨_, rfl⟩
  case aand => unfold exec execAand atomicWord; exact ⟨_, rfl⟩
  case aor => unfold exec execAor atomicWord; exact ⟨_, rfl⟩
  case axor => unfold exec execAxor atomicWord; exact ⟨_, rfl⟩
  case aswp => unfold exec execAswp atomicWord; exact ⟨_, rfl⟩
  case acas => unfold exec execAcas atomicWord; exact ⟨_, rfl⟩
  case vaor => unfold exec execVaor atomicRow; exact ⟨_, rfl⟩
  case vaadd => unfold exec execVaadd atomicRow; exact ⟨_, rfl⟩
  case gldx => unfold exec execGldx; exact ⟨_, rfl⟩
  case gstx => unfold exec execGstx; exact ⟨_, rfl⟩
  case gldv => unfold exec execGldv; exact ⟨_, rfl⟩
  case gstv => unfold exec execGstv; exact ⟨_, rfl⟩
  case gamo => unfold exec execGamo; exact ⟨_, rfl⟩
  case gred => unfold exec execGred; exact ⟨_, rfl⟩
  case drain => unfold exec execDrain; exact ⟨_, rfl⟩
  case vadd => unfold exec execVadd; exact ⟨_, rfl⟩
  case vsub => unfold exec execVsub; exact ⟨_, rfl⟩
  case vmul => unfold exec execVmul; exact ⟨_, rfl⟩
  case vfma => unfold exec execVfma; exact ⟨_, rfl⟩
  case vfms => unfold exec execVfms; exact ⟨_, rfl⟩
  case vmin => unfold exec execVmin; exact ⟨_, rfl⟩
  case vmax => unfold exec execVmax; exact ⟨_, rfl⟩
  case vminn => unfold exec execVminn; exact ⟨_, rfl⟩
  case vmaxn => unfold exec execVmaxn; exact ⟨_, rfl⟩
  case vabs => unfold exec execVabs; exact ⟨_, rfl⟩
  case vneg => unfold exec execVneg; exact ⟨_, rfl⟩
  case vadds => unfold exec execVadds; exact ⟨_, rfl⟩
  case vsubs => unfold exec execVsubs; exact ⟨_, rfl⟩
  case vmulh => unfold exec execVmulh; exact ⟨_, rfl⟩
  case vmulhn => unfold exec execVmulhn; exact ⟨_, rfl⟩
  case vdot => unfold exec execVdot; exact ⟨_, rfl⟩
  case vand => unfold exec execVand; exact ⟨_, rfl⟩
  case vor => unfold exec execVor; exact ⟨_, rfl⟩
  case vxor => unfold exec execVxor; exact ⟨_, rfl⟩
  case vandn => unfold exec execVandn; exact ⟨_, rfl⟩
  case vshl => unfold exec execVshl; exact ⟨_, rfl⟩
  case vshr => unfold exec execVshr; exact ⟨_, rfl⟩
  case vsar => unfold exec execVsar; exact ⟨_, rfl⟩
  case vshli => unfold exec execVshli; exact ⟨_, rfl⟩
  case vshri => unfold exec execVshri; exact ⟨_, rfl⟩
  case vpopc => unfold exec execVpopc; exact ⟨_, rfl⟩
  case vclz => unfold exec execVclz; exact ⟨_, rfl⟩
  case vcmpeq => unfold exec execVcmpeq compareOp; exact ⟨_, rfl⟩
  case vcmpne => unfold exec execVcmpne compareOp; exact ⟨_, rfl⟩
  case vcmplt => unfold exec execVcmplt compareOp; exact ⟨_, rfl⟩
  case vcmple => unfold exec execVcmple compareOp; exact ⟨_, rfl⟩
  case vcmpltn => unfold exec execVcmpltn compareOp; exact ⟨_, rfl⟩
  case vcmpun => unfold exec execVcmpun compareOp; exact ⟨_, rfl⟩
  case vsel => unfold exec execVsel; exact ⟨_, rfl⟩
  case vmov => unfold exec execVmov; exact ⟨_, rfl⟩
  case vbcast => unfold exec execVbcast; exact ⟨_, rfl⟩
  case vext => unfold exec execVext; exact ⟨_, rfl⟩
  case vins => unfold exec execVins; exact ⟨_, rfl⟩
  case vperm => unfold exec execVperm; exact ⟨_, rfl⟩
  case vrot => unfold exec execVrot; exact ⟨_, rfl⟩
  case vmerge => unfold exec execVmerge; exact ⟨_, rfl⟩
  case viota => unfold exec execViota; exact ⟨_, rfl⟩
  case vredadd => unfold exec execVredadd reduceOp; exact ⟨_, rfl⟩
  case vredmax => unfold exec execVredmax reduceOp; exact ⟨_, rfl⟩
  case vredmin => unfold exec execVredmin reduceOp; exact ⟨_, rfl⟩
  case vscan => unfold exec execVscan; exact ⟨_, rfl⟩
  case vcvt => unfold exec execVcvt; exact ⟨_, rfl⟩
  case vpack4 => unfold exec execVpack4; exact ⟨_, rfl⟩
  case vunpk4 => unfold exec execVunpk4; exact ⟨_, rfl⟩
  case vcord => unfold exec execVcord; exact ⟨_, rfl⟩
  case pand => unfold exec execPand; exact ⟨_, rfl⟩
  case por => unfold exec execPor; exact ⟨_, rfl⟩
  case pxor => unfold exec execPxor; exact ⟨_, rfl⟩
  case pnot => unfold exec execPnot; exact ⟨_, rfl⟩
  case pcnt => unfold exec execPcnt; exact ⟨_, rfl⟩
  case pfirst => unfold exec execPfirst; exact ⟨_, rfl⟩
  case ptail => unfold exec execPtail; exact ⟨_, rfl⟩
  case mma => unfold exec execMma issueCommand; exact ⟨_, rfl⟩
  case mmat => unfold exec execMmat issueCommand; exact ⟨_, rfl⟩
  case mmae => unfold exec execMmae issueCommand; exact ⟨_, rfl⟩
  case wbld => unfold exec execWbld issueCommand; exact ⟨_, rfl⟩
  case wbclr => unfold exec execWbclr issueCommand; exact ⟨_, rfl⟩
  case accz => unfold exec execAccz issueCommand; exact ⟨_, rfl⟩
  case accrd => unfold exec execAccrd issueCommand; exact ⟨_, rfl⟩
  case accwr => unfold exec execAccwr issueCommand; exact ⟨_, rfl⟩
  case accbias => unfold exec execAccbias issueCommand; exact ⟨_, rfl⟩
  case accst => unfold exec execAccst issueCommand; exact ⟨_, rfl⟩
  case ftset => unfold exec execFtset issueCommand; exact ⟨_, rfl⟩
  case ftget => unfold exec execFtget issueCommand; exact ⟨_, rfl⟩
  case monrd => unfold exec execMonrd issueCommand; exact ⟨_, rfl⟩
  case monclr => unfold exec execMonclr issueCommand; exact ⟨_, rfl⟩
  case mbset => unfold exec execMbset issueCommand; exact ⟨_, rfl⟩
  case cpy => unfold exec execCpy issueCommand; exact ⟨_, rfl⟩
  case cpy2 => unfold exec execCpy2 issueCommand; exact ⟨_, rfl⟩
  case cpyg => unfold exec execCpyg issueCommand; exact ⟨_, rfl⟩
  case cpys => unfold exec execCpys issueCommand; exact ⟨_, rfl⟩
  case cpyr => unfold exec execCpyr issueCommand; exact ⟨_, rfl⟩
  case cpyt => unfold exec execCpyt issueCommand; exact ⟨_, rfl⟩
  case cpyx => unfold exec execCpyx issueCommand; exact ⟨_, rfl⟩
  case twany => unfold exec execTwany issueCommand; exact ⟨_, rfl⟩
  case twall => unfold exec execTwall issueCommand; exact ⟨_, rfl⟩
  case tffr => unfold exec execTffr issueCommand; exact ⟨_, rfl⟩
  case tclr => unfold exec execTclr issueCommand; exact ⟨_, rfl⟩
  case wait => unfold exec execWait issueCommand; exact ⟨_, rfl⟩
  case semsig => unfold exec execSemsig issueCommand; exact ⟨_, rfl⟩
  case semwait => unfold exec execSemwait issueCommand; exact ⟨_, rfl⟩
  case semrd => unfold exec execSemrd issueCommand; exact ⟨_, rfl⟩
  case bararv => unfold exec execBararv issueCommand; exact ⟨_, rfl⟩
  case barwt => unfold exec execBarwt issueCommand; exact ⟨_, rfl⟩
  case treearv => unfold exec execTreearv issueCommand; exact ⟨_, rfl⟩
  case treewt => unfold exec execTreewt issueCommand; exact ⟨_, rfl⟩
  case treemask => unfold exec execTreemask issueCommand; exact ⟨_, rfl⟩
  case next => unfold exec execNext issueCommand; exact ⟨_, rfl⟩
  case launch => unfold exec execLaunch issueCommand; exact ⟨_, rfl⟩
  case task => unfold exec execTask issueCommand; exact ⟨_, rfl⟩
  case doneUnit => unfold exec execDoneUnit issueCommand; exact ⟨_, rfl⟩
  case doneItem => unfold exec execDoneItem issueCommand; exact ⟨_, rfl⟩
  case cancel => unfold exec execCancel issueCommand; exact ⟨_, rfl⟩
  case slabtag => unfold exec execSlabtag issueCommand; exact ⟨_, rfl⟩
  case clkdiv => unfold exec execClkdiv issueCommand; exact ⟨_, rfl⟩
  case timewt => unfold exec execTimewt issueCommand; exact ⟨_, rfl⟩
  case bra => unfold exec execBra branchIf; exact ⟨_, rfl⟩
  case bz => unfold exec execBz branchIf; exact ⟨_, rfl⟩
  case bnz => unfold exec execBnz branchIf; exact ⟨_, rfl⟩
  case bltz => unfold exec execBltz branchIf; exact ⟨_, rfl⟩
  case bgez => unfold exec execBgez branchIf; exact ⟨_, rfl⟩
  case loopb => unfold exec execLoopb; exact ⟨_, rfl⟩
  case loopset => unfold exec execLoopset; exact ⟨_, rfl⟩
  case call => unfold exec execCall; exact ⟨_, rfl⟩
  case jr => unfold exec execJr; exact ⟨_, rfl⟩
  case jalr => unfold exec execJalr; exact ⟨_, rfl⟩
  case trap => unfold exec execTrap; exact ⟨_, rfl⟩
  case eret => unfold exec execEret; exact ⟨_, rfl⟩
  case srd => unfold exec execSrd; exact ⟨_, rfl⟩
  case swr => unfold exec execSwr; exact ⟨_, rfl⟩
  case fence => unfold exec execFence; exact ⟨_, rfl⟩
  case halt => unfold exec execHalt; exact ⟨_, rfl⟩
  case locq => unfold exec execLocq; exact ⟨_, rfl⟩
  case tsr => unfold exec execTsr; exact ⟨_, rfl⟩
  case cyc => unfold exec execCyc; exact ⟨_, rfl⟩
  all_goals exact absurd rfl h

end Sys2Proof.Machine
end

