-- ==== Sys2Proof/Laws/Cycle.lean ====
section
/-! SUPPORT. One control cycle of a tile in which one context issues a bundle of one slot, stage by stage. -/

namespace Sys2Proof.Machine

/-- The module runs the control cycle of the tile whose turn it is when no event comes before it, nor a tree's generation with it. -/
theorem advance_cycle {s0 : State} {t clock : Nat} (hn : s0.nextTile = some (t, clock))
    (ha : ∀ p ∈ s0.agenda.head?, clock ≤ p.1 ∧ (p.1 = clock → p.2.isTgen = false)) : advance s0 = cycle t s0 := by
  unfold advance
  rw [hn]
  cases hq : s0.agenda with
  | nil => rfl
  | cons p l =>
    obtain ⟨h, g⟩ := ha p (by rw [hq]; rfl)
    obtain ⟨a, ev⟩ := p
    simp only at h g ⊢
    rw [if_neg (by
      rintro (h' | ⟨h', e⟩)
      · omega
      · simp [g h'] at e)]

/-- A context without work brings nothing to the issue stage. -/
theorem tend_of_idle {w : State} {t k : Nat} (h : (w.ctxAt t k).owner = .idle) : w.tend t k = (w, none) := by
  unfold State.tend; simp [h]

/-- The sample of an issue cycle changes no tile. -/
@[simp] theorem State.sampled_tile (s : State) (t k : Nat) : (s.sampled t).tile k = s.tile k := rfl

/-- Fetch finds the bundle that stands at an address of a cached line. -/
theorem fetchFrom_bundle {w : State} {t j : Nat} {walks : Bool} {failed fuel pc arrived line b} (hm : w.codeMiss t j pc = false)
   (hl : w.codeLine t j pc = .ok line) (hd : decodeBundle (64 - pc.toNat % 64) arrived (line.drop (pc.toNat % 64)) = .bundle b) :
   w.fetchFrom t j walks failed (fuel + 1) pc arrived = .bundle pc b (w.linkValue t j pc line b.len) := by
  rw [State.fetchFrom.eq_def]; simp [hm, hl, hd]

/-- A context that stands at a bundle with nothing before it brings that bundle. -/
theorem tend_of_bundle {w : State} {t h : Nat} {line b} {x : Ctx} (hx' : w.ctxAt t h = x) (hx : x.owner ≠ .idle) (h1 : x.stopped = false)
   (h2 : x.handler = none) (h3 : x.stop = .run) (h5 : x.halted = false) (h6 : x.pause = 0) (h7 : x.errs = []) (h8 : x.fetchWait = false)
   (hm : w.codeMiss t x.job x.pc = false) (hl : w.codeLine t x.job x.pc = .ok line) (hd : decodeBundle (64 - x.pc.toNat % 64) x.arrived (line.drop (x.pc.toNat % 64)) = .bundle b) :
   w.tend t h = (w.updCtx t h fun k => { k with pc := x.pc }, some (.bundle x.pc b (w.linkValue t x.job x.pc line b.len))) := by
  have hf : w.fetch t x = .bundle x.pc b (w.linkValue t x.job x.pc line b.len) := fetchFrom_bundle hm hl hd
  unfold State.tend
  have hdue : w.dueErr t h = none := by unfold State.dueErr; simp [hx', h7]
  simp only [hx', hx, h1, h2, h3, h5, h6, h8, hdue]
  simp
  rw [hf]

/-- With one context at work, the issue stage has its bundle alone. -/
theorem tendAll_of_one {w : State} {t h : Nat} {r} {w' : State} (h4 : h < 4) (ho : ∀ k < 4, k ≠ h → (w.ctxAt t k).owner = .idle)
  (ho' : ∀ k < 4, k ≠ h → (w'.ctxAt t k).owner = .idle) (ht : w.tend t h = (w', some r)) : w.tendAll t = (w', [(h, r)]) := by
  unfold State.tendAll hwNumbers
  have e0 := fun k hk hne => tend_of_idle (t := t) (k := k) (ho k hk hne)
  have e1 := fun k hk hne => tend_of_idle (t := t) (k := k) (ho' k hk hne)
  have : h = 0 ∨ h = 1 ∨ h = 2 ∨ h = 3 := by omega
  rcases this with rfl | rfl | rfl | rfl
  · simp [List.foldl, ht, e1 1 (by omega) (by omega), e1 2 (by omega) (by omega), e1 3 (by omega) (by omega)]
  · simp [List.foldl, ht, e0 0 (by omega) (by omega), e1 2 (by omega) (by omega), e1 3 (by omega) (by omega)]
  · simp [List.foldl, ht, e0 0 (by omega) (by omega), e0 1 (by omega) (by omega), e1 3 (by omega) (by omega)]
  · simp [List.foldl, ht, e0 0 (by omega) (by omega), e0 1 (by omega) (by omega), e0 2 (by omega) (by omega)]

/-- One slot has one order. -/
theorem slotOrder_one (c : SlotClass) (i : Instr) : slotOrder [(c, i)] = [(c, i)] := by
  unfold slotOrder
  cases hs : Instr.samples i <;> cases c <;> simp [hs]

/-- One slot reads at most one row through its address. -/
theorem xRows_one (r : State) (c i) : ∃ l, r.xRows [(c, i)] = l ∧ l.length ≤ 1 := by
  refine ⟨_, rfl, ?_⟩
  unfold State.xRows
  exact (List.length_filterMap_le _ _)

/-- One slot has no bank conflict. -/
theorem bankConflict_one (r : State) (c i) : r.bankConflict [(c, i)] = none := by
  unfold State.bankConflict
  obtain ⟨l, e, hl⟩ := xRows_one r c i
  rw [e]
  match l, hl with
  | [], _ => rfl
  | [a], _ => rfl

/-- A bundle of one slot that issues clear goes. -/
theorem bundleVerdict_one {r : State} {b : Bundle} {c i} (hg : r.guarded b = [(c, i)]) (hrun : r.me.region.run = 0) (hc : Clear i (r.atSlot c)) :
    r.bundleVerdict b = .go := by
  unfold State.bundleVerdict
  simp only [hg]
  have et : r.earlyTest [(c, i)] = none := by
    unfold State.earlyTest
    cases hs : r.ctx.strict
    · rfl
    · have := hc.tested hs
      simp [this]
  have wp : r.waitsPass [(c, i)] = true := by
    unfold State.waitsPass
    simp [hrun, hc.waited]
  have mf : r.me.core.mustFreeze i = false := hc.thawed
  have cb : r.commandBlocks i = false := hc.room
  have cf : r.countersFull i.oldAdds i.ostAdds = false := hc.counted
  have bt : r.bundleTrap [(c, i)] = none := by
    unfold State.bundleTrap
    simp [slotTrap_none_of_clear hc]
  simp [et, wp, mf, State.bundleBlocks, cb, cf, bt, bankConflict_one]

/-- The issue stage of a tile whose one context stands at a bundle of one slot that issues clear. -/
theorem issueStage_one {w u : State} {t h : Nat} {line : List Byte} {b : Bundle} {c : SlotClass} {i : Instr} {x : Ctx} {r e : State}
    (hx' : w.ctxAt t h = x)
    (hr : r = ((w.updCtx t h fun k => { k with pc := x.pc }).sampled t).look t h x.pc (w.linkValue t x.job x.pc line b.len))
    (heq : e = u.endBundle b false (r.collides [(c, i)]) (Instr.waits i))
    (h4 : h < 4) (hp : (w.tile t).core.primary = h) (ho : ∀ k < 4, k ≠ h → (w.ctxAt t k).owner = .idle)
    (hx : x.owner ≠ .idle) (h1 : x.stopped = false) (h2 : x.handler = none) (h3 : x.stop = .run) (h5 : x.halted = false) (h6 : x.pause = 0)
    (h7 : x.errs = []) (h8 : x.fetchWait = false) (hrun : (w.tile t).region.run = 0)
    (hm : w.codeMiss t x.job x.pc = false) (hl : w.codeLine t x.job x.pc = .ok line)
    (hd : decodeBundle (64 - x.pc.toNat % 64) x.arrived (line.drop (x.pc.toNat % 64)) = .bundle b) (hb : b.slots = [(c, i)])
    (hg : r.guardOn i.sp = true) (hc : Clear i (r.atSlot c)) (he : exec i ((r.beginBundle b).atSlot c) = .next u) :
    issueStage t w = .next ⟨e, [h], some (b, r.xRows [(c, i)]), false, none⟩ := by
  have hh := tend_of_bundle hx' hx h1 h2 h3 h5 h6 h7 h8 hm hl hd
  have hall := tendAll_of_one h4 ho (fun k hk hne => by
    rw [State.updCtx_ctxAt_ne _ _ (by simpa using hne)]; exact ho k hk hne) hh
  have hguard : r.guarded b = [(c, i)] := by
    unfold State.guarded; rw [hb]; simp [hg]
  have hrun' : r.me.region.run = 0 := by
    have : r.me = ((w.updCtx t h fun k => { k with pc := x.pc }).tile t) := by rw [hr]; rfl
    rw [this]
    simpa [State.updCtx, State.updCore] using hrun
  have hv := bundleVerdict_one hguard hrun' hc
  have hissue : r.issueBundle b = .next e := by
    unfold State.issueBundle
    simp only [hguard, slotOrder_one, bankConflict_one, runSlots, he, andThen]
    simp [heq]
  unfold issueStage
  rw [hall]
  have hprim : (((w.updCtx t h fun k => { k with pc := x.pc }).sampled t).tile t).core.primary = h := by
    simpa [State.updCtx, State.updCore] using hp
  show streams t _ ((w.updCtx t h fun k => { k with pc := x.pc }).sampled t) = _
  generalize hW : ((w.updCtx t h fun k => { k with pc := x.pc }).sampled t) = W at *
  unfold streams
  simp only [hprim]
  have hturn : primaryTurn t h (some (.bundle x.pc b (w.linkValue t x.job x.pc line b.len))) W =
      .next ⟨e, [h], some (b, r.xRows [(c, i)]), false, none⟩ := by
    unfold primaryTurn
    simp only [← hr, hv, hissue, andThen, hguard]
  simp only [List.find?, beq_self_eq_true, Option.map, hturn, andThen]
  have hnone : ∀ (g : Stage) (l : List Nat), h ∉ l →
      secondaryTurns t [(h, .bundle x.pc b (w.linkValue t x.job x.pc line b.len))] l g = .next g := by
    intro g l
    induction l with
    | nil => intro _; rfl
    | cons a l ih =>
      intro hm
      simp only [List.mem_cons, not_or] at hm
      simp only [secondaryTurns, List.find?]
      rw [show (h == a) = false by simpa using hm.1]
      exact ih hm.2
  split
  · rfl
  · apply hnone
    simp [Core.scan, hprim]

/-- The issue cycle whose stage neither freezes nor commits first ends with that stage. -/
theorem issueCycle_of_stage {w : State} {t : Nat} {g : Stage} (hg : issueStage t w = .next g) (hz : g.freeze = none) (hf : w.commitFirst t g = false) :
   issueCycle t w = .next (g.s.closeCycle t g (w.tile t).core.bcnt) := by
  unfold issueCycle
  rw [hg]
  simp [andThen, hz, hf, finishCycle]

/-- A control cycle whose issue stage neither freezes nor commits first ends with that stage; where the tile still stands in a freeze of R147, once
its bundles no longer ask for it, the stage is that of the thawed tile. -/
theorem cycle_of_stage {s0 o v w : State} {t : Nat} {g : Stage} (h1 : o = { s0 with time := max s0.time (s0.cycleTime t) }.openCycle t)
   (h2 : v = o.settle t) (h3 : w = if (v.tile t).still then v.thaw t else v) (hr : (o.tile t).retired = false) (hs : o.stalled t = none)
   (hq : (v.tile t).still = true → ∃ g', issueStage t v = .next g' ∧ g'.freeze = none) (hg : issueStage t w = .next g) (hz : g.freeze = none)
   (hf : w.commitFirst t g = false) : cycle t s0 = .next ((g.s.closeCycle t g (w.tile t).core.bcnt).soiled t (s0.tile t).core) := by
  have hi := issueCycle_of_stage hg hz hf
  have hc : controlCycle t s0 = issueCycle t w := by
    unfold controlCycle
    simp only [← h1, hr, hs, ← h2]
    cases hst : (v.tile t).still
    · simp [h3, hst]
    · obtain ⟨g', e, z⟩ := hq hst
      simp [h3, hst, e, andThen, z]
  unfold cycle
  rw [hc, hi]
  rfl

end Sys2Proof.Machine
end

