-- ==== Sys2Proof/Laws/Memory.lean ====
section
/-! SUPPORT. Device memory: its one form is kept by every write, and what reads back after a write. -/

namespace Sys2Proof.Machine

/-! ### Rising tables -/

/-- Every key of a table lies above a bound. -/
def above {α : Type} (a : Nat) (m : Sparse α) : Prop := ∀ p ∈ m, a < p.1

/-- A table rises when its first key lies below the others and they rise. -/
theorem rising_cons {α : Type} (a : Nat) (x : α) (m : Sparse α) : rising ((a, x) :: m) = true ↔ above a m ∧ rising m = true := by
  induction m generalizing a x with
  | nil => simp [rising, above]
  | cons p r ih =>
    obtain ⟨b, y⟩ := p
    simp only [rising, Bool.and_eq_true, decide_eq_true_eq]
    constructor
    · rintro ⟨hab, h⟩
      refine ⟨?_, h⟩
      have hb := ((ih b y).1 h).1
      intro q hq
      rcases List.mem_cons.1 hq with rfl | hq
      · exact hab
      · exact Nat.lt_trans hab (hb q hq)
    · rintro ⟨h, h'⟩
      exact ⟨h (b, y) (by simp), h'⟩

/-- Setting a key puts no entry but its own. -/
theorem mem_sput {α : Type} {a : Nat} {x : α} {m : Sparse α} {q : Nat × α} (h : q ∈ sput a x m) : q = (a, x) ∨ q ∈ m := by
  induction m with
  | nil => exact .inl (by simpa [sput] using h)
  | cons p r ih =>
    obtain ⟨k, v⟩ := p
    simp only [sput] at h
    split at h
    · simpa using h
    · split at h
      · rcases List.mem_cons.1 h with h | h
        · exact .inl h
        · exact .inr (by simp [h])
      · rcases List.mem_cons.1 h with h | h
        · exact .inr (by simp [h])
        · rcases ih h with h | h
          · exact .inl h
          · exact .inr (by simp [h])

/-- Removing a key puts no entry. -/
theorem mem_sdel {α : Type} {a : Nat} {m : Sparse α} {q : Nat × α} (h : q ∈ sdel a m) : q ∈ m := by
  induction m with
  | nil => simp [sdel] at h
  | cons p r ih =>
    obtain ⟨k, v⟩ := p
    simp only [sdel] at h
    split at h
    · simp [h]
    · rcases List.mem_cons.1 h with h | h
      · simp [h]
      · simp [ih h]

/-- Setting a key keeps a table rising. -/
theorem rising_sput {α : Type} (a : Nat) (x : α) {m : Sparse α} (h : rising m = true) : rising (sput a x m) = true := by
  induction m with
  | nil => rfl
  | cons p r ih =>
    obtain ⟨k, v⟩ := p
    obtain ⟨hk, hr⟩ := (rising_cons k v r).1 h
    simp only [sput]
    split
    · rename_i hlt
      refine (rising_cons _ _ _).2 ⟨?_, h⟩
      intro q hq
      rcases List.mem_cons.1 hq with rfl | hq
      · exact hlt
      · exact Nat.lt_trans hlt (hk q hq)
    · split
      · rename_i he
        subst he
        exact (rising_cons _ _ _).2 ⟨hk, hr⟩
      · refine (rising_cons _ _ _).2 ⟨?_, ih hr⟩
        intro q hq
        rcases mem_sput hq with rfl | hq
        · show k < a
          omega
        · exact hk q hq

/-- Removing a key keeps a table rising. -/
theorem rising_sdel {α : Type} (a : Nat) {m : Sparse α} (h : rising m = true) : rising (sdel a m) = true := by
  induction m with
  | nil => rfl
  | cons p r ih =>
    obtain ⟨k, v⟩ := p
    obtain ⟨hk, hr⟩ := (rising_cons k v r).1 h
    simp only [sdel]
    split
    · exact hr
    · exact (rising_cons _ _ _).2 ⟨fun q hq => hk q (mem_sdel hq), ih hr⟩

/-- Below its first key a table lists nothing. -/
theorem sget_of_above {α : Type} (d : α) {a : Nat} {m : Sparse α} (h : above a m) : sget d m a = d := by
  induction m with
  | nil => rfl
  | cons p r ih =>
    obtain ⟨k, v⟩ := p
    have : a ≠ k := Nat.ne_of_lt (h (k, v) (by simp))
    simp only [sget, this, if_false]
    exact ih fun q hq => h q (by simp [hq])

/-- A key that has been removed reads as the default, every other as before. -/
theorem sget_sdel {α : Type} (d : α) (a b : Nat) {m : Sparse α} (h : rising m = true) :
    sget d (sdel a m) b = if b = a then d else sget d m b := by
  induction m with
  | nil => simp [sdel, sget]
  | cons p r ih =>
    obtain ⟨k, v⟩ := p
    obtain ⟨hk, hr⟩ := (rising_cons k v r).1 h
    simp only [sdel]
    split
    · rename_i he
      subst he
      split
      · rename_i hb
        subst hb
        exact sget_of_above d hk
      · rename_i hb
        simp [sget, hb]
    · rename_i he
      simp only [sget, ih hr]
      split
      · rename_i hb
        subst hb
        simp [Ne.symm he]
      · rfl

/-! ### Memory -/

/-- Writing one byte keeps memory in its one form. -/
theorem Memory.wf_write {m : List Host.Cell} (pa : Nat) (b : Byte) (h : Memory.wf m = true) : Memory.wf (Memory.write m pa b) = true := by
  unfold Memory.wf Memory.write sset at *
  rw [Bool.and_eq_true, List.all_eq_true] at *
  obtain ⟨h, g⟩ := h
  split
  · exact ⟨rising_sdel pa h, fun q hq => g q (mem_sdel hq)⟩
  · rename_i hb
    refine ⟨rising_sput pa b h, fun q hq => ?_⟩
    rcases mem_sput hq with rfl | hq
    · simpa using hb
    · exact g q hq

/-- Writing bytes keeps memory in its one form. -/
theorem Memory.wf_writeBytes {m : List Host.Cell} (pa : Nat) (bs : List Byte) (h : Memory.wf m = true) :
    Memory.wf (Memory.writeBytes m pa bs) = true := by
  induction bs generalizing m pa with
  | nil => exact h
  | cons b bs ih => exact ih (pa + 1) (Memory.wf_write pa b h)

/-- The one operation that changes memory keeps it in its one form. -/
theorem State.storeBytes_canonical {s : State} (pa : Nat) (bs : List Byte) (h : Memory.wf s.mem = true) :
    Memory.wf (s.storeBytes pa bs).mem = true := Memory.wf_writeBytes pa bs h

/-- A byte reads back after it is written, and no other changes. -/
theorem Memory.read_write {m : List Host.Cell} (pa a : Nat) (b : Byte) (h : Memory.wf m = true) :
    Memory.read (Memory.write m pa b) a = if a = pa then b else Memory.read m a := by
  unfold Memory.wf at h
  rw [Bool.and_eq_true] at h
  unfold Memory.read Memory.write sset
  split
  · rename_i hb
    subst hb
    exact sget_sdel _ _ _ h.1
  · exact sget_sput _ _ _ _ _

/-- Bytes read back after they are written, and no other changes. -/
theorem Memory.read_writeBytes {m : List Host.Cell} (pa a : Nat) (bs : List Byte) (h : Memory.wf m = true) :
    Memory.read (Memory.writeBytes m pa bs) a = if pa ≤ a ∧ a < pa + bs.length then bs.getD (a - pa) 0 else Memory.read m a := by
  induction bs generalizing m pa with
  | nil => simp [Memory.writeBytes]
  | cons b bs ih =>
    rw [Memory.writeBytes, ih (pa + 1) (Memory.wf_write pa b h), Memory.read_write _ _ _ h]
    simp only [List.length_cons]
    by_cases h1 : a = pa
    · subst h1; simp
    · by_cases h2 : pa + 1 ≤ a ∧ a < pa + 1 + bs.length
      · have h3 : pa ≤ a ∧ a < pa + (bs.length + 1) := by omega
        obtain ⟨n, hn⟩ : ∃ n, a - pa = n + 1 := ⟨a - pa - 1, by omega⟩
        have hn' : a - (pa + 1) = n := by omega
        simp [h2, h3, hn, hn']
      · have h3 : ¬(pa ≤ a ∧ a < pa + (bs.length + 1)) := by omega
        rw [if_neg h2, if_neg h3, if_neg h1]

/-- Memory that lists nothing has its one form. -/
theorem Memory.wf_nil : Memory.wf [] = true := rfl

end Sys2Proof.Machine
end

