-- ==== Sys2Proof/Laws/PerInstr.lean ====
section
/-! SUPPORT. Field by field, the operands of every operation fit the word of its encoding (R31, R33, R34). -/

namespace Sys2Proof.Laws

/-- Every value of a list of fields fits its width. -/
inductive Fits : List (Nat × Option Nat) → Prop
  | nil : Fits []
  | val {n v : Nat} {r : List (Nat × Option Nat)} (h : v < 2 ^ n) (hr : Fits r) : Fits ((n, some v) :: r)
  | gap {n : Nat} {r : List (Nat × Option Nat)} (hr : Fits r) : Fits ((n, none) :: r)

/-- The layout of an operation has an opcode of six bits, fills the bits below it, and holds every operand whole. -/
def FieldsFit.Statement (i : Instr) : Prop :=
  match i.layout with
  | none => True
  | some (u, op, fs) => op < 64 ∧ (fs.map (·.1)).sum = u.low ∧ Fits fs

/-- The statement of one operation from its layout. -/
theorem fieldsFit_of {i : Instr} {u : SlotUnit} {op : Nat} {fs : List (Nat × Option Nat)} (h : i.layout = some (u, op, fs))
    (ho : op < 64 ∧ (fs.map (·.1)).sum = u.low) (hf : Fits fs) : FieldsFit.Statement i := by
  unfold FieldsFit.Statement
  rw [h]
  exact ⟨ho.1, ho.2, hf⟩

theorem FieldsFit.add : ∀ sp d a b, FieldsFit.Statement (.add sp d a b) :=
  fun sp d a b => fieldsFit_of rfl ⟨by decide, by simp [SlotUnit.low]⟩ (Fits.gap <| Fits.val b.isLt <| Fits.val a.isLt <| Fits.val d.isLt <| Fits.val sp.isLt <| Fits.nil)
theorem FieldsFit.sub : ∀ sp d a b, FieldsFit.Statement (.sub sp d a b) :=
  fun sp d a b => fieldsFit_of rfl ⟨by decide, by simp [SlotUnit.low]⟩ (Fits.gap <| Fits.val b.isLt <| Fits.val a.isLt <| Fits.val d.isLt <| Fits.val sp.isLt <| Fits.nil)
theorem FieldsFit.and : ∀ sp d a b, FieldsFit.Statement (.and sp d a b) :=
  fun sp d a b => fieldsFit_of rfl ⟨by decide, by simp [SlotUnit.low]⟩ (Fits.gap <| Fits.val b.isLt <| Fits.val a.isLt <| Fits.val d.isLt <| Fits.val sp.isLt <| Fits.nil)
theorem FieldsFit.or : ∀ sp d a b, FieldsFit.Statement (.or sp d a b) :=
  fun sp d a b => fieldsFit_of rfl ⟨by decide, by simp [SlotUnit.low]⟩ (Fits.gap <| Fits.val b.isLt <| Fits.val a.isLt <| Fits.val d.isLt <| Fits.val sp.isLt <| Fits.nil)
theorem FieldsFit.xor : ∀ sp d a b, FieldsFit.Statement (.xor sp d a b) :=
  fun sp d a b => fieldsFit_of rfl ⟨by decide, by simp [SlotUnit.low]⟩ (Fits.gap <| Fits.val b.isLt <| Fits.val a.isLt <| Fits.val d.isLt <| Fits.val sp.isLt <| Fits.nil)
theorem FieldsFit.andn : ∀ sp d a b, FieldsFit.Statement (.andn sp d a b) :=
  fun sp d a b => fieldsFit_of rfl ⟨by decide, by simp [SlotUnit.low]⟩ (Fits.gap <| Fits.val b.isLt <| Fits.val a.isLt <| Fits.val d.isLt <| Fits.val sp.isLt <| Fits.nil)
theorem FieldsFit.shl : ∀ sp d a b, FieldsFit.Statement (.shl sp d a b) :=
  fun sp d a b => fieldsFit_of rfl ⟨by decide, by simp [SlotUnit.low]⟩ (Fits.gap <| Fits.val b.isLt <| Fits.val a.isLt <| Fits.val d.isLt <| Fits.val sp.isLt <| Fits.nil)
theorem FieldsFit.shr : ∀ sp d a b, FieldsFit.Statement (.shr sp d a b) :=
  fun sp d a b => fieldsFit_of rfl ⟨by decide, by simp [SlotUnit.low]⟩ (Fits.gap <| Fits.val b.isLt <| Fits.val a.isLt <| Fits.val d.isLt <| Fits.val sp.isLt <| Fits.nil)
theorem FieldsFit.sar : ∀ sp d a b, FieldsFit.Statement (.sar sp d a b) :=
  fun sp d a b => fieldsFit_of rfl ⟨by decide, by simp [SlotUnit.low]⟩ (Fits.gap <| Fits.val b.isLt <| Fits.val a.isLt <| Fits.val d.isLt <| Fits.val sp.isLt <| Fits.nil)
theorem FieldsFit.rol : ∀ sp d a b, FieldsFit.Statement (.rol sp d a b) :=
  fun sp d a b => fieldsFit_of rfl ⟨by decide, by simp [SlotUnit.low]⟩ (Fits.gap <| Fits.val b.isLt <| Fits.val a.isLt <| Fits.val d.isLt <| Fits.val sp.isLt <| Fits.nil)
theorem FieldsFit.min : ∀ sp d a b, FieldsFit.Statement (.min sp d a b) :=
  fun sp d a b => fieldsFit_of rfl ⟨by decide, by simp [SlotUnit.low]⟩ (Fits.gap <| Fits.val b.isLt <| Fits.val a.isLt <| Fits.val d.isLt <| Fits.val sp.isLt <| Fits.nil)
theorem FieldsFit.max : ∀ sp d a b, FieldsFit.Statement (.max sp d a b) :=
  fun sp d a b => fieldsFit_of rfl ⟨by decide, by simp [SlotUnit.low]⟩ (Fits.gap <| Fits.val b.isLt <| Fits.val a.isLt <| Fits.val d.isLt <| Fits.val sp.isLt <| Fits.nil)
theorem FieldsFit.minn : ∀ sp d a b, FieldsFit.Statement (.minn sp d a b) :=
  fun sp d a b => fieldsFit_of rfl ⟨by decide, by simp [SlotUnit.low]⟩ (Fits.gap <| Fits.val b.isLt <| Fits.val a.isLt <| Fits.val d.isLt <| Fits.val sp.isLt <| Fits.nil)
theorem FieldsFit.maxn : ∀ sp d a b, FieldsFit.Statement (.maxn sp d a b) :=
  fun sp d a b => fieldsFit_of rfl ⟨by decide, by simp [SlotUnit.low]⟩ (Fits.gap <| Fits.val b.isLt <| Fits.val a.isLt <| Fits.val d.isLt <| Fits.val sp.isLt <| Fits.nil)
theorem FieldsFit.seq : ∀ sp d a b, FieldsFit.Statement (.seq sp d a b) :=
  fun sp d a b => fieldsFit_of rfl ⟨by decide, by simp [SlotUnit.low]⟩ (Fits.gap <| Fits.val b.isLt <| Fits.val a.isLt <| Fits.val d.isLt <| Fits.val sp.isLt <| Fits.nil)
theorem FieldsFit.slt : ∀ sp d a b, FieldsFit.Statement (.slt sp d a b) :=
  fun sp d a b => fieldsFit_of rfl ⟨by decide, by simp [SlotUnit.low]⟩ (Fits.gap <| Fits.val b.isLt <| Fits.val a.isLt <| Fits.val d.isLt <| Fits.val sp.isLt <| Fits.nil)
theorem FieldsFit.sltn : ∀ sp d a b, FieldsFit.Statement (.sltn sp d a b) :=
  fun sp d a b => fieldsFit_of rfl ⟨by decide, by simp [SlotUnit.low]⟩ (Fits.gap <| Fits.val b.isLt <| Fits.val a.isLt <| Fits.val d.isLt <| Fits.val sp.isLt <| Fits.nil)
theorem FieldsFit.sel : ∀ sp d a b c, FieldsFit.Statement (.sel sp d a b c) :=
  fun sp d a b c => fieldsFit_of rfl ⟨by decide, by simp [SlotUnit.low]⟩ (Fits.val c.isLt <| Fits.gap <| Fits.val b.isLt <| Fits.val a.isLt <| Fits.val d.isLt <| Fits.val sp.isLt <| Fits.nil)
theorem FieldsFit.clz : ∀ sp d a w, FieldsFit.Statement (.clz sp d a w) :=
  fun sp d a w => fieldsFit_of rfl ⟨by decide, by simp [SlotUnit.low]⟩ (Fits.val w.isLt <| Fits.gap <| Fits.gap <| Fits.val a.isLt <| Fits.val d.isLt <| Fits.val sp.isLt <| Fits.nil)
theorem FieldsFit.popc : ∀ sp d a w, FieldsFit.Statement (.popc sp d a w) :=
  fun sp d a w => fieldsFit_of rfl ⟨by decide, by simp [SlotUnit.low]⟩ (Fits.val w.isLt <| Fits.gap <| Fits.gap <| Fits.val a.isLt <| Fits.val d.isLt <| Fits.val sp.isLt <| Fits.nil)
theorem FieldsFit.addsh : ∀ sp d a b sh, FieldsFit.Statement (.addsh sp d a b sh) :=
  fun sp d a b sh => fieldsFit_of rfl ⟨by decide, by simp [SlotUnit.low]⟩ (Fits.val sh.isLt <| Fits.gap <| Fits.val b.isLt <| Fits.val a.isLt <| Fits.val d.isLt <| Fits.val sp.isLt <| Fits.nil)
theorem FieldsFit.addw : ∀ sp d a b, FieldsFit.Statement (.addw sp d a b) :=
  fun sp d a b => fieldsFit_of rfl ⟨by decide, by simp [SlotUnit.low]⟩ (Fits.gap <| Fits.val b.isLt <| Fits.val a.isLt <| Fits.val d.isLt <| Fits.val sp.isLt <| Fits.nil)
theorem FieldsFit.bext : ∀ sp d a sg len pos, FieldsFit.Statement (.bext sp d a sg len pos) :=
  fun sp d a sg len pos => fieldsFit_of rfl ⟨by decide, by simp [SlotUnit.low]⟩ (Fits.val pos.isLt <| Fits.val len.isLt <| Fits.val sg.isLt <| Fits.val a.isLt <| Fits.val d.isLt <| Fits.val sp.isLt <| Fits.nil)
theorem FieldsFit.bins : ∀ sp d a len pos, FieldsFit.Statement (.bins sp d a len pos) :=
  fun sp d a len pos => fieldsFit_of rfl ⟨by decide, by simp [SlotUnit.low]⟩ (Fits.val pos.isLt <| Fits.val len.isLt <| Fits.gap <| Fits.val a.isLt <| Fits.val d.isLt <| Fits.val sp.isLt <| Fits.nil)
theorem FieldsFit.mul : ∀ sp d a b, FieldsFit.Statement (.mul sp d a b) :=
  fun sp d a b => fieldsFit_of rfl ⟨by decide, by simp [SlotUnit.low]⟩ (Fits.gap <| Fits.val b.isLt <| Fits.val a.isLt <| Fits.val d.isLt <| Fits.val sp.isLt <| Fits.nil)
theorem FieldsFit.mulh : ∀ sp d a b, FieldsFit.Statement (.mulh sp d a b) :=
  fun sp d a b => fieldsFit_of rfl ⟨by decide, by simp [SlotUnit.low]⟩ (Fits.gap <| Fits.val b.isLt <| Fits.val a.isLt <| Fits.val d.isLt <| Fits.val sp.isLt <| Fits.nil)
theorem FieldsFit.mulhn : ∀ sp d a b, FieldsFit.Statement (.mulhn sp d a b) :=
  fun sp d a b => fieldsFit_of rfl ⟨by decide, by simp [SlotUnit.low]⟩ (Fits.gap <| Fits.val b.isLt <| Fits.val a.isLt <| Fits.val d.isLt <| Fits.val sp.isLt <| Fits.nil)
theorem FieldsFit.div : ∀ sp d a b, FieldsFit.Statement (.div sp d a b) :=
  fun sp d a b => fieldsFit_of rfl ⟨by decide, by simp [SlotUnit.low]⟩ (Fits.gap <| Fits.val b.isLt <| Fits.val a.isLt <| Fits.val d.isLt <| Fits.val sp.isLt <| Fits.nil)
theorem FieldsFit.divn : ∀ sp d a b, FieldsFit.Statement (.divn sp d a b) :=
  fun sp d a b => fieldsFit_of rfl ⟨by decide, by simp [SlotUnit.low]⟩ (Fits.gap <| Fits.val b.isLt <| Fits.val a.isLt <| Fits.val d.isLt <| Fits.val sp.isLt <| Fits.nil)
theorem FieldsFit.rem : ∀ sp d a b, FieldsFit.Statement (.rem sp d a b) :=
  fun sp d a b => fieldsFit_of rfl ⟨by decide, by simp [SlotUnit.low]⟩ (Fits.gap <| Fits.val b.isLt <| Fits.val a.isLt <| Fits.val d.isLt <| Fits.val sp.isLt <| Fits.nil)
theorem FieldsFit.remn : ∀ sp d a b, FieldsFit.Statement (.remn sp d a b) :=
  fun sp d a b => fieldsFit_of rfl ⟨by decide, by simp [SlotUnit.low]⟩ (Fits.gap <| Fits.val b.isLt <| Fits.val a.isLt <| Fits.val d.isLt <| Fits.val sp.isLt <| Fits.nil)
theorem FieldsFit.addi : ∀ sp d a imm, FieldsFit.Statement (.addi sp d a imm) :=
  fun sp d a imm => fieldsFit_of rfl ⟨by decide, by simp [SlotUnit.low]⟩ (Fits.val imm.isLt <| Fits.val a.isLt <| Fits.val d.isLt <| Fits.val sp.isLt <| Fits.nil)
theorem FieldsFit.andi : ∀ sp d a imm, FieldsFit.Statement (.andi sp d a imm) :=
  fun sp d a imm => fieldsFit_of rfl ⟨by decide, by simp [SlotUnit.low]⟩ (Fits.val imm.isLt <| Fits.val a.isLt <| Fits.val d.isLt <| Fits.val sp.isLt <| Fits.nil)
theorem FieldsFit.ori : ∀ sp d a imm, FieldsFit.Statement (.ori sp d a imm) :=
  fun sp d a imm => fieldsFit_of rfl ⟨by decide, by simp [SlotUnit.low]⟩ (Fits.val imm.isLt <| Fits.val a.isLt <| Fits.val d.isLt <| Fits.val sp.isLt <| Fits.nil)
theorem FieldsFit.xori : ∀ sp d a imm, FieldsFit.Statement (.xori sp d a imm) :=
  fun sp d a imm => fieldsFit_of rfl ⟨by decide, by simp [SlotUnit.low]⟩ (Fits.val imm.isLt <| Fits.val a.isLt <| Fits.val d.isLt <| Fits.val sp.isLt <| Fits.nil)
theorem FieldsFit.shli : ∀ sp d a n, FieldsFit.Statement (.shli sp d a n) :=
  fun sp d a n => fieldsFit_of rfl ⟨by decide, by simp [SlotUnit.low]⟩ (Fits.val n.isLt <| Fits.gap <| Fits.val a.isLt <| Fits.val d.isLt <| Fits.val sp.isLt <| Fits.nil)
theorem FieldsFit.shri : ∀ sp d a n, FieldsFit.Statement (.shri sp d a n) :=
  fun sp d a n => fieldsFit_of rfl ⟨by decide, by simp [SlotUnit.low]⟩ (Fits.val n.isLt <| Fits.gap <| Fits.val a.isLt <| Fits.val d.isLt <| Fits.val sp.isLt <| Fits.nil)
theorem FieldsFit.sari : ∀ sp d a n, FieldsFit.Statement (.sari sp d a n) :=
  fun sp d a n => fieldsFit_of rfl ⟨by decide, by simp [SlotUnit.low]⟩ (Fits.val n.isLt <| Fits.gap <| Fits.val a.isLt <| Fits.val d.isLt <| Fits.val sp.isLt <| Fits.nil)
theorem FieldsFit.slti : ∀ sp d a imm, FieldsFit.Statement (.slti sp d a imm) :=
  fun sp d a imm => fieldsFit_of rfl ⟨by decide, by simp [SlotUnit.low]⟩ (Fits.val imm.isLt <| Fits.val a.isLt <| Fits.val d.isLt <| Fits.val sp.isLt <| Fits.nil)
theorem FieldsFit.sltni : ∀ sp d a imm, FieldsFit.Statement (.sltni sp d a imm) :=
  fun sp d a imm => fieldsFit_of rfl ⟨by decide, by simp [SlotUnit.low]⟩ (Fits.val imm.isLt <| Fits.val a.isLt <| Fits.val d.isLt <| Fits.val sp.isLt <| Fits.nil)
theorem FieldsFit.seqi : ∀ sp d a imm, FieldsFit.Statement (.seqi sp d a imm) :=
  fun sp d a imm => fieldsFit_of rfl ⟨by decide, by simp [SlotUnit.low]⟩ (Fits.val imm.isLt <| Fits.val a.isLt <| Fits.val d.isLt <| Fits.val sp.isLt <| Fits.nil)
theorem FieldsFit.movl : ∀ sp d imm, FieldsFit.Statement (.movl sp d imm) :=
  fun sp d imm => fieldsFit_of rfl ⟨by decide, by simp [SlotUnit.low]⟩ (Fits.val imm.isLt <| Fits.val d.isLt <| Fits.val sp.isLt <| Fits.nil)
theorem FieldsFit.cati : ∀ sp d imm, FieldsFit.Statement (.cati sp d imm) :=
  fun sp d imm => fieldsFit_of rfl ⟨by decide, by simp [SlotUnit.low]⟩ (Fits.val imm.isLt <| Fits.val d.isLt <| Fits.val sp.isLt <| Fits.nil)
theorem FieldsFit.ldx : ∀ sp t base off, FieldsFit.Statement (.ldx sp t base off) :=
  fun sp t base off => fieldsFit_of rfl ⟨by decide, by simp [SlotUnit.low]⟩ (Fits.val off.isLt <| Fits.val base.isLt <| Fits.val t.isLt <| Fits.val sp.isLt <| Fits.nil)
theorem FieldsFit.stx : ∀ sp t base off, FieldsFit.Statement (.stx sp t base off) :=
  fun sp t base off => fieldsFit_of rfl ⟨by decide, by simp [SlotUnit.low]⟩ (Fits.val off.isLt <| Fits.val base.isLt <| Fits.val t.isLt <| Fits.val sp.isLt <| Fits.nil)
theorem FieldsFit.ldv : ∀ sp t base off, FieldsFit.Statement (.ldv sp t base off) :=
  fun sp t base off => fieldsFit_of rfl ⟨by decide, by simp [SlotUnit.low]⟩ (Fits.val off.isLt <| Fits.val base.isLt <| Fits.val t.isLt <| Fits.val sp.isLt <| Fits.nil)
theorem FieldsFit.stv : ∀ sp t base off, FieldsFit.Statement (.stv sp t base off) :=
  fun sp t base off => fieldsFit_of rfl ⟨by decide, by simp [SlotUnit.low]⟩ (Fits.val off.isLt <| Fits.val base.isLt <| Fits.val t.isLt <| Fits.val sp.isLt <| Fits.nil)
theorem FieldsFit.stvp : ∀ sp t base p off, FieldsFit.Statement (.stvp sp t base p off) :=
  fun sp t base p off => fieldsFit_of rfl ⟨by decide, by simp [SlotUnit.low]⟩ (Fits.val off.isLt <| Fits.val p.isLt <| Fits.val base.isLt <| Fits.val t.isLt <| Fits.val sp.isLt <| Fits.nil)
theorem FieldsFit.ldxf : ∀ sp t base off, FieldsFit.Statement (.ldxf sp t base off) :=
  fun sp t base off => fieldsFit_of rfl ⟨by decide, by simp [SlotUnit.low]⟩ (Fits.val off.isLt <| Fits.val base.isLt <| Fits.val t.isLt <| Fits.val sp.isLt <| Fits.nil)
theorem FieldsFit.stxe : ∀ sp t base off, FieldsFit.Statement (.stxe sp t base off) :=
  fun sp t base off => fieldsFit_of rfl ⟨by decide, by simp [SlotUnit.low]⟩ (Fits.val off.isLt <| Fits.val base.isLt <| Fits.val t.isLt <| Fits.val sp.isLt <| Fits.nil)
theorem FieldsFit.ldvf : ∀ sp t base off, FieldsFit.Statement (.ldvf sp t base off) :=
  fun sp t base off => fieldsFit_of rfl ⟨by decide, by simp [SlotUnit.low]⟩ (Fits.val off.isLt <| Fits.val base.isLt <| Fits.val t.isLt <| Fits.val sp.isLt <| Fits.nil)
theorem FieldsFit.stve : ∀ sp t base off, FieldsFit.Statement (.stve sp t base off) :=
  fun sp t base off => fieldsFit_of rfl ⟨by decide, by simp [SlotUnit.low]⟩ (Fits.val off.isLt <| Fits.val base.isLt <| Fits.val t.isLt <| Fits.val sp.isLt <| Fits.nil)
theorem FieldsFit.setfe : ∀ sp t base off, FieldsFit.Statement (.setfe sp t base off) :=
  fun sp t base off => fieldsFit_of rfl ⟨by decide, by simp [SlotUnit.low]⟩ (Fits.val off.isLt <| Fits.val base.isLt <| Fits.val t.isLt <| Fits.val sp.isLt <| Fits.nil)
theorem FieldsFit.getfe : ∀ sp t base off, FieldsFit.Statement (.getfe sp t base off) :=
  fun sp t base off => fieldsFit_of rfl ⟨by decide, by simp [SlotUnit.low]⟩ (Fits.val off.isLt <| Fits.val base.isLt <| Fits.val t.isLt <| Fits.val sp.isLt <| Fits.nil)
theorem FieldsFit.ldsp : ∀ sp t k, FieldsFit.Statement (.ldsp sp t k) :=
  fun sp t k => fieldsFit_of rfl ⟨by decide, by simp [SlotUnit.low]⟩ (Fits.val k.isLt <| Fits.gap <| Fits.val t.isLt <| Fits.val sp.isLt <| Fits.nil)
theorem FieldsFit.stsp : ∀ sp t k, FieldsFit.Statement (.stsp sp t k) :=
  fun sp t k => fieldsFit_of rfl ⟨by decide, by simp [SlotUnit.low]⟩ (Fits.val k.isLt <| Fits.gap <| Fits.val t.isLt <| Fits.val sp.isLt <| Fits.nil)
theorem FieldsFit.ldspv : ∀ sp t k, FieldsFit.Statement (.ldspv sp t k) :=
  fun sp t k => fieldsFit_of rfl ⟨by decide, by simp [SlotUnit.low]⟩ (Fits.val k.isLt <| Fits.gap <| Fits.val t.isLt <| Fits.val sp.isLt <| Fits.nil)
theorem FieldsFit.stspv : ∀ sp t k, FieldsFit.Statement (.stspv sp t k) :=
  fun sp t k => fieldsFit_of rfl ⟨by decide, by simp [SlotUnit.low]⟩ (Fits.val k.isLt <| Fits.gap <| Fits.val t.isLt <| Fits.val sp.isLt <| Fits.nil)
theorem FieldsFit.aadd : ∀ sp t base b off, FieldsFit.Statement (.aadd sp t base b off) :=
  fun sp t base b off => fieldsFit_of rfl ⟨by decide, by simp [SlotUnit.low]⟩ (Fits.val off.isLt <| Fits.val b.isLt <| Fits.val base.isLt <| Fits.val t.isLt <| Fits.val sp.isLt <| Fits.nil)
theorem FieldsFit.amin : ∀ sp t base b off, FieldsFit.Statement (.amin sp t base b off) :=
  fun sp t base b off => fieldsFit_of rfl ⟨by decide, by simp [SlotUnit.low]⟩ (Fits.val off.isLt <| Fits.val b.isLt <| Fits.val base.isLt <| Fits.val t.isLt <| Fits.val sp.isLt <| Fits.nil)
theorem FieldsFit.amax : ∀ sp t base b off, FieldsFit.Statement (.amax sp t base b off) :=
  fun sp t base b off => fieldsFit_of rfl ⟨by decide, by simp [SlotUnit.low]⟩ (Fits.val off.isLt <| Fits.val b.isLt <| Fits.val base.isLt <| Fits.val t.isLt <| Fits.val sp.isLt <| Fits.nil)
theorem FieldsFit.aminn : ∀ sp t base b off, FieldsFit.Statement (.aminn sp t base b off) :=
  fun sp t base b off => fieldsFit_of rfl ⟨by decide, by simp [SlotUnit.low]⟩ (Fits.val off.isLt <| Fits.val b.isLt <| Fits.val base.isLt <| Fits.val t.isLt <| Fits.val sp.isLt <| Fits.nil)
theorem FieldsFit.amaxn : ∀ sp t base b off, FieldsFit.Statement (.amaxn sp t base b off) :=
  fun sp t base b off => fieldsFit_of rfl ⟨by decide, by simp [SlotUnit.low]⟩ (Fits.val off.isLt <| Fits.val b.isLt <| Fits.val base.isLt <| Fits.val t.isLt <| Fits.val sp.isLt <| Fits.nil)
theorem FieldsFit.aand : ∀ sp t base b off, FieldsFit.Statement (.aand sp t base b off) :=
  fun sp t base b off => fieldsFit_of rfl ⟨by decide, by simp [SlotUnit.low]⟩ (Fits.val off.isLt <| Fits.val b.isLt <| Fits.val base.isLt <| Fits.val t.isLt <| Fits.val sp.isLt <| Fits.nil)
theorem FieldsFit.aor : ∀ sp t base b off, FieldsFit.Statement (.aor sp t base b off) :=
  fun sp t base b off => fieldsFit_of rfl ⟨by decide, by simp [SlotUnit.low]⟩ (Fits.val off.isLt <| Fits.val b.isLt <| Fits.val base.isLt <| Fits.val t.isLt <| Fits.val sp.isLt <| Fits.nil)
theorem FieldsFit.axor : ∀ sp t base b off, FieldsFit.Statement (.axor sp t base b off) :=
  fun sp t base b off => fieldsFit_of rfl ⟨by decide, by simp [SlotUnit.low]⟩ (Fits.val off.isLt <| Fits.val b.isLt <| Fits.val base.isLt <| Fits.val t.isLt <| Fits.val sp.isLt <| Fits.nil)
theorem FieldsFit.aswp : ∀ sp t base b off, FieldsFit.Statement (.aswp sp t base b off) :=
  fun sp t base b off => fieldsFit_of rfl ⟨by decide, by simp [SlotUnit.low]⟩ (Fits.val off.isLt <| Fits.val b.isLt <| Fits.val base.isLt <| Fits.val t.isLt <| Fits.val sp.isLt <| Fits.nil)
theorem FieldsFit.acas : ∀ sp t base b off, FieldsFit.Statement (.acas sp t base b off) :=
  fun sp t base b off => fieldsFit_of rfl ⟨by decide, by simp [SlotUnit.low]⟩ (Fits.val off.isLt <| Fits.val b.isLt <| Fits.val base.isLt <| Fits.val t.isLt <| Fits.val sp.isLt <| Fits.nil)
theorem FieldsFit.vaor : ∀ sp t base off, FieldsFit.Statement (.vaor sp t base off) :=
  fun sp t base off => fieldsFit_of rfl ⟨by decide, by simp [SlotUnit.low]⟩ (Fits.val off.isLt <| Fits.val base.isLt <| Fits.val t.isLt <| Fits.val sp.isLt <| Fits.nil)
theorem FieldsFit.vaadd : ∀ sp t base off, FieldsFit.Statement (.vaadd sp t base off) :=
  fun sp t base off => fieldsFit_of rfl ⟨by decide, by simp [SlotUnit.low]⟩ (Fits.val off.isLt <| Fits.val base.isLt <| Fits.val t.isLt <| Fits.val sp.isLt <| Fits.nil)
theorem FieldsFit.gldx : ∀ sp t base q off, FieldsFit.Statement (.gldx sp t base q off) :=
  fun sp t base q off => fieldsFit_of rfl ⟨by decide, by simp [SlotUnit.low]⟩ (Fits.val off.isLt <| Fits.val q.isLt <| Fits.val base.isLt <| Fits.val t.isLt <| Fits.val sp.isLt <| Fits.nil)
theorem FieldsFit.gstx : ∀ sp t base q off, FieldsFit.Statement (.gstx sp t base q off) :=
  fun sp t base q off => fieldsFit_of rfl ⟨by decide, by simp [SlotUnit.low]⟩ (Fits.val off.isLt <| Fits.val q.isLt <| Fits.val base.isLt <| Fits.val t.isLt <| Fits.val sp.isLt <| Fits.nil)
theorem FieldsFit.gldv : ∀ sp t base q off, FieldsFit.Statement (.gldv sp t base q off) :=
  fun sp t base q off => fieldsFit_of rfl ⟨by decide, by simp [SlotUnit.low]⟩ (Fits.val off.isLt <| Fits.val q.isLt <| Fits.val base.isLt <| Fits.val t.isLt <| Fits.val sp.isLt <| Fits.nil)
theorem FieldsFit.gstv : ∀ sp t base q off, FieldsFit.Statement (.gstv sp t base q off) :=
  fun sp t base q off => fieldsFit_of rfl ⟨by decide, by simp [SlotUnit.low]⟩ (Fits.val off.isLt <| Fits.val q.isLt <| Fits.val base.isLt <| Fits.val t.isLt <| Fits.val sp.isLt <| Fits.nil)
theorem FieldsFit.gamo : ∀ sp d a b ret q aop, FieldsFit.Statement (.gamo sp d a b ret q aop) :=
  fun sp d a b ret q aop => fieldsFit_of rfl ⟨by decide, by simp [SlotUnit.low]⟩ (Fits.val aop.isLt <| Fits.val q.isLt <| Fits.val ret.isLt <| Fits.gap <| Fits.val b.isLt <| Fits.val a.isLt <| Fits.val d.isLt <| Fits.val sp.isLt <| Fits.nil)
theorem FieldsFit.gred : ∀ sp a b q aop, FieldsFit.Statement (.gred sp a b q aop) :=
  fun sp a b q aop => fieldsFit_of rfl ⟨by decide, by simp [SlotUnit.low]⟩ (Fits.val aop.isLt <| Fits.val q.isLt <| Fits.gap <| Fits.val b.isLt <| Fits.val a.isLt <| Fits.gap <| Fits.val sp.isLt <| Fits.nil)
theorem FieldsFit.drain : ∀ sp scope mask, FieldsFit.Statement (.drain sp scope mask) :=
  fun sp scope mask => fieldsFit_of rfl ⟨by decide, by simp [SlotUnit.low]⟩ (Fits.val mask.isLt <| Fits.val scope.isLt <| Fits.gap <| Fits.gap <| Fits.gap <| Fits.val sp.isLt <| Fits.nil)
theorem FieldsFit.vadd : ∀ sp d a b p ty z, FieldsFit.Statement (.vadd sp d a b p ty z) :=
  fun sp d a b p ty z => fieldsFit_of rfl ⟨by decide, by simp [SlotUnit.low]⟩ (Fits.val z.isLt <| Fits.gap <| Fits.val ty.isLt <| Fits.val p.isLt <| Fits.val b.isLt <| Fits.val a.isLt <| Fits.val d.isLt <| Fits.val sp.isLt <| Fits.nil)
theorem FieldsFit.vsub : ∀ sp d a b p ty z, FieldsFit.Statement (.vsub sp d a b p ty z) :=
  fun sp d a b p ty z => fieldsFit_of rfl ⟨by decide, by simp [SlotUnit.low]⟩ (Fits.val z.isLt <| Fits.gap <| Fits.val ty.isLt <| Fits.val p.isLt <| Fits.val b.isLt <| Fits.val a.isLt <| Fits.val d.isLt <| Fits.val sp.isLt <| Fits.nil)
theorem FieldsFit.vmul : ∀ sp d a b p ty z, FieldsFit.Statement (.vmul sp d a b p ty z) :=
  fun sp d a b p ty z => fieldsFit_of rfl ⟨by decide, by simp [SlotUnit.low]⟩ (Fits.val z.isLt <| Fits.gap <| Fits.val ty.isLt <| Fits.val p.isLt <| Fits.val b.isLt <| Fits.val a.isLt <| Fits.val d.isLt <| Fits.val sp.isLt <| Fits.nil)
theorem FieldsFit.vfma : ∀ sp d a b p ty z, FieldsFit.Statement (.vfma sp d a b p ty z) :=
  fun sp d a b p ty z => fieldsFit_of rfl ⟨by decide, by simp [SlotUnit.low]⟩ (Fits.val z.isLt <| Fits.gap <| Fits.val ty.isLt <| Fits.val p.isLt <| Fits.val b.isLt <| Fits.val a.isLt <| Fits.val d.isLt <| Fits.val sp.isLt <| Fits.nil)
theorem FieldsFit.vfms : ∀ sp d a b p ty z, FieldsFit.Statement (.vfms sp d a b p ty z) :=
  fun sp d a b p ty z => fieldsFit_of rfl ⟨by decide, by simp [SlotUnit.low]⟩ (Fits.val z.isLt <| Fits.gap <| Fits.val ty.isLt <| Fits.val p.isLt <| Fits.val b.isLt <| Fits.val a.isLt <| Fits.val d.isLt <| Fits.val sp.isLt <| Fits.nil)
theorem FieldsFit.vmin : ∀ sp d a b p ty z, FieldsFit.Statement (.vmin sp d a b p ty z) :=
  fun sp d a b p ty z => fieldsFit_of rfl ⟨by decide, by simp [SlotUnit.low]⟩ (Fits.val z.isLt <| Fits.gap <| Fits.val ty.isLt <| Fits.val p.isLt <| Fits.val b.isLt <| Fits.val a.isLt <| Fits.val d.isLt <| Fits.val sp.isLt <| Fits.nil)
theorem FieldsFit.vmax : ∀ sp d a b p ty z, FieldsFit.Statement (.vmax sp d a b p ty z) :=
  fun sp d a b p ty z => fieldsFit_of rfl ⟨by decide, by simp [SlotUnit.low]⟩ (Fits.val z.isLt <| Fits.gap <| Fits.val ty.isLt <| Fits.val p.isLt <| Fits.val b.isLt <| Fits.val a.isLt <| Fits.val d.isLt <| Fits.val sp.isLt <| Fits.nil)
theorem FieldsFit.vminn : ∀ sp d a b p ty z, FieldsFit.Statement (.vminn sp d a b p ty z) :=
  fun sp d a b p ty z => fieldsFit_of rfl ⟨by decide, by simp [SlotUnit.low]⟩ (Fits.val z.isLt <| Fits.gap <| Fits.val ty.isLt <| Fits.val p.isLt <| Fits.val b.isLt <| Fits.val a.isLt <| Fits.val d.isLt <| Fits.val sp.isLt <| Fits.nil)
theorem FieldsFit.vmaxn : ∀ sp d a b p ty z, FieldsFit.Statement (.vmaxn sp d a b p ty z) :=
  fun sp d a b p ty z => fieldsFit_of rfl ⟨by decide, by simp [SlotUnit.low]⟩ (Fits.val z.isLt <| Fits.gap <| Fits.val ty.isLt <| Fits.val p.isLt <| Fits.val b.isLt <| Fits.val a.isLt <| Fits.val d.isLt <| Fits.val sp.isLt <| Fits.nil)
theorem FieldsFit.vabs : ∀ sp d a p ty z, FieldsFit.Statement (.vabs sp d a p ty z) :=
  fun sp d a p ty z => fieldsFit_of rfl ⟨by decide, by simp [SlotUnit.low]⟩ (Fits.val z.isLt <| Fits.gap <| Fits.val ty.isLt <| Fits.val p.isLt <| Fits.gap <| Fits.val a.isLt <| Fits.val d.isLt <| Fits.val sp.isLt <| Fits.nil)
theorem FieldsFit.vneg : ∀ sp d a p ty z, FieldsFit.Statement (.vneg sp d a p ty z) :=
  fun sp d a p ty z => fieldsFit_of rfl ⟨by decide, by simp [SlotUnit.low]⟩ (Fits.val z.isLt <| Fits.gap <| Fits.val ty.isLt <| Fits.val p.isLt <| Fits.gap <| Fits.val a.isLt <| Fits.val d.isLt <| Fits.val sp.isLt <| Fits.nil)
theorem FieldsFit.vadds : ∀ sp d a b p ty nat z, FieldsFit.Statement (.vadds sp d a b p ty nat z) :=
  fun sp d a b p ty nat z => fieldsFit_of rfl ⟨by decide, by simp [SlotUnit.low]⟩ (Fits.val z.isLt <| Fits.val nat.isLt <| Fits.val ty.isLt <| Fits.val p.isLt <| Fits.val b.isLt <| Fits.val a.isLt <| Fits.val d.isLt <| Fits.val sp.isLt <| Fits.nil)
theorem FieldsFit.vsubs : ∀ sp d a b p ty nat z, FieldsFit.Statement (.vsubs sp d a b p ty nat z) :=
  fun sp d a b p ty nat z => fieldsFit_of rfl ⟨by decide, by simp [SlotUnit.low]⟩ (Fits.val z.isLt <| Fits.val nat.isLt <| Fits.val ty.isLt <| Fits.val p.isLt <| Fits.val b.isLt <| Fits.val a.isLt <| Fits.val d.isLt <| Fits.val sp.isLt <| Fits.nil)
theorem FieldsFit.vmulh : ∀ sp d a b p ty z, FieldsFit.Statement (.vmulh sp d a b p ty z) :=
  fun sp d a b p ty z => fieldsFit_of rfl ⟨by decide, by simp [SlotUnit.low]⟩ (Fits.val z.isLt <| Fits.gap <| Fits.val ty.isLt <| Fits.val p.isLt <| Fits.val b.isLt <| Fits.val a.isLt <| Fits.val d.isLt <| Fits.val sp.isLt <| Fits.nil)
theorem FieldsFit.vmulhn : ∀ sp d a b p ty z, FieldsFit.Statement (.vmulhn sp d a b p ty z) :=
  fun sp d a b p ty z => fieldsFit_of rfl ⟨by decide, by simp [SlotUnit.low]⟩ (Fits.val z.isLt <| Fits.gap <| Fits.val ty.isLt <| Fits.val p.isLt <| Fits.val b.isLt <| Fits.val a.isLt <| Fits.val d.isLt <| Fits.val sp.isLt <| Fits.nil)
theorem FieldsFit.vdot : ∀ sp d a b p ty nat z, FieldsFit.Statement (.vdot sp d a b p ty nat z) :=
  fun sp d a b p ty nat z => fieldsFit_of rfl ⟨by decide, by simp [SlotUnit.low]⟩ (Fits.val z.isLt <| Fits.val nat.isLt <| Fits.val ty.isLt <| Fits.val p.isLt <| Fits.val b.isLt <| Fits.val a.isLt <| Fits.val d.isLt <| Fits.val sp.isLt <| Fits.nil)
theorem FieldsFit.vand : ∀ sp d a b p ty z, FieldsFit.Statement (.vand sp d a b p ty z) :=
  fun sp d a b p ty z => fieldsFit_of rfl ⟨by decide, by simp [SlotUnit.low]⟩ (Fits.val z.isLt <| Fits.gap <| Fits.val ty.isLt <| Fits.val p.isLt <| Fits.val b.isLt <| Fits.val a.isLt <| Fits.val d.isLt <| Fits.val sp.isLt <| Fits.nil)
theorem FieldsFit.vor : ∀ sp d a b p ty z, FieldsFit.Statement (.vor sp d a b p ty z) :=
  fun sp d a b p ty z => fieldsFit_of rfl ⟨by decide, by simp [SlotUnit.low]⟩ (Fits.val z.isLt <| Fits.gap <| Fits.val ty.isLt <| Fits.val p.isLt <| Fits.val b.isLt <| Fits.val a.isLt <| Fits.val d.isLt <| Fits.val sp.isLt <| Fits.nil)
theorem FieldsFit.vxor : ∀ sp d a b p ty z, FieldsFit.Statement (.vxor sp d a b p ty z) :=
  fun sp d a b p ty z => fieldsFit_of rfl ⟨by decide, by simp [SlotUnit.low]⟩ (Fits.val z.isLt <| Fits.gap <| Fits.val ty.isLt <| Fits.val p.isLt <| Fits.val b.isLt <| Fits.val a.isLt <| Fits.val d.isLt <| Fits.val sp.isLt <| Fits.nil)
theorem FieldsFit.vandn : ∀ sp d a b p ty z, FieldsFit.Statement (.vandn sp d a b p ty z) :=
  fun sp d a b p ty z => fieldsFit_of rfl ⟨by decide, by simp [SlotUnit.low]⟩ (Fits.val z.isLt <| Fits.gap <| Fits.val ty.isLt <| Fits.val p.isLt <| Fits.val b.isLt <| Fits.val a.isLt <| Fits.val d.isLt <| Fits.val sp.isLt <| Fits.nil)
theorem FieldsFit.vshl : ∀ sp d a b p ty z, FieldsFit.Statement (.vshl sp d a b p ty z) :=
  fun sp d a b p ty z => fieldsFit_of rfl ⟨by decide, by simp [SlotUnit.low]⟩ (Fits.val z.isLt <| Fits.gap <| Fits.val ty.isLt <| Fits.val p.isLt <| Fits.val b.isLt <| Fits.val a.isLt <| Fits.val d.isLt <| Fits.val sp.isLt <| Fits.nil)
theorem FieldsFit.vshr : ∀ sp d a b p ty z, FieldsFit.Statement (.vshr sp d a b p ty z) :=
  fun sp d a b p ty z => fieldsFit_of rfl ⟨by decide, by simp [SlotUnit.low]⟩ (Fits.val z.isLt <| Fits.gap <| Fits.val ty.isLt <| Fits.val p.isLt <| Fits.val b.isLt <| Fits.val a.isLt <| Fits.val d.isLt <| Fits.val sp.isLt <| Fits.nil)
theorem FieldsFit.vsar : ∀ sp d a b p ty z, FieldsFit.Statement (.vsar sp d a b p ty z) :=
  fun sp d a b p ty z => fieldsFit_of rfl ⟨by decide, by simp [SlotUnit.low]⟩ (Fits.val z.isLt <| Fits.gap <| Fits.val ty.isLt <| Fits.val p.isLt <| Fits.val b.isLt <| Fits.val a.isLt <| Fits.val d.isLt <| Fits.val sp.isLt <| Fits.nil)
theorem FieldsFit.vshli : ∀ sp d a n p ty z, FieldsFit.Statement (.vshli sp d a n p ty z) :=
  fun sp d a n p ty z => fieldsFit_of rfl ⟨by decide, by simp [SlotUnit.low]⟩ (Fits.val z.isLt <| Fits.gap <| Fits.val ty.isLt <| Fits.val p.isLt <| Fits.val n.isLt <| Fits.val a.isLt <| Fits.val d.isLt <| Fits.val sp.isLt <| Fits.nil)
theorem FieldsFit.vshri : ∀ sp d a n p ty nat z, FieldsFit.Statement (.vshri sp d a n p ty nat z) :=
  fun sp d a n p ty nat z => fieldsFit_of rfl ⟨by decide, by simp [SlotUnit.low]⟩ (Fits.val z.isLt <| Fits.val nat.isLt <| Fits.val ty.isLt <| Fits.val p.isLt <| Fits.val n.isLt <| Fits.val a.isLt <| Fits.val d.isLt <| Fits.val sp.isLt <| Fits.nil)
theorem FieldsFit.vpopc : ∀ sp d a p ty z, FieldsFit.Statement (.vpopc sp d a p ty z) :=
  fun sp d a p ty z => fieldsFit_of rfl ⟨by decide, by simp [SlotUnit.low]⟩ (Fits.val z.isLt <| Fits.gap <| Fits.val ty.isLt <| Fits.val p.isLt <| Fits.gap <| Fits.val a.isLt <| Fits.val d.isLt <| Fits.val sp.isLt <| Fits.nil)
theorem FieldsFit.vclz : ∀ sp d a p ty z, FieldsFit.Statement (.vclz sp d a p ty z) :=
  fun sp d a p ty z => fieldsFit_of rfl ⟨by decide, by simp [SlotUnit.low]⟩ (Fits.val z.isLt <| Fits.gap <| Fits.val ty.isLt <| Fits.val p.isLt <| Fits.gap <| Fits.val a.isLt <| Fits.val d.isLt <| Fits.val sp.isLt <| Fits.nil)
theorem FieldsFit.vcmpeq : ∀ sp d a b p ty z, FieldsFit.Statement (.vcmpeq sp d a b p ty z) :=
  fun sp d a b p ty z => fieldsFit_of rfl ⟨by decide, by simp [SlotUnit.low]⟩ (Fits.val z.isLt <| Fits.gap <| Fits.val ty.isLt <| Fits.val p.isLt <| Fits.val b.isLt <| Fits.val a.isLt <| Fits.val d.isLt <| Fits.val sp.isLt <| Fits.nil)
theorem FieldsFit.vcmpne : ∀ sp d a b p ty z, FieldsFit.Statement (.vcmpne sp d a b p ty z) :=
  fun sp d a b p ty z => fieldsFit_of rfl ⟨by decide, by simp [SlotUnit.low]⟩ (Fits.val z.isLt <| Fits.gap <| Fits.val ty.isLt <| Fits.val p.isLt <| Fits.val b.isLt <| Fits.val a.isLt <| Fits.val d.isLt <| Fits.val sp.isLt <| Fits.nil)
theorem FieldsFit.vcmplt : ∀ sp d a b p ty z, FieldsFit.Statement (.vcmplt sp d a b p ty z) :=
  fun sp d a b p ty z => fieldsFit_of rfl ⟨by decide, by simp [SlotUnit.low]⟩ (Fits.val z.isLt <| Fits.gap <| Fits.val ty.isLt <| Fits.val p.isLt <| Fits.val b.isLt <| Fits.val a.isLt <| Fits.val d.isLt <| Fits.val sp.isLt <| Fits.nil)
theorem FieldsFit.vcmple : ∀ sp d a b p ty z, FieldsFit.Statement (.vcmple sp d a b p ty z) :=
  fun sp d a b p ty z => fieldsFit_of rfl ⟨by decide, by simp [SlotUnit.low]⟩ (Fits.val z.isLt <| Fits.gap <| Fits.val ty.isLt <| Fits.val p.isLt <| Fits.val b.isLt <| Fits.val a.isLt <| Fits.val d.isLt <| Fits.val sp.isLt <| Fits.nil)
theorem FieldsFit.vcmpltn : ∀ sp d a b p ty z, FieldsFit.Statement (.vcmpltn sp d a b p ty z) :=
  fun sp d a b p ty z => fieldsFit_of rfl ⟨by decide, by simp [SlotUnit.low]⟩ (Fits.val z.isLt <| Fits.gap <| Fits.val ty.isLt <| Fits.val p.isLt <| Fits.val b.isLt <| Fits.val a.isLt <| Fits.val d.isLt <| Fits.val sp.isLt <| Fits.nil)
theorem FieldsFit.vcmpun : ∀ sp d a b p ty z, FieldsFit.Statement (.vcmpun sp d a b p ty z) :=
  fun sp d a b p ty z => fieldsFit_of rfl ⟨by decide, by simp [SlotUnit.low]⟩ (Fits.val z.isLt <| Fits.gap <| Fits.val ty.isLt <| Fits.val p.isLt <| Fits.val b.isLt <| Fits.val a.isLt <| Fits.val d.isLt <| Fits.val sp.isLt <| Fits.nil)
theorem FieldsFit.vsel : ∀ sp d a b p ty, FieldsFit.Statement (.vsel sp d a b p ty) :=
  fun sp d a b p ty => fieldsFit_of rfl ⟨by decide, by simp [SlotUnit.low]⟩ (Fits.gap <| Fits.val ty.isLt <| Fits.val p.isLt <| Fits.val b.isLt <| Fits.val a.isLt <| Fits.val d.isLt <| Fits.val sp.isLt <| Fits.nil)
theorem FieldsFit.vmov : ∀ sp d a p ty z, FieldsFit.Statement (.vmov sp d a p ty z) :=
  fun sp d a p ty z => fieldsFit_of rfl ⟨by decide, by simp [SlotUnit.low]⟩ (Fits.val z.isLt <| Fits.gap <| Fits.val ty.isLt <| Fits.val p.isLt <| Fits.gap <| Fits.val a.isLt <| Fits.val d.isLt <| Fits.val sp.isLt <| Fits.nil)
theorem FieldsFit.vbcast : ∀ sp d a p ty z, FieldsFit.Statement (.vbcast sp d a p ty z) :=
  fun sp d a p ty z => fieldsFit_of rfl ⟨by decide, by simp [SlotUnit.low]⟩ (Fits.val z.isLt <| Fits.gap <| Fits.val ty.isLt <| Fits.val p.isLt <| Fits.gap <| Fits.val a.isLt <| Fits.val d.isLt <| Fits.val sp.isLt <| Fits.nil)
theorem FieldsFit.vext : ∀ sp d a b ty nat, FieldsFit.Statement (.vext sp d a b ty nat) :=
  fun sp d a b ty nat => fieldsFit_of rfl ⟨by decide, by simp [SlotUnit.low]⟩ (Fits.gap <| Fits.val nat.isLt <| Fits.val ty.isLt <| Fits.gap <| Fits.val b.isLt <| Fits.val a.isLt <| Fits.val d.isLt <| Fits.val sp.isLt <| Fits.nil)
theorem FieldsFit.vins : ∀ sp d a b ty, FieldsFit.Statement (.vins sp d a b ty) :=
  fun sp d a b ty => fieldsFit_of rfl ⟨by decide, by simp [SlotUnit.low]⟩ (Fits.gap <| Fits.val ty.isLt <| Fits.gap <| Fits.val b.isLt <| Fits.val a.isLt <| Fits.val d.isLt <| Fits.val sp.isLt <| Fits.nil)
theorem FieldsFit.vperm : ∀ sp d a b p ty oz z, FieldsFit.Statement (.vperm sp d a b p ty oz z) :=
  fun sp d a b p ty oz z => fieldsFit_of rfl ⟨by decide, by simp [SlotUnit.low]⟩ (Fits.val z.isLt <| Fits.val oz.isLt <| Fits.val ty.isLt <| Fits.val p.isLt <| Fits.val b.isLt <| Fits.val a.isLt <| Fits.val d.isLt <| Fits.val sp.isLt <| Fits.nil)
theorem FieldsFit.vrot : ∀ sp d a b p ty z, FieldsFit.Statement (.vrot sp d a b p ty z) :=
  fun sp d a b p ty z => fieldsFit_of rfl ⟨by decide, by simp [SlotUnit.low]⟩ (Fits.val z.isLt <| Fits.gap <| Fits.val ty.isLt <| Fits.val p.isLt <| Fits.val b.isLt <| Fits.val a.isLt <| Fits.val d.isLt <| Fits.val sp.isLt <| Fits.nil)
theorem FieldsFit.vmerge : ∀ sp d a b ty, FieldsFit.Statement (.vmerge sp d a b ty) :=
  fun sp d a b ty => fieldsFit_of rfl ⟨by decide, by simp [SlotUnit.low]⟩ (Fits.gap <| Fits.val ty.isLt <| Fits.gap <| Fits.val b.isLt <| Fits.val a.isLt <| Fits.val d.isLt <| Fits.val sp.isLt <| Fits.nil)
theorem FieldsFit.viota : ∀ sp d a p ty z, FieldsFit.Statement (.viota sp d a p ty z) :=
  fun sp d a p ty z => fieldsFit_of rfl ⟨by decide, by simp [SlotUnit.low]⟩ (Fits.val z.isLt <| Fits.gap <| Fits.val ty.isLt <| Fits.val p.isLt <| Fits.gap <| Fits.val a.isLt <| Fits.val d.isLt <| Fits.val sp.isLt <| Fits.nil)
theorem FieldsFit.vredadd : ∀ sp d a p ty nat, FieldsFit.Statement (.vredadd sp d a p ty nat) :=
  fun sp d a p ty nat => fieldsFit_of rfl ⟨by decide, by simp [SlotUnit.low]⟩ (Fits.gap <| Fits.val nat.isLt <| Fits.val ty.isLt <| Fits.val p.isLt <| Fits.gap <| Fits.val a.isLt <| Fits.val d.isLt <| Fits.val sp.isLt <| Fits.nil)
theorem FieldsFit.vredmax : ∀ sp d a p ty nat, FieldsFit.Statement (.vredmax sp d a p ty nat) :=
  fun sp d a p ty nat => fieldsFit_of rfl ⟨by decide, by simp [SlotUnit.low]⟩ (Fits.gap <| Fits.val nat.isLt <| Fits.val ty.isLt <| Fits.val p.isLt <| Fits.gap <| Fits.val a.isLt <| Fits.val d.isLt <| Fits.val sp.isLt <| Fits.nil)
theorem FieldsFit.vredmin : ∀ sp d a p ty nat, FieldsFit.Statement (.vredmin sp d a p ty nat) :=
  fun sp d a p ty nat => fieldsFit_of rfl ⟨by decide, by simp [SlotUnit.low]⟩ (Fits.gap <| Fits.val nat.isLt <| Fits.val ty.isLt <| Fits.val p.isLt <| Fits.gap <| Fits.val a.isLt <| Fits.val d.isLt <| Fits.val sp.isLt <| Fits.nil)
theorem FieldsFit.vscan : ∀ sp d a p ty z, FieldsFit.Statement (.vscan sp d a p ty z) :=
  fun sp d a p ty z => fieldsFit_of rfl ⟨by decide, by simp [SlotUnit.low]⟩ (Fits.val z.isLt <| Fits.gap <| Fits.val ty.isLt <| Fits.val p.isLt <| Fits.gap <| Fits.val a.isLt <| Fits.val d.isLt <| Fits.val sp.isLt <| Fits.nil)
theorem FieldsFit.vcvt : ∀ sp d a smod sty h ty dmod z, FieldsFit.Statement (.vcvt sp d a smod sty h ty dmod z) :=
  fun sp d a smod sty h ty dmod z => fieldsFit_of rfl ⟨by decide, by simp [SlotUnit.low]⟩ (Fits.val z.isLt <| Fits.val dmod.isLt <| Fits.val ty.isLt <| Fits.val h.isLt <| Fits.val sty.isLt <| Fits.gap <| Fits.val smod.isLt <| Fits.val a.isLt <| Fits.val d.isLt <| Fits.val sp.isLt <| Fits.nil)
theorem FieldsFit.vpack4 : ∀ sp d a b h ty bt, FieldsFit.Statement (.vpack4 sp d a b h ty bt) :=
  fun sp d a b h ty bt => fieldsFit_of rfl ⟨by decide, by simp [SlotUnit.low]⟩ (Fits.val bt.isLt <| Fits.val ty.isLt <| Fits.val h.isLt <| Fits.val b.isLt <| Fits.val a.isLt <| Fits.val d.isLt <| Fits.val sp.isLt <| Fits.nil)
theorem FieldsFit.vunpk4 : ∀ sp d a b h ty, FieldsFit.Statement (.vunpk4 sp d a b h ty) :=
  fun sp d a b h ty => fieldsFit_of rfl ⟨by decide, by simp [SlotUnit.low]⟩ (Fits.gap <| Fits.val ty.isLt <| Fits.val h.isLt <| Fits.val b.isLt <| Fits.val a.isLt <| Fits.val d.isLt <| Fits.val sp.isLt <| Fits.nil)
theorem FieldsFit.vcord : ∀ sp d a n func ty, FieldsFit.Statement (.vcord sp d a n func ty) :=
  fun sp d a n func ty => fieldsFit_of rfl ⟨by decide, by simp [SlotUnit.low]⟩ (Fits.gap <| Fits.val ty.isLt <| Fits.val func.isLt <| Fits.val n.isLt <| Fits.val a.isLt <| Fits.val d.isLt <| Fits.val sp.isLt <| Fits.nil)
theorem FieldsFit.pand : ∀ sp d a b, FieldsFit.Statement (.pand sp d a b) :=
  fun sp d a b => fieldsFit_of rfl ⟨by decide, by simp [SlotUnit.low]⟩ (Fits.gap <| Fits.val b.isLt <| Fits.val a.isLt <| Fits.val d.isLt <| Fits.val sp.isLt <| Fits.nil)
theorem FieldsFit.por : ∀ sp d a b, FieldsFit.Statement (.por sp d a b) :=
  fun sp d a b => fieldsFit_of rfl ⟨by decide, by simp [SlotUnit.low]⟩ (Fits.gap <| Fits.val b.isLt <| Fits.val a.isLt <| Fits.val d.isLt <| Fits.val sp.isLt <| Fits.nil)
theorem FieldsFit.pxor : ∀ sp d a b, FieldsFit.Statement (.pxor sp d a b) :=
  fun sp d a b => fieldsFit_of rfl ⟨by decide, by simp [SlotUnit.low]⟩ (Fits.gap <| Fits.val b.isLt <| Fits.val a.isLt <| Fits.val d.isLt <| Fits.val sp.isLt <| Fits.nil)
theorem FieldsFit.pnot : ∀ sp d a, FieldsFit.Statement (.pnot sp d a) :=
  fun sp d a => fieldsFit_of rfl ⟨by decide, by simp [SlotUnit.low]⟩ (Fits.gap <| Fits.gap <| Fits.val a.isLt <| Fits.val d.isLt <| Fits.val sp.isLt <| Fits.nil)
theorem FieldsFit.pcnt : ∀ sp d a ty, FieldsFit.Statement (.pcnt sp d a ty) :=
  fun sp d a ty => fieldsFit_of rfl ⟨by decide, by simp [SlotUnit.low]⟩ (Fits.gap <| Fits.val ty.isLt <| Fits.gap <| Fits.gap <| Fits.val a.isLt <| Fits.val d.isLt <| Fits.val sp.isLt <| Fits.nil)
theorem FieldsFit.pfirst : ∀ sp d a ty, FieldsFit.Statement (.pfirst sp d a ty) :=
  fun sp d a ty => fieldsFit_of rfl ⟨by decide, by simp [SlotUnit.low]⟩ (Fits.gap <| Fits.val ty.isLt <| Fits.gap <| Fits.gap <| Fits.val a.isLt <| Fits.val d.isLt <| Fits.val sp.isLt <| Fits.nil)
theorem FieldsFit.ptail : ∀ sp d a ty, FieldsFit.Statement (.ptail sp d a ty) :=
  fun sp d a ty => fieldsFit_of rfl ⟨by decide, by simp [SlotUnit.low]⟩ (Fits.gap <| Fits.val ty.isLt <| Fits.gap <| Fits.gap <| Fits.val a.isLt <| Fits.val d.isLt <| Fits.val sp.isLt <| Fits.nil)
theorem FieldsFit.mma : ∀ sp acc a aoff ws bk kgm1 fmtA fmtB z, FieldsFit.Statement (.mma sp acc a aoff ws bk kgm1 fmtA fmtB z) :=
  fun sp acc a aoff ws bk kgm1 fmtA fmtB z => fieldsFit_of rfl ⟨by decide, by simp [SlotUnit.low]⟩ (Fits.gap <| Fits.val z.isLt <| Fits.val fmtB.isLt <| Fits.val fmtA.isLt <| Fits.val kgm1.isLt <| Fits.val bk.isLt <| Fits.val ws.isLt <| Fits.val aoff.isLt <| Fits.val a.isLt <| Fits.val acc.isLt <| Fits.val sp.isLt <| Fits.nil)
theorem FieldsFit.mmat : ∀ sp acc a aoff ws bk kgm1 ftoff lvl z, FieldsFit.Statement (.mmat sp acc a aoff ws bk kgm1 ftoff lvl z) :=
  fun sp acc a aoff ws bk kgm1 ftoff lvl z => fieldsFit_of rfl ⟨by decide, by simp [SlotUnit.low]⟩ (Fits.gap <| Fits.val z.isLt <| Fits.gap <| Fits.val lvl.isLt <| Fits.val ftoff.isLt <| Fits.val kgm1.isLt <| Fits.val bk.isLt <| Fits.val ws.isLt <| Fits.val aoff.isLt <| Fits.val a.isLt <| Fits.val acc.isLt <| Fits.val sp.isLt <| Fits.nil)
theorem FieldsFit.mmae : ∀ sp acc a aoff ws bk kgm1 ftoff lvl z, FieldsFit.Statement (.mmae sp acc a aoff ws bk kgm1 ftoff lvl z) :=
  fun sp acc a aoff ws bk kgm1 ftoff lvl z => fieldsFit_of rfl ⟨by decide, by simp [SlotUnit.low]⟩ (Fits.gap <| Fits.val z.isLt <| Fits.gap <| Fits.val lvl.isLt <| Fits.val ftoff.isLt <| Fits.val kgm1.isLt <| Fits.val bk.isLt <| Fits.val ws.isLt <| Fits.val aoff.isLt <| Fits.val a.isLt <| Fits.val acc.isLt <| Fits.val sp.isLt <| Fits.nil)
theorem FieldsFit.wbld : ∀ sp ws a roff srow nrm1 kind fmt xfmt tag tg aq scope, FieldsFit.Statement (.wbld sp ws a roff srow nrm1 kind fmt xfmt tag tg aq scope) :=
  fun sp ws a roff srow nrm1 kind fmt xfmt tag tg aq scope => fieldsFit_of rfl ⟨by decide, by simp [SlotUnit.low]⟩ (Fits.gap <| Fits.val scope.isLt <| Fits.val aq.isLt <| Fits.val tg.isLt <| Fits.val tag.isLt <| Fits.val xfmt.isLt <| Fits.val fmt.isLt <| Fits.val kind.isLt <| Fits.val nrm1.isLt <| Fits.val srow.isLt <| Fits.val roff.isLt <| Fits.val a.isLt <| Fits.val ws.isLt <| Fits.val sp.isLt <| Fits.nil)
theorem FieldsFit.wbclr : ∀ sp mask tag tg, FieldsFit.Statement (.wbclr sp mask tag tg) :=
  fun sp mask tag tg => fieldsFit_of rfl ⟨by decide, by simp [SlotUnit.low]⟩ (Fits.gap <| Fits.val tg.isLt <| Fits.val tag.isLt <| Fits.gap <| Fits.val mask.isLt <| Fits.val sp.isLt <| Fits.nil)
theorem FieldsFit.accz : ∀ sp mask, FieldsFit.Statement (.accz sp mask) :=
  fun sp mask => fieldsFit_of rfl ⟨by decide, by simp [SlotUnit.low]⟩ (Fits.gap <| Fits.val mask.isLt <| Fits.val sp.isLt <| Fits.nil)
theorem FieldsFit.accrd : ∀ sp acc d q, FieldsFit.Statement (.accrd sp acc d q) :=
  fun sp acc d q => fieldsFit_of rfl ⟨by decide, by simp [SlotUnit.low]⟩ (Fits.gap <| Fits.val q.isLt <| Fits.val d.isLt <| Fits.val acc.isLt <| Fits.val sp.isLt <| Fits.nil)
theorem FieldsFit.accwr : ∀ sp acc a q, FieldsFit.Statement (.accwr sp acc a q) :=
  fun sp acc a q => fieldsFit_of rfl ⟨by decide, by simp [SlotUnit.low]⟩ (Fits.gap <| Fits.val q.isLt <| Fits.val a.isLt <| Fits.val acc.isLt <| Fits.val sp.isLt <| Fits.nil)
theorem FieldsFit.accbias : ∀ sp acc a, FieldsFit.Statement (.accbias sp acc a) :=
  fun sp acc a => fieldsFit_of rfl ⟨by decide, by simp [SlotUnit.low]⟩ (Fits.gap <| Fits.val a.isLt <| Fits.val acc.isLt <| Fits.val sp.isLt <| Fits.nil)
theorem FieldsFit.accst : ∀ sp acc a roff ofmt rm tag tg tw s rel scope, FieldsFit.Statement (.accst sp acc a roff ofmt rm tag tg tw s rel scope) :=
  fun sp acc a roff ofmt rm tag tg tw s rel scope => fieldsFit_of rfl ⟨by decide, by simp [SlotUnit.low]⟩ (Fits.gap <| Fits.val scope.isLt <| Fits.val rel.isLt <| Fits.val s.isLt <| Fits.val tw.isLt <| Fits.val tg.isLt <| Fits.val tag.isLt <| Fits.val rm.isLt <| Fits.val ofmt.isLt <| Fits.val roff.isLt <| Fits.val a.isLt <| Fits.val acc.isLt <| Fits.val sp.isLt <| Fits.nil)
theorem FieldsFit.ftset : ∀ sp e a, FieldsFit.Statement (.ftset sp e a) :=
  fun sp e a => fieldsFit_of rfl ⟨by decide, by simp [SlotUnit.low]⟩ (Fits.gap <| Fits.val a.isLt <| Fits.val e.isLt <| Fits.val sp.isLt <| Fits.nil)
theorem FieldsFit.ftget : ∀ sp e d, FieldsFit.Statement (.ftget sp e d) :=
  fun sp e d => fieldsFit_of rfl ⟨by decide, by simp [SlotUnit.low]⟩ (Fits.gap <| Fits.val d.isLt <| Fits.val e.isLt <| Fits.val sp.isLt <| Fits.nil)
theorem FieldsFit.monrd : ∀ sp d which, FieldsFit.Statement (.monrd sp d which) :=
  fun sp d which => fieldsFit_of rfl ⟨by decide, by simp [SlotUnit.low]⟩ (Fits.gap <| Fits.val which.isLt <| Fits.val d.isLt <| Fits.val sp.isLt <| Fits.nil)
theorem FieldsFit.monclr : ∀ sp mask, FieldsFit.Statement (.monclr sp mask) :=
  fun sp mask => fieldsFit_of rfl ⟨by decide, by simp [SlotUnit.low]⟩ (Fits.gap <| Fits.val mask.isLt <| Fits.val sp.isLt <| Fits.nil)
theorem FieldsFit.mbset : ∀ sp a, FieldsFit.Statement (.mbset sp a) :=
  fun sp a => fieldsFit_of rfl ⟨by decide, by simp [SlotUnit.low]⟩ (Fits.gap <| Fits.val a.isLt <| Fits.val sp.isLt <| Fits.nil)
theorem FieldsFit.cpy : ∀ sp dir g a roff nrm1 s tw tag tg aq rl scope fe, FieldsFit.Statement (.cpy sp dir g a roff nrm1 s tw tag tg aq rl scope fe) :=
  fun sp dir g a roff nrm1 s tw tag tg aq rl scope fe => fieldsFit_of rfl ⟨by decide, by simp [SlotUnit.low]⟩ (Fits.gap <| Fits.val fe.isLt <| Fits.val scope.isLt <| Fits.val rl.isLt <| Fits.val aq.isLt <| Fits.val tg.isLt <| Fits.val tag.isLt <| Fits.gap <| Fits.val tw.isLt <| Fits.val s.isLt <| Fits.val nrm1.isLt <| Fits.val roff.isLt <| Fits.val a.isLt <| Fits.val g.isLt <| Fits.val dir.isLt <| Fits.val sp.isLt <| Fits.nil)
theorem FieldsFit.cpy2 : ∀ sp dir g a roff nrm1 st tag tg aq rl scope fe, FieldsFit.Statement (.cpy2 sp dir g a roff nrm1 st tag tg aq rl scope fe) :=
  fun sp dir g a roff nrm1 st tag tg aq rl scope fe => fieldsFit_of rfl ⟨by decide, by simp [SlotUnit.low]⟩ (Fits.gap <| Fits.val fe.isLt <| Fits.val scope.isLt <| Fits.val rl.isLt <| Fits.val aq.isLt <| Fits.val tg.isLt <| Fits.val tag.isLt <| Fits.gap <| Fits.val st.isLt <| Fits.val nrm1.isLt <| Fits.val roff.isLt <| Fits.val a.isLt <| Fits.val g.isLt <| Fits.val dir.isLt <| Fits.val sp.isLt <| Fits.nil)
theorem FieldsFit.cpyg : ∀ sp l a roff nrm1 tag tg aq rl scope fe, FieldsFit.Statement (.cpyg sp l a roff nrm1 tag tg aq rl scope fe) :=
  fun sp l a roff nrm1 tag tg aq rl scope fe => fieldsFit_of rfl ⟨by decide, by simp [SlotUnit.low]⟩ (Fits.gap <| Fits.val fe.isLt <| Fits.val scope.isLt <| Fits.val rl.isLt <| Fits.val aq.isLt <| Fits.val tg.isLt <| Fits.val tag.isLt <| Fits.gap <| Fits.val nrm1.isLt <| Fits.val roff.isLt <| Fits.val a.isLt <| Fits.val l.isLt <| Fits.gap <| Fits.val sp.isLt <| Fits.nil)
theorem FieldsFit.cpys : ∀ sp l a roff nrm1 tag tg aq rl scope fe, FieldsFit.Statement (.cpys sp l a roff nrm1 tag tg aq rl scope fe) :=
  fun sp l a roff nrm1 tag tg aq rl scope fe => fieldsFit_of rfl ⟨by decide, by simp [SlotUnit.low]⟩ (Fits.gap <| Fits.val fe.isLt <| Fits.val scope.isLt <| Fits.val rl.isLt <| Fits.val aq.isLt <| Fits.val tg.isLt <| Fits.val tag.isLt <| Fits.gap <| Fits.val nrm1.isLt <| Fits.val roff.isLt <| Fits.val a.isLt <| Fits.val l.isLt <| Fits.gap <| Fits.val sp.isLt <| Fits.nil)
theorem FieldsFit.cpyr : ∀ sp w g a nrm1 sem sn tag tg aq rl scope fe, FieldsFit.Statement (.cpyr sp w g a nrm1 sem sn tag tg aq rl scope fe) :=
  fun sp w g a nrm1 sem sn tag tg aq rl scope fe => fieldsFit_of rfl ⟨by decide, by simp [SlotUnit.low]⟩ (Fits.gap <| Fits.val fe.isLt <| Fits.val scope.isLt <| Fits.val rl.isLt <| Fits.val aq.isLt <| Fits.val tg.isLt <| Fits.val tag.isLt <| Fits.gap <| Fits.val sn.isLt <| Fits.val sem.isLt <| Fits.val nrm1.isLt <| Fits.val a.isLt <| Fits.val g.isLt <| Fits.val w.isLt <| Fits.val sp.isLt <| Fits.nil)
theorem FieldsFit.cpyt : ∀ sp dir g a roff nrm1 tm tag tg aq rl scope fe, FieldsFit.Statement (.cpyt sp dir g a roff nrm1 tm tag tg aq rl scope fe) :=
  fun sp dir g a roff nrm1 tm tag tg aq rl scope fe => fieldsFit_of rfl ⟨by decide, by simp [SlotUnit.low]⟩ (Fits.gap <| Fits.val fe.isLt <| Fits.val scope.isLt <| Fits.val rl.isLt <| Fits.val aq.isLt <| Fits.val tg.isLt <| Fits.val tag.isLt <| Fits.gap <| Fits.val tm.isLt <| Fits.val nrm1.isLt <| Fits.val roff.isLt <| Fits.val a.isLt <| Fits.val g.isLt <| Fits.val dir.isLt <| Fits.val sp.isLt <| Fits.nil)
theorem FieldsFit.cpyx : ∀ sp t b a nrm1 sem sn tag tg aq rl scope fe, FieldsFit.Statement (.cpyx sp t b a nrm1 sem sn tag tg aq rl scope fe) :=
  fun sp t b a nrm1 sem sn tag tg aq rl scope fe => fieldsFit_of rfl ⟨by decide, by simp [SlotUnit.low]⟩ (Fits.gap <| Fits.val fe.isLt <| Fits.val scope.isLt <| Fits.val rl.isLt <| Fits.val aq.isLt <| Fits.val tg.isLt <| Fits.val tag.isLt <| Fits.gap <| Fits.val sn.isLt <| Fits.val sem.isLt <| Fits.val nrm1.isLt <| Fits.val a.isLt <| Fits.val b.isLt <| Fits.val t.isLt <| Fits.val sp.isLt <| Fits.nil)
theorem FieldsFit.twany : ∀ sp d m, FieldsFit.Statement (.twany sp d m) :=
  fun sp d m => fieldsFit_of rfl ⟨by decide, by simp [SlotUnit.low]⟩ (Fits.gap <| Fits.val m.isLt <| Fits.val d.isLt <| Fits.val sp.isLt <| Fits.nil)
theorem FieldsFit.twall : ∀ sp d m, FieldsFit.Statement (.twall sp d m) :=
  fun sp d m => fieldsFit_of rfl ⟨by decide, by simp [SlotUnit.low]⟩ (Fits.gap <| Fits.val m.isLt <| Fits.val d.isLt <| Fits.val sp.isLt <| Fits.nil)
theorem FieldsFit.tffr : ∀ sp d m, FieldsFit.Statement (.tffr sp d m) :=
  fun sp d m => fieldsFit_of rfl ⟨by decide, by simp [SlotUnit.low]⟩ (Fits.gap <| Fits.val m.isLt <| Fits.val d.isLt <| Fits.val sp.isLt <| Fits.nil)
theorem FieldsFit.tclr : ∀ sp m, FieldsFit.Statement (.tclr sp m) :=
  fun sp m => fieldsFit_of rfl ⟨by decide, by simp [SlotUnit.low]⟩ (Fits.gap <| Fits.val m.isLt <| Fits.gap <| Fits.val sp.isLt <| Fits.nil)
theorem FieldsFit.wait : ∀ sp cm lim, FieldsFit.Statement (.wait sp cm lim) :=
  fun sp cm lim => fieldsFit_of rfl ⟨by decide, by simp [SlotUnit.low]⟩ (Fits.gap <| Fits.val lim.isLt <| Fits.val cm.isLt <| Fits.val sp.isLt <| Fits.nil)
theorem FieldsFit.semsig : ∀ sp t loc sem n md scope, FieldsFit.Statement (.semsig sp t loc sem n md scope) :=
  fun sp t loc sem n md scope => fieldsFit_of rfl ⟨by decide, by simp [SlotUnit.low]⟩ (Fits.gap <| Fits.val scope.isLt <| Fits.gap <| Fits.val md.isLt <| Fits.val n.isLt <| Fits.val sem.isLt <| Fits.val loc.isLt <| Fits.val t.isLt <| Fits.val sp.isLt <| Fits.nil)
theorem FieldsFit.semwait : ∀ sp sem n nd scope, FieldsFit.Statement (.semwait sp sem n nd scope) :=
  fun sp sem n nd scope => fieldsFit_of rfl ⟨by decide, by simp [SlotUnit.low]⟩ (Fits.gap <| Fits.val scope.isLt <| Fits.gap <| Fits.val nd.isLt <| Fits.val n.isLt <| Fits.val sem.isLt <| Fits.gap <| Fits.val sp.isLt <| Fits.nil)
theorem FieldsFit.semrd : ∀ sp d sem scope, FieldsFit.Statement (.semrd sp d sem scope) :=
  fun sp d sem scope => fieldsFit_of rfl ⟨by decide, by simp [SlotUnit.low]⟩ (Fits.gap <| Fits.val scope.isLt <| Fits.gap <| Fits.val sem.isLt <| Fits.gap <| Fits.val d.isLt <| Fits.val sp.isLt <| Fits.nil)
theorem FieldsFit.bararv : ∀ sp r loc bar n md scope, FieldsFit.Statement (.bararv sp r loc bar n md scope) :=
  fun sp r loc bar n md scope => fieldsFit_of rfl ⟨by decide, by simp [SlotUnit.low]⟩ (Fits.gap <| Fits.val scope.isLt <| Fits.gap <| Fits.val md.isLt <| Fits.val n.isLt <| Fits.val bar.isLt <| Fits.val loc.isLt <| Fits.val r.isLt <| Fits.val sp.isLt <| Fits.nil)
theorem FieldsFit.barwt : ∀ sp g bar scope, FieldsFit.Statement (.barwt sp g bar scope) :=
  fun sp g bar scope => fieldsFit_of rfl ⟨by decide, by simp [SlotUnit.low]⟩ (Fits.gap <| Fits.val scope.isLt <| Fits.gap <| Fits.val bar.isLt <| Fits.gap <| Fits.val g.isLt <| Fits.val sp.isLt <| Fits.nil)
theorem FieldsFit.treearv : ∀ sp d tr scope, FieldsFit.Statement (.treearv sp d tr scope) :=
  fun sp d tr scope => fieldsFit_of rfl ⟨by decide, by simp [SlotUnit.low]⟩ (Fits.gap <| Fits.val scope.isLt <| Fits.gap <| Fits.val tr.isLt <| Fits.gap <| Fits.val d.isLt <| Fits.val sp.isLt <| Fits.nil)
theorem FieldsFit.treewt : ∀ sp g tr scope, FieldsFit.Statement (.treewt sp g tr scope) :=
  fun sp g tr scope => fieldsFit_of rfl ⟨by decide, by simp [SlotUnit.low]⟩ (Fits.gap <| Fits.val scope.isLt <| Fits.gap <| Fits.val tr.isLt <| Fits.gap <| Fits.val g.isLt <| Fits.val sp.isLt <| Fits.nil)
theorem FieldsFit.treemask : ∀ sp a b tr, FieldsFit.Statement (.treemask sp a b tr) :=
  fun sp a b tr => fieldsFit_of rfl ⟨by decide, by simp [SlotUnit.low]⟩ (Fits.gap <| Fits.val tr.isLt <| Fits.val b.isLt <| Fits.val a.isLt <| Fits.val sp.isLt <| Fits.nil)
theorem FieldsFit.next : ∀ sp, FieldsFit.Statement (.next sp) :=
  fun sp => fieldsFit_of rfl ⟨by decide, by simp [SlotUnit.low]⟩ (Fits.gap <| Fits.val sp.isLt <| Fits.nil)
theorem FieldsFit.launch : ∀ sp d a slot dep j oj, FieldsFit.Statement (.launch sp d a slot dep j oj) :=
  fun sp d a slot dep j oj => fieldsFit_of rfl ⟨by decide, by simp [SlotUnit.low]⟩ (Fits.gap <| Fits.val oj.isLt <| Fits.val j.isLt <| Fits.val dep.isLt <| Fits.val slot.isLt <| Fits.val a.isLt <| Fits.val d.isLt <| Fits.val sp.isLt <| Fits.nil)
theorem FieldsFit.task : ∀ sp d a b c n slot dep, FieldsFit.Statement (.task sp d a b c n slot dep) :=
  fun sp d a b c n slot dep => fieldsFit_of rfl ⟨by decide, by simp [SlotUnit.low]⟩ (Fits.gap <| Fits.val dep.isLt <| Fits.val slot.isLt <| Fits.val n.isLt <| Fits.val c.isLt <| Fits.val b.isLt <| Fits.val a.isLt <| Fits.val d.isLt <| Fits.val sp.isLt <| Fits.nil)
theorem FieldsFit.doneUnit : ∀ sp, FieldsFit.Statement (.doneUnit sp) :=
  fun sp => fieldsFit_of rfl ⟨by decide, by simp [SlotUnit.low]⟩ (Fits.gap <| Fits.gap <| Fits.val (by decide) <| Fits.val sp.isLt <| Fits.nil)
theorem FieldsFit.doneItem : ∀ sp a, FieldsFit.Statement (.doneItem sp a) :=
  fun sp a => fieldsFit_of rfl ⟨by decide, by simp [SlotUnit.low]⟩ (Fits.gap <| Fits.val a.isLt <| Fits.val (by decide) <| Fits.val sp.isLt <| Fits.nil)
theorem FieldsFit.cancel : ∀ sp a lvl, FieldsFit.Statement (.cancel sp a lvl) :=
  fun sp a lvl => fieldsFit_of rfl ⟨by decide, by simp [SlotUnit.low]⟩ (Fits.gap <| Fits.val lvl.isLt <| Fits.val a.isLt <| Fits.val sp.isLt <| Fits.nil)
theorem FieldsFit.slabtag : ∀ sp d a md q, FieldsFit.Statement (.slabtag sp d a md q) :=
  fun sp d a md q => fieldsFit_of rfl ⟨by decide, by simp [SlotUnit.low]⟩ (Fits.gap <| Fits.val q.isLt <| Fits.val md.isLt <| Fits.val a.isLt <| Fits.val d.isLt <| Fits.val sp.isLt <| Fits.nil)
theorem FieldsFit.clkdiv : ∀ sp fc fv fm fy d, FieldsFit.Statement (.clkdiv sp fc fv fm fy d) :=
  fun sp fc fv fm fy d => fieldsFit_of rfl ⟨by decide, by simp [SlotUnit.low]⟩ (Fits.gap <| Fits.val d.isLt <| Fits.gap <| Fits.val fy.isLt <| Fits.val fm.isLt <| Fits.val fv.isLt <| Fits.val fc.isLt <| Fits.val sp.isLt <| Fits.nil)
theorem FieldsFit.timewt : ∀ sp a, FieldsFit.Statement (.timewt sp a) :=
  fun sp a => fieldsFit_of rfl ⟨by decide, by simp [SlotUnit.low]⟩ (Fits.gap <| Fits.val a.isLt <| Fits.val sp.isLt <| Fits.nil)
theorem FieldsFit.bra : ∀ sp off, FieldsFit.Statement (.bra sp off) :=
  fun sp off => fieldsFit_of rfl ⟨by decide, by simp [SlotUnit.low]⟩ (Fits.val off.isLt <| Fits.gap <| Fits.val sp.isLt <| Fits.nil)
theorem FieldsFit.bz : ∀ sp c off, FieldsFit.Statement (.bz sp c off) :=
  fun sp c off => fieldsFit_of rfl ⟨by decide, by simp [SlotUnit.low]⟩ (Fits.val off.isLt <| Fits.val c.isLt <| Fits.val sp.isLt <| Fits.nil)
theorem FieldsFit.bnz : ∀ sp c off, FieldsFit.Statement (.bnz sp c off) :=
  fun sp c off => fieldsFit_of rfl ⟨by decide, by simp [SlotUnit.low]⟩ (Fits.val off.isLt <| Fits.val c.isLt <| Fits.val sp.isLt <| Fits.nil)
theorem FieldsFit.bltz : ∀ sp c off, FieldsFit.Statement (.bltz sp c off) :=
  fun sp c off => fieldsFit_of rfl ⟨by decide, by simp [SlotUnit.low]⟩ (Fits.val off.isLt <| Fits.val c.isLt <| Fits.val sp.isLt <| Fits.nil)
theorem FieldsFit.bgez : ∀ sp c off, FieldsFit.Statement (.bgez sp c off) :=
  fun sp c off => fieldsFit_of rfl ⟨by decide, by simp [SlotUnit.low]⟩ (Fits.val off.isLt <| Fits.val c.isLt <| Fits.val sp.isLt <| Fits.nil)
theorem FieldsFit.loopb : ∀ sp lvl off, FieldsFit.Statement (.loopb sp lvl off) :=
  fun sp lvl off => fieldsFit_of rfl ⟨by decide, by simp [SlotUnit.low]⟩ (Fits.val off.isLt <| Fits.gap <| Fits.val lvl.isLt <| Fits.val sp.isLt <| Fits.nil)
theorem FieldsFit.loopset : ∀ sp lvl a n, FieldsFit.Statement (.loopset sp lvl a n) :=
  fun sp lvl a n => fieldsFit_of rfl ⟨by decide, by simp [SlotUnit.low]⟩ (Fits.val n.isLt <| Fits.val a.isLt <| Fits.gap <| Fits.val lvl.isLt <| Fits.val sp.isLt <| Fits.nil)
theorem FieldsFit.call : ∀ sp off, FieldsFit.Statement (.call sp off) :=
  fun sp off => fieldsFit_of rfl ⟨by decide, by simp [SlotUnit.low]⟩ (Fits.val off.isLt <| Fits.gap <| Fits.val sp.isLt <| Fits.nil)
theorem FieldsFit.jr : ∀ sp a, FieldsFit.Statement (.jr sp a) :=
  fun sp a => fieldsFit_of rfl ⟨by decide, by simp [SlotUnit.low]⟩ (Fits.gap <| Fits.val a.isLt <| Fits.gap <| Fits.val sp.isLt <| Fits.nil)
theorem FieldsFit.jalr : ∀ sp d a, FieldsFit.Statement (.jalr sp d a) :=
  fun sp d a => fieldsFit_of rfl ⟨by decide, by simp [SlotUnit.low]⟩ (Fits.gap <| Fits.val a.isLt <| Fits.val d.isLt <| Fits.val sp.isLt <| Fits.nil)
theorem FieldsFit.trap : ∀ sp n, FieldsFit.Statement (.trap sp n) :=
  fun sp n => fieldsFit_of rfl ⟨by decide, by simp [SlotUnit.low]⟩ (Fits.val n.isLt <| Fits.gap <| Fits.gap <| Fits.gap <| Fits.val sp.isLt <| Fits.nil)
theorem FieldsFit.eret : ∀ sp, FieldsFit.Statement (.eret sp) :=
  fun sp => fieldsFit_of rfl ⟨by decide, by simp [SlotUnit.low]⟩ (Fits.gap <| Fits.val sp.isLt <| Fits.nil)
theorem FieldsFit.srd : ∀ sp d reg, FieldsFit.Statement (.srd sp d reg) :=
  fun sp d reg => fieldsFit_of rfl ⟨by decide, by simp [SlotUnit.low]⟩ (Fits.val reg.isLt <| Fits.gap <| Fits.gap <| Fits.val d.isLt <| Fits.val sp.isLt <| Fits.nil)
theorem FieldsFit.swr : ∀ sp a reg, FieldsFit.Statement (.swr sp a reg) :=
  fun sp a reg => fieldsFit_of rfl ⟨by decide, by simp [SlotUnit.low]⟩ (Fits.val reg.isLt <| Fits.gap <| Fits.val a.isLt <| Fits.gap <| Fits.val sp.isLt <| Fits.nil)
theorem FieldsFit.fence : ∀ sp kind scope, FieldsFit.Statement (.fence sp kind scope) :=
  fun sp kind scope => fieldsFit_of rfl ⟨by decide, by simp [SlotUnit.low]⟩ (Fits.val scope.isLt <| Fits.val kind.isLt <| Fits.gap <| Fits.gap <| Fits.gap <| Fits.val sp.isLt <| Fits.nil)
theorem FieldsFit.halt : ∀ sp, FieldsFit.Statement (.halt sp) :=
  fun sp => fieldsFit_of rfl ⟨by decide, by simp [SlotUnit.low]⟩ (Fits.gap <| Fits.val sp.isLt <| Fits.nil)
theorem FieldsFit.locq : ∀ sp d a, FieldsFit.Statement (.locq sp d a) :=
  fun sp d a => fieldsFit_of rfl ⟨by decide, by simp [SlotUnit.low]⟩ (Fits.gap <| Fits.val a.isLt <| Fits.val d.isLt <| Fits.val sp.isLt <| Fits.nil)
theorem FieldsFit.tsr : ∀ sp d, FieldsFit.Statement (.tsr sp d) :=
  fun sp d => fieldsFit_of rfl ⟨by decide, by simp [SlotUnit.low]⟩ (Fits.gap <| Fits.val d.isLt <| Fits.val sp.isLt <| Fits.nil)
theorem FieldsFit.cyc : ∀ sp d n, FieldsFit.Statement (.cyc sp d n) :=
  fun sp d n => fieldsFit_of rfl ⟨by decide, by simp [SlotUnit.low]⟩ (Fits.val n.isLt <| Fits.gap <| Fits.val d.isLt <| Fits.val sp.isLt <| Fits.nil)
theorem FieldsFit.emptyBundle : ∀ a0 b1, FieldsFit.Statement (.emptyBundle a0 b1) := fun _ _ => trivial
theorem FieldsFit.resultDue : ∀ a0 b1, FieldsFit.Statement (.resultDue a0 b1) := fun _ _ => trivial
theorem FieldsFit.clkdivApply : ∀ a0, FieldsFit.Statement (.clkdivApply a0) := fun _ => trivial
theorem FieldsFit.arrayPhaseStart : ∀ a0, FieldsFit.Statement (.arrayPhaseStart a0) := fun _ => trivial
theorem FieldsFit.mmaeEscalation : ∀ a0, FieldsFit.Statement (.mmaeEscalation a0) := fun _ => trivial
theorem FieldsFit.arrayOperationDue : ∀ a0, FieldsFit.Statement (.arrayOperationDue a0) := fun _ => trivial
theorem FieldsFit.matrixCommandCompletion : ∀ a0 b1, FieldsFit.Statement (.matrixCommandCompletion a0 b1) := fun _ _ => trivial
theorem FieldsFit.copyCommandStart : ∀ a0, FieldsFit.Statement (.copyCommandStart a0) := fun _ => trivial
theorem FieldsFit.cpytStart : ∀ a0 b1, FieldsFit.Statement (.cpytStart a0 b1) := fun _ _ => trivial
theorem FieldsFit.copyRowLand : ∀ a0, FieldsFit.Statement (.copyRowLand a0) := fun _ => trivial
theorem FieldsFit.copyCompletion : ∀ a0 b1, FieldsFit.Statement (.copyCompletion a0 b1) := fun _ _ => trivial
theorem FieldsFit.globalLoadCompletion : ∀ a0, FieldsFit.Statement (.globalLoadCompletion a0) := fun _ => trivial
theorem FieldsFit.globalAckArrival : ∀ a0, FieldsFit.Statement (.globalAckArrival a0) := fun _ => trivial
theorem FieldsFit.globalAccessError : ∀ a0 b1, FieldsFit.Statement (.globalAccessError a0 b1) := fun _ _ => trivial
theorem FieldsFit.translationWalk : ∀ a0 b1, FieldsFit.Statement (.translationWalk a0 b1) := fun _ _ => trivial
theorem FieldsFit.homePortAccess : ∀ a0 a1, FieldsFit.Statement (.homePortAccess a0 a1) := fun _ _ => trivial
theorem FieldsFit.reductionApply : ∀ a0, FieldsFit.Statement (.reductionApply a0) := fun _ => trivial
theorem FieldsFit.packetArrival : ∀ a0 a1, FieldsFit.Statement (.packetArrival a0 a1) := fun _ _ => trivial
theorem FieldsFit.mergeEntrySend : ∀ a0 b1, FieldsFit.Statement (.mergeEntrySend a0 b1) := fun _ _ => trivial
theorem FieldsFit.retransmitTimeout : ∀ a0 b1 c2, FieldsFit.Statement (.retransmitTimeout a0 b1 c2) := fun _ _ _ => trivial
theorem FieldsFit.linkLevelRetry : ∀ a0 a1 a2 a3, FieldsFit.Statement (.linkLevelRetry a0 a1 a2 a3) := fun _ _ _ _ => trivial
theorem FieldsFit.moduleOutOfService : ∀ a0 b1, FieldsFit.Statement (.moduleOutOfService a0 b1) := fun _ _ => trivial
theorem FieldsFit.moduleRetrainEnd : ∀ a0 a1 a2 a3, FieldsFit.Statement (.moduleRetrainEnd a0 a1 a2 a3) := fun _ _ _ _ => trivial
theorem FieldsFit.edgeFailure : ∀ a0, FieldsFit.Statement (.edgeFailure a0) := fun _ => trivial
theorem FieldsFit.nodeReset : ∀ a0 b1, FieldsFit.Statement (.nodeReset a0 b1) := fun _ _ => trivial
theorem FieldsFit.routeTableAdoption : ∀ a0, FieldsFit.Statement (.routeTableAdoption a0) := fun _ => trivial
theorem FieldsFit.scaleOutRetrain : ∀ a0 b1, FieldsFit.Statement (.scaleOutRetrain a0 b1) := fun _ _ => trivial
theorem FieldsFit.ptcAlignment : ∀ a0 b1, FieldsFit.Statement (.ptcAlignment a0 b1) := fun _ _ => trivial
theorem FieldsFit.semaphoreUpdate : ∀ a0, FieldsFit.Statement (.semaphoreUpdate a0) := fun _ => trivial
theorem FieldsFit.barrierUpdate : ∀ a0, FieldsFit.Statement (.barrierUpdate a0) := fun _ => trivial
theorem FieldsFit.treeArrivalAtRoot : ∀ a0 b1 c2, FieldsFit.Statement (.treeArrivalAtRoot a0 b1 c2) := fun _ _ _ => trivial
theorem FieldsFit.treeMaskAtRoot : ∀ a0 b1 c2 d3 e4, FieldsFit.Statement (.treeMaskAtRoot a0 b1 c2 d3 e4) := fun _ _ _ _ _ => trivial
theorem FieldsFit.tgenIncrement : ∀ a0 b1 c2, FieldsFit.Statement (.tgenIncrement a0 b1 c2) := fun _ _ _ => trivial
theorem FieldsFit.nextRotate : ∀ a0 b1, FieldsFit.Statement (.nextRotate a0 b1) := fun _ _ => trivial
theorem FieldsFit.nextReplyArrival : ∀ a0 b1, FieldsFit.Statement (.nextReplyArrival a0 b1) := fun _ _ => trivial
theorem FieldsFit.nextRequestService : ∀ a0 b1, FieldsFit.Statement (.nextRequestService a0 b1) := fun _ _ => trivial
theorem FieldsFit.itemReport : ∀ a0, FieldsFit.Statement (.itemReport a0) := fun _ => trivial
theorem FieldsFit.launchReady : ∀ a0 b1, FieldsFit.Statement (.launchReady a0 b1) := fun _ _ => trivial
theorem FieldsFit.launchSpecRead : ∀ a0 b1, FieldsFit.Statement (.launchSpecRead a0 b1) := fun _ _ => trivial
theorem FieldsFit.unitPlacement : ∀ a0 b1, FieldsFit.Statement (.unitPlacement a0 b1) := fun _ _ => trivial
theorem FieldsFit.unitEnd : ∀ a0 b1, FieldsFit.Statement (.unitEnd a0 b1) := fun _ _ => trivial
theorem FieldsFit.launchComplete : ∀ a0 b1, FieldsFit.Statement (.launchComplete a0 b1) := fun _ _ => trivial
theorem FieldsFit.taskDispatch : ∀ a0 b1, FieldsFit.Statement (.taskDispatch a0 b1) := fun _ _ => trivial
theorem FieldsFit.graphInstanceStart : ∀ a0, FieldsFit.Statement (.graphInstanceStart a0) := fun _ => trivial
theorem FieldsFit.graphInstanceComplete : ∀ a0 b1, FieldsFit.Statement (.graphInstanceComplete a0 b1) := fun _ _ => trivial
theorem FieldsFit.phaseComplete : ∀ a0, FieldsFit.Statement (.phaseComplete a0) := fun _ => trivial
theorem FieldsFit.jobClearing : ∀ a0, FieldsFit.Statement (.jobClearing a0) := fun _ => trivial
theorem FieldsFit.jobClearingEnd : ∀ a0, FieldsFit.Statement (.jobClearingEnd a0) := fun _ => trivial
theorem FieldsFit.checkpointCommit : ∀ a0, FieldsFit.Statement (.checkpointCommit a0) := fun _ => trivial
theorem FieldsFit.timingReplay : ∀ a0 b1 c2, FieldsFit.Statement (.timingReplay a0 b1 c2) := fun _ _ _ => trivial
theorem FieldsFit.kgroupReplay : ∀ a0 b1, FieldsFit.Statement (.kgroupReplay a0 b1) := fun _ _ => trivial
theorem FieldsFit.dataErrorRollback : ∀ a0 a1, FieldsFit.Statement (.dataErrorRollback a0 a1) := fun _ _ => trivial
theorem FieldsFit.trapEntry : ∀ a0 b1, FieldsFit.Statement (.trapEntry a0 b1) := fun _ _ => trivial
theorem FieldsFit.preEmption : ∀ a0, FieldsFit.Statement (.preEmption a0) := fun _ => trivial
theorem FieldsFit.restore : ∀ a0, FieldsFit.Statement (.restore a0) := fun _ => trivial
theorem FieldsFit.predictiveLeak : ∀ a0, FieldsFit.Statement (.predictiveLeak a0) := fun _ => trivial
theorem FieldsFit.chinookWindowEnd : ∀ a0, FieldsFit.Statement (.chinookWindowEnd a0) := fun _ => trivial
theorem FieldsFit.chinookFlashWrite : ∀ a0, FieldsFit.Statement (.chinookFlashWrite a0) := fun _ => trivial
theorem FieldsFit.throttleStep : ∀ a0 b1 c2, FieldsFit.Statement (.throttleStep a0 b1 c2) := fun _ _ _ => trivial
theorem FieldsFit.droopAlarm : ∀ a0 a1 a2, FieldsFit.Statement (.droopAlarm a0 a1 a2) := fun _ _ _ => trivial
theorem FieldsFit.droopStretchRelax : ∀ a0, FieldsFit.Statement (.droopStretchRelax a0) := fun _ => trivial
theorem FieldsFit.powerCapEvaluation : ∀ a0, FieldsFit.Statement (.powerCapEvaluation a0) := fun _ => trivial
theorem FieldsFit.pacingEvaluation : ∀ a0 b1, FieldsFit.Statement (.pacingEvaluation a0 b1) := fun _ _ => trivial
theorem FieldsFit.temperatureRead : ∀ a0 b1, FieldsFit.Statement (.temperatureRead a0 b1) := fun _ _ => trivial
theorem FieldsFit.inputSag : ∀ a0, FieldsFit.Statement (.inputSag a0) := fun _ => trivial
theorem FieldsFit.sagRecovery : ∀ a0, FieldsFit.Statement (.sagRecovery a0) := fun _ => trivial
theorem FieldsFit.sagTimeout : FieldsFit.Statement .sagTimeout := trivial
theorem FieldsFit.internalBusLow : FieldsFit.Statement .internalBusLow := trivial
theorem FieldsFit.emergencySequence : ∀ a0, FieldsFit.Statement (.emergencySequence a0) := fun _ => trivial
theorem FieldsFit.powerEnableLow : ∀ a0, FieldsFit.Statement (.powerEnableLow a0) := fun _ => trivial
theorem FieldsFit.inputRemoval : FieldsFit.Statement .inputRemoval := trivial
theorem FieldsFit.moduleReset : ∀ a0 b1, FieldsFit.Statement (.moduleReset a0 b1) := fun _ _ => trivial
theorem FieldsFit.flashWrite : ∀ a0 b1 c2, FieldsFit.Statement (.flashWrite a0 b1 c2) := fun _ _ _ => trivial
theorem FieldsFit.commandRecordWrite : ∀ a0 b1 c2 d3, FieldsFit.Statement (.commandRecordWrite a0 b1 c2 d3) := fun _ _ _ _ => trivial
theorem FieldsFit.recordAccept : ∀ a0, FieldsFit.Statement (.recordAccept a0) := fun _ => trivial
theorem FieldsFit.createJob : ∀ a0, FieldsFit.Statement (.createJob a0) := fun _ => trivial
theorem FieldsFit.loadRange : ∀ a0, FieldsFit.Statement (.loadRange a0) := fun _ => trivial
theorem FieldsFit.loadInval : ∀ a0, FieldsFit.Statement (.loadInval a0) := fun _ => trivial
theorem FieldsFit.loadMethod : ∀ a0, FieldsFit.Statement (.loadMethod a0) := fun _ => trivial
theorem FieldsFit.loadGraph : ∀ a0, FieldsFit.Statement (.loadGraph a0) := fun _ => trivial
theorem FieldsFit.runGraph : ∀ a0, FieldsFit.Statement (.runGraph a0) := fun _ => trivial
theorem FieldsFit.cancelRecord : ∀ a0, FieldsFit.Statement (.cancelRecord a0) := fun _ => trivial
theorem FieldsFit.query : ∀ a0 b1, FieldsFit.Statement (.query a0 b1) := fun _ _ => trivial
theorem FieldsFit.selfTest : ∀ a0 b1, FieldsFit.Statement (.selfTest a0 b1) := fun _ _ => trivial
theorem FieldsFit.setPolicyTree : ∀ a0, FieldsFit.Statement (.setPolicyTree a0) := fun _ => trivial
theorem FieldsFit.setPolicyPcap : ∀ a0, FieldsFit.Statement (.setPolicyPcap a0) := fun _ => trivial
theorem FieldsFit.setPolicyCslr : ∀ a0, FieldsFit.Statement (.setPolicyCslr a0) := fun _ => trivial
theorem FieldsFit.setPolicyMarks : ∀ a0, FieldsFit.Statement (.setPolicyMarks a0) := fun _ => trivial
theorem FieldsFit.completionRecord : ∀ a0, FieldsFit.Statement (.completionRecord a0) := fun _ => trivial
theorem FieldsFit.hsemClaim : ∀ a0 b1 c2, FieldsFit.Statement (.hsemClaim a0 b1 c2) := fun _ _ _ => trivial
theorem FieldsFit.hsemRelease : ∀ a0 b1, FieldsFit.Statement (.hsemRelease a0 b1) := fun _ _ => trivial
theorem FieldsFit.hostLinkDown : ∀ a0, FieldsFit.Statement (.hostLinkDown a0) := fun _ => trivial
theorem FieldsFit.apertureRead : ∀ a0 b1 c2, FieldsFit.Statement (.apertureRead a0 b1 c2) := fun _ _ _ => trivial
theorem FieldsFit.apertureWrite : ∀ a0 b1 c2, FieldsFit.Statement (.apertureWrite a0 b1 c2) := fun _ _ _ => trivial
theorem FieldsFit.registerWrite : ∀ a0 b1 c2, FieldsFit.Statement (.registerWrite a0 b1 c2) := fun _ _ _ => trivial
theorem FieldsFit.acknowledgementDeparture : ∀ a0 b1 c2, FieldsFit.Statement (.acknowledgementDeparture a0 b1 c2) := fun _ _ _ => trivial

end Sys2Proof.Laws
end

