-- ==== Sys2Proof/Tests/Slice0.lean ====
section
/-! SUPPORT. Tests: ill-formed terms that WellFormed refuses, words written out from the encodings, single operations on small states, and for every
obligation with premises a state and operands that meet them. -/

open Sys2Proof Sys2Proof.Machine

namespace Sys2Proof.Tests

/-! ### Small states -/

/-- A context of a unit of job 1 with something in its registers. -/
def unitCtx : Ctx :=
  { Ctx.reset with
    owner := .unit 7, job := 1, status := 0x10
    xs := [(1, 0x100), (2, 7), (3, 0xFFFFFFFFFFFFFFFE), (4, 0x3F00), (6, 2)], vs := [(1, 0x0807060504030201), (2, 0xFF)], ps := [(1, 0xFF)] }

/-- Job 1 on every die, with nothing loaded. -/
def benchJob : Job := { Job.create 1 1 (-1) with phase := some 0 }

/-- A state in which a context of tile 1 is about to issue from the slot with PM bit 2. -/
def bench (c : Ctx) (k : Core) : State :=
  { State.reset with
    tiles := [(1, { Tile.reset with live := true, core := { k with ctxs := [(0, c)] } })]
    jobs := [benchJob]
    cur := { Frame.reset with tile := 1, pc := 0x1000, link := 0x1010, pm := 2 } }

/-- The state that most tests use. -/
def bench0 : State := bench unitCtx Core.reset

/-- What `Clear` asks of an operation outside strict mode, as one test. -/
def clearHere (s : State) (i : Instr) : Bool :=
  s.guardOn i.sp && !s.ctx.strict && s.waitHolds i && !s.me.core.mustFreeze i && !s.commandBlocks i && !s.countersFull i.oldAdds i.ostAdds &&
  !s.workDenied i && !s.unprivileged i && !s.hazard i &&
  match i.scratch s with
  | some ea => s.me.core.badBits (rowOf ea) &&& i.wordsRead s ea == 0
  | none => true

/-- The test is what it stands for. -/
theorem acts_of_clearHere {s : State} {i : Instr} (h : clearHere s i = true) : Acts i s := by
  unfold clearHere at h
  simp only [Bool.and_eq_true, Bool.not_eq_true'] at h
  obtain ⟨⟨⟨⟨⟨⟨⟨⟨⟨h1, h2⟩, h3⟩, h4⟩, h5⟩, h6⟩, h7⟩, h8⟩, h9⟩, h10⟩ := h
  refine ⟨h1, .inr ⟨fun h => ?_, h3, h4, h5, h6, h7, h8, h9, fun h => ?_, fun ea he => ?_⟩⟩
  · rw [h2] at h; cases h
  · rw [h2] at h; cases h
  · rw [he] at h10; simpa using h10

/-- Every operation of a list acts where the test says so. -/
theorem all_act {s : State} {l : List Instr} (h : l.all (clearHere s) = true) : ∀ i ∈ l, Acts i s :=
  fun i hi => acts_of_clearHere (List.all_eq_true.1 h i hi)

/-! ### Ill-formed terms (R27) -/

/-- R88, R173 to R175: a field past bit 63; a CAS without a return, a return register without a return, reserved atomics; no queue. -/
theorem test_wf_scalar_and_access : ([.bext 0 1 2 0 63 1, .bins 0 1 2 32 32, .gamo 0 1 2 3 1 0 12, .gamo 0 0 2 3 0 0 9, .gamo 0 1 2 3 0 0 0,
    .gred 0 1 2 0 8, .gred 0 1 2 0 9, .gred 0 1 2 0 12, .drain 0 0 0] : List Instr).all (fun i => !i.wf) = true := by decide

/-- R98, R100, R102 to R107: a type outside the set of the operation. -/
theorem test_wf_vector_types : ([.vadd 0 1 2 3 0 4 0, .vsub 0 1 2 3 0 4 0, .vmul 0 1 2 3 0 4 0, .vfma 0 1 2 3 0 4 0, .vfms 0 1 2 3 0 4 0,
    .vmin 0 1 2 3 0 4 0, .vmax 0 1 2 3 0 4 0, .vminn 0 1 2 3 0 7 0, .vmaxn 0 1 2 3 0 7 0, .vmulh 0 1 2 3 0 7 0,
    .vmulhn 0 1 2 3 0 7 0, .vshl 0 1 2 3 0 7 0, .vshr 0 1 2 3 0 7 0, .vsar 0 1 2 3 0 7 0, .vshli 0 1 2 3 0 7 0,
    .vabs 0 1 2 0 4 0, .vneg 0 1 2 0 4 0, .vscan 0 1 2 0 4 0, .vadds 0 1 2 3 0 5 0 0, .vsubs 0 1 2 3 0 5 0 0,
    .vshri 0 1 2 3 0 5 0 0, .vdot 0 1 2 3 0 1 0 0, .vdot 0 1 2 3 0 5 1 0, .vpopc 0 1 2 0 5 0, .vclz 0 1 2 0 5 0,
    .viota 0 1 2 0 5 0, .vext 0 1 2 3 5 1, .vredadd 0 1 2 0 4 0, .vredmax 0 1 2 0 5 1, .vredmin 0 1 2 0 4 0] : List Instr).all (fun i => !i.wf) = true := by decide

/-- R32, R104, R114: a p register above 7, and the comparisons' types. -/
theorem test_wf_predicates : ([.vcmpeq 0 8 2 3 0 2 0, .vcmpne 0 8 2 3 0 2 0, .vcmplt 0 8 2 3 0 2 0, .vcmple 0 8 2 3 0 2 0, .vcmpltn 0 8 2 3 0 2 0,
    .vcmpun 0 8 2 3 0 5 0, .vcmpeq 0 1 2 3 0 4 0, .vcmpltn 0 1 2 3 0 5 0, .vcmpun 0 1 2 3 0 2 0, .pand 0 8 1 1,
    .por 0 1 8 1, .pxor 0 1 1 8, .pnot 0 1 9, .pcnt 0 1 8 0, .pfirst 0 1 8 0,
    .ptail 0 8 1 0] : List Instr).all (fun i => !i.wf) = true := by decide

/-- R108 to R112: formats, a half past the last, a merge without narrowing, 4-bit codes of an integer type, iterations out of 4 to 28. -/
theorem test_wf_conversions : ([.vcvt 0 1 2 1 7 0 6 0 0, .vcvt 0 1 2 0 7 0 6 1 0, .vcvt 0 1 2 0 7 2 6 0 0, .vcvt 0 1 2 0 6 0 7 0 1, .vpack4 0 1 2 3 0 2 0,
    .vpack4 0 1 2 3 7 4 0, .vpack4 0 3 2 3 0 5 0, .vunpk4 0 1 2 3 0 3, .vunpk4 0 1 2 3 7 4, .vcord 0 1 2 3 0 7,
    .vcord 0 1 2 29 0 7, .vcord 0 1 2 8 0 2] : List Instr).all (fun i => !i.wf) = true := by decide

/-- R133 to R143, R150: bank 15, unassigned formats, a span past row 31, a tag or a stride register without its flag, an empty mask. -/
theorem test_wf_matrix : ([.mma 0 0 1 0 0 15 0 0 0 0, .mma 0 0 1 0 0 0 0 7 0 0, .mma 0 0 1 0 0 0 0 0 7 0, .mmat 0 0 1 0 0 15 0 0 0 0, .mmae 0 0 1 0 0 15 0 0 0 0,
    .wbld 0 0 1 0 0 0 3 0 0 0 0 0 0, .wbld 0 0 1 0 1 31 0 0 0 0 0 0 0, .wbld 0 0 1 0 0 0 0 7 0 0 0 0 0, .wbld 0 0 1 0 0 0 0 0 1 0 0 0 0, .wbld 0 0 1 0 0 0 1 5 0 0 0 0 0,
    .wbld 0 0 1 0 0 0 2 5 5 0 0 0 0, .wbld 0 0 1 0 0 0 0 0 0 1 0 0 0, .wbclr 0 0 0 0, .wbclr 0 1 1 0, .accz 0 0,
    .accst 0 0 1 0 5 0 0 0 0 0 0 0, .accst 0 0 1 0 0 5 0 0 0 0 0 0, .accst 0 0 1 0 0 0 1 0 0 0 0 0, .accst 0 0 1 0 0 0 0 0 0 1 0 0, .monrd 0 1 5,
    .monclr 0 0] : List Instr).all (fun i => !i.wf) = true := by decide

/-- R187 to R191: direction 3, a full-empty flag where no scratch row is written, a tag, a stride or a scope without its flag. -/
theorem test_wf_copies : ([.cpy 0 3 1 2 0 0 0 0 0 0 0 0 0 0, .cpy 0 1 1 2 0 0 0 0 0 0 0 0 0 1, .cpy 0 0 1 2 0 0 3 0 0 0 0 0 0 0, .cpy 0 0 1 2 0 0 0 0 5 0 0 0 0 0, .cpy 0 0 1 2 0 0 0 0 0 0 0 0 2 0,
    .cpy2 0 2 1 2 0 0 3 0 0 0 0 0 0, .cpyg 0 1 2 0 0 5 0 0 0 0 0, .cpys 0 1 2 0 0 0 0 0 0 0 1, .cpyr 0 1 2 3 0 5 0 0 0 0 0 0 0, .cpyt 0 3 1 2 0 0 3 0 0 0 0 0 0,
    .cpyx 0 1 2 3 0 5 0 0 0 0 0 0 0] : List Instr).all (fun i => !i.wf) = true := by decide

/-- R159, R194, R207, R235, R266, R277, R281: odd mask registers, no counter, a count of zero, a job register without its flag, mode 3. -/
theorem test_wf_engine : ([.twany 0 1 3, .twall 0 1 3, .tffr 0 1 3, .tclr 0 3, .wait 0 0 5,
    .semsig 0 1 0 0 0 0 0, .semsig 0 0 0 0 1 1 0, .semsig 0 1 1 0 1 0 0, .semwait 0 0 0 0 0, .bararv 0 1 1 0 0 0 0,
    .bararv 0 1 0 0 1 1 0, .launch 0 1 2 0 0 3 0, .task 0 1 2 3 4 0 0 0, .slabtag 0 1 2 3 0] : List Instr).all (fun i => !i.wf) = true := by decide

/-- R40, R48, R205: a count at level 1, unassigned system registers, kind 3. -/
theorem test_wf_control : ([.loopset 0 1 2 1, .srd 0 1 9, .srd 0 1 0x84, .swr 0 1 0xFFF, .fence 0 3 0] : List Instr).all (fun i => !i.wf) = true := by decide

/-- R23: slots in rising order, each class once. -/
theorem test_wf_bundle : (Bundle.wf ⟨false, false, 10, [(.a1, .add 0 1 2 3), (.a0, .add 0 1 2 3)]⟩) = false ∧
    (Bundle.wf ⟨false, false, 6, [(.a0, .bext 0 1 2 0 63 1)]⟩) = false ∧ (Bundle.wf ⟨false, false, 6, [(.a0, .bext 0 1 2 0 62 1)]⟩) = true := by decide

/-! ### Words written out from the field tables of the manual (R31, R33, R34 and the entries), one for every operation -/

/-- R31, R85 to R92. -/
theorem test_words_arith_1 : [(0x01FCAD00, .add 3 31 5 13), (0x07087B00, .sub 6 2 3 27), (0x0A919300, .and 5 4 12 19),
    (0x0CFA2700, .or 1 30 17 7), (0x108DCE00, .xor 1 3 14 14), (0x14A07200, .andn 1 8 3 18),
    (0x1A0B7300, .shl 4 2 27 19), (0x1CFD1500, .shr 1 31 8 21), (0x234FE200, .sar 6 19 31 2),
    (0x26CDA200, .rol 5 19 13 2), (0x290A5C00, .min 2 2 18 28), (0x2D29C500, .max 2 10 14 5),
    (0x32926A00, .minn 5 4 19 10), (0x36EEC600, .maxn 5 27 22 6), (0x38CE7500, .seq 1 19 19 21),
    (0x3D309200, .slt 2 12 4 18), (0x430E6200, .sltn 6 3 19 2), (0x469E1612, .sel 5 7 16 22 18),
    (0x4A656002, .clz 4 25 11 2), (0x4EF9E002, .popc 5 30 15 2), (0x51A3460C, .addsh 3 8 26 6 12),
    (0x57A07300, .addw 7 8 3 19)].all
    (fun e => decodeSlot .a0 e.1 == .ok e.2) = true := by decide

/-- R31, R85 to R92. -/
theorem test_words_arith_2 : [(0x59C61169, .bext 3 17 16 1 5 41), (0x5F3D4169, .bins 6 15 10 5 41), (0x628C9100, .mul 5 3 4 17),
    (0x661B2B00, .mulh 4 6 25 11), (0x697A0E00, .mulhn 2 30 16 14), (0x6CFEC300, .div 1 31 22 3),
    (0x73CA7A00, .divn 7 18 19 26), (0x77AD7700, .rem 7 11 11 23), (0x79D21300, .remn 3 20 16 19),
    (0x83BC7AE2, .addi 7 15 3 6882), (0x84FD2F2C, .andi 1 31 9 3884), (0x8B5861F2, .ori 6 22 3 498),
    (0x8F5D54B6, .xori 6 23 10 5302), (0x92DB602D, .shli 5 22 27 45), (0x962AE02D, .shri 4 10 23 45),
    (0x9A76C02D, .sari 4 29 22 45), (0x9D87EEC7, .slti 3 1 31 3783), (0xA19A83C0, .sltni 3 6 20 960),
    (0xA608F896, .seqi 4 2 7 6294), (0xA996F416, .movl 3 5 193558), (0xAD359056, .cati 2 13 102486)].all
    (fun e => decodeSlot .a0 e.1 == .ok e.2) = true := by decide

/-- R31, R161 to R175. -/
theorem test_words_access_1 : [(0x03C06553, .ldx 7 16 3 1363), (0x063648E5, .stx 4 13 18 2277), (0x096DDBA6, .ldv 2 27 14 7078),
    (0x0EA6ED4B, .stv 5 9 23 3403), (0x11DBB3D5, .stvp 3 22 29 4 981), (0x151465A4, .ldxf 2 5 3 1444),
    (0x1922C778, .stxe 2 8 22 1912), (0x1CC372DB, .ldvf 1 16 27 4827), (0x21254022, .stve 2 9 10 34),
    (0x253A4BD1, .setfe 2 14 18 3025), (0x2ACD7E80, .getfe 5 19 11 7808), (0x2D5C06E0, .ldsp 2 23 1760),
    (0x32FC04F1, .stsp 5 31 1265), (0x37580030, .ldspv 6 22 48), (0x38BC003A, .stspv 1 15 58),
    (0x43E7FCAF, .aadd 7 25 31 28 175), (0x47C9AD67, .amin 7 18 13 13 103)].all
    (fun e => decodeSlot .ld e.1 == .ok e.2) = true := by decide

/-- R31, R161 to R175. -/
theorem test_words_access_2 : [(0x4A121567, .amax 4 4 16 21 103), (0x4C9C6771, .aminn 1 7 3 7 113), (0x5111740E, .amaxn 2 4 11 20 14),
    (0x5486658A, .aand 1 1 19 5 138), (0x58FD9407, .aor 1 31 12 20 7), (0x5CF0F461, .axor 1 28 7 20 97),
    (0x61553F59, .aswp 2 21 9 31 89), (0x66B2041E, .acas 5 12 16 4 30), (0x6BC1EF60, .vaor 7 16 15 3936),
    (0x6E28649D, .vaadd 4 10 3 1181), (0x80E17A1F, .gldx 1 24 11 3 543), (0x866EEC22, .gstx 4 27 23 1 1058),
    (0x889FFAE5, .gldv 1 7 31 3 741), (0x8D5E4E11, .gstv 2 23 18 1 1553), (0x92AABC59, .gamo 5 10 21 28 1 1 9),
    (0x97038937, .gred 6 28 9 3 7), (0x99800016, .drain 3 1 6)].all
    (fun e => decodeSlot .ld e.1 == .ok e.2) = true := by decide

/-- R31, R98 to R114. -/
theorem test_words_vector_1 : [(0x03A252E9, .vadd 7 8 18 18 7 2 1), (0x07229AE9, .vsub 6 8 20 26 7 2 1), (0x0BA36DC9, .vmul 7 8 27 13 6 2 1),
    (0x0D460CC9, .vfma 2 17 16 12 6 2 1), (0x10E93069, .vfms 1 26 9 16 3 2 1), (0x1753EC89, .vmin 6 20 31 12 4 2 1),
    (0x198D0449, .vmax 3 3 8 4 2 2 1), (0x1D2CF0A9, .vminn 2 11 7 16 5 2 1), (0x227AACE9, .vmaxn 4 30 21 12 7 2 1),
    (0x27D88089, .vabs 7 22 4 4 2 1), (0x2A74C089, .vneg 4 29 6 4 2 1), (0x2CEBF88B, .vadds 1 26 31 24 4 2 1 1),
    (0x3263E3CB, .vsubs 4 24 31 3 6 2 1 1), (0x351425A9, .vmulh 2 5 1 5 5 2 1), (0x3BD4B4E9, .vmulhn 7 21 5 20 7 2 1),
    (0x3F7985B9, .vdot 6 30 12 5 5 6 0 1), (0x408758C9, .vand 1 1 26 24 6 2 1), (0x46E3C589, .vor 5 24 30 5 4 2 1),
    (0x4BF0E169, .vxor 7 28 7 1 3 2 1)].all
    (fun e => decodeSlot .vx e.1 == .ok e.2) = true := by decide

/-- R31, R98 to R114. -/
theorem test_words_vector_2 : [(0x4DC519A9, .vandn 3 17 8 25 5 2 1), (0x51C9DB49, .vshl 3 18 14 27 2 2 1), (0x5733AFC9, .vshr 6 12 29 15 6 2 1),
    (0x5BFBB149, .vsar 7 30 29 17 2 2 1), (0x5EC423E9, .vshli 5 17 1 3 7 2 1), (0x639A832B, .vshri 7 6 20 3 1 2 1 1),
    (0x651600A9, .vpopc 2 5 16 5 2 1), (0x6A8960C9, .vclz 5 2 11 6 2 1), (0x839B24A9, .vcmpeq 7 6 25 4 5 2 1),
    (0x8518E929, .vcmpne 2 6 7 9 1 2 1), (0x8A99F229, .vcmplt 5 6 15 18 1 2 1), (0x8E1974A9, .vcmple 4 6 11 20 5 2 1),
    (0x93192FA9, .vcmpltn 6 6 9 15 5 2 1), (0x969BE8D5, .vcmpun 5 6 31 8 6 5 1), (0x9AF7E7E8, .vsel 5 29 31 7 7 2),
    (0x9E15C029, .vmov 4 5 14 1 2 1), (0xA22C60C9, .vbcast 4 11 3 6 2 1), (0xA60CF60A, .vext 4 3 7 22 2 1),
    (0xA9E89D08, .vins 3 26 4 29 2)].all
    (fun e => decodeSlot .vx e.1 == .ok e.2) = true := by decide

/-- R31, R98 to R114. -/
theorem test_words_vector_3 : [(0xAF97F7CB, .vperm 7 5 31 23 6 2 1 1), (0xB1F4BF89, .vrot 3 29 5 31 4 2 1), (0xB77C8D08, .vmerge 6 31 4 13 2),
    (0xBA1AC0E9, .viota 4 6 22 7 2 1), (0xC15DC0AA, .vredadd 2 23 14 5 2 1), (0xC62DC04A, .vredmax 4 11 14 2 2 1),
    (0xC9AC60CA, .vredmin 3 11 3 6 2 1), (0xCD8560A9, .vscan 3 1 11 5 2 1), (0xD25C2739, .vcvt 4 23 1 0 7 1 6 0 1),
    (0xD625717B, .vpack4 4 9 11 17 3 6 3), (0xDAAA3F54, .vunpk4 5 10 17 31 2 5), (0xDC93D5FC, .vcord 1 4 30 21 7 7),
    (0xE1186500, .pand 2 6 3 5), (0xE4986500, .por 1 6 3 5), (0xE8986500, .pxor 1 6 3 5),
    (0xED986000, .pnot 3 6 3), (0xF188601C, .pcnt 3 2 3 7), (0xF524601C, .pfirst 2 9 3 7),
    (0xF91B6010, .ptail 2 6 27 4)].all
    (fun e => decodeSlot .vx e.1 == .ok e.2) = true := by decide

/-- R133, R143, R150. -/
theorem test_words_matrix : [(0x03FBF25B992C0000, .mma 7 3 27 969 3 7 3 2 5 1), (0x0743478EE1C40000, .mmat 6 2 3 286 1 13 12 3 1 1), (0x09B516FA95440000, .mmae 3 1 21 91 7 5 2 10 1 1),
    (0x11F23A29A2600B80, .wbld 3 7 4 465 9 20 1 3 0 2 1 1 2), (0x16B580000001DE00, .wbclr 5 107 119 1), (0x21D0000000000000, .accz 3 10),
    (0x2531C00000000000, .accrd 2 1 17 12), (0x2926500000000000, .accwr 2 1 6 5), (0x2CA7000000000000, .accbias 1 1 7),
    (0x31EA880D62CF8000, .accst 3 3 10 544 3 2 98 1 1 7 1 2), (0x42D9800000000000, .ftset 5 11 6), (0x45B6800000000000, .ftget 3 6 26),
    (0x48A5800000000000, .monrd 1 9 3), (0x4C90000000000000, .monclr 1 1), (0x50E0000000000000, .mbset 1 24)].all
    (fun e => decodeSlot .mx e.1 == .ok e.2) = true := by decide

/-- R187, R194, R207, R217, R235 to R281. -/
theorem test_words_engine_1 : [(0x02D23C1EF489E3A0, .cpy 5 2 18 7 527 122 8 1 120 1 1 1 1 0), (0x071BAB7753011BF0, .cpy2 6 0 27 21 443 169 16 70 1 1 1 3 1), (0x09973FDE7600B3F0, .cpyg 3 23 7 1007 59 44 1 1 1 3 1),
    (0x0F152B3FFC00B7A0, .cpys 6 21 5 415 254 45 1 1 1 1 0), (0x108EB8E24534E3B0, .cpyr 1 3 21 24 226 17 77 56 1 1 1 1 1), (0x14D6DB0FBF115BF0, .cpyt 1 2 22 27 391 223 17 86 1 1 1 3 1),
    (0x195D4276332057C0, .cpyx 2 23 10 2 118 12 200 21 1 1 1 2 0), (0x20A5800000000000, .twany 1 9 12), (0x25FE800000000000, .twall 3 31 20),
    (0x29C8C00000000000, .tffr 3 18 6), (0x2D83400000000000, .tclr 3 26), (0x310FC00000000000, .wait 2 1 124),
    (0x4182764400000040, .semsig 3 0 1 14 200 1 2), (0x45000E4400000040, .semwait 2 1 200 1 2), (0x48C0900000000060, .semrd 1 16 18 3)].all
    (fun e => decodeSlot .ec e.1 == .ok e.2) = true := by decide

/-- R187, R194, R207, R217, R235 to R281. -/
theorem test_words_engine_2 : [(0x4F1E840C00000060, .bararv 6 7 1 16 129 1 3), (0x5384300000000040, .barwt 7 1 6 2), (0x578C080000000040, .treearv 7 3 2 2),
    (0x5A88100000000020, .treewt 5 2 4 1), (0x5DAAA80000000000, .treemask 3 10 21 2), (0x6080000000000000, .next 1),
    (0x66FE3D8048580000, .launch 5 31 17 14 49188 5 1), (0x6B76FAEF4C770000, .task 6 29 23 26 29 3 10 25528), (0x6F80000000000000, .doneUnit 7),
    (0x6DF0000000000000, .doneItem 3 24), (0x7216000000000000, .cancel 4 5 2), (0x7752B20000000000, .slabtag 6 20 21 2 1),
    (0x80F7678440000000, .clkdiv 1 14 14 12 15 17), (0x8738000000000000, .timewt 6 14)].all
    (fun e => decodeSlot .ec e.1 == .ok e.2) = true := by decide

/-- R31, R48 to R56, R205. -/
theorem test_words_control : [(0x0302CDE1, .bra 6 183777), (0x07C48EA7, .bz 7 17 36519), (0x0AE6047A, .bnz 5 25 132218),
    (0x0EEF406B, .bltz 5 27 213099), (0x13874E3F, .bgez 7 1 216639), (0x17405723, .loopb 6 1 22307),
    (0x18805A5B, .loopset 1 0 2 6747), (0x1D028C6A, .call 2 167018), (0x2183E000, .jr 3 31),
    (0x24B76000, .jalr 1 13 27), (0x2A000A5C, .trap 4 2652), (0x2E800000, .eret 5),
    (0x30D40043, .srd 1 21 67), (0x3482A014, .swr 1 21 20), (0x3A80000B, .fence 5 2 3),
    (0x3D000000, .halt 2), (0x42242000, .locq 4 9 1), (0x46680000, .tsr 4 26),
    (0x48E00001, .cyc 1 24 1)].all
    (fun e => decodeSlot .br e.1 == .ok e.2) = true := by decide

/-! ### Words and bytes that the manual itself gives -/

/-- The worked words after R34, R48, R91, R105, R167. -/
theorem test_manual_words : decodeSlot .a0 0x000C2200 = .ok (.add 0 3 1 2) ∧ decodeSlot .ld 0x0810A002 = .ok (.ldv 0 4 5 2) ∧
    decodeSlot .vx 0x0018871C = .ok (.vadd 0 6 4 7 0 7 0) ∧ decodeSlot .vx 0xB00C2200 = .ok (.vrot 0 3 1 2 0 0 0) ∧
    decodeSlot .vx 0xB40C8200 = .ok (.vmerge 0 3 4 2 0) ∧ decodeSlot .ld 0x40142300 = .ok (.aadd 0 5 1 3 0) ∧
    decodeSlot .br 0x1800C002 = .ok (.loopset 0 0 6 2) ∧ decodeSlot .br 0x38000002 = .ok (.fence 0 0 2) ∧
    decodeSlot .br 0x3800000A = .ok (.fence 0 2 2) := by decide

/-- The worked words of R187, R207, R235, R240, R245, R248, R260, R266, R267, R270, R277, R281. -/
theorem test_manual_engine_words : decodeSlot .ec 0x0003080006001610 = .ok (.cpy 0 0 3 1 0 3 0 0 5 1 0 0 0 1) ∧
    decodeSlot .ec 0x4014180800000040 = .ok (.semsig 0 5 0 3 1 0 2) ∧ decodeSlot .ec 0x4400180800000040 = .ok (.semwait 0 3 1 0 2) ∧
    decodeSlot .ec 0x6414C40006000000 = .ok (.launch 0 5 6 2 3 0 0) ∧ decodeSlot .ec 0x6000000000000000 = .ok (.next 0) ∧
    decodeSlot .ec 0x6C00000000000000 = .ok (.doneUnit 0) ∧ decodeSlot .ec 0x6C4E000000000000 = .ok (.doneItem 0 7) ∧
    decodeSlot .ec 0x7024000000000000 = .ok (.cancel 0 9 0) ∧ decodeSlot .ec 0x8008998000000000 = .ok (.clkdiv 0 1 1 3 3 0) ∧
    decodeSlot .ec 0x4C16100800000000 = .ok (.bararv 0 5 1 2 1 0 0) ∧ decodeSlot .ec 0x5014100000000000 = .ok (.barwt 0 5 2 0) ∧
    decodeSlot .ec 0x5418000000000040 = .ok (.treearv 0 6 0 2) ∧ decodeSlot .ec 0x5818000000000040 = .ok (.treewt 0 6 0 2) ∧
    decodeSlot .ec 0x7425520000000000 = .ok (.slabtag 0 9 10 2 1) ∧ decodeSlot .ec 0x6814C74600002000 = .ok (.task 0 5 6 7 8 3 0 1) := by decide

/-- The two bundles of the worked example after R35, byte by byte; its ADDI word stands here as its fields add up, 0x80A52100 (log 56). -/
theorem test_manual_bundles :
    decodeBundle 16 false [0x15, 0, 0x00, 0x22, 0x0C, 0x00, 0x02, 0xA0, 0x10, 0x08, 0x1C, 0x87, 0x18, 0x00, 0, 0] =
      .bundle ⟨false, false, 14, [(.a0, .add 0 3 1 2), (.ld, .ldv 0 4 5 2), (.vx, .vadd 0 6 4 7 0 7 0)]⟩ ∧
    decodeBundle 64 false [0x8A, 0x02, 0x00, 0x21, 0xA5, 0x80, 0xFF, 0x3F, 0x0D, 0x05, 0xEC, 0xFF, 0x03, 0x14] =
      .bundle ⟨true, false, 14, [(.a1, .addi 1 9 9 256), (.ls, .stx 2 3 9 0x1FFF), (.br, .loopb 0 0 0x3FFEC)]⟩ ∧
    decodeBundle 2 false [0, 0] = .linePad ∧ decodeBundle 2 true [0, 0] = .malformed ∧ decodeBundle 4 true [1, 0, 0, 0x22] = .malformed := by decide

/-- Opcodes that R34 leaves unassigned, and a class that must not hold one. -/
theorem test_refused_words : (SlotUnit.arith.decode (0x1F * 2 ^ 26)).toOption = none ∧ (decodeSlot .a1 0x60000000).toOption = none ∧
    (decodeSlot .ls 0x40000000).toOption = none ∧ (decodeSlot .a0 0x00000001).toOption = none ∧
    (SlotUnit.vector.decode (0x2F * 2 ^ 26)).toOption = none ∧ (SlotUnit.engine.decode (7 * 2 ^ 58)).toOption = none := by decide

/-! ### Single operations, expected values from the rules by hand -/

/-- R84: 7 + (2^64 - 2) = 5. -/
theorem test_add_wraps : exec (.add 0 5 2 3) bench0 = .next (bench0.dueX 5 5 1) := by rfl

/-- R93: by zero the quotient is all ones and the remainder the dividend, after 18 issue cycles. -/
theorem test_div_by_zero : exec (.div 0 5 2 0) bench0 = .next (bench0.dueX 5 0xFFFFFFFFFFFFFFFF 18) ∧
    exec (.rem 0 5 2 0) bench0 = .next (bench0.dueX 5 7 18) := ⟨rfl, rfl⟩

/-- R93: -2 / 7 truncates towards zero, and the remainder keeps the sign of the dividend. -/
theorem test_div_truncates : exec (.div 0 5 3 2) bench0 = .next (bench0.dueX 5 0 18) ∧
    exec (.rem 0 5 3 2) bench0 = .next (bench0.dueX 5 0xFFFFFFFFFFFFFFFE 18) := ⟨rfl, rfl⟩

/-- R92: 7 * (2^64 - 2) has the high halves -1 (signed) and 6 (natural). -/
theorem test_high_products : exec (.mulh 0 5 2 3) bench0 = .next (bench0.dueX 5 0xFFFFFFFFFFFFFFFF 3) ∧
    exec (.mulhn 0 5 2 3) bench0 = .next (bench0.dueX 5 6 3) := ⟨rfl, rfl⟩

/-- R86: SLTNI reads its sign-extended immediate as a natural number, so 7 < -1. -/
theorem test_sltni_immediate : exec (.sltni 0 5 2 0x1FFF) bench0 = .next (bench0.dueX 5 1 1) ∧
    exec (.slti 0 5 2 0x1FFF) bench0 = .next (bench0.dueX 5 0 1) := ⟨rfl, rfl⟩

/-- R87, R88: CLZ of 7 in 8 bits is 5; BEXT of one bit, signed, spreads it; BINS writes x2's low 4 bits at 4 of x1 = 0x100. -/
theorem test_fields : exec (.clz 0 5 2 3) bench0 = .next (bench0.dueX 5 5 1) ∧
    exec (.bext 0 5 2 1 0 1) bench0 = .next (bench0.dueX 5 0xFFFFFFFFFFFFFFFF 1) ∧
    exec (.bins 0 1 2 3 4) bench0 = .next (bench0.dueX 1 0x170 1) := ⟨rfl, rfl, rfl⟩

/-- The value that an operation's newest write falls due with. -/
def dueValue (o : Host.Outcome State Fault Refusal) : Option Nat :=
  match o with
  | .next u => u.ctx.due.getLast?.map fun d => d.val.toNat % 2 ^ 64
  | _ => none

set_option maxRecDepth 100000 in
/-- R100: bytes add modulo 2^8 in each lane; 0x80 + 0x80 = 0. -/
theorem test_vadd_bytes : dueValue (exec (.vadd 0 3 1 2 0 0 0) (bench { unitCtx with vs := [(1, 0x80FF0102), (2, 0x80010302)] } Core.reset)) =
    some 0x00000404 := by decide +kernel

set_option maxRecDepth 100000 in
/-- R100: 1.0 + 2.0 in f32, the other lanes 0 + 0. -/
theorem test_vadd_f32 : dueValue (exec (.vadd 0 3 1 2 0 7 0) (bench { unitCtx with vs := [(1, 0x3F800000), (2, 0x40000000)] } Core.reset)) =
    some 0x40400000 := by decide +kernel

/-! ### Operations that act -/

theorem witness_sums : ∀ i ∈ ([.add 0 1 2 3, .sub 0 1 2 3, .and 0 1 2 3, .or 0 1 2 3, .xor 0 1 2 3, .andn 0 1 2 3, .addw 0 1 2 3, .addsh 0 1 2 3 15,
    .addi 0 1 2 0x1000, .andi 0 1 2 0, .ori 0 1 2 0x1FFF, .xori 0 1 2 1, .movl 0 1 0x20000, .cati 0 1 0x3FFFF, .min 0 1 2 3, .max 0 1 2 3,
    .minn 0 1 2 3, .maxn 0 1 2 3, .seq 0 1 2 3, .slt 0 1 2 3, .sltn 0 1 2 3, .seqi 0 1 2 7, .slti 0 1 2 0x1FFF, .sltni 0 1 2 0x1FFF,
    .sel 0 1 2 3 4] : List Instr), Acts i bench0 := all_act (by decide)

theorem witness_products : ∀ i ∈ ([.mul 0 1 2 3, .mulh 0 1 2 3, .mulhn 0 1 2 3, .div 0 1 2 5, .divn 0 1 2 3, .rem 0 1 2 3, .remn 0 1 2 5, .shl 0 1 2 3,
    .shli 0 1 2 63, .shr 0 1 2 3, .shri 0 1 2 63, .sar 0 1 2 3, .sari 0 1 2 0, .rol 0 1 2 3, .popc 0 1 3 3, .bext 0 1 2 1 63 0, .clz 0 1 0 0,
    .bins 0 1 2 0 63] : List Instr), Acts i bench0 := all_act (by decide)

theorem witness_loads : ∀ i ∈ ([.ldx 0 5 1 0, .getfe 0 5 1 0, .ldsp 0 5 0x7FF, .ldv 0 5 1 0, .ldspv 0 5 63] : List Instr), Acts i bench0 :=
  all_act (by decide)

/-- The first word of row 1 is full, row 2 empty, row 3 full. -/
def feBench : State := bench unitCtx { Core.reset with fe := [(1, 1), (3, 0xFFFFFFFF)] }

theorem witness_stores : ∀ i ∈ ([.stx 0 2 1 0, .stxe 0 2 1 1, .ldxf 0 5 1 0, .stv 0 1 1 0, .stve 0 1 1 1, .ldvf 0 5 1 2, .setfe 0 2 1 0, .stvp 0 1 1 1 0,
    .stsp 0 2 0x7FF, .stspv 0 1 63] : List Instr), Acts i feBench := all_act (by decide)

/-- The LD slot's write is discarded. -/
theorem witness_discard : let s := { feBench with cur := { feBench.cur with ldDiscard := true } }
    s.cur.ldDiscard = true ∧ s.cur.pm = 2 ∧ Acts (.stx 0 2 1 0) s := ⟨rfl, rfl, acts_of_clearHere (by decide)⟩

theorem witness_atomics : ∀ i ∈ ([.aadd 0 5 1 2 0, .amin 0 5 1 2 0, .amax 0 5 1 2 0, .aminn 0 5 1 2 0, .amaxn 0 5 1 2 0, .aand 0 5 1 2 0, .aor 0 5 1 2 0,
    .axor 0 5 1 2 0, .aswp 0 5 1 2 0, .acas 0 5 1 2 0, .vaor 0 5 1 0, .vaadd 0 5 1 0] : List Instr), Acts i bench0 := all_act (by decide)

theorem witness_globals : bench0.me.region.reuse = [] ∧ ∀ i ∈ ([.gldx 0 5 1 0 0, .gldv 0 5 1 3 0x7FF, .locq 0 5 1, .gstx 0 2 1 0 0, .gstv 0 1 1 3 0,
    .gamo 0 5 1 2 1 0 9, .gamo 0 0 1 2 0 0 0, .gred 0 1 2 0 11, .slabtag 0 5 1 0 0, .slabtag 0 5 1 2 3] : List Instr), Acts i bench0 :=
  ⟨rfl, all_act (by decide)⟩

theorem witness_integer_lanes : tyInt 3 = true ∧ ∀ i ∈ ([.vadd 0 3 1 2 1 3 0, .vsub 0 3 1 2 1 3 0, .vmul 0 3 1 2 1 3 0, .vfma 0 3 1 2 1 3 0,
    .vfms 0 3 1 2 1 3 0, .vmin 0 3 1 2 1 3 0, .vmax 0 3 1 2 1 3 0, .vminn 0 3 1 2 1 3 0, .vmaxn 0 3 1 2 1 3 0, .vabs 0 3 1 1 3 0, .vneg 0 3 1 1 3 0,
    .vmulh 0 3 1 2 1 3 0, .vmulhn 0 3 1 2 1 3 0, .vadds 0 3 1 2 1 3 0 0, .vsubs 0 3 1 2 1 3 1 1, .vand 0 3 1 2 1 7 0, .vor 0 3 1 2 1 7 0,
    .vxor 0 3 1 2 1 7 0, .vandn 0 3 1 2 1 7 0, .vshl 0 3 1 2 1 3 0, .vshr 0 3 1 2 1 3 0, .vsar 0 3 1 2 1 3 0, .vshli 0 3 1 31 1 0 0,
    .vshri 0 3 1 31 1 0 1 0, .vpopc 0 3 1 1 3 0, .vclz 0 3 1 1 3 0, .vdot 0 3 1 2 1 0 1 0] : List Instr), Acts i bench0 :=
  ⟨rfl, all_act (by decide)⟩

theorem witness_float_lanes : tyFlt 5 = true ∧ (5 : BitVec 3) ≠ 7 ∧ tyFlt 7 = true ∧ fcrRm bench0.ctx.fcr ≠ 4 ∧
    fcrRm { unitCtx with fcr := 4 }.fcr = 4 ∧ ∀ i ∈ ([.vadd 0 3 1 2 1 7 0, .vsub 0 3 1 2 1 7 0, .vmul 0 3 1 2 1 7 0, .vfma 0 3 1 2 1 7 0,
    .vfms 0 3 1 2 1 7 0, .vmin 0 3 1 2 1 7 0, .vmax 0 3 1 2 1 7 0, .vabs 0 3 1 1 7 0, .vneg 0 3 1 1 7 0, .vdot 0 3 1 2 1 5 0 0] : List Instr),
    Acts i bench0 := ⟨rfl, by decide, rfl, by decide, by decide, all_act (by decide)⟩

theorem witness_comparisons : tyInt 0 = true ∧ tyFlt 6 = true ∧ ∀ i ∈ ([.vcmpeq 0 2 1 2 1 0 0, .vcmpne 0 2 1 2 1 0 0, .vcmplt 0 2 1 2 1 0 0,
    .vcmple 0 2 1 2 1 0 0, .vcmpltn 0 2 1 2 1 0 0, .vcmpeq 0 2 1 2 1 6 0, .vcmpne 0 2 1 2 1 6 0, .vcmplt 0 2 1 2 1 6 0, .vcmple 0 2 1 2 1 6 0,
    .vcmpun 0 2 1 2 1 6 0, .pand 0 1 2 3, .por 0 1 2 3, .pxor 0 1 2 3, .pnot 0 1 7, .ptail 0 1 2 3, .pcnt 0 5 1 0, .pfirst 0 5 2 0] : List Instr),
    Acts i bench0 := ⟨rfl, rfl, all_act (by decide)⟩

theorem witness_moves : tyInt 2 = true ∧ tyFlt 7 = true ∧ ∀ i ∈ ([.vmov 0 3 1 1 4 0, .vbcast 0 3 2 1 7 1, .vperm 0 3 1 2 1 0 1 0, .vrot 0 3 1 3 1 0 0,
    .viota 0 3 2 1 2 0, .vsel 0 3 1 2 1 0, .vmerge 0 3 1 3 0, .vins 0 3 2 3 0, .vext 0 5 1 3 0 0, .vredadd 0 5 1 1 2 0, .vredmax 0 5 1 1 2 1,
    .vredmin 0 5 1 1 2 0, .vscan 0 3 1 1 2 0, .vredadd 0 5 1 1 7 0, .vredmax 0 5 1 1 7 0, .vredmin 0 5 1 1 7 0, .vscan 0 3 1 1 7 1] : List Instr),
    Acts i bench0 := ⟨rfl, rfl, all_act (by decide)⟩

theorem witness_conversions : (Instr.vcvt 0 3 1 0 2 0 7 0 0).wf = true ∧ (Instr.vunpk4 0 3 1 2 7 7).wf = true ∧ (Instr.vcord 0 3 1 28 0 7).wf = true ∧
    (Instr.vpack4 0 3 1 2 7 7 0).wf = true ∧ ∀ i ∈ ([.vcvt 0 3 1 0 2 0 7 0 0, .vunpk4 0 3 1 2 7 7, .vcord 0 3 1 28 0 7, .vpack4 0 3 1 2 7 7 0] :
    List Instr), Acts i bench0 := ⟨rfl, rfl, rfl, rfl, all_act (by decide)⟩

theorem witness_array_operations : ∀ i ∈ ([.mma 0 3 1 0x3FF 7 14 15 6 0 1, .mmat 0 0 1 0 0 0 0 15 1 0, .mmae 0 0 1 0 0 0 0 0 0 0, .accz 0 15, .accwr 0 3 1 15,
    .accbias 0 0 1] : List Instr), Acts i bench0 := all_act (by decide)

theorem witness_matrix_commands : ∀ i ∈ ([.wbld 0 7 1 0x3FF 0 31 0 0 0 127 1 1 2, .wbclr 0 255 0 0, .accst 0 3 1 0 4 7 127 1 1 2 1 2] : List Instr),
    Acts i bench0 := all_act (by decide)

theorem witness_matrix_registers : ∀ i ∈ ([.accrd 0 3 1 15, .ftget 0 15 5, .monrd 0 5 4, .ftset 0 15 2, .mbset 0 2, .monclr 0 7] : List Instr), Acts i bench0 :=
  all_act (by decide)

theorem witness_copies : ∀ i ∈ ([.cpy 0 2 1 4 0x3FF 255 2 1 127 1 1 1 2 0, .cpy2 0 1 1 4 0 0 2 0 0 0 0 0 0, .cpyg 0 1 4 0 0 0 0 0 0 0 1, .cpys 0 1 4 0 0 0 0 0 0 0 0,
    .cpyr 0 2 1 4 0 63 255 127 1 1 1 2 1, .cpyt 0 2 1 4 0 0 2 127 1 0 0 0 1, .cpyx 0 2 1 4 0 63 1 127 1 0 1 2 1] : List Instr), Acts i bench0 :=
  all_act (by decide)

/-- The tags 0 and 127 are set, 127 with its error. -/
def tagBench : State := let s := bench { unitCtx with xs := [(2, 1), (3, 0x8000000000000000)] } { Core.reset with tb := 1 + 2 ^ 127, te := 2 ^ 127 }
  { s with cur := { s.cur with tb := 1 + 2 ^ 127, te := 2 ^ 127 } }

set_option maxRecDepth 100000 in
theorem witness_tag_waits : ∀ i ∈ ([.twany 0 5 2, .twall 0 5 2, .tffr 0 5 2, .tclr 0 2, .wait 0 15 0, .barwt 0 2 3 0, .treewt 0 2 3 0, .timewt 0 5] : List Instr),
    Acts i tagBench := all_act (by decide)

theorem witness_signals : ∀ i ∈ ([.semsig 0 0 1 63 255 1 0, .semsig 0 2 0 0 1 0 2, .bararv 0 5 1 63 255 1 2, .treearv 0 5 7 2, .doneItem 0 2] : List Instr),
    Acts i bench0 := all_act (by decide)

/-- Semaphore 63 holds 255. -/
def semBench : State := bench { unitCtx with status := 1 } { Core.reset with sems := [(63, ⟨255, false⟩)] }

theorem witness_semaphores : semBench.job semBench.ctx.job = some benchJob ∧ ∀ i ∈ ([.semwait 0 63 255 0 2, .semwait 0 63 1 1 0, .semrd 0 5 63 0,
    .treemask 0 2 3 7, .clkdiv 0 15 15 15 15 5] : List Instr), Acts i semBench := ⟨by decide, all_act (by decide)⟩

theorem witness_branches : ∀ i ∈ ([.bra 0 0x20000, .bz 0 5 1, .bnz 0 5 1, .bltz 0 3 1, .bgez 0 5 1, .call 0 1, .jr 0 1, .jalr 0 5 1, .loopset 0 0 2 0x1FFF,
    .loopset 0 1 2 0, .loopb 0 0 0x3FFFF, .loopb 0 1 0x3FFFF, .trap 0 0xFFF, .halt 0, .eret 0] : List Instr), Acts i semBench := all_act (by decide)

theorem witness_system_registers : ∀ i ∈ ([.srd 0 5 0x000, .srd 0 5 0x083, .cyc 0 5 0, .cyc 0 5 1, .tsr 0 5, .swr 0 2 0x001, .swr 0 2 0x014, .swr 0 2 0x000,
    .swr 0 2 0x020, .swr 0 2 0x081, .swr 0 2 0x082] : List Instr), Acts i semBench := all_act (by decide)

theorem witness_fences : ∀ i ∈ ([.fence 0 2 3, .drain 0 2 15] : List Instr), Acts i bench0 := all_act (by decide)

/-- A graph context in a job that issues work. -/
def graphBench : State := bench { unitCtx with owner := .graph 3, status := 1 } Core.reset

theorem witness_work : graphBench.job 1 = some benchJob ∧ graphBench.me.region.reuse = [] ∧ graphBench.job 2 = none ∧
    ∀ i ∈ ([.launch 0 5 1 15 0xFFFF 0 0, .launch 0 5 1 0 0 2 1, .task 0 5 1 2 3 3 0 0, .next 0, .doneUnit 0, .cancel 0 1 3] : List Instr),
      Acts i graphBench := ⟨by decide, rfl, by decide, all_act (by decide)⟩

theorem witness_operations_only :
    (Instr.encode (.add 0 1 2 3)).map (·.1) = some .arith ∧ (Instr.encode (.vadd 0 3 1 2 1 3 0)).map (·.1) = some .vector ∧
    (Instr.encode (.stx 0 2 1 0)).map (·.1) = some .access ∧ (Instr.stx 0 2 1 0).oldAdds = 0 ∧ (Instr.stx 0 2 1 0).ostAdds = 0 ∧
    (Instr.ldx 0 5 1 0).writesRow = false := ⟨rfl, rfl, rfl, rfl, rfl, rfl⟩

/-! ### Encodings, reset, the step -/

theorem witness_encoding : (Instr.add 7 31 31 31).layout ≠ none ∧ (Instr.add 7 31 31 31).wf = true ∧
    (Instr.encode (.add 7 31 31 31)).isSome = true := ⟨by simp [Instr.layout], rfl, rfl⟩

theorem witness_decoding : (0xE3FFFF00 : Nat) < 2 ^ SlotUnit.arith.home.bits := by decide

theorem test_decode_last_add : SlotUnit.arith.decode 0x03FFFF00 = .ok (.add 7 31 31 31) := rfl

theorem witness_invariant : MemoryCanonical State.reset ∧ (match step State.reset with | .next _ => true | _ => false) = true := ⟨by decide, by decide⟩

/-- A state whose next step runs the word of ADDSH from the manual's worked example. -/
def placed : State := State.reset.withFetchWord 32 0x50080108
def placed0 : State := { placed with free := placed.free + 1 }
def opened : State := { placed0 with time := max placed0.time (placed0.cycleTime 0) }.openCycle 0
def settled : State := opened.settle 0
def placedCtx : Ctx := settled.ctxAt 0 0
def placedLine : List Byte := match settled.codeLine 0 placedCtx.job placedCtx.pc with | .ok l => l | .error _ => []
def placedBundle : Bundle := ⟨false, true, 6, [(.a0, .addsh 0 2 0 1 8)]⟩
def looking : State :=
  ((settled.updCtx 0 0 fun k => { k with pc := placedCtx.pc }).sampled 0).look 0 0 placedCtx.pc (settled.linkValue 0 placedCtx.job placedCtx.pc placedLine placedBundle.len)

set_option maxRecDepth 100000 in
theorem witness_step :
    ((settled.tile 0).still = false ∧ settled.codeMiss 0 placedCtx.job placedCtx.pc = false ∧ placed0.nextTile = some (0, 0) ∧ placed0.agenda = [] ∧ (opened.tile 0).retired = false ∧ opened.stalled 0 = none ∧
      (settled.tile 0).core.primary = 0 ∧ (∀ k < 4, k ≠ 0 → (settled.ctxAt 0 k).owner = .idle) ∧ placedCtx.owner ≠ .idle ∧
      placedCtx.stopped = false ∧ placedCtx.handler = none ∧ placedCtx.stop = .run ∧ placedCtx.halted = false ∧ placedCtx.pause = 0 ∧
      placedCtx.errs = [] ∧ placedCtx.fetchWait = false ∧ (settled.tile 0).region.run = 0) ∧
    settled.codeLine 0 placedCtx.job placedCtx.pc = .ok placedLine ∧
    decodeBundle (64 - placedCtx.pc.toNat % 64) placedCtx.arrived (placedLine.drop (placedCtx.pc.toNat % 64)) = .bundle placedBundle ∧
    looking.guardOn 0 = true ∧ clearHere (looking.atSlot .a0) (.addsh 0 2 0 1 8) = true ∧
    (match exec (.addsh 0 2 0 1 8) ((looking.beginBundle placedBundle).atSlot .a0) with
      | .next u =>
        let e := u.endBundle placedBundle false (looking.collides placedBundle.slots) (Instr.waits (.addsh 0 2 0 1 8))
        !settled.commitFirst 0 ⟨e, [0], some (placedBundle, looking.xRows placedBundle.slots), false, none⟩
      | _ => false) = true := by
  refine ⟨?_, ?_, ?_, ?_, ?_, ?_⟩ <;> decide

/-! ### Waits, traps, due results -/

/-- A strict context whose x2 has a result due later. -/
def strictBench : State := bench { unitCtx with status := 0x12, due := [⟨5, 0, 1, .x 2, 9, 0, 0, 0, none⟩] } { Core.reset with isscnt := 1 }

theorem witness_no_effect :
    ((Instr.add 1 2 3 4).encode ≠ none ∧ (Instr.add 1 2 3 4).sp ≠ 0 ∧ bench0.ctx.sp.getLsbD 1 = false) ∧
    (strictBench.ctx.strict = true ∧ strictBench.guardOn 0 = true ∧ strictBench.cur.checked = false ∧
      strictBench.anyEarly (Instr.timewt 0 2).condRegs = true) ∧
    bench0.waitHolds (.twall 0 5 2) = false ∧
    (let o : ArrayOp := ⟨0, .accz 0 1, 0, 0, 0, 0, 0, [], 0, 0, 5, 6, 18, 1, 2, 2, false, 0, 0, 0, 0, 0, 0, [], 0, 0, 0, 0, 0, 0, 0, 0, 0, 0, 0, 0, false, false, none, [], false, false⟩;
      (bench unitCtx { Core.reset with isscnt := 9, aq := [o, o, o, o] }).me.core.mustFreeze (.accz 0 1) = true ∧
      (bench unitCtx { Core.reset with aq := [o, o, o, o] }).commandBlocks (.accz 0 1) = true) ∧
    (bench { unitCtx with old := 15 } Core.reset).countersFull (Instr.gldx 0 5 1 0 0).oldAdds 0 = true ∧
    bench0.workDenied (.task 0 5 1 2 3 3 0 0) = true ∧ bench0.unprivileged (.eret 0) = true ∧ strictBench.hazard (.add 0 5 2 3) = true ∧
    (let s := bench { unitCtx with status := 0x12, xs := [(1, 0x3FFF8)] } Core.reset;
      (Instr.ldx 0 5 1 1).scratch s = some 0x40000 ∧ (Instr.ldx 0 5 1 1).engineEa s = [] ∧ s.hazard (.ldx 0 5 1 1) = false) ∧
    (let s := bench unitCtx { Core.reset with bad := [(1, 1)] };
      (Instr.ldx 0 5 1 0).scratch s = some 0x100 ∧ s.me.core.badBits (rowOf 0x100) &&& (Instr.ldx 0 5 1 0).wordsRead s 0x100 ≠ 0) := by
  refine ⟨⟨by simp [Instr.encode, Instr.layout], by decide, by decide⟩, ?_, ?_, ?_, ?_, ?_, ?_, ?_, ?_, ?_⟩ <;> decide

theorem witness_supervisor_forms : bench0.guardOn 0 = true ∧ bench0.cur.checked = false ∧ bench0.ctx.status.getLsbD 0 = false ∧ bench0.ctx.inh = false ∧
    (bench { unitCtx with owner := .graph 3 } Core.reset).slotCount { unitCtx with owner := .graph 3 } 0 < 0xFFFF ∧ 2 ≤ (2 : BitVec 2).toNat ∧
    (1 : BitVec 4) ≠ 0 ∧ (1 : BitVec 4).toNat < pcapFloor (bench0.ctl.pcap ||| 0xFFFF) 0 ∧ (0x082 : BitVec 12) ∈ [0x014, 0x015, 0x016, 0x017, 0x081, 0x082] :=
  by refine ⟨?_, ?_, ?_, ?_, ?_, ?_, ?_, ?_, ?_⟩ <;> decide

theorem witness_precise_traps : (0x20 : Nat) ≠ 0x08 ∧ (0xFF : Nat) < 256 ∧ bench0.ctx.inh = false ∧ (bench { unitCtx with status := 8 } Core.reset).ctx.inh = true := by
  decide

/-- A state in which a load is pending on x3 (R171). -/
def pendBench : State := bench { unitCtx with pend := [⟨.x 3, 0, 9, 0, false⟩] } Core.reset

theorem witness_due : 0 < bench0.me.core.dC ∧ (31 : Nat) ≠ 0 ∧ (∀ d ∈ bench0.ctx.pend, d.reg ≠ .x 3) ∧ (∃ d ∈ pendBench.ctx.pend, d.reg = .x 3) ∧
    (Reg.x 3).wired = false ∧ (Reg.x 0).wired = true := by
  refine ⟨?_, ?_, ?_, ?_, ?_, ?_⟩ <;> decide

/-- Two writes due now to x2 and one later to v1; in the other state the vector domain lags behind one due now. -/
def dueBench : State := bench { unitCtx with
  due := [⟨0, 0, 1, .x 2, 9, 1, 0, 0, none⟩, ⟨0, 0, 2, .x 2, 8, 2, 0, 0, none⟩, ⟨0, 0, 2, .v 1, 8, 0, 0, 0, none⟩, ⟨0, 0, 2, .p 1, 8, 0, 0, 0, none⟩, ⟨1, 0, 2, .v 2, 8, 0, 0, 0, none⟩] } Core.reset
def lagBench : State := bench { unitCtx with due := [⟨0, 0, 1, .v 2, 9, 0, 1, 1, none⟩] } Core.reset

theorem witness_result_due : (dueBench.tile 1).core.lagging 0 = [] ∧ (lagBench.tile 1).core.lagging 0 = [1] ∧
    (∀ p ∈ (dueBench.ctxAt 1 0).due, p.clash = none) ∧
    (Pending.before ⟨0, 0, 1, .x 2, 9, 1, 0, 0, none⟩ ⟨0, 0, 2, .x 2, 8, 2, 0, 0, none⟩ : Bool) = true := by decide

/-! ### The events of one tile -/

/-- An array operation that has not started. -/
def anOp (i : Instr) : ArrayOp :=
  ⟨4, i, 0, 0, 0, 0, 0, [], 0, 0, 0, 1, 13, 1, 2, 2, false, 0, 0, 0, 0, 0, 0, [], 0, 0, 0, 0, 0, 0, 0, 0, 0, 0, 0, 0, false, false, none, [], false, false⟩

/-- Divisors due in the issue cycle that runs, and others in the next. -/
def divBench : State := bench unitCtx { Core.reset with isscnt := 5, divs := [⟨5, 1, 0, 3, 0⟩, ⟨6, 0, 0, 0, 7⟩] }
/-- An operation behind one that has ended; one whose pass must run again; one that is due. -/
def startBench (i : Instr) : State := bench unitCtx { Core.reset with
  arrClk := 3, actEnd := 3, aq := [{ anOp (.accz 0 1) with id := 2, started := true, actEnd := 3 }, anOp i], accs := [(3, 77)]
  wslots := [(0, ⟨0, 1, 0, false, 5⟩)] }
def againBench : State := bench unitCtx { Core.reset with
  aq := [{ anOp (.mmae 0 0 1 0 0 0 0 0 0 0) with started := true, again := true, ft := [(0, 0x3)] }], wslots := [(0, ⟨0, 1, 0, false, 5⟩)] }
def opDueBench : State := bench unitCtx { Core.reset with
  isscnt := 13, arrClk := 13, aq := [{ anOp (.accz 0 1) with started := true, actDue := 13, res := 6, flags := 3, ts := 2, exhausted := true }] }

set_option maxRecDepth 100000 in
theorem witness_array_queue :
    ((divBench.tile 1).core.divs = ⟨5, 1, 0, 3, 0⟩ :: [⟨6, 0, 0, 0, 7⟩] ∧ 5 ≤ (divBench.tile 1).core.isscnt.toNat ∧
      ∀ e ∈ [(⟨6, 0, 0, 0, 7⟩ : DivChange)], (divBench.tile 1).core.isscnt.toNat < e.at_) ∧
    (∀ i ∈ [(.accz 0 8 : Instr), .accwr 0 3 1 15, .mma 0 3 1 0 0 0 0 1 1 0],
      let k := ((startBench i).tile 1).core;
      k.loadPending 4 ((anOp i).slots k) = false ∧ (anOp i).nomStart ≤ k.isscnt.toNat ∧ max (anOp i).actStart k.actEnd ≤ k.arrClk ∧ (3 ∈ i.accs) ∧
        ∀ e ∈ k.aq.take 1, e.started = true ∧ e.again = false ∧ e.actEnd ≤ k.arrClk ∧ e.id ≠ 4 ∧ e.fault = none) ∧
    (let k := ((startBench (.mma 0 3 1 0 0 0 0 1 1 0)).tile 1).core;
      operandFault k 1 1 0 0 0 = none ∧ (anOp (.mma 0 3 1 0 0 0 0 1 1 0)).op.formats 0 = (1, 1) ∧ k.bad = []) ∧
    ((againBench.tile 1).core.aq.find? fun o => o.started && o.again && o.actEnd ≤ (againBench.tile 1).core.arrClk).isSome = true ∧
    ∃ o, (opDueBench.tile 1).core.aq = [o] ∧ o.started = true ∧ o.again = false ∧ o.fault = none ∧ o.nomDue ≤ 13 ∧ o.actDue ≤ 13 := by
  refine ⟨⟨rfl, ?_, ?_⟩, ?_, ?_, ?_, _, rfl, rfl, rfl, rfl, ?_, ?_⟩ <;> decide

/-- A WBCLR under tag 3 that has finished; copy commands that wait, are timed, and have finished; a row on its way in. -/
def wbclr : MatCmd := ⟨5, .wbclr 0 1 3 1, 0, 0, 0, 0, 0, 0, [], false, true, 0, 1, 2, none, 0⟩
def mcmdBench : State := bench { unitCtx with omx := 1 } { Core.reset with mcmds := [wbclr], cnt := [(3, 1)] }
def cpyg : CopyCmd := ⟨6, .cpyg 0 1 4 0 0 3 1 0 0 0 0, 0, 0, 0, 0, 1, 0, [], .queued, [], 0, false, 0, none⟩
def cpyt : CopyCmd := ⟨7, .cpyt 0 0 1 4 0 0 2 0 0 0 0 0 0, 0, 0, 0x100, 0, 0, 9, [], .timed, [], 0, false, 0, none⟩
def copyBench : State := { bench { unitCtx with ocp := 2 } { Core.reset with copies := [cpyg, cpyt], cnt := [(3, 1)] } with ptcBase := 9 }
def copyDone : State := bench { unitCtx with ocp := 1 } { Core.reset with copies := [{ cpyg with state := .active, next := 1 }], cnt := [(3, 1)] }
def landBench : State :=
  let m := { cpyt with state := .active }
  { bench unitCtx { Core.reset with copies := [m] } with
    fab := { Fabric.reset with reqs := [⟨9, .copyIn 7 1023 true, 1, 1, 0, 4, 0, 0, .none, 0, 0, 0x55, 0, [], .done, 0⟩] } }

set_option maxRecDepth 100000 in
theorem witness_engine_commands :
    (wbclr.deferred = false ∧ wbclr.total ≤ wbclr.moved ∧ releases wbclr.op = false ∧ Hears mcmdBench 1) ∧
    ((copyBench.tile 1).core.copies.find? (fun m => m.state == .queued) = some cpyg ∧ (copyBench.tile 1).core.activeCopies < 8 ∧
      (copyBench.tile 1).core.preempting = false ∧ (copyBench.tile 1).core.copies.find? (fun m => m.id == 7 && m.state == .timed) = some cpyt ∧
      cpyt.third.toNat ≤ copyBench.ptc (dieOf 1)) ∧
    (∃ m, (copyDone.tile 1).core.copies.find? (fun m => m.id == 6) = some m ∧ m.state = .active ∧ m.next = m.rows ∧ m.add.2 = 0 ∧
      copyDone.copyOpen 6 = false ∧ releases m.op = false) ∧
    ∃ r, landBench.req 9 = some r ∧ r.kind = .copyIn 7 1023 true ∧ r.tile = 1 ∧ CopyCmd.multicast cpyt = false ∧ Hears landBench 1 ∧ landBench.mayLand 1 1023 false = true ∧
      (landBench.updCore 1 fun k => k.takePort 1023).mayLand 1 1023 false = false := by
  refine ⟨⟨?_, ?_, ?_, rfl, rfl, rfl, rfl⟩, ?_, ⟨_, rfl, ?_, ?_, ?_, ?_, ?_⟩, _, rfl, ?_, ?_, ?_, ⟨rfl, rfl, rfl, rfl⟩, ?_, ?_⟩ <;> decide

/-- Adds and a set that arrive together. -/
def arriveBench : State := bench unitCtx { Core.reset with
  sems := [(0, ⟨0xFFFFFFFF, false⟩)], semIn := [⟨0, 1, false⟩, ⟨1, 9, false⟩, ⟨1, 5, true⟩, ⟨1, 3, false⟩]
  bars := [(0, ⟨2, 1, 9⟩)], barIn := [⟨0, 4, false⟩, ⟨63, 7, true⟩] }
/-- Job 1 with tiles 1 and 2 in tree 7, the first of them arrived. -/
def treeJob : Job := { benchJob with masks := [(11200, 6)], arv := [(7, [1])] }
def treeBench : State := { bench0 with jobs := [treeJob], tiles := bench0.tiles ++ [(2, { Tile.reset with live := true })] }

set_option maxRecDepth 100000 in
theorem witness_arrivals :
    (let ins := (arriveBench.tile 1).core.semIn.filter fun a => a.k == 1;
      ins = [⟨1, 9, false⟩] ++ ⟨1, 5, true⟩ :: [⟨1, 3, false⟩]) ∧
    (∀ a ∈ (arriveBench.tile 1).core.semIn.filter (fun a => a.k == 0), a.set = false) ∧
    (∀ a ∈ (arriveBench.tile 1).core.barIn.filter (fun a => a.k == 0), a.set = false) ∧
    (arriveBench.tile 1).core.barIn.filter (fun a => a.k == 63) = [] ++ (⟨63, 7, true⟩ : Arrival) :: [] ∧
    treeBench.job 1 = some treeJob ∧ 2 ∈ treeJob.participants 7 ∧ 2 ∉ sget [] treeJob.arv 7 ∧
    (∀ p ∈ treeJob.participants 7, p ∈ sget [] treeJob.arv 7 ++ [2]) ∧
    inPart treeJob.part (8 * (199 / 25) + 7) = true ∧ dieOf 1 = 0 ∧ dieOf 25 ≠ 0 ∧ (treeBench.tile 2).retired = false ∧
    ({ treeBench with tiles := [(2, { Tile.reset with retired := true })] }.tile 2).retired = true ∧ treeBench.agenda = [] ∧
    treeBench.cutOff 0 7 = false ∧ { treeBench with fab := { Fabric.reset with nodes := [(7, { Node.reset with down := true })] } }.cutOff 0 7 = true := by
  refine ⟨?_, ?_, ?_, ?_, ?_, ?_, ?_, ?_, ?_, ?_, ?_, ?_, ?_, ?_, ?_, ?_⟩ <;> decide +kernel

/-- A resident unit of launch 1 that waits for work. -/
def pipeUnit : WorkUnit := ⟨7, 1, 0, 1, [0], 0, 0, 0, 0, 0, 0, [⟨0, 1, 0⟩], [(0, 3)], [(0, 4, 9)], false, false, false, 0, false⟩
/-- A launch of three dwords of specification words: work count 2, no pipeline. -/
def aWork (sp : List Dword) (st : WorkState) : Work :=
  ⟨1, false, 1, 1, 0, none, 0, 0, 0x2000, [], [], none, sp, st, 0, 0, 0, [], 0, 0, 0, 0, 0, 0, 0, [], [], 0, 0, [], 0, none, 0, false, 0, []⟩
def pipeJob : Job := { benchJob with units := [pipeUnit], works := [aWork (List.replicate 16 2) .placing] }
def nextBench (c : Ctx) : State := { bench c Core.reset with jobs := [pipeJob] }
def itemBench : State :=
  { nextBench { unitCtx with ost := 1 } with fab := { Fabric.reset with reqs := [⟨9, .item 1, 1, 1, 0, 0, 0, 0, .none, 0, 0, 0, 0, [], .done, 0⟩] } }

set_option maxRecDepth 100000 in
theorem witness_next :
    (∀ r ∈ [some (5 : Dword), none], let s := nextBench { unitCtx with nexts := [⟨4, 0, r⟩] };
      (s.ctxAt 1 0).nexts = [⟨4, 0, r⟩] ∧ 0 ≤ (s.tile 1).core.isscnt.toNat ∧ (s.ctxAt 1 0).nqw = []) ∧
    ((nextBench { unitCtx with nqw := [(3, 5)] }).ctxAt 1 0).nexts = [] ∧
    ((nextBench unitCtx).unitOf unitCtx = some pipeUnit ∧ pipeUnit.onWay.find? (fun p => p.1 == 0) = some (0, 4, 9) ∧ Hears (nextBench unitCtx) 1) ∧
    ((nextBench unitCtx).work 1 1 = some (aWork (List.replicate 16 2) .placing) ∧ pipeUnit.asked.find? (fun p => p.1 == 0) = some (0, 3) ∧
      (∀ n ∈ ((nextBench unitCtx).ctxAt 1 0).nexts, n.id = 3 → n.due + (nextBench unitCtx).pairSkew 1 0 ≤ 0 + 32) ∧ specPipe (List.replicate 16 2) = false ∧ 0 < specWork (List.replicate 16 2)) ∧
    (∃ r, itemBench.req 9 = some r ∧ r.kind = .item 1 ∧ NoneWaiting itemBench 1 ∧
      (pipeUnit.items.find? (fun i => (1 : Dword).getLsbD 63 == false && (1 : Dword).getLsbD 61 == false &&
        i.stage == ((1 : Dword).extractLsb' 48 3).toNat && i.num % 2 ^ 32 == ((1 : Dword).extractLsb' 16 32).toNat)).isSome = true) := by
  refine ⟨?_, ?_, ⟨?_, ?_, rfl, rfl, rfl, rfl⟩, ?_, _, rfl, ?_, ?_, ?_⟩
  · exact fun r _ => ⟨rfl, Nat.zero_le _, rfl⟩
  · decide
  · decide
  · decide
  · decide
  · decide
  · unfold NoneWaiting; decide
  · decide

/-! ### The fabric -/

/-- A request of context 0 of tile 1. -/
def aReq (k : ReqKind) (st : ReqState) : Req := ⟨9, k, 1, 1, 0, 0, 0x3000, 0x1000, .x 2, 5, 3, 0x0102030405060708, 0, [], st, 0⟩
/-- The request alone in the fabric, counted in OLD and OST, with its destination pending. -/
def reqBench (r : Req) : State :=
  { bench { unitCtx with old := 1, ost := 1, pend := [⟨.x 2, 0, 9, 0, false⟩] } Core.reset with
    fab := { Fabric.reset with reqs := [r] }, mem := [(0x1000, 7), (0x1001, 1), (0x1900, 9)] }
/-- The acknowledgement of the packet that carried it. -/
def ackBench : State :=
  let s := reqBench (aReq .store .performed)
  let p : Packet := ⟨20, 0, 64, 0, 0, 1, .request 9, 0, false⟩
  { s with fab := { s.fab with
      packets := [⟨21, 64, 0, 2, 0, 0, .ack 0 0 [], 0, false⟩]
      nodes := [(0, { Node.reset with streams := [(streamKey 64 0, ⟨1, [], [p], 0⟩)] })] } }

set_option maxRecDepth 100000 in
theorem witness_completions :
    (let s := reqBench (aReq .load .done); s.req 9 = some (aReq .load .done) ∧ Hears s 1 ∧ NoneWaiting s 1 ∧ (aReq .load .done).kind.countsOld = true ∧
      ∀ d ∈ (s.ctxAt 1 0).pend, d.rid = 9 → d.tainted = false) ∧
    (∃ a st p, ackBench.packet 21 = some a ∧ a.load = .ack 0 p.seq [] ∧ (ackBench.node a.dst).streams = [(streamKey a.src 0, st)] ∧ st.unacked = [p] ∧
      st.waiting = [] ∧ p.cls = 0 ∧ p.dst = a.src ∧ p.load = .request 9 ∧ ackBench.req 9 = some (aReq .store .performed) ∧ (aReq .store .performed).state ≠ .failing) ∧
    ∃ i < 60, sfind (sget Die.reset (reqBench (aReq .load .sent)).dies (dieOf 1)).traps i = none := by
  refine ⟨⟨rfl, ⟨rfl, rfl, rfl, rfl⟩, ?_, rfl, ?_⟩, ⟨_, _, _, rfl, rfl, rfl, rfl, rfl, rfl, rfl, rfl, rfl, by decide⟩, 0, ?_, rfl⟩
  · unfold NoneWaiting; decide
  · decide
  · decide

/-- A request at the end of the stack's addresses, and one whose bytes are bad. -/
def beyondReq : Req := { aReq .load .sent with pa := Config.stackEnd }
def badBench : State := { reqBench (aReq .load .sent) with badMem := [0x1000] }
/-- A page table whose second level holds a leaf of 1 GiB; beside it one that is empty. -/
def pagedRange (root : Dword) : List Dword := [0x8000000000000000, 0x10000000000, 0x0F00000000000000 ||| root, 0, 0]
def walkBench (root : Dword) : State :=
  { reqBench { aReq .load .walking with ea := 0x40003000 } with
    mem := [(0x1000, 0x01), (0x1001, 0x20), (0x2008, 0x1F), (0x200B, 0x40)], jobs := [{ benchJob with ranges := [(3, pagedRange root)] }]
    dies := [(0, { Die.reset with walks := [⟨1, 3, pagedRange root, 0x40003, [9]⟩] })] }

set_option maxRecDepth 100000 in
theorem witness_home_ports :
    (MemoryCanonical (reqBench (aReq (.amo 9 true) .sent)) ∧ Config.stackEnd ≤ paLocal beyondReq.pa ∧ paLocal 0x1000 < Config.stackEnd ∧
      outbound 0x1000 = false ∧ badBench.readsBad (aReq .load .sent) = true ∧ (reqBench (aReq .load .sent)).readsBad (aReq .load .sent) = false) ∧
    ∀ root : Dword, let s := walkBench root;
      (sget Die.reset s.dies 0).walks = [⟨1, 3, pagedRange root, 0x40003, [9]⟩] ∧ (sget Die.reset s.dies 0).fifo = [] ∧
        sget [] (s.ranges 1) 3 = pagedRange root := by
  refine ⟨⟨?_, ?_, ?_, ?_, ?_, ?_⟩, fun root => ⟨rfl, rfl, rfl⟩⟩ <;> decide

/-- One root gives the leaf, the other a fault. -/
theorem witness_walks : (rangeValid (pagedRange 0x1000) = true ∧ rangePaged (pagedRange 0x5000) = true) ∧
    walkRange (walkBench 0x1000) (pagedRange 0x1000) (0x40003 * 4096) = .leaf 0x40000000 0x40000000 7 ∧
    walkRange (walkBench 0x5000) (pagedRange 0x5000) (0x40003 * 4096) = .fault 4 0x5000 := by
  refine ⟨⟨by decide, by decide⟩, ?_, ?_⟩ <;> decide +kernel

/-- A load on its way to node 64 in the turn `q`. -/
def wayBench (q : Nat) : State :=
  let s := reqBench (aReq .load .sent)
  { s with fab := { s.fab with flights := [⟨30, 20, 0, 0, 64, [64], [0]⟩], packets := [⟨20, 0, 64, 0, q, 0, .request 9, 0, false⟩] } }
/-- A packet unacknowledged since time 0. -/
def rtoBench (now : Nat) : State :=
  { State.reset with
    time := 2 * now
    fab := { Fabric.reset with nodes := [(0, { Node.reset with streams := [(streamKey 64 0, ⟨1, [], [⟨20, 0, 64, 0, 0, 1, .request 9, 0, false⟩], 0⟩)] })] } }
/-- A merge entry whose time has come; owed acknowledgements; a reduction that arrives. -/
def mergeBench : State :=
  { State.reset with
    time := 64
    fab := { Fabric.reset with
      nodes := [(65, { Node.reset with entries := [⟨4, 0x1000, 0, 1, 64, [⟨0, 0, 9, 2⟩], [(0, 1)], 0⟩], redAcks := [(0, [1, 2, 3, 4, 5, 6, 7, 8, 9])] })] } }
def redBench (b : List Nat) : State :=
  { State.reset with
    mem := [(0x1000, 7)]
    fab := { Fabric.reset with
      nodes := [(64, { Node.reset with windows := [(0, ⟨0, b⟩)] })]
      packets := [⟨20, 65, 64, 1, 3, 1, .reduction 0x1000 0 1 [⟨0, 1023, 9, 2⟩] [], 0, false⟩] } }

set_option maxRecDepth 100000 in
theorem witness_packets :
    (∀ q ∈ [0, 65535], ((wayBench q).fab.flights.find? (fun f => f.id == 30)).isSome = true ∧ ((wayBench q).packet 20).isSome = true ∧
      ((wayBench q).node 64).down = false ∧ sget 0 ((wayBench q).node 64).ne 0 = 0) ∧
    (∀ n ∈ [16383, 16384], (((rtoBench n).node 0).stream (streamKey 64 0)).unacked ≠ [] ∧ (rtoBench n).ptc 0 = n) ∧
    ((mergeBench.node 65).entries.find? (fun x => x.e == 4)).isSome = true ∧ 0 + 32 ≤ mergeBench.now ∧ (mergeBench.node 65).downEdges = [] ∧
    (mergeBench.node 65).downNodes = [] ∧ sget [] (mergeBench.node 65).redAcks 0 ≠ [] ∧
    (MemoryCanonical (redBench []) ∧ ((redBench []).packet 20).isSome = true ∧ (1023 + 65536 - 0) % 65536 < 1024 ∧
      1023 ∈ (((redBench [1023]).node 64).window 0).bits) := by
  refine ⟨?_, ?_, ?_, ?_, ?_, ?_, ?_, ?_⟩ <;> decide

set_option maxRecDepth 100000 in
theorem witness_links :
    (let s := { State.reset with fab := { Fabric.reset with modules := [(16 * 3 + 15, ⟨false, false, 2, 0⟩)] } };
      (s.linkModule 3 15).active = false ∧ (s.linkModule 3 15).stays = false) ∧ (15 : Nat) < 16 ∧ 3 ∉ State.reset.fab.edgesDown ∧
    (State.reset.node 127).down ≠ true ∧
    (let s := { State.reset with fab := { Fabric.reset with decls := [(0, [3], [64])] } };
      (s.fab.decls.filter fun d => d.1 ≤ s.ptc 5).getLast? = some (0, [3], [64])) ∧
    (let s := { State.reset with ptcBase := 9, time := 511, fab := { Fabric.reset with nodes := [(5, { Node.reset with step := 1 })] } };
      (s.node 5).step ≠ 0 ∧ s.now < (s.node 5).lastStep + 256 ∧ 0 < s.ptcBase + s.now ∧
      ∀ k < 128, k ≠ 5 → ((s.node k).skew + (s.node k).step - ((s.node 5).skew + 1)).natAbs ≤ 8) := by
  refine ⟨?_, ?_, ?_, ?_, ?_, ?_⟩ <;> decide

/-! ### The dispatcher -/

/-- A range that maps all of site 0, with a table of sixteen slabs. -/
def wideRange : List Dword := [0x8000000000000000, 0x100000000, 0x0E00000000000000, 0x6000, 16]
/-- A spec of one unit on tile 1 at 0x2000, a method table at 0x5000 and a slab's entry at 0x6020. -/
def workMem : List Host.Cell :=
  [(0x2001, 0x40), (0x2008, 1), (0x2011, 1), (0x2012, 1), (0x2013, 1), (0x5004, 3), (0x5006, 1), (0x5007, 0x80), (0x500C, 0x70), (0x5011, 0x20),
    (0x6021, 0x90), (0x6030, 5), (0x6037, 0x80)]
def goodSpec : List Dword := [0x4000, 1, 0x01010100, 0, 0, 0, 0, 0, 0, 0, 0, 0, 0, 0, 0, 0]
def rangeJob : Job := { benchJob with ranges := [(0, wideRange)], mtAddr := 0x5000, mtCount := some 1 }
def workBench (w : Work) : State := { bench unitCtx Core.reset with mem := workMem, jobs := [{ rangeJob with works := [w] }] }
def taskWork : Work := { aWork [] .ready with isTask := true, oper := 3, nops := 1, handles := [1] }
def endedWork : Work := { aWork (goodSpec.set 15 0x8000) .ended with outcome := 1, uok := 1 }

set_option maxRecDepth 100000 in
theorem witness_launches :
    (∀ w ∈ [aWork goodSpec .waiting, { taskWork with state := .waiting }], (workBench w).work 1 1 = some w ∧ w.state = .waiting ∧ w.outcome = 0 ∧
      (workBench w).specOver w = true ∧ w.waits = [] ∧ (w.isTask = true ∨ w.spec ≠ [])) ∧
    (NoneWaiting (workBench (aWork [] .waiting)) 1 ∧ (aWork [] .waiting).isTask = false) ∧
    (taskWork.isTask = true ∧ taskWork.state = .ready ∧ (workBench taskWork).job 1 = some { rangeJob with works := [taskWork] }) ∧
    (MemoryCanonical (workBench endedWork) ∧ endedWork.spec ≠ [] ∧ specRecord endedWork.spec = 0x8000 ∧ specRecord goodSpec = 0 ∧ outbound 0x8000 = false) := by
  refine ⟨?_, ⟨?_, rfl⟩, ⟨rfl, rfl, ?_⟩, ?_, ?_, ?_, ?_, ?_⟩
  · decide
  · unfold NoneWaiting; decide
  all_goals decide

/-- The reads that those launches make. -/
theorem witness_spec_reads : let s := workBench (aWork [] .waiting);
    (match s.readJob 1 0x2000 128 with | .ok bs => specDwords bs == goodSpec | .error _ => false) = true ∧ s.specError 1 goodSpec = 0 ∧
    (match s.readJob 1 0x7000 128 with | .ok bs => s.specError 1 (specDwords bs) != 0 | .error _ => false) = true ∧
    (match s.readJob 1 0x20000000000 128 with | .error c => c == 2 | .ok _ => false) = true ∧
    (match s.translateIn 1 0x8000 permW with | .ok pa => pa == 0x8000 | .fault _ => false) = true := by
  refine ⟨?_, ?_, ?_, ?_, ?_⟩ <;> decide +kernel

theorem witness_tasks : let s := workBench taskWork;
    (s.readSlab 1 1 == (some (0x9000, 5), false)) = true ∧
    (match s.chooseEntry 1 3 1 [5] 0x5000 1 0 none with
      | .entry e => methodField e 0 62 1 == 0 && (s.readMethodSpec 1 e [0x9000, 0, 0, 0x100000005, 0, 0]).2 == 0
      | _ => false) = true := by
  refine ⟨?_, ?_⟩ <;> decide +kernel

/-- A unit whose context has halted, and the launch whose unit comes next. -/
def endUnit : WorkUnit := { pipeUnit with asked := [], onWay := [], items := [] }
def placeBench : State := workBench { aWork goodSpec .placing with specAddr := 0 }
def endBench (c : Ctx) : State := { bench c Core.reset with jobs := [{ rangeJob with units := [endUnit] }] }

set_option maxRecDepth 100000 in
theorem witness_units :
    ({ rangeJob with works := [aWork goodSpec .placing] }.frozen = false ∧ (aWork goodSpec .placing).nextUnit < specUnits goodSpec ∧
      specResident goodSpec = false ∧ specProt goodSpec = false ∧ windowTiles (specWindow goodSpec) = some [1] ∧ isSupervisor 1 = false ∧
      fitTiles [placeBench.tile 1] goodSpec = some ([1], 0, 0) ∧ (placeBench.tile 1).region.held = [] ∧ NoneWaiting placeBench 1) ∧
    (∀ h ∈ endUnit.ctxs, (endBench { unitCtx with halted := true }).ctxOver endUnit.tile h = true) ∧
    ∃ h ∈ endUnit.ctxs, (endBench unitCtx).ctxOver endUnit.tile h = false := by
  refine ⟨⟨?_, ?_, ?_, ?_, ?_, ?_, ?_, ?_, ?_⟩, ?_, 0, ?_, ?_⟩
  case refine_9 => unfold NoneWaiting; decide
  all_goals decide

/-- An instance that may start, one that is over, a closed job, and a job that has ended. -/
def anInst (st : Nat) : Inst := ⟨5, 3, 1023, 0, [1, 2], 3084, 2, [], st, false⟩
def graphJob (st : Nat) : Job := { rangeJob with graphs := [(1023, ⟨0x4000, true, true⟩)], insts := [anInst st], part := 1 }
def graphState (st : Nat) (c : Ctx) : State :=
  { State.reset with
    tiles := [(3084, { Tile.reset with live := true, core := { Core.reset with ctxs := [(2, c)] } })], jobs := [graphJob st]
    ctl := { Control.reset with journal := [(5, ⟨5, 1, 1, 0, 0, 3, 0, 0, 0, 0⟩)] }, mem := [(0x2001, 0x40)] }
def clearing (done : Bool) : State :=
  { graphState 3 unitCtx with jobs := [{ graphJob 3 with clearing := true, cleared := done, seq := 5 }], mem := [(0x2001, 0x40), (0x1002001, 7)] }

set_option maxRecDepth 100000 in
theorem witness_graphs :
    (let s := graphState 0 Ctx.reset;
      s.freeGraphContext (graphJob 0).part = some (3084, 1) ∧ (graphJob 0).mayStart (anInst 0) = true ∧ (graphJob 0).frozen = false ∧
        (s.tile 3084).region.run = 0 ∧ (s.tile 3084).region.held = [] ∧ NoneWaiting s 3084) ∧
    (let s := graphState 1 { Ctx.reset with owner := .graph 3, job := 1, halted := true };
      s.instance_ 1 3 = some (anInst 1) ∧ s.instOver 1 (anInst 1) = true) ∧
    ((∀ i ∈ (graphJob 3).insts, 3 ≤ i.state) ∧ (graphJob 3).works = [] ∧ (graphState 3 unitCtx).job 1 = some (graphJob 3)) ∧
    (MemoryCanonical (clearing false) ∧ ((clearing false).jobs.find? fun j => j.num == 1 && j.clearing && !j.cleared).isSome = true ∧
      ((clearing true).jobs.find? fun j => j.num == 1 && j.cleared).isSome = true) := by
  refine ⟨⟨?_, ?_, ?_, ?_, ?_, ?_⟩, ⟨?_, ?_⟩, ⟨?_, ?_, ?_⟩, ?_, ?_, ?_⟩
  case refine_6 => unfold NoneWaiting; decide
  all_goals decide

/-! ### Recovery -/

/-- Tile 1 with a region. -/
def regionBench (r : Region) (c : Ctx) (k : Core) : State :=
  let s := bench c k
  { s with tiles := [(1, { s.me with region := r, replayBuf := [[0], [], [0], [0]] })] }
def copied : Core := { Core.reset with copies := [⟨6, .cpyg 0 1 4 0 0 3 1 0 0 0 0, 0, 0, 0, 0, 1, 0, [], .deferred, [], 0, false, 0, none⟩] }

set_option maxRecDepth 100000 in
theorem witness_regions :
    (bench unitCtx { Core.reset with isscnt := 3 }).me.live = true ∧ (State.reset.tile 1).live = false ∧
    (let s := regionBench { Region.reset with deferred := [.copy 6] } unitCtx copied;
      (s.tile 1).region.run = 0 ∧ (s.tile 1).region.held = [] ∧ (s.tile 1).core.preempting = false ∧ NoneWaiting s 1) ∧
    (regionBench { Region.reset with run := 2, sig := 5, firstSig := 6 } unitCtx Core.reset).me.region.sig ≠ 6 := by
  refine ⟨rfl, rfl, ⟨rfl, rfl, by decide, ?_⟩, by decide⟩
  unfold NoneWaiting; decide

theorem witness_replays :
    (let x := (regionBench Region.reset unitCtx Core.reset).me;
      x.replayBuf.length = 4 ∧ x.replayBuf.getD 0 [] ≠ [] ∧ flagsOk [6, 2] x.replayBuf = true) ∧
    (let s := bench unitCtx { Core.reset with aq := [{ anOp (.mma 0 3 1 0 0 0 0 1 1 0) with started := true, actEnd := 1 }] };
      (s.me.core.aq.find? (fun o => o.started && decide (s.me.core.arrClk < o.actEnd) && o.op.isProduct)).isSome = true ∧ 1 ≤ 2 * opCpg 1 1) ∧
    bench0.me.live = true ∧ bench0.me.retired = false := by
  refine ⟨?_, ?_, rfl, rfl⟩ <;> decide

/-- A global access error of a halted context, and an engine error. -/
def errBench (cls : Nat) (h : Bool) : State := bench { unitCtx with halted := h, haltPc := 0x3000, errs := [⟨cls, 0x10, 5, 6, 7, 8⟩] } Core.reset
theorem witness_errors : (∀ cls ∈ [1, 2], let c := (errBench cls true).ctxAt 1 0;
      c.owner ≠ .idle ∧ c.stopped = false ∧ c.handler = none ∧ (errBench cls true).nextPoint 1 c = (0x3000, true)) ∧
    ((errBench 1 false).nextPoint 1 ((errBench 1 false).ctxAt 1 0)).2 = false ∧ (0xFFF : Nat) < 4096 := by
  refine ⟨?_, ?_, ?_⟩ <;> decide

/-- A partition of one die that has stopped, and its saved image. -/
def savedBench (images : List Shadow) : State :=
  { bench { unitCtx with stopped := true } { Core.reset with rows := [(3, 4)] } with
    jobs := [{ benchJob with part := 1 }], ctl := { Control.reset with shadows := images } }

set_option maxRecDepth 100000 in
theorem witness_partitions :
    (savedBench []).job 1 = some { benchJob with part := 1 } ∧ ((savedBench []).partTiles 1) = [1] ∧ (savedBench []).quiet 1 = true ∧
    (savedBench [⟨1, [(1, Core.reset)], []⟩]).ctl.shadows.find? (fun w => w.job == 1) = some ⟨1, [(1, Core.reset)], []⟩ ∧ (savedBench []).mayRestore = true ∧
    { savedBench [] with dies := [(3, { Die.reset with temps := [86] })] }.mayRestore = false ∧
    ((bench0.ctxAt 1 0).live = true ∧ (bench0.ctxAt 1 0).stop = .run ∧ (bench0.tile 1).live = true) := by
  refine ⟨?_, ?_, ?_, ?_, ?_, ?_, ?_, ?_, ?_⟩ <;> decide

/-! ### Power and temperature -/

/-- A window with this many bundles and replays, two steps below the fused voltage. -/
def windowBench (bundles replays : Nat) : State :=
  { bench0 with tiles := [(1, { bench0.me with chinook := { Chinook.reset with below := 2, bundles := bundles, replays := replays } })] }

theorem witness_windows :
    (∀ q ∈ [(1000, 5), (2 ^ 26, 0), (2 ^ 26, 100)], let s := windowBench q.1 q.2;
      let target := (s.ctl.pcap.extractLsb' 16 12).toNat * q.1;
      s.me.retired = false ∧ (target < q.2 * 10 ^ 9 ∨ 2 ^ 26 ≤ q.1) ∧ ¬(s.me.chinook.below = 0)) ∧
    (windowBench 0 0).me.chinook.lastFlash = none := by
  refine ⟨?_, rfl⟩
  decide

/-- A region that throttles, has an alarm behind it, or is warm; a module over its cap; two regions that pace each other. -/
def regionState (p : PowerRegion) : State := { bench0 with regions := [(15, p)], time := 2 * 160000 }
/-- Job 1 in regions 0 and 1, of which the first has waited in no and the second in half of its issue cycles since the last sample. -/
def paceBench (old : Pace) : State :=
  let sample : List (Nat × Nat × Nat) := [(0, 0, 0)]
  { State.reset with
    ctl := { Control.reset with pcap := Config.pcapBoot ||| 0x80000000 }, power := { Power.reset with pacing := [(17, old)] }
    tiles := [(1, { Tile.reset with ctxCycles := 10 }), (50, { Tile.reset with ctxCycles := 10, waitCycles := 5 })]
    regions := [(0, { PowerRegion.reset with samples := sample }), (1, { PowerRegion.reset with samples := sample })]
    jobs := [{ benchJob with units := [pipeUnit, { pipeUnit with uid := 8, tile := 50 }] }] }

set_option maxRecDepth 100000 in
theorem witness_throttles : (15 : Nat) < 16 ∧
    (let p := { PowerRegion.reset with stretch := 1, lastAlarm := 159692 }; p.lastAlarm + 308 ≤ (regionState p).now ∧ p.stretch ≠ 0) ∧
    (let s := { regionState PowerRegion.reset with power := { Power.reset with below95 := some 0 } };
      let cap := (s.ctl.pcap.extractLsb' 32 16).toNat;
      cap < cap + 1 ∧ s.power.lastCap + 16000 ≤ s.now ∧ 95 * cap ≤ cap * 100 ∧ 0 * 100 < 95 * cap ∧ s.power.below95 = some 0 ∧ 0 + 160000 ≤ s.now) ∧
    { Control.reset with pcap := 0 }.pcap.getLsbD 31 = false ∧
    (let s := { regionState { PowerRegion.reset with cslrNext := some 7 } with ptcBase := 0 };
      s.ptc (regionDie 15) % 320 = 0 ∧ (s.region 15).stepAt ≠ some (s.ptc (regionDie 15)) ∧ (s.region 15).firstOp = none) ∧
    ((regionState { PowerRegion.reset with firstOp := some 1 }).region 15).firstOp ≠ none := by
  refine ⟨?_, ?_, ?_, ?_, ?_, ?_⟩ <;> decide

set_option maxRecDepth 100000 in
theorem witness_pacing : let s := paceBench ⟨24, 4, 0, none⟩;
    let v := (s.groupRegions 1).foldl State.takeSample s;
    let slack (r : Nat) := (sget PowerRegion.reset v.regions r).slack;
    s.ctl.pcap.getLsbD 31 = true ∧ s.groupRegions 1 = [0, 1] ∧ slack 0 = (0, 10) ∧ slack 1 = (5, 10) ∧ v.lowestSlack [0, 1] = (0, 10) ∧
    slackFar (slack 1) (0, 10) = true ∧ slackGe (0, 10) (slack 1) = false ∧ slackFar (slack 0) (0, 10) = false ∧ slackGe (0, 10) (slack 0) = true ∧
    (slackFar (1, 20) (0, 10) = false ∧ slackGe (0, 10) (1, 20) = false) ∧ (4 ≤ 4 ∧ 16 < 24) := by
  refine ⟨?_, ?_, ?_, ?_, ?_, ?_, ?_, ?_, ?_, ?_, ?_⟩ <;> decide

theorem witness_temperatures : (63 : Nat) < 64 ∧ (∀ t ∈ [94, 95, 110, 124, 125], ([t].take 25).foldl max 0 = t) ∧
    (sget PowerRegion.reset State.reset.regions 15).lastThermal = 0 ∧ State.reset.power.emergency = false ∧ State.reset.power.computeRails = true ∧
    (let s := { State.reset with
        dies := [(63, { Die.reset with temps := [95], warned := true })], regions := [(15, { PowerRegion.reset with thermal := 56 })] };
      (sget Die.reset s.dies 63).warned = true ∧ (∀ t ∈ [85, 86], ([t].take 25).foldl max 0 = t) ∧ (sget PowerRegion.reset s.regions 15).thermal < 64 ∧
      ∀ p ∈ sput 63 { Die.reset with temps := [85] } s.dies, p.2.warned = false) := by
  decide

/-! ### Supply -/

/-- A running module with one job and its memory. -/
def onBench (p : Power) : State := { bench0 with power := p, mem := [(0x1000, 7)], ctl := { Control.reset with retireMap := [5] } }

theorem witness_supply : (Power.reset.sagging = false ∧ Power.reset.computeRails = true ∧ Power.reset.memoryRail = true ∧ Power.reset.emergency = false) ∧
    ({ Power.reset with sagging := true }.sagging = true) ∧ (onBench Power.reset).saveOrder true = [1] ∧ (onBench Power.reset).job 1 ≠ none ∧
    (onBench Power.reset).ctl.shadows = [] ∧ { Power.reset with emergency := true }.toSave = [] ∧ { Power.reset with computeRails := false }.memoryRail = true ∧
    { Power.reset with enableLow := some (10000, 7) }.enableLow = some (10000, 7) ∧ { Power.reset with emergency := true }.computeRails = true := by
  refine ⟨?_, ?_, ?_, ?_, ?_, ?_, ?_, ?_, ?_⟩ <;> decide

/-! ### The hosts -/

/-- A record that has been accepted, in this state of its journal entry. -/
def recordBench (d : List Dword) (st : Nat) : State :=
  { State.reset with
    power := { Power.reset with mstate := 3 }
    ctl := { Control.reset with records := [(5, d)], journal := [(5, ⟨5, 1, st, 1, 0, 1, 9, 0, 0, 0⟩)], jnext := 6 } }
/-- The eight dwords of a record: of job 1 where its type names a job. -/
def recordOf (type sub : Nat) (ds : List Dword) : List Dword :=
  let job := if type = 6 ∨ (type = 7 ∧ sub ≠ 0) then 0 else 1
  (BitVec.ofNat 64 (2 ^ 16 * job + 256 * sub + type) :: 9 :: ds ++ List.replicate 8 0).take 8
/-- The records of the statements, each with its fields at a value that the record allows. -/
def someRecords : List (List Dword) :=
  [recordOf 1 0 [1], recordOf 2 0 (255 :: wideRange), recordOf 2 1 [255, 0x1000, 0x2000], recordOf 2 2 [0x20, 4096], recordOf 2 3 [1023, 0x4000, 3],
    recordOf 3 0 [1023, 1], recordOf 4 0 [4], recordOf 5 0 [0, 0x1000], recordOf 6 0 [0], recordOf 7 0 [0, 0x70C7, 0x1FFFFFF], recordOf 7 1 [0, 0xBB800000000],
    recordOf 7 2 [0, 15, 5], recordOf 7 3 [0, 2, 0x00400201]]

set_option maxRecDepth 100000 in
theorem witness_records : ∀ d ∈ someRecords, recordMalformed d = false ∧ recordJob d ≤ 1 ∧ ∀ st ∈ [1, 2], (recordBench d st).journalState 5 < 3 := by
  decide

set_option maxRecDepth 100000 in
theorem witness_intake : (1 : Nat) < 2 ∧ (0x3FC0 : Nat) < 0x4000 ∧ (0x3FC0 : Nat) % 64 = 0 ∧ State.reset.credit 1 ≠ 0 ∧ State.reset.power.computeRails = true ∧ State.reset.power.lost = [] ∧
    (recordEvent 5 (recordOf 1 0 [1])).isSome = true ∧ recordEvent 5 (recordOf 99 0 []) = none ∧
    (let s := recordBench [] 3; (sfind s.ctl.journal 5).isSome = true ∧ (s.port 1).masked 0 = false) ∧ (0x7FFFFFF : Nat) < 0x8000000 := by
  refine ⟨?_, ?_, ?_, ?_, ?_, ?_, ?_, ?_, ?_, ?_⟩ <;> decide

/-- A job with a LOAD record that has started, beside an access in this state. -/
def loadBench (st : ReqState) : State :=
  let s := recordBench (recordOf 2 0 (255 :: wideRange)) 2
  { s with jobs := [benchJob], fab := { Fabric.reset with reqs := [aReq .load st] }, ids := 10, ctl := { s.ctl with loads := [(5, 10)] } }

set_option maxRecDepth 100000 in
theorem witness_waiting_loads : (loadBench .sent).job 1 = some benchJob ∧ (loadBench .sent).journalState 5 = 2 ∧
    (∀ st ∈ [ReqState.sent, .remote, .failing], ∃ r ∈ (loadBench st).fab.reqs, r.job = 1 ∧ r.id < sget 0 (loadBench st).ctl.loads 5 ∧ r.pa ≠ noPa ∧
      (r.state = .sent ∨ r.state = .remote ∨ r.state = .failing)) ∧
    (∀ r ∈ (loadBench .performed).fab.reqs, r.state ≠ .sent ∧ r.state ≠ .remote ∧ r.state ≠ .failing) ∧
    5 < (loadBench .sent).ctl.jnext ∧ (sfind (loadBench .sent).ctl.journal 5).map (·.port) = some 1 := by
  refine ⟨?_, ?_, ?_, ?_, ?_, ?_⟩ <;> decide

set_option maxRecDepth 100000 in
theorem witness_jobs :
    (recordBench [] 1).logFull = false ∧ (recordBench [] 1).jobs = [] ∧ rangeRefused wideRange = false ∧ (4096 : Dword).toNat ≤ 4096 ∧
    (let s := { recordBench [] 1 with jobs := [benchJob] }; s.job 1 = some benchJob ∧ benchJob.closed = false ∧ s.journalState 5 ≠ 2) := by
  refine ⟨?_, ?_, ?_, ?_, ?_⟩ <;> decide

/-- A job with a graph, in the phases that a record may name. -/
def phaseJob (p : Option Nat) : Job := { benchJob with phase := p, graphs := [(1023, ⟨0x4000, false, false⟩)] }
set_option maxRecDepth 100000 in
theorem witness_graph_records :
    { recordBench [] 1 with power := { Power.reset with passed := true } }.power.passed = true ∧ sfind (phaseJob none).graphs ((1023 : Dword).toNat % 65536) = some ⟨0x4000, false, false⟩ ∧
    (((1023 : Dword).extractLsb' 16 16).toNat = 0 ∧ ((0x103FF : Dword).extractLsb' 16 16).toNat = 0 + 1) ∧ (4 : Dword).toNat % 8 = 4 ∧
    ((0x70C7 : Dword).toNat % 256 < 200 ∧ inPart benchJob.part (8 * (199 / 25) + 0) = true) ∧
    (500 ≤ ((0x1F400000000 : Dword).extractLsb' 32 16).toNat ∧ ((0xBB800000000 : Dword).extractLsb' 32 16).toNat ≤ 3000) ∧
    (0x00400201 : Dword).extractLsb' 16 16 ≠ 0 := by
  refine ⟨?_, ?_, ?_, ?_, ?_, ?_, ?_⟩ <;> decide

/-- Port 1 holds semaphore 15; its aperture is in the physical mode. -/
def hostBench : State :=
  { State.reset with
    mem := [(0x1FFF, 7)], power := { Power.reset with mstate := 3 }
    ctl := { Control.reset with hsems := [(15, ⟨true, 1⟩)], ports := [(1, { Port.reset with apctl := 2, apbase := 0x1000 })] } }
set_option maxRecDepth 100000 in
theorem witness_host_accesses :
    ((sget ⟨false, 0⟩ hostBench.ctl.hsems 15).held = true ∧ (sget ⟨false, 0⟩ hostBench.ctl.hsems 15).owner = 1 ∧
      (sget ⟨false, 0⟩ hostBench.ctl.hsems 0).held = false) ∧
    (hostBench.power.mstate ≠ 1 ∧ hostBench.power.computeRails = true ∧ (hostBench.port 1).apctl.toNat % 4 = 2) ∧
    (let a := ((hostBench.port 1).apbase.toNat + 0xFF8) % 2 ^ 64; a % 4096 + 8 ≤ 4096 ∧ a < 2 ^ 42 ∧ 0xFF8 + 8 ≤ 2 ^ 36 ∧ paLocal a < Config.jobMemEnd ∧ outbound a = false) ∧
    hostBench.badMem = [] ∧ MemoryCanonical hostBench ∧ (0x3FFFF : Dword).toNat % 4 = 3 := by
  refine ⟨?_, ?_, ?_, ?_, ?_, ?_⟩ <;> decide


/-! ### Reruns, protected pairs, and what a second reading asks of the events -/

/-- Tile 1 in a rerun that takes request 9, NEXT 10, LAUNCHID 11 and the PTC value 12 of context 0 again; the context is one of a resident launch. -/
def rerunBench : State :=
  let s := bench unitCtx Core.reset
  { s with
    tiles := [(1, { s.me with region := { Region.reset with reuse := [(0, 9), (4, 10), (8, 11), (12, 12)] } })]
    jobs := [{ benchJob with units := [pipeUnit], works := [aWork [0, 0x40000000000000] .placing] }] }

set_option maxRecDepth 100000 in
theorem witness_reruns : (rerunBench.again .access = some 9 ∧ rerunBench.again .next = some 10 ∧ rerunBench.again .lid = some 11 ∧
      rerunBench.again .ptc = some 12) ∧ (bench0.again .access = none ∧ bench0.again .next = none ∧ bench0.again .lid = none ∧ bench0.again .ptc = none) ∧ rerunBench.resident rerunBench.ctx = true ∧
    rerunBench.job 1 ≠ none ∧ (Reg.x 5).wired = false ∧ ∀ i ∈ ([.gldx 0 5 1 3 0, .gldv 0 3 1 0 1, .locq 0 5 1, .slabtag 0 5 1 0 2, .tsr 0 5, .next 0] : List Instr), Acts i rerunBench :=
  ⟨⟨rfl, rfl, rfl, rfl⟩, ⟨rfl, rfl, rfl, rfl⟩, by decide, by decide, rfl, all_act (by decide)⟩

/-- A follower of tile 1 in a protected pair, and a region of which a part of the log has still to be run. -/
def pairBench : State :=
  let s := regionBench Region.reset unitCtx Core.reset
  { s with tiles := s.tiles ++ [(2, { Tile.reset with pair := some 1 })] }

set_option maxRecDepth 100000 in
theorem witness_pairs : (pairBench.tile 2).pair = some 1 ∧ (pairBench.tile 1).live = true ∧ flagsOk [] (pairBench.tile 1).replayBuf = true ∧
    (pairBench.tile 1).pair = none ∧ pairBench.follower 2 = none ∧ pairBench.follower 1 = some 2 ∧
    (let x := (regionBench { Region.reset with logEnd := 4, replayed := [(3, .counted 0 true)] } unitCtx { Core.reset with isscnt := 3 }).me;
      x.region.run = 0 ∧ x.core.cycle < x.region.logEnd ∧ x.region.deferred = []) ∧
    (pairBench.tile 1).region.logEnd ≤ (pairBench.tile 1).core.cycle := by
  refine ⟨?_, ?_, ?_, ?_, ?_, ?_, ?_, ?_⟩ <;> decide

/-- A load behind another into the same register; a request in the window of border site 0; one forwarded to the peer. -/
def laterBench : State :=
  let s := reqBench (aReq .load .performed)
  { s with fab := { s.fab with reqs := [{ aReq .load .sent with id := 8 }, aReq .load .performed] } }
def outReq (st : ReqState) : Req := { aReq .store st with pa := 0xA00000000 }

set_option maxRecDepth 100000 in
theorem witness_requests : laterBench.laterLoad (aReq .load .performed) = true ∧ (reqBench (aReq .load .performed)).laterLoad (aReq .load .performed) = false ∧
    laterBench.cancelled 1 0 = false ∧ outbound (outReq .sent).pa = true ∧ (reqBench (outReq .sent)).pathDown (paSite (outReq .sent).pa) = false ∧
    paLocal (outReq .sent).pa < Config.stackEnd ∧ (outReq .remote).state = .remote := by
  refine ⟨?_, ?_, ?_, ?_, ?_, ?_, ?_⟩ <;> decide

/-- A packet on whose way one bit has flipped. -/
theorem witness_noise : (wayBench 0).intact ⟨20, 0, 64, 0, 0, 0, .request 9, 0, false⟩ 1 = false ∧
    (wayBench 0).intact ⟨20, 0, 64, 0, 0, 0, .request 9, 0, false⟩ 0 = true ∧ (65 : Nat) ≠ 64 ∧ mergeBench.ptc 65 = 32 := by
  refine ⟨?_, ?_, ?_, ?_⟩ <;> decide +kernel

set_option maxRecDepth 100000 in
theorem witness_link_service : (State.reset.linkModule 3 15).active = true ∧
    (let s := { State.reset with fab := { Fabric.reset with modules := [(16 * 3 + 15, ⟨true, false, 0, 3⟩)], portRetries := [(31, 3)] } };
      (s.linkModule 3 15).retries + 1 = 4 ∧ 16 * 3 + 15 < 4096 ∧ sget 0 s.fab.portRetries 31 = 3 ∧ 16 * 256 + 31 = 4096 + 31) ∧
    (State.reset.unreachable 0 63 = false ∧
      { State.reset with fab := { Fabric.reset with nodes := [(0, { Node.reset with downNodes := [63] })] } }.unreachable 0 63 = true) := by
  refine ⟨?_, ?_, ?_⟩ <;> decide +kernel

/-- A context of a partition that runs; a job that lost its tile state; one that has been swapped out at time 5 and is swapped in at time 7. -/
def askBench : State := { bench unitCtx Core.reset with jobs := [{ benchJob with part := 1 }] }
def swapBench (now ends : Nat) : State :=
  let s := savedBench [⟨1, [(1, Core.reset)], []⟩]
  { s with
    time := 2 * now, tiles := [(1, { Tile.reset with live := true })], power := { Power.reset with lost := [1] }
    ctl := { s.ctl with swaps := [(2, 5), (3, ends)] } }

set_option maxRecDepth 100000 in
theorem witness_swaps :
    (let live := (askBench.saveList (askBench.partTiles 1)).filter fun p => (askBench.ctxAt p.2.1 p.2.2).live;
      live.map (·.2) = [(1, 0)] ∧ live.head?.map (·.1) = some (1 + 0) ∧ inPart 1 (dieOf 1) = true ∧ (askBench.tile 1).region.deferred = [] ∧
        (askBench.ctxAt 1 0).stop = .run) ∧
    ((savedBench []).agenda = [] ∧ (∀ w ∈ ({ benchJob with part := 1 } : Job).units, w.asked = [] ∧ w.onWay = [])) ∧
    ((swapBench 4 0).now < 5 ∧ (swapBench 6 7).now < 7 ∧ 5 ≤ (swapBench 6 0).now ∧ (swapBench 8 7).mayRestore = true ∧ 7 ≤ (swapBench 8 7).now ∧
      ((swapBench 8 7).tile 1).retired = false ∧ ((swapBench 8 7).tile 1).live = true ∧ 1 ∈ (swapBench 8 7).power.lost ∧ 1 ∉ (savedBench []).power.lost) ∧
    (Core.reset.ctx 0).owner ≠ .firmware := by
  refine ⟨?_, ?_, ?_, ?_⟩ <;> decide

/-- A tile whose learned point is the step at which it runs and whose window failed there; its flash, written an hour of powered time ago and just now. -/
def failBench (below : Nat) (l : Option Nat) : State :=
  { bench0 with
    tiles := [(1, { bench0.me with chinook := { Chinook.reset with below := below, bundles := 1000, replays := 5, learned := [(8, below)], lastFlash := l } })]
    ctl := { Control.reset with powered := 5760000000000 } }

/-- Whether such a tile has aged is a free bit, which no witness can fix: these are the premises beside it. -/
theorem witness_failures : (∀ below ∈ [1, 3], let c := (failBench below none).me.chinook;
      0 < c.below ∧ sfind c.learned (4 * c.div + c.band) = some c.below ∧
      ((failBench below none).ctl.pcap.extractLsb' 16 12).toNat * c.bundles < c.replays * 10 ^ 9 ∧ ¬((failBench below none).me.retired = true)) ∧
    ((failBench 1 none).freeVal 1 (siteAged + 1) = 1 ∨ (failBench 1 none).freeVal 1 (siteAged + 1) ≠ 1) ∧
    0 + 5760000000000 ≤ (failBench 1 (some 0)).ctl.powered + (failBench 1 (some 0)).now ∧
    (failBench 1 (some 1)).ctl.powered + (failBench 1 (some 1)).now < 1 + 5760000000000 := by
  refine ⟨?_, Decidable.em _, ?_, ?_⟩ <;> decide

set_option maxRecDepth 100000 in
theorem witness_steps :
    (let s := { State.reset with ptcBase := 640, time := 60, regions := [(15, { PowerRegion.reset with stepAt := some 320 })], agenda := [(700, .throttleStep 15 0 0)] };
      s.ptc (regionDie 15) = 670 ∧ (s.region 15).stepAt ≠ some (670 / 320 * 320) ∧ 670 % 320 ≠ 0 ∧ 670 % 320 ≠ 1 ∧ (∃ e ∈ s.agenda, e.2.stepOf = some 15) ∧
        ∀ e ∈ State.reset.agenda, e.2.stepOf ≠ some 15) ∧
    ({ State.reset with ptcBase := 640 }.ptc (regionDie 15) % 320 = 0) ∧
    (let s := { State.reset with
        ptcBase := 639, time := 2, fab := { Fabric.reset with nodes := [(regionDie 15, { Node.reset with step := 1 })] } };
      s.ptc (regionDie 15) % 320 = 1 ∧ (s.node (regionDie 15)).step = 1 ∧ (s.node (regionDie 15)).lastStep + 1 = s.now) ∧
    (let s := { State.reset with time := 60, regions := [(15, { PowerRegion.reset with alarmSince := some 0, lastAlarm := 30, stretch := 2 })] };
      let p := sget PowerRegion.reset s.regions 15;
      p.alarmSince = some 0 ∧ 0 + 26 ≤ s.now ∧ s.now ≤ p.lastAlarm ∧ 0 + 26 ≤ max p.lastAlarm (s.now + 20)) ∧
    (let s := { State.reset with time := 70, regions := [(15, { PowerRegion.reset with alarmSince := some 0, lastAlarm := 30, stretch := 2 })] };
      (sget PowerRegion.reset s.regions 15).lastAlarm < s.now ∧ s.now < 30 + 308) := by
  refine ⟨?_, ?_, ?_, ?_, ?_⟩ <;> decide

set_option maxRecDepth 100000 in
theorem witness_aperture_routes : hostBench.reached 1 0x1FF8 = some 0x1FF8 ∧
    { hostBench with fab := { Fabric.reset with nodes := [(64, { Node.reset with down := true })] } }.reached 1 0x1FF8 = none ∧
    (swapBench 6 0).swappedOut 1 = true ∧ (swapBench 4 0).swappedOut 1 = false ∧ ({ benchJob with closed := true } : Job).closed = true := by
  refine ⟨?_, ?_, ?_, ?_, ?_⟩ <;> decide +kernel

theorem witness_completion : (Instr.add 0 1 2 3).encode ≠ none ∧ Acts (.add 0 1 2 3) bench0 ∧
    ∀ r, (reqBench (aReq .load .sent)).req 9 = some r → r.state = .sent → paLocal r.pa < Config.stackEnd := by
  refine ⟨by simp [Instr.encode, Instr.layout], acts_of_clearHere (by decide), fun r h _ => ?_⟩
  cases h; decide


/-! ### What a third reading asks of the statements -/

/-- A copy to tile 25 of die 1, whose node a table marks unreachable. -/
def cpyx : CopyCmd := ⟨6, .cpyx 0 1 4 1 0 0 0 3 1 0 0 0 0, 0, 0, 0, 0, 1, 25, [], .queued, [], 0, false, 0, none⟩
def cutBench (down : List Nat) : State :=
  { bench { unitCtx with ocp := 1 } { Core.reset with copies := [cpyx] } with fab := { Fabric.reset with nodes := [(0, { Node.reset with downNodes := down })] } }

set_option maxRecDepth 100000 in
theorem witness_cut_copies : dieOf 25 = 1 ∧ (cutBench [1]).copyTargets 1 cpyx = some [25] ∧
    (cutBench [1]).copyCut 1 { cpyx with state := .active, targets := [25] } = true ∧
    (cutBench []).copyCut 1 { cpyx with state := .active, targets := [25] } = false ∧ cpyx.err = none ∧
    (cutBench []).copyTargets 1 { cpyx with third := 0xFFFF } = none := by
  refine ⟨?_, ?_, ?_, ?_, ?_, ?_⟩ <;> decide +kernel

set_option maxRecDepth 100000 in
/-- The floating adds at memory, of both widths. -/
theorem witness_float_atomics : ∀ aop ∈ [10, 11], (reqBench (aReq (.amo aop true) .sent)).req 9 = some (aReq (.amo aop true) .sent) ∧
    MemoryCanonical (reqBench (aReq (.amo aop true) .sent)) := by decide +kernel

/-- A clock with a step of the region that it times still to come. -/
def stepBench : State := { State.reset with ptcBase := 9, agenda := [(1000, .throttleStep 15 0 0)] }
set_option maxRecDepth 100000 in
theorem witness_clock_steps : regionDie 15 = 54 ∧ (stepBench.node 54).step = 0 ∧ 0 < stepBench.ptcBase + stepBench.now ∧
    (∀ k < 128, k ≠ 54 → ((stepBench.node k).skew + (stepBench.node k).step - ((stepBench.node 54).skew + (stepBench.node 54).step + 1)).natAbs ≤ 8) ∧
    stepBench.time + 3 < 1000 ∧ (0 : Nat) ≠ 3 := by
  refine ⟨?_, ?_, ?_, ?_, ?_, ?_⟩ <;> decide

/-- Modules of an edge before one leaves service: eight active, and sixteen. -/
def edgeBench (gone : Nat) : State :=
  { State.reset with fab := { Fabric.reset with modules := (List.range gone).map fun m => (16 * 3 + m, ⟨false, false, 0, 0⟩) } }
set_option maxRecDepth 100000 in
theorem witness_edges : (edgeBench 8).activeModules 3 = 8 ∧ ((edgeBench 8).linkModule 3 15).active = true ∧ (edgeBench 0).activeModules 3 = 16 := by
  refine ⟨?_, ?_, ?_⟩ <;> decide

/-- A task whose table holds nothing, cannot be read, or holds a conversion into slab 1 at some depth. -/
def emptyTable (count : Option Nat) : State := { bench unitCtx Core.reset with mem := workMem, jobs := [{ rangeJob with mtCount := count, works := [taskWork] }] }
def farTable : State := { bench unitCtx Core.reset with mem := workMem, jobs := [{ rangeJob with mtAddr := 0x20000000000, works := [taskWork] }] }
def convTable (depth dst : Nat) : State :=
  { bench unitCtx Core.reset with
    mem := [(0x2001, 0x40), (0x2008, 1), (0x2011, 1), (0x2012, 1), (0x2013, 1), (0x5004, 3), (0x5006, 1), (0x5007, 0xC0), (0x500C, 0x70), (0x5011, 0x20)] ++
      (if dst = 0 then [] else [(0x501C, BitVec.ofNat 8 dst)]) ++ [(0x6021, 0x90), (0x6030, 5), (0x6037, 0x80)]
    jobs := [{ rangeJob with nextLid := 2, works := [{ taskWork with depth := depth }] }] }

theorem witness_no_method :
    (∀ s ∈ [emptyTable none, emptyTable (some 0), farTable, convTable 2 1], (s.readSlab 1 1 == (some (0x9000, 5), false)) = true) ∧
    (match (emptyTable (some 0)).chooseEntry 1 3 1 [5] 0x5000 0 0 none with | .nothing => true | _ => false) = true ∧
    (match farTable.chooseEntry 1 3 1 [5] 0x20000000000 1 0 none with | .unreadable ea => ea == 0x20000000000 | _ => false) = true := by
  refine ⟨?_, ?_, ?_⟩ <;> decide +kernel

theorem witness_conversion : ∀ d ∈ [2, 3], ∀ dst ∈ [1, 200], let s := convTable d dst;
    (match s.chooseEntry 1 3 1 [5] 0x5000 1 0 none with
      | .entry e => methodField e 0 62 1 == 1 && methodField e 3 32 32 == dst && methodField e 1 50 2 == 0 &&
        (if dst = 1 then (s.readMethodSpec 1 e [0x9000, 0x9000, 0, 0x100000005, 0x100000000, 0]).2 == 0 else (s.readSlab 1 dst).1 == none)
      | _ => false) = true := by decide +kernel

/-- A deferred access, a deferred launch with its read of the spec, and a context of a protected unit. -/
def deferBench (bad prot : Bool) : State :=
  let s := reqBench (aReq .store .deferred)
  let c := { unitCtx with status := if prot then 0x14 else 0x10 }
  { s with
    tiles := [(1, { s.me with core := { s.me.core with ctxs := [(0, c)] } })]
    jobs := [{ benchJob with works := [{ aWork [] .deferred with specReq := some 9, badJob := bad }] }] }

set_option maxRecDepth 100000 in
theorem witness_deferred : ∀ bad ∈ [false, true], ∃ w, (deferBench bad true).req 9 = some (aReq .store .deferred) ∧ (deferBench bad true).work 1 1 = some w ∧
    w.state = .deferred ∧ w.specReq = some 9 ∧ w.badJob = bad ∧ (deferBench bad true).releaseCycle 1 0 ≠ 0 ∧ (deferBench bad false).releaseCycle 1 0 = 0 ∧
    (deferBench bad true).me.core.preempting = false ∧ (deferBench bad true).me.region.run = 0 ∧ (deferBench bad true).me.live = true := by
  intro bad _
  cases bad <;> exact ⟨_, by decide +kernel, rfl, by decide, rfl, rfl, by decide, by decide, by decide, by decide, by decide⟩

/-- A pair in a freeze: the follower has counted its start, or has not. -/
def frozenPair (g : Option Freeze) : State :=
  let s := regionBench Region.reset unitCtx Core.reset
  { s with tiles := s.tiles ++ [(2, { Tile.reset with pair := some 1, froze := g })] }
set_option maxRecDepth 100000 in
theorem witness_frozen_pairs : (((frozenPair none).tile 1).freezing ((frozenPair none).pulsesAt 1)).start = 0 ∧
    ((frozenPair (some ⟨0, 16, 8, 8⟩)).tile 2).froze = some ⟨0, 16, 8, 8⟩ ∧ ((frozenPair (some ⟨3, 16, 8, 8⟩)).tile 2).froze = some ⟨3, 16, 8, 8⟩ ∧
    ((frozenPair none).tile 2).froze = none ∧ ((frozenPair none).tile 2).pair = some 1 := by
  refine ⟨?_, ?_, ?_, ?_, ?_⟩ <;> decide

set_option maxRecDepth 100000 in
/-- An image with a context of a unit that goes on, and a tree policy for a die that is cut off. -/
theorem witness_restored_tags : (∀ p ∈ [(0, unitCtx)], ({ benchJob with units := [pipeUnit] } : Job).cancelledCtx p.2 = false) ∧
    (let s := recordBench (recordOf 7 0 [0, 0x70C7, 0x1FFFFFF]) 1;
      s.cutOff (8 * (199 / 25)) 0 = false ∧ { s with fab := { Fabric.reset with edgesDown := (List.range 512) } }.cutOff (8 * (199 / 25)) 0 = true) := by
  refine ⟨?_, ?_, ?_⟩ <;> decide +kernel

/-- A command with identifier 4, a store of 9 over 7 in row 3 that issued after it in issue cycle 10, and the tile in some issue cycle (R183, R323). -/
def storeBench (cycle : Nat) : Tile :=
  { ({ Tile.reset with core := { Core.reset with isscnt := 10, rows := [(3, 7)] } }.noteStore 5 3).writeRow 3 9 0 0 with
    core := { Core.reset with isscnt := BitVec.ofNat 64 cycle, rows := [(3, 9)] } }

theorem test_engine_sees_stores : ((storeBench 13).engineView 4).row 3 = 7 ∧ ((storeBench 15).engineView 4).row 3 = 9 ∧
    ((storeBench 13).engineView 5).row 3 = 9 ∧ ((storeBench 13).engineView 4).row 4 = 0 := by decide +kernel

end Sys2Proof.Tests
end

section
/-! SUPPORT. Folds and outcomes that leave device memory alone. -/

namespace Sys2Proof.Machine

@[simp] theorem State.ite_mem (c : Prop) [Decidable c] (a b : State) : (if c then a else b).mem = if c then a.mem else b.mem :=
  apply_ite State.mem c a b

@[simp] theorem ite_snd_mem {α : Type} (c : Prop) [Decidable c] (a b : α × State) :
    (if c then a else b).2.mem = if c then a.2.mem else b.2.mem := by split <;> rfl

/-- A fold of steps that each leave memory alone leaves it alone. -/
@[simp] theorem foldl_mem {α : Type} (f : State → α → State) (l : List α) (s : State) (h : ∀ s a, (f s a).mem = s.mem) :
    (l.foldl f s).mem = s.mem := by
  induction l generalizing s with
  | nil => rfl
  | cons a l ih => rw [List.foldl_cons, ih, h]

/-- Events scheduled one after another leave memory alone. -/
@[simp] theorem foldl_after_mem {α : Type} (n : State → α → Nat) (e : State → α → Event) (l : List α) (s : State) :
    (l.foldl (fun s a => s.after (n s a) (e s a)) s).mem = s.mem := foldl_mem _ _ _ fun _ _ => rfl

/-- Tiles changed one after another leave memory alone. -/
@[simp] theorem foldl_updTile_mem {α : Type} (t : State → α → Nat) (f : State → α → Tile → Tile) (l : List α) (s : State) :
    (l.foldl (fun s a => s.updTile (t s a) (f s a)) s).mem = s.mem := foldl_mem _ _ _ fun _ _ => rfl

/-- The same of a fold that carries something beside the state. -/
@[simp] theorem foldl_fst_mem {α β : Type} (f : State × β → α → State × β) (l : List α) (p : State × β) (h : ∀ p a, (f p a).1.mem = p.1.mem) :
    (l.foldl f p).1.mem = p.1.mem := by
  induction l generalizing p with
  | nil => rfl
  | cons a l ih => rw [List.foldl_cons, ih, h]

/-- The same of a fold that carries something before the state. -/
@[simp] theorem foldl_snd_mem {α β : Type} (f : β × State → α → β × State) (l : List α) (p : β × State) (h : ∀ p a, (f p a).2.mem = p.2.mem) :
    (l.foldl f p).2.mem = p.2.mem := by
  induction l generalizing p with
  | nil => rfl
  | cons a l ih => rw [List.foldl_cons, ih, h]

/-- Whatever state an outcome answers has a property. -/
inductive Yields {σ : Type} (P : σ → Prop) : Host.Outcome σ Fault Refusal → Prop
  | next {s : σ} (h : P s) : Yields P (.next s)
  | fault (r : Fault) : Yields P (.fault r)
  | refused (r : Refusal) : Yields P (.refused r)

@[simp] theorem yields_next {σ : Type} (P : σ → Prop) (s : σ) : Yields P (.next s) ↔ P s := ⟨fun | .next h => h, .next⟩

theorem Yields.andThen {σ τ : Type} {P : σ → Prop} {Q : τ → Prop} {o : Host.Outcome σ Fault Refusal} {f : σ → Host.Outcome τ Fault Refusal}
    (h : Yields P o) (hf : ∀ s, P s → Yields Q (f s)) : Yields Q (andThen o f) := by
  cases h with
  | next h => exact hf _ h
  | fault r => exact .fault r
  | refused r => exact .refused r

/-- An outcome leaves device memory alone. -/
abbrev KeepsMem (s : State) (o : Host.Outcome State Fault Refusal) : Prop := Yields (fun t => t.mem = s.mem) o

@[simp] theorem nextOr_mem (s : State) (o : Host.Outcome State Fault Refusal) (h : KeepsMem s o) : (nextOr s o).mem = s.mem := by
  cases h with
  | next h => exact h
  | fault r => rfl
  | refused r => rfl

end Sys2Proof.Machine
end

section
/-! SUPPORT. What leaves device memory alone: only `State.storeBytes` changes it. One lemma for each function that answers a state, in the order of the
model. -/

namespace Sys2Proof.Machine

/-! ### The named operations over the state -/

@[simp] theorem State.once_mem (s : State) (ticks : Nat) (e : Event) : (s.once ticks e).mem = s.mem := by simp [State.once]
@[simp] theorem State.askRollback_mem (s : State) (t : Nat) : (s.askRollback t).mem = s.mem := by simp [State.askRollback]
@[simp] theorem State.fresh_mem (s : State) : s.fresh.2.mem = s.mem := by simp [State.fresh]
@[simp] theorem State.nextStep_mem (s : State) (r : Nat) : (s.nextStep r).mem = s.mem := by simp [State.nextStep]
@[simp] theorem State.awaitStep_mem (s : State) (r : Nat) : (s.awaitStep r).mem = s.mem := by simp [State.awaitStep]
@[simp] theorem State.followLimit_mem (r : Nat) (s : State) : (State.followLimit r s).mem = s.mem := by simp [State.followLimit]
@[simp] theorem State.followLimits_mem (s : State) : s.followLimits.mem = s.mem := by simp [State.followLimits]
@[simp] theorem State.updRest_mem (s : State) (f : Core → Core) : (s.updRest f).mem = s.mem := by simp [State.updRest]
@[simp] theorem State.signal_mem (s : State) (port v : Nat) : (s.signal port v).mem = s.mem := by simp [State.signal]
@[simp] theorem State.signalBoth_mem (s : State) (v : Nat) : (s.signalBoth v).mem = s.mem := by simp [State.signalBoth]

@[simp] theorem State.journal_mem (s : State) (job port sub type state : Nat) (tag status ptc : Dword) :
    (s.journal job port sub type state tag status ptc).mem = s.mem := by
  simp [State.journal]

@[simp] theorem State.predictEvent_mem (s : State) (sub source level : Nat) : (s.predictEvent sub source level).mem = s.mem := by
  simp [State.predictEvent]
@[simp] theorem State.setLevel_mem (s : State) (kind source level : Nat) : (s.setLevel kind source level).mem = s.mem := by simp [State.setLevel]
@[simp] theorem State.predict_mem (s : State) (kind source amount : Nat) : (s.predict kind source amount).mem = s.mem := by simp [State.predict]
@[simp] theorem State.dropTrap_mem (s : State) (d : Nat) : (s.dropTrap d).mem = s.mem := by simp [State.dropTrap]

@[simp] theorem State.holdTrap_mem (s : State) (d : Nat) (e : TrapEntry) : (s.holdTrap d e).mem = s.mem := by
  unfold State.holdTrap
  dsimp only
  split <;> simp

@[simp] theorem State.showTrap_mem (s : State) (d : Nat) (e : TrapEntry) : (s.showTrap d e).mem = s.mem := by
  unfold State.showTrap
  dsimp only
  split <;> simp

@[simp] theorem State.clearTraps_mem (s : State) (t h : Nat) (heldToo : Bool) : (s.clearTraps t h heldToo).mem = s.mem := by simp [State.clearTraps]

@[simp] theorem State.fatalTrap_mem (s : State) (d : Nat) (e : TrapEntry) : (s.fatalTrap d e).mem = s.mem := by
  unfold State.fatalTrap
  dsimp only
  split
  · rfl
  · split <;> simp

@[simp] theorem State.journalTrap_mem (s : State) (fatal : Bool) (t h job : Nat) (w0 w1 w2 w3 : BitVec 32) :
    (s.journalTrap fatal t h job w0 w1 w2 w3).mem = s.mem := by
  simp [State.journalTrap]

@[simp] theorem State.deferAt_mem (s : State) (t : Nat) (d : Deferred) : (s.deferAt t d).mem = s.mem := by simp [State.deferAt]
@[simp] theorem State.recordTrap_mem (s : State) (t : Nat) (e : TrapEntry) (journals : Bool) : (s.recordTrap t e journals).mem = s.mem := by
  simp [State.recordTrap]
@[simp] theorem State.takeTrap_mem (s : State) (t h : Nat) (i : TrapInfo) (epc : Dword) : (s.takeTrap t h i epc).mem = s.mem := by
  simp [State.takeTrap]
@[simp] theorem State.precise_mem (s : State) (code aux w3 w2 : Nat) : (s.precise code aux w3 w2).mem = s.mem := by simp [State.precise]
@[simp] theorem State.pendErr_mem (s : State) (t h : Nat) (e : Err) : (s.pendErr t h e).mem = s.mem := by simp [State.pendErr]
@[simp] theorem State.scheduleCslr_mem (s : State) (region : Nat) (v : Dword) : (s.scheduleCslr region v).mem = s.mem := by simp [State.scheduleCslr]
@[simp] theorem State.writeDevice_mem (s : State) (t n : Nat) (v : Dword) : (s.writeDevice t n v).mem = s.mem := by simp [State.writeDevice]

/-! ### Inputs that reach a tile -/

@[simp] theorem State.recall_mem (s : State) (kind : Taken) (take : State → Nat × State) (h : ∀ u, (take u).2.mem = u.mem) :
    (s.recall kind take).2.mem = s.mem := by
  unfold State.recall
  dsimp only
  split
  · split
    · simp
    · simp [h]
  · simp [h]

@[simp] theorem State.wake_mem (s : State) (t : Nat) : (s.wake t).mem = s.mem := by simp [State.wake]
@[simp] theorem State.input_mem (s : State) (t : Nat) (i : Input) : (s.input t i).mem = s.mem := by simp [State.input]

/-! ### Translation -/

@[simp] theorem State.badRead_mem (s : State) (pa : Nat) : (s.badRead pa).mem = s.mem := by simp [State.badRead]

@[simp] theorem State.noteBad_mem (s : State) (jobNum : Nat) (ea : Dword) (n : Nat) : (s.noteBad jobNum ea n).mem = s.mem := by
  unfold State.noteBad
  split <;> simp

@[simp] theorem State.noteSlab_mem (s : State) (jobNum handle : Nat) : (s.noteSlab jobNum handle).mem = s.mem := by
  unfold State.noteSlab
  split <;> simp

/-! ### The fabric -/

@[simp] theorem State.launchLater_mem (s : State) (wait : Nat) (p : Packet) (src : Nat) (ready : Nat) :
    (s.launchLater wait p src ready).2.mem = s.mem := by
  unfold State.launchLater
  split <;> simp

@[simp] theorem State.launchFlight_mem (s : State) (p : Packet) (src : Nat) (ready : Nat) : (s.launchFlight p src ready).2.mem = s.mem := by
  simp [State.launchFlight]
@[simp] theorem State.sendOn_mem (s : State) (p : Packet) (key : Nat) : (s.sendOn p key).mem = s.mem := by simp [State.sendOn]
@[simp] theorem State.sendPacket_mem (s : State) (src dst cls beats : Nat) (load : Payload) : (s.sendPacket src dst cls beats load).mem = s.mem := by
  simp [State.sendPacket]
@[simp] theorem State.updReq_mem (s : State) (rid : Nat) (f : Req → Req) : (s.updReq rid f).mem = s.mem := by simp [State.updReq]
@[simp] theorem State.dropReq_mem (s : State) (rid : Nat) : (s.dropReq rid).mem = s.mem := by simp [State.dropReq]

@[simp] theorem State.newReq_mem (s : State) (kind : ReqKind) (q : Nat) (ea : Dword) (reg : Reg) (opnd aux : Dword) (data : Row) (st : ReqState) :
    (s.newReq kind q ea reg opnd aux data st).2.mem = s.mem := by
  simp [State.newReq]

@[simp] theorem State.countAccess_mem (s : State) (old : Bool) : (s.countAccess old).mem = s.mem := by simp [State.countAccess]
@[simp] theorem State.uncount_mem (s : State) (r : Req) : (s.uncount r).mem = s.mem := by simp [State.uncount]

@[simp] theorem State.dispatchReq_mem (s : State) (r : Req) : (s.dispatchReq r).mem = s.mem := by
  unfold State.dispatchReq
  split <;> simp

@[simp] theorem State.askWalk_mem (s : State) (r : Req) : (s.askWalk r).mem = s.mem := by
  unfold State.askWalk
  split <;> simp

@[simp] theorem State.faultReq_mem (s : State) (r : Req) (code : Nat) : (s.faultReq r code).mem = s.mem := by simp [State.faultReq]
@[simp] theorem State.arriveSem_mem (s : State) (t k n : Nat) (set : Bool) : (s.arriveSem t k n set).mem = s.mem := by simp [State.arriveSem]
@[simp] theorem State.arriveBar_mem (s : State) (t k n : Nat) (set : Bool) : (s.arriveBar t k n set).mem = s.mem := by simp [State.arriveBar]

@[simp] theorem State.performedAt_mem (s : State) (r : Req) : (s.performedAt r).mem = s.mem := by
  unfold State.performedAt
  (repeat' split) <;> simp

@[simp] theorem State.signalError_mem (s : State) (r : Req) (target : Nat) : (s.signalError r target).mem = s.mem := by simp [State.signalError]

@[simp] theorem State.sendSignal_mem (s : State) (r : Req) (target : Nat) (perform : State → State) (h : ∀ u, (perform u).mem = u.mem) :
    (s.sendSignal r target perform).mem = s.mem := by
  simp [State.sendSignal, h]

@[simp] theorem State.sendAlong_mem (s : State) (src dst : Nat) (e : Event) (spent : Nat) : (s.sendAlong src dst e spent).mem = s.mem := by
  simp [State.sendAlong]

@[simp] theorem State.sendTree_mem (s : State) (r : Req) (tree : Nat) : (s.sendTree r tree).mem = s.mem := by
  unfold State.sendTree
  split <;> simp

@[simp] theorem State.answer_mem (s : State) (rid : Nat) (v : Dword) : (s.answer rid v).mem = s.mem := by simp [State.answer]

@[simp] theorem State.tryReq_mem (s : State) (r : Req) : (s.tryReq r).mem = s.mem := by
  cases hk : r.kind with
  | sem t k n set o => cases o <;> simp [State.tryReq, hk]
  | fetch | cancel | tree | item | copyTo | spec | bar => simp [State.tryReq, hk]
  | _ =>
    simp [State.tryReq, hk]
    split <;> simp

@[simp] theorem State.kick_mem (s : State) (t : Nat) : (s.kick t).mem = s.mem := by simp [State.kick]

/-! ### The issue of a slot -/

@[simp] theorem State.raise_mem (s : State) (code aux w3 w2 : Nat) : (s.raise code aux w3 w2).mem = s.mem := by simp [State.raise]

@[simp] theorem issueSlot_mem (sp : BitVec 3) (i : Instr) (s : State) (act : State → State) (h : ∀ u, (act u).mem = u.mem) :
    KeepsMem s (issueSlot sp i s act) := by
  simp only [issueSlot, yields_next, State.ite_mem, h]
  split
  · rfl
  · split
    · rfl
    · split
      case h_1 => exact h s
      all_goals simp

/-! ### Global accesses -/

@[simp] theorem State.sendAccess_mem (s : State) (kind : ReqKind) (q : Nat) (ea : Dword) (reg : Reg) (opnd aux : Dword) :
    (s.sendAccess kind q ea reg opnd aux).mem = s.mem := by
  simp [State.sendAccess]

@[simp] theorem State.deferAccess_mem (s : State) (kind : ReqKind) (q : Nat) (ea : Dword) (reg : Reg) (opnd aux : Dword) (data : Row) :
    (s.deferAccess kind q ea reg opnd aux data).mem = s.mem := by
  simp [State.deferAccess]

/-! ### The BR slot -/

@[simp] theorem State.sysWrite_mem (s : State) (n : Nat) (v : Dword) : (s.sysWrite n v).mem = s.mem := by
  unfold State.sysWrite
  split <;> simp

/-! ### Tags and engine commands -/

@[simp] theorem issueCommand_mem (sp : BitVec 3) (i : Instr) (s : State) (act : State → State) (h : ∀ u, (act u).mem = u.mem) :
    KeepsMem s (issueCommand sp i s act) := issueSlot_mem _ _ _ _ fun u => by simp [h]

@[simp] theorem State.commandDone_mem (s : State) (t h : Nat) (copy : Bool) (op : Instr) (err : Option (BitVec 32)) (cmdix : BitVec 32) (flags : BitVec 6) :
    (s.commandDone t h copy op err cmdix flags).mem = s.mem := by
  simp [State.commandDone]

@[simp] theorem State.engineReq_mem (s : State) (t h job : Nat) (kind : ReqKind) (ea : Dword) (opnd : Dword) (data : Row) (cmdix : BitVec 32) (after : List Nat) (st : ReqState) :
    (s.engineReq t h job kind ea opnd data cmdix after st).2.mem = s.mem := by
  simp [State.engineReq]

theorem State.askTagWrite_mem {s : State} {t h job cmd : Nat} {copy : Bool} {slab : Dword} {cmdix : BitVec 32} {u : State}
    (e : s.askTagWrite t h job cmd copy slab cmdix = some u) : u.mem = s.mem := by
  unfold State.askTagWrite at e
  split at e
  · cases e
  · cases e
    simp

@[simp] theorem State.rowError_mem (s : State) (t n : Nat) : (s.rowError t n).2.mem = s.mem := by simp [State.rowError]

/-! ### Copy commands -/

@[simp] theorem State.queueCopy_mem (s : State) (i : Instr) (g : Dword) (row src : Nat) (third : Dword) :
    (s.queueCopy i g row src third).mem = s.mem := by
  simp [State.queueCopy]

/-! ### Semaphores and trees -/

@[simp] theorem State.queueSignal_mem (s : State) (kind : ReqKind) (loc : Bool) : (s.queueSignal kind loc).mem = s.mem := by simp [State.queueSignal]

@[simp] theorem State.sendTreeMask_mem (s : State) (d jobNum tree row k : Nat) (mask : BitVec 25) (spent : Nat) :
    (s.sendTreeMask d jobNum tree row k mask spent).mem = s.mem := by
  unfold State.sendTreeMask
  split <;> simp

/-! ### Work operations -/

@[simp] theorem State.updUnit_mem (s : State) (jobNum uid : Nat) (f : WorkUnit → WorkUnit) : (s.updUnit jobNum uid f).mem = s.mem := by
  simp [State.updUnit]

@[simp] theorem State.updUnitOf_mem (s : State) (c : Ctx) (f : WorkUnit → WorkUnit) : (s.updUnitOf c f).mem = s.mem := by
  unfold State.updUnitOf
  split <;> simp

@[simp] theorem State.updSlot_mem (s : State) (jobNum t h : Nat) (inst : Option Nat) (slot : Nat) (f : Nat → Nat) :
    (s.updSlot jobNum t h inst slot f).mem = s.mem := by
  unfold State.updSlot
  split <;> simp

@[simp] theorem State.takeLid_mem (s : State) (jobNum : Nat) : (s.takeLid jobNum).2.mem = s.mem := by simp [State.takeLid]
@[simp] theorem State.addWork_mem (s : State) (jobNum : Nat) (w : Work) : (s.addWork jobNum w).mem = s.mem := by simp [State.addWork]

/-! ### Events of one tile -/

@[simp] theorem State.resultDue_mem (s : State) (t h : Nat) : (s.resultDue t h).mem = s.mem := by simp [State.resultDue]
@[simp] theorem execResultDue_mem (t h : Nat) (s : State) : KeepsMem s (execResultDue t h s) := by simp [execResultDue]
@[simp] theorem execClkdivApply_mem (t : Nat) (s : State) : KeepsMem s (execClkdivApply t s) := by simp [execClkdivApply]

@[simp] theorem State.addEsc_mem (s : State) (t h n : Nat) : (s.addEsc t h n).mem = s.mem := by
  unfold State.addEsc
  dsimp only
  split <;> simp

@[simp] theorem State.applyCounts_mem (s : State) (t : Nat) (o : ArrayOp) : (s.applyCounts t o).mem = s.mem := by simp [State.applyCounts]

@[simp] theorem State.reportFault_mem (s : State) (t : Nat) : (s.reportFault t).mem = s.mem := by
  unfold State.reportFault
  dsimp only
  split <;> simp

@[simp] theorem State.runGroup_mem (s : State) (t : Nat) (o : ArrayOp) : (s.runGroup t o).mem = s.mem := by
  unfold State.runGroup
  dsimp only
  split <;> simp

@[simp] theorem State.runGroupsUpTo_mem (s : State) (t n : Nat) : (s.runGroupsUpTo t n).mem = s.mem := by
  induction n generalizing s with
  | zero => rfl
  | succ n ih =>
    unfold State.runGroupsUpTo
    split <;> simp [ih]

@[simp] theorem State.runGroups_mem (s : State) (t : Nat) : (s.runGroups t).mem = s.mem := by simp [State.runGroups]

@[simp] theorem execArrayPhaseStart_mem (t : Nat) (s : State) : KeepsMem s (execArrayPhaseStart t s) := by
  unfold execArrayPhaseStart
  dsimp only
  split <;> simp

@[simp] theorem execMmaeEscalation_mem (t : Nat) (s : State) : KeepsMem s (execMmaeEscalation t s) := by
  unfold execMmaeEscalation
  dsimp only
  split <;> simp

@[simp] theorem execArrayOperationDue_mem (t : Nat) (s : State) : KeepsMem s (execArrayOperationDue t s) := by
  unfold execArrayOperationDue
  dsimp only
  split <;> simp

@[simp] theorem State.moveRow_mem (s : State) (t : Nat) (m : MatCmd) : (s.moveRow t m).mem = s.mem := by
  unfold State.moveRow
  split <;> simp

@[simp] theorem State.matTurn_mem (s : State) (t id : Nat) (used : List Nat) : (s.matTurn t id used).1.mem = s.mem := by
  unfold State.matTurn
  dsimp only
  (repeat' split) <;> simp

@[simp] theorem State.matrixCycle_mem (s : State) (t : Nat) (loadsOnly : Bool) (edge : Nat) : (s.matrixCycle t loadsOnly edge).mem = s.mem := by
  unfold State.matrixCycle
  dsimp only
  rw [foldl_mem _ _ _ fun u id => by split <;> simp]
  simp

@[simp] theorem State.runMatrix_mem (s : State) (t : Nat) (loadsOnly : Bool) : (s.runMatrix t loadsOnly).mem = s.mem := by simp [State.runMatrix]

@[simp] theorem State.spoilSlot_mem (s : State) (t : Nat) (m : MatCmd) : (s.spoilSlot t m).mem = s.mem := by
  unfold State.spoilSlot
  split <;> simp

@[simp] theorem execMatrixCommandCompletion_mem (t id : Nat) (s : State) : KeepsMem s (execMatrixCommandCompletion t id s) := by
  unfold execMatrixCommandCompletion
  refine .next ?_
  dsimp only
  split
  · rfl
  · split
    · rfl
    · split
      · split
        · split
          · rename_i e
            simpa using State.askTagWrite_mem e
          · simp
        · simp
      · simp

/-! ### Events of the copy engine, semaphores, barriers and NEXT -/

@[simp] theorem State.failCopy_mem (s : State) (t id : Nat) (w3 : Nat) : (s.failCopy t id w3).mem = s.mem := by simp [State.failCopy]

@[simp] theorem State.startCopy_mem (s : State) (t : Nat) (m : CopyCmd) : (s.startCopy t m).mem = s.mem := by
  unfold State.startCopy
  split <;> simp

@[simp] theorem State.failCut_mem (s : State) (d : Nat) : (s.failCut d).mem = s.mem := by simp [State.failCut]

@[simp] theorem State.startQueued_mem (s : State) (t : Nat) : (s.startQueued t).mem = s.mem := by
  unfold State.startQueued
  split <;> simp

@[simp] theorem execCopyCommandStart_mem (t : Nat) (s : State) : KeepsMem s (execCopyCommandStart t s) := by simp [execCopyCommandStart]

@[simp] theorem State.fillPlaces_mem (s : State) (t : Nat) : (s.fillPlaces t).mem = s.mem := by
  unfold State.fillPlaces
  dsimp only
  rw [foldl_mem _ _ _ fun u id => by split <;> simp]
  simp

@[simp] theorem execCpytStart_mem (t id : Nat) (s : State) : KeepsMem s (execCpytStart t id s) := by
  unfold execCpytStart
  dsimp only
  split <;> simp

@[simp] theorem State.landScratch_mem (s : State) (t row : Nat) (data : Row) (fe : Bool) : (s.landScratch t row data fe).mem = s.mem := by
  simp [State.landScratch]

@[simp] theorem State.landRow_mem (s : State) (r : Req) (t row : Nat) (fe : Bool) (next : State → State) (h : ∀ u, (next u).mem = u.mem) :
    (s.landRow r t row fe next).mem = s.mem := by
  simp [State.landRow, h]

@[simp] theorem State.beginRow_mem (s : State) (t : Nat) (m : CopyCmd) : (s.beginRow t m).mem = s.mem := by
  unfold State.beginRow
  dsimp only
  split <;> simp

@[simp] theorem State.nextCopyRow_mem (s : State) (t : Nat) (inward : Bool) : (s.nextCopyRow t inward).mem = s.mem := by
  unfold State.nextCopyRow
  dsimp only
  (repeat' split) <;> simp

@[simp] theorem State.writeRows_mem (s : State) (t : Nat) : (s.writeRows t).mem = s.mem := by
  unfold State.writeRows
  dsimp only
  (repeat' split) <;> simp

@[simp] theorem State.sendAdds_mem (s : State) (t : Nat) (m : CopyCmd) : (s.sendAdds t m).mem = s.mem := by simp [State.sendAdds]
@[simp] theorem State.runCopies_mem (s : State) (t : Nat) : (s.runCopies t).mem = s.mem := by simp [State.runCopies]

@[simp] theorem execCopyRowLand_mem (rid : Nat) (s : State) : KeepsMem s (execCopyRowLand rid s) := by
  unfold execCopyRowLand
  (repeat' split) <;> simp

@[simp] theorem execCopyCompletion_mem (t id : Nat) (s : State) : KeepsMem s (execCopyCompletion t id s) := by
  unfold execCopyCompletion
  refine .next ?_
  dsimp only
  split
  · rfl
  · split
    · rfl
    · split
      · split
        · split
          · rename_i e
            simpa using State.askTagWrite_mem e
          · simp
        · simp
      · simp

@[simp] theorem execSemaphoreUpdate_mem (t : Nat) (s : State) : KeepsMem s (execSemaphoreUpdate t s) := by simp [execSemaphoreUpdate]
@[simp] theorem execBarrierUpdate_mem (t : Nat) (s : State) : KeepsMem s (execBarrierUpdate t s) := by simp [execBarrierUpdate]
@[simp] theorem execNextRotate_mem (t h : Nat) (s : State) : KeepsMem s (execNextRotate t h s) := by simp [execNextRotate]

@[simp] theorem execNextReplyArrival_mem (t h : Nat) (s : State) : KeepsMem s (execNextReplyArrival t h s) := by
  unfold execNextReplyArrival
  dsimp only
  (repeat' split) <;> simp

/-! ### Events of the fabric -/

@[simp] theorem State.replyTo_mem (s : State) (r : Req) (load : Payload) : (s.replyTo r load).mem = s.mem := by simp [State.replyTo]
@[simp] theorem State.updRemote_mem (s : State) (site : Nat) (f : Stream → Stream) : (s.updRemote site f).mem = s.mem := by simp [State.updRemote]

@[simp] theorem State.askPeer_mem (s : State) (site : Nat) : (s.askPeer site).mem = s.mem := by
  unfold State.askPeer
  (repeat' split) <;> simp

@[simp] theorem State.forward_mem (s : State) (r : Req) : (s.forward r).mem = s.mem := by simp [State.forward]
@[simp] theorem State.answered_mem (s : State) (r : Req) : (s.answered r).mem = s.mem := by simp [State.answered]
@[simp] theorem State.passPeer_mem (s : State) (rid : Nat) : (s.passPeer rid).mem = s.mem := by simp [State.passPeer]

@[simp] theorem State.failPath_mem (s : State) (site : Nat) : (s.failPath site).mem = s.mem := by
  unfold State.failPath
  dsimp only
  rw [foldl_mem _ _ _ fun u p => by split <;> [split <;> simp; rfl]]
  simp

@[simp] theorem State.countCorrected_mem (s : State) (pa : Nat) : (s.countCorrected pa).mem = s.mem := by simp [State.countCorrected]
@[simp] theorem State.readStack_mem (s : State) (pa : Nat) : (s.readStack pa).mem = s.mem := by simp [State.readStack]

@[simp] theorem State.countRead_mem (s : State) (jobNum : Nat) (ea : Dword) : (s.countRead jobNum ea).mem = s.mem := by
  unfold State.countRead
  split <;> simp

@[simp] theorem State.oweAck_mem (s : State) (node src cls : Nat) : (s.oweAck node src cls).mem = s.mem := by simp [State.oweAck]
@[simp] theorem State.oweRed_mem (s : State) (node src stamp : Nat) : (s.oweRed node src stamp).mem = s.mem := by simp [State.oweRed]
@[simp] theorem State.forget_mem (s : State) (pid : Nat) : (s.forget pid).mem = s.mem := by simp [State.forget]

@[simp] theorem State.refill_mem (s : State) (node key n : Nat) : (s.refill node key n).mem = s.mem := by
  induction n generalizing s with
  | zero => rfl
  | succ n ih =>
    unfold State.refill
    dsimp only
    split
    · rfl
    · simp [ih]

@[simp] theorem State.refillNode_mem (s : State) (node : Nat) : (s.refillNode node).mem = s.mem := by simp [State.refillNode]
@[simp] theorem State.ackRequest_mem (s : State) (rid : Nat) : (s.ackRequest rid).mem = s.mem := by simp [State.ackRequest]
@[simp] theorem State.landNext_mem (s : State) (r : Req) : (s.landNext r).mem = s.mem := by simp [State.landNext]

@[simp] theorem execGlobalLoadCompletion_mem (rid : Nat) (s : State) : KeepsMem s (execGlobalLoadCompletion rid s) := by
  unfold execGlobalLoadCompletion
  split <;> simp

@[simp] theorem State.parkReq_mem (s : State) (r : Req) (cause : Nat) : (s.parkReq r cause).mem = s.mem := by simp [State.parkReq]

@[simp] theorem State.tagWriteOver_mem (s : State) (r : Req) (cmd : Nat) (copy : Bool) (err : Option Nat) :
    (s.tagWriteOver r cmd copy err).mem = s.mem := by
  simp [State.tagWriteOver]

@[simp] theorem execGlobalAccessError_mem (rid cause : Nat) (s : State) : KeepsMem s (execGlobalAccessError rid cause s) := by
  unfold execGlobalAccessError
  (repeat' split) <;> simp

@[simp] theorem State.walkDone_mem (s : State) (w : Walk) (leaf : Leaf) (r : Req) : (s.walkDone w leaf r).mem = s.mem := by
  unfold State.walkDone
  split <;> simp

@[simp] theorem State.walkAgain_mem (s : State) (r : Req) : (s.walkAgain r).mem = s.mem := by simp [State.walkAgain]

@[simp] theorem execTranslationWalk_mem (die rid : Nat) (s : State) : KeepsMem s (execTranslationWalk die rid s) := by
  unfold execTranslationWalk
  refine .next ?_
  dsimp only
  split
  · rfl
  · show State.mem _ = _
    rw [foldl_mem _ _ _ fun u i => by split <;> simp]
    split <;> split <;> simp

@[simp] theorem State.resend_mem (s : State) (node dst cls ready : Nat) : (s.resend node dst cls ready).mem = s.mem := by
  simp [State.resend]

@[simp] theorem execRetransmitTimeout_mem (node dest cls : Nat) (s : State) : KeepsMem s (execRetransmitTimeout node dest cls s) := by
  unfold execRetransmitTimeout
  dsimp only
  split <;> simp

@[simp] theorem State.overNow_mem (s : State) (r : Req) : (s.overNow r).mem = s.mem := by
  unfold State.overNow
  split <;> simp

@[simp] theorem State.deliver_mem (s : State) (p : Packet) : (s.deliver p).mem = s.mem := by
  unfold State.deliver
  dsimp only
  (repeat' split) <;> simp

@[simp] theorem State.merge_mem (s : State) (node : Nat) (p : Packet) (pa aop job : Nat) (cs : List Constituent) :
    (s.merge node p pa aop job cs).mem = s.mem := by
  unfold State.merge
  dsimp only
  (repeat' split) <;> simp

@[simp] theorem execMergeEntrySend_mem (node e : Nat) (s : State) : KeepsMem s (execMergeEntrySend node e s) := by
  unfold execMergeEntrySend
  split <;> simp

@[simp] theorem execPacketArrival_mem (pid : Nat) (s : State) (noise : Nat := 0) : KeepsMem s (execPacketArrival pid s noise) := by
  unfold execPacketArrival
  dsimp only
  (repeat' split) <;> simp

@[simp] theorem execAcknowledgementDeparture_mem (node src cls : Nat) (s : State) : KeepsMem s (execAcknowledgementDeparture node src cls s) := by
  simp [execAcknowledgementDeparture]

@[simp] theorem State.acked_mem (s : State) (rid : Nat) : (s.acked rid).mem = s.mem := by
  unfold State.acked
  split <;> simp

@[simp] theorem State.ackedPacket_mem (s : State) (node : Nat) (p : Packet) : (s.ackedPacket node p).mem = s.mem := by
  unfold State.ackedPacket
  split <;> simp

@[simp] theorem execGlobalAckArrival_mem (pid : Nat) (s : State) : KeepsMem s (execGlobalAckArrival pid s) := by
  unfold execGlobalAckArrival
  (repeat' split) <;> simp

@[simp] theorem State.updModule_mem (s : State) (edge m : Nat) (f : LinkModule → LinkModule) : (s.updModule edge m f).mem = s.mem := by
  simp [State.updModule]

@[simp] theorem execLinkLevelRetry_mem (edge m lane : Nat) (s : State) (failed : Bool := false) :
    KeepsMem s (execLinkLevelRetry edge m lane s failed) := by
  simp [execLinkLevelRetry]

@[simp] theorem State.declare_mem (s : State) (node : Nat) : (s.declare node).mem = s.mem := by simp [State.declare]
@[simp] theorem State.retrain_mem (s : State) (edge m : Nat) : (s.retrain edge m).mem = s.mem := by simp [State.retrain]
@[simp] theorem State.loseFlights_mem (s : State) (lost : Nat → Bool) : (s.loseFlights lost).mem = s.mem := by simp [State.loseFlights]
@[simp] theorem State.failEdge_mem (s : State) (edge : Nat) : (s.failEdge edge).mem = s.mem := by simp [State.failEdge]
@[simp] theorem execModuleOutOfService_mem (edge m : Nat) (s : State) : KeepsMem s (execModuleOutOfService edge m s) := by
  simp [execModuleOutOfService]

@[simp] theorem execModuleRetrainEnd_mem (edge m : Nat) (ok : Bool) (s : State) (lanes : List Nat := []) :
    KeepsMem s (execModuleRetrainEnd edge m ok s lanes) := by
  simp [execModuleRetrainEnd]

@[simp] theorem execEdgeFailure_mem (edge : Nat) (s : State) : KeepsMem s (execEdgeFailure edge s) := by simp [execEdgeFailure]
@[simp] theorem State.dropDie_mem (s : State) (d : Nat) : (s.dropDie d).mem = s.mem := by simp [State.dropDie]
@[simp] theorem execNodeReset_mem (node : Nat) (enter : Bool) (s : State) : KeepsMem s (execNodeReset node enter s) := by simp [execNodeReset]
@[simp] theorem State.freeTrees_mem (s : State) (node : Nat) : (s.freeTrees node).mem = s.mem := by simp [State.freeTrees]

@[simp] theorem execRouteTableAdoption_mem (node : Nat) (s : State) : KeepsMem s (execRouteTableAdoption node s) := by
  unfold execRouteTableAdoption
  refine .next ?_
  dsimp only
  split <;> split <;> simp

@[simp] theorem execScaleOutRetrain_mem (port : Nat) (up : Bool) (s : State) : KeepsMem s (execScaleOutRetrain port up s) := by
  simp [execScaleOutRetrain]
@[simp] theorem State.moveSteps_mem (s : State) (node : Nat) (skip : Bool) : (s.moveSteps node skip).mem = s.mem := by simp [State.moveSteps]
@[simp] theorem execPtcAlignment_mem (node : Nat) (skip : Bool) (s : State) : KeepsMem s (execPtcAlignment node skip s) := by simp [execPtcAlignment]

@[simp] theorem State.checkTree_mem (s : State) (jobNum tree : Nat) : (s.checkTree jobNum tree).mem = s.mem := by
  unfold State.checkTree
  split <;> simp

@[simp] theorem execTreeArrivalAtRoot_mem (job tree t : Nat) (s : State) : KeepsMem s (execTreeArrivalAtRoot job tree t s) := by
  unfold execTreeArrivalAtRoot
  split <;> simp

@[simp] theorem execTreeMaskAtRoot_mem (job tree row k : Nat) (mask : BitVec 25) (s : State) :
    KeepsMem s (execTreeMaskAtRoot job tree row k mask s) := by
  unfold execTreeMaskAtRoot
  split <;> simp

@[simp] theorem execTgenIncrement_mem (job tree die : Nat) (s : State) : KeepsMem s (execTgenIncrement job tree die s) := by simp [execTgenIncrement]

/-! ### Fetch -/

@[simp] theorem State.askFetch_mem (s : State) (t h : Nat) (pc : Dword) : (s.askFetch t h pc).mem = s.mem := by
  unfold State.askFetch
  dsimp only
  (repeat' split) <;> simp

@[simp] theorem State.fetchFault_mem (s : State) (code : Nat) : (s.fetchFault code).mem = s.mem := by simp [State.fetchFault]

/-! ### Cancels, commits, rollbacks and retirement -/

@[simp] theorem State.setJournal_mem (s : State) (seq state : Nat) (status : Dword) : (s.setJournal seq state status).mem = s.mem := by
  unfold State.setJournal
  split <;> simp

@[simp] theorem State.updWork_mem (s : State) (jobNum lid : Nat) (f : Work → Work) : (s.updWork jobNum lid f).mem = s.mem := by simp [State.updWork]
@[simp] theorem State.markReady_mem (s : State) (jobNum lid : Nat) : (s.markReady jobNum lid).mem = s.mem := by simp [State.markReady]

@[simp] theorem State.pokeWork_mem (s : State) (jobNum : Nat) (w : Work) : (s.pokeWork jobNum w).mem = s.mem := by
  unfold State.pokeWork
  (repeat' split) <;> simp

@[simp] theorem State.pokeJob_mem (s : State) (j : Job) : (s.pokeJob j).mem = s.mem := by
  unfold State.pokeJob
  split <;> simp

@[simp] theorem State.poke_mem (s : State) : s.poke.mem = s.mem := by simp [State.poke]
@[simp] theorem State.failWork_mem (s : State) (jobNum lid err : Nat) : (s.failWork jobNum lid err).mem = s.mem := by simp [State.failWork]

@[simp] theorem State.checkWork_mem (s : State) (jobNum lid : Nat) : (s.checkWork jobNum lid).mem = s.mem := by
  unfold State.checkWork
  split <;> simp

@[simp] theorem State.freeUnit_mem (s : State) (jobNum : Nat) (u : WorkUnit) : (s.freeUnit jobNum u).mem = s.mem := by simp [State.freeUnit]
@[simp] theorem State.countUnit_mem (s : State) (jobNum : Nat) (u : WorkUnit) : (s.countUnit jobNum u).mem = s.mem := by simp [State.countUnit]
@[simp] theorem State.discardHeld_mem (s : State) (t h : Nat) : (s.discardHeld t h).mem = s.mem := by simp [State.discardHeld]
@[simp] theorem State.unsend_mem (s : State) (t h : Nat) : (s.unsend t h).mem = s.mem := by simp [State.unsend]
@[simp] theorem State.stopCtx_mem (s : State) (t h : Nat) : (s.stopCtx t h).mem = s.mem := by simp [State.stopCtx]
@[simp] theorem State.recordErr_mem (s : State) (t h : Nat) (e : Err) : (s.recordErr t h e).mem = s.mem := by simp [State.recordErr]
@[simp] theorem State.freezeTile_mem (s : State) (t n : Nat) (replay : Bool) : (s.freezeTile t n replay).mem = s.mem := by simp [State.freezeTile]
@[simp] theorem State.freezePair_mem (s : State) (t n : Nat) : (s.freezePair t n).mem = s.mem := by simp [State.freezePair]

@[simp] theorem State.mirror_mem (s : State) (t : Nat) (us : List WorkUnit) (k : Core) : (s.mirror t us k).mem = s.mem := by
  unfold State.mirror
  split <;> simp

@[simp] theorem State.pace_mem (s : State) (t : Nat) (n : Dword) : (s.pace t n).mem = s.mem := by
  unfold State.pace
  split <;> simp

@[simp] theorem State.follow_mem (s : State) (t : Nat) (was k : Core) : (s.follow t was k).mem = s.mem := by
  unfold State.follow
  split <;> simp

@[simp] theorem State.endPair_mem (s : State) (t : Nat) : (s.endPair t).mem = s.mem := by
  unfold State.endPair
  dsimp only
  (repeat' split) <;> simp

@[simp] theorem State.rewindPair_mem (s : State) (t : Nat) (before : Tile) : (s.rewindPair t before).mem = s.mem := by simp [State.rewindPair]

@[simp] theorem State.partPair_mem (s : State) (t : Nat) (u : WorkUnit) (last : Bool) : (s.partPair t u last).mem = s.mem := by
  unfold State.partPair
  dsimp only
  (repeat' split) <;> simp

@[simp] theorem State.dropDeferred_mem (s : State) (d : Deferred) : (s.dropDeferred d).mem = s.mem := by
  unfold State.dropDeferred
  (repeat' split) <;> simp

@[simp] theorem State.dropRegion_mem (s : State) (r : Region) : (s.dropRegion r).mem = s.mem := by simp [State.dropRegion]
@[simp] theorem State.dropUnsent_mem (s : State) (t : Nat) : (s.dropUnsent t).mem = s.mem := by simp [State.dropUnsent]
@[simp] theorem State.restoreTile_mem (s : State) (t : Nat) (region : Tile → Region) : (s.restoreTile t region).mem = s.mem := by
  simp [State.restoreTile]

@[simp] theorem State.countRerun_mem (s : State) (t : Nat) : (s.countRerun t).mem = s.mem := by
  unfold State.countRerun
  split <;> simp

@[simp] theorem State.startRollback_mem (s : State) (t : Nat) (disagree : Bool) : (s.startRollback t disagree).mem = s.mem := by
  simp [State.startRollback]
@[simp] theorem State.secondRerun_mem (s : State) (t : Nat) : (s.secondRerun t).mem = s.mem := by simp [State.secondRerun]
@[simp] theorem State.rewind_mem (s : State) (t : Nat) : (s.rewind t).mem = s.mem := by simp [State.rewind]
@[simp] theorem State.endRollback_mem (s : State) (t : Nat) : (s.endRollback t).mem = s.mem := by simp [State.endRollback]
@[simp] theorem State.stopNext_mem (s : State) (t h : Nat) (rolling : Bool) : (s.stopNext t h rolling).mem = s.mem := by simp [State.stopNext]
@[simp] theorem State.stopAll_mem (s : State) (t : Nat) (hs : List Nat) : (s.stopAll t hs).mem = s.mem := by simp [State.stopAll]
@[simp] theorem State.askStop_mem (s : State) (t h : Nat) : (s.askStop t h).mem = s.mem := by simp [State.askStop]
@[simp] theorem State.cancelUnit_mem (s : State) (jobNum : Nat) (u : WorkUnit) : (s.cancelUnit jobNum u).mem = s.mem := by simp [State.cancelUnit]

@[simp] theorem State.cancelOne_mem (s : State) (jobNum lid : Nat) : (s.cancelOne jobNum lid).mem = s.mem := by
  unfold State.cancelOne
  (repeat' split) <;> simp

@[simp] theorem State.cancelWork_mem (s : State) (jobNum lid : Nat) : (s.cancelWork jobNum lid).mem = s.mem := by
  unfold State.cancelWork
  split <;> simp

@[simp] theorem State.cancelInst_mem (s : State) (jobNum : Nat) (i : Inst) : (s.cancelInst jobNum i).mem = s.mem := by simp [State.cancelInst]

@[simp] theorem State.cancel_mem (s : State) (jobNum lvl ident : Nat) : (s.cancel jobNum lvl ident).mem = s.mem := by
  unfold State.cancel
  dsimp only
  (repeat' split) <;> simp

@[simp] theorem State.sendCancels_mem (s : State) (t : Nat) : (s.sendCancels t).mem = s.mem := by
  unfold State.sendCancels
  exact foldl_mem _ _ _ fun u r => by split <;> simp

@[simp] theorem State.startWork_mem (s : State) (jobNum lid : Nat) : (s.startWork jobNum lid).mem = s.mem := by
  unfold State.startWork
  (repeat' split) <;> simp

@[simp] theorem State.performDeferred_mem (s : State) (t : Nat) (d : Deferred) : (s.performDeferred t d).mem = s.mem := by
  unfold State.performDeferred
  split <;> simp

@[simp] theorem State.commitRegion_mem (s : State) (t : Nat) : (s.commitRegion t).mem = s.mem := by simp [State.commitRegion]
@[simp] theorem State.moveUnit_mem (s : State) (jobNum : Nat) (u : WorkUnit) : (s.moveUnit jobNum u).mem = s.mem := by simp [State.moveUnit]
@[simp] theorem State.leaveTrees_mem (s : State) (j : Job) (t : Nat) : (s.leaveTrees j t).mem = s.mem := by simp [State.leaveTrees]
@[simp] theorem State.retireOne_mem (s : State) (t code : Nat) : (s.retireOne t code).mem = s.mem := by simp [State.retireOne]

@[simp] theorem State.retireTile_mem (s : State) (t code : Nat) : (s.retireTile t code).mem = s.mem := by
  unfold State.retireTile
  dsimp only
  (repeat' split) <;> simp

@[simp] theorem State.endRegion_mem (s : State) (t : Nat) : (s.endRegion t).mem = s.mem := by
  unfold State.endRegion
  dsimp only
  split <;> simp

/-! ### Events of the dispatcher -/

@[simp] theorem execLaunchReady_mem (job lid : Nat) (s : State) : KeepsMem s (execLaunchReady job lid s) := by
  unfold execLaunchReady
  dsimp only
  (repeat' split) <;> simp

@[simp] theorem execLaunchSpecRead_mem (job lid : Nat) (s : State) : KeepsMem s (execLaunchSpecRead job lid s) := by
  unfold execLaunchSpecRead
  dsimp only
  (repeat' split) <;> simp

@[simp] theorem State.takeSample_mem (s : State) (r : Nat) : (s.takeSample r).mem = s.mem := by simp [State.takeSample]
@[simp] theorem State.startPacing_mem (s : State) (jobNum : Nat) : (s.startPacing jobNum).mem = s.mem := by simp [State.startPacing]

@[simp] theorem State.startUnit_mem (s : State) (jobNum : Nat) (w : Work) (t grp moves uid : Nat) (place : List Nat × Nat × Nat) :
    (s.startUnit jobNum w t grp moves uid place).mem = s.mem := by
  simp [State.startUnit]

@[simp] theorem State.startFollower_mem (s : State) (w : Work) (t uid : Nat) (place : List Nat × Nat × Nat) :
    (s.startFollower w t uid place).mem = s.mem := by
  simp [State.startFollower]

theorem State.placeOne_mem {s : State} {jobNum lid grp moves : Nat} {p : State × Bool} (e : s.placeOne jobNum lid grp moves = some p) :
    p.1.mem = s.mem := by
  unfold State.placeOne at e
  split at e
  · dsimp only at e
    split at e
    · cases e
    · split at e
      · cases e
      · split at e
        · cases e
          rfl
        · cases e
          simp
  · cases e

theorem State.placeAll_mem {s : State} {jobNum lid n g : Nat} {p : State × Bool} (e : s.placeAll jobNum lid n g = some p) : p.1.mem = s.mem := by
  induction n generalizing s g with
  | zero =>
    cases e
    rfl
  | succ n ih =>
    unfold State.placeAll at e
    split at e
    · rename_i h
      exact (ih e).trans (State.placeOne_mem h)
    · cases e
      rfl
    · cases e

@[simp] theorem execUnitPlacement_mem (job lid : Nat) (s : State) : KeepsMem s (execUnitPlacement job lid s) := by
  unfold execUnitPlacement
  refine .next ?_
  split
  · rfl
  · rename_i w _
    split
    · rfl
    · dsimp only
      rcases w.again.head? with _ | ⟨g, m⟩
      · dsimp only
        split
        · rfl
        · simp
        · rename_i u e
          have h : u.mem = s.mem := by
            split at e
            · exact State.placeAll_mem e
            · exact State.placeOne_mem e
          split <;> simp [h]
      · dsimp only
        split
        · rfl
        · simp
        · rename_i u e
          have h : u.mem = s.mem := State.placeOne_mem e
          split <;> simp [h]

@[simp] theorem execUnitEnd_mem (job uid : Nat) (s : State) : KeepsMem s (execUnitEnd job uid s) := by
  unfold execUnitEnd
  split <;> simp

@[simp] theorem State.workTrap_mem (s : State) (w : Work) : (s.workTrap w).mem = s.mem := by simp [State.workTrap]

@[simp] theorem State.conversionDone_mem (s : State) (jobNum : Nat) (c : Work) (parent : Nat) : (s.conversionDone jobNum c parent).mem = s.mem := by
  unfold State.conversionDone
  dsimp only
  (repeat' split) <;> simp

@[simp] theorem execNextRequestService_mem (t h : Nat) (s : State) : KeepsMem s (execNextRequestService t h s) := by
  unfold execNextRequestService
  dsimp only
  (repeat' split) <;> simp

@[simp] theorem execItemReport_mem (rid : Nat) (s : State) : KeepsMem s (execItemReport rid s) := by
  unfold execItemReport
  dsimp only
  (repeat' split) <;> simp

@[simp] theorem State.insertConversion_mem (s : State) (jobNum : Nat) (w : Work) (spec : List Dword) (cvop dst : Nat) :
    (s.insertConversion jobNum w spec cvop dst).mem = s.mem := by
  unfold State.insertConversion
  dsimp only
  (repeat' split) <;> simp

@[simp] theorem State.countSlab_mem (s : State) (jobNum handle : Nat) : (s.countSlab jobNum handle).mem = s.mem := by
  unfold State.countSlab
  split <;> simp

@[simp] theorem execTaskDispatch_mem (job lid : Nat) (s : State) : KeepsMem s (execTaskDispatch job lid s) := by
  unfold execTaskDispatch
  simp
  (repeat' split) <;> simp

@[simp] theorem execGraphInstanceStart_mem (seq : Nat) (s : State) : KeepsMem s (execGraphInstanceStart seq s) := by
  unfold execGraphInstanceStart
  (repeat' split) <;> simp

@[simp] theorem execGraphInstanceComplete_mem (job inst : Nat) (s : State) : KeepsMem s (execGraphInstanceComplete job inst s) := by
  unfold execGraphInstanceComplete
  dsimp only
  (repeat' split) <;> simp

@[simp] theorem execPhaseComplete_mem (job : Nat) (s : State) : KeepsMem s (execPhaseComplete job s) := by
  unfold execPhaseComplete
  (repeat' split) <;> simp

@[simp] theorem State.resumeRecords_mem (s : State) : s.resumeRecords.mem = s.mem := by
  unfold State.resumeRecords
  split
  · rfl
  · dsimp only
    rw [foldl_mem _ _ _ fun u port => by simp, foldl_mem _ _ _ fun u p => by cases recordEvent p.1 p.2 <;> simp]

@[simp] theorem State.clearedLost_mem (s : State) (jobNum : Nat) : (s.clearedLost jobNum).mem = s.mem := by simp [State.clearedLost]

@[simp] theorem execJobClearingEnd_mem (job : Nat) (s : State) : KeepsMem s (execJobClearingEnd job s) := by
  unfold execJobClearingEnd
  split <;> simp

/-! ### What the hosts see -/

@[simp] theorem State.measure_mem (s : State) (kind : Nat) (digest : List Byte) : (s.measure kind digest).mem = s.mem := by simp [State.measure]
@[simp] theorem State.failRecord_mem (s : State) (seq code : Nat) : (s.failRecord seq code).mem = s.mem := by simp [State.failRecord]
@[simp] theorem State.endRecord_mem (s : State) (seq : Nat) : (s.endRecord seq).mem = s.mem := by simp [State.endRecord]

@[simp] theorem State.onRecord_mem (s : State) (seq type sub : Nat) (act : List Dword → State) (h : ∀ d, (act d).mem = s.mem) :
    (s.onRecord seq type sub act).mem = s.mem := by
  unfold State.onRecord
  split
  · rfl
  · simp [h]

@[simp] theorem State.onJob_mem (s : State) (seq type sub : Nat) (act : List Dword → Job → State) (h : ∀ d j, (act d j).mem = s.mem) :
    (s.onJob seq type sub act).mem = s.mem := State.onRecord_mem _ _ _ _ _ fun d => by
  split
  · simp
  · exact h d _

@[simp] theorem State.aperture_mem (s : State) (port off len : Nat) (write : Bool) : (s.aperture port off len write).2.mem = s.mem := by
  simp [State.aperture]

/-! ### What the hosts send -/

@[simp] theorem State.loadFirmware_mem (s : State) (d : Nat) : (s.loadFirmware d).mem = s.mem := by simp [State.loadFirmware]
@[simp] theorem State.bootFirmware_mem (s : State) (state : Nat) : (s.bootFirmware state).mem = s.mem := by simp [State.bootFirmware]
@[simp] theorem State.dropRecord_mem (s : State) (port : Nat) : (s.dropRecord port).mem = s.mem := by simp [State.dropRecord]

@[simp] theorem execCommandRecordWrite_mem (port off size : Nat) (data : BitVec 512) (s : State) :
    KeepsMem s (execCommandRecordWrite port off size data s) := by
  simp [execCommandRecordWrite]

@[simp] theorem execRecordAccept_mem (port : Nat) (s : State) : KeepsMem s (execRecordAccept port s) := by
  unfold execRecordAccept
  dsimp only
  (repeat' split) <;> simp

@[simp] theorem execCompletionRecord_mem (seq : Nat) (s : State) : KeepsMem s (execCompletionRecord seq s) := by
  unfold execCompletionRecord
  split <;> simp

@[simp] theorem execCreateJob_mem (seq : Nat) (s : State) : KeepsMem s (execCreateJob seq s) := by simp [execCreateJob]
@[simp] theorem State.retryReq_mem (s : State) (r : Req) : (s.retryReq r).mem = s.mem := by simp [State.retryReq]

@[simp] theorem State.retryFetch_mem (s : State) (t h : Nat) : (s.retryFetch t h).mem = s.mem := by
  unfold State.retryFetch
  dsimp only
  split <;> simp

@[simp] theorem State.retryJob_mem (s : State) (jobNum : Nat) : (s.retryJob jobNum).mem = s.mem := by simp [State.retryJob]
@[simp] theorem State.flushTlbs_mem (s : State) (j : Job) (range lo hi : Nat) : (s.flushTlbs j range lo hi).mem = s.mem := by simp [State.flushTlbs]
@[simp] theorem State.awaitAccesses_mem (s : State) (seq jobNum : Nat) (again : Event) : (s.awaitAccesses seq jobNum again).mem = s.mem := by
  simp [State.awaitAccesses]
@[simp] theorem State.startWaiting_mem (s : State) (seq jobNum : Nat) (again : Event) : (s.startWaiting seq jobNum again).mem = s.mem := by
  simp [State.startWaiting]
@[simp] theorem execLoadRange_mem (seq : Nat) (s : State) : KeepsMem s (execLoadRange seq s) := by simp [execLoadRange]
@[simp] theorem execLoadInval_mem (seq : Nat) (s : State) : KeepsMem s (execLoadInval seq s) := by simp [execLoadInval]
@[simp] theorem execLoadMethod_mem (seq : Nat) (s : State) : KeepsMem s (execLoadMethod seq s) := by simp [execLoadMethod]
@[simp] theorem execLoadGraph_mem (seq : Nat) (s : State) : KeepsMem s (execLoadGraph seq s) := by simp [execLoadGraph]

@[simp] theorem execRunGraph_mem (seq : Nat) (s : State) : KeepsMem s (execRunGraph seq s) := by
  unfold execRunGraph
  exact .next <| State.onRecord_mem _ _ _ _ _ fun d => by
    split
    · simp
    · split <;> simp

@[simp] theorem execCancelRecord_mem (seq : Nat) (s : State) : KeepsMem s (execCancelRecord seq s) := by simp [execCancelRecord]
@[simp] theorem execQuery_mem (seq : Nat) (hostOk : Bool) (s : State) : KeepsMem s (execQuery seq hostOk s) := by simp [execQuery]
@[simp] theorem execSelfTest_mem (seq : Nat) (fails : List Nat) (s : State) : KeepsMem s (execSelfTest seq fails s) := by simp [execSelfTest]

@[simp] theorem State.onPolicy_mem (s : State) (seq sub : Nat) (act : List Dword → State) (h : ∀ d, (act d).mem = s.mem) :
    (s.onPolicy seq sub act).mem = s.mem := by
  simp [State.onPolicy, h]

@[simp] theorem execSetPolicyTree_mem (seq : Nat) (s : State) : KeepsMem s (execSetPolicyTree seq s) := by
  unfold execSetPolicyTree
  exact .next <| State.onPolicy_mem _ _ _ _ fun d => by split <;> simp

@[simp] theorem execSetPolicyPcap_mem (seq : Nat) (s : State) : KeepsMem s (execSetPolicyPcap seq s) := by simp [execSetPolicyPcap]
@[simp] theorem execSetPolicyCslr_mem (seq : Nat) (s : State) : KeepsMem s (execSetPolicyCslr seq s) := by simp [execSetPolicyCslr]
@[simp] theorem execSetPolicyMarks_mem (seq : Nat) (s : State) : KeepsMem s (execSetPolicyMarks seq s) := by simp [execSetPolicyMarks]
@[simp] theorem State.claimHsem_mem (s : State) (port i p : Nat) : (s.claimHsem port i p).mem = s.mem := by simp [State.claimHsem]
@[simp] theorem State.releaseHsem_mem (s : State) (port i : Nat) : (s.releaseHsem port i).mem = s.mem := by simp [State.releaseHsem]
@[simp] theorem execHsemClaim_mem (port i p : Nat) (s : State) : KeepsMem s (execHsemClaim port i p s) := by simp [execHsemClaim]
@[simp] theorem execHsemRelease_mem (port i : Nat) (s : State) : KeepsMem s (execHsemRelease port i s) := by simp [execHsemRelease]
@[simp] theorem execHostLinkDown_mem (port : Nat) (s : State) : KeepsMem s (execHostLinkDown port s) := by simp [execHostLinkDown]

@[simp] theorem execApertureRead_mem (port off len : Nat) (s : State) : KeepsMem s (execApertureRead port off len s) := by
  unfold execApertureRead
  dsimp only
  (repeat' split) <;> simp

@[simp] theorem execFlashWrite_mem (port off : Nat) (bytes : List (BitVec 8)) (s : State) : KeepsMem s (execFlashWrite port off bytes s) := by
  simp [execFlashWrite]
@[simp] theorem State.signalUnmasked_mem (s : State) (port : Nat) : (s.signalUnmasked port).mem = s.mem := by simp [State.signalUnmasked]

@[simp] theorem execRegisterWrite_mem (port off : Nat) (value : BitVec 64) (s : State) : KeepsMem s (execRegisterWrite port off value s) := by
  unfold execRegisterWrite
  (repeat' split) <;> simp

/-! ### Scratch -/

@[simp] theorem loadWord_mem (s : State) (t : BitVec 5) (ea : Dword) : (loadWord s t ea).mem = s.mem := by simp [loadWord]
@[simp] theorem loadRow_mem (s : State) (t : BitVec 5) (ea : Dword) : (loadRow s t ea).mem = s.mem := by simp [loadRow]
@[simp] theorem storeWord_mem (s : State) (ea : Dword) (x : Dword) (fe : BitVec 32) : (storeWord s ea x fe).mem = s.mem := by simp [storeWord]
@[simp] theorem storeWhole_mem (s : State) (ea : Dword) (v : Row) (fe : BitVec 32) : (storeWhole s ea v fe).mem = s.mem := by simp [storeWhole]
@[simp] theorem storeFe_mem (s : State) (ea : Dword) (fe : BitVec 32) : (storeFe s ea fe).mem = s.mem := by simp [storeFe]

/-! ### The MX slot -/

@[simp] theorem State.queueArray_mem (s : State) (i : Instr) (row entry phase : Nat) (data : Row) :
    (s.queueArray i row entry phase data).mem = s.mem := by
  simp [State.queueArray]

@[simp] theorem State.queueProduct_mem (s : State) (i : Instr) (a : BitVec 5) (off : BitVec 10) : (s.queueProduct i a off).mem = s.mem := by
  simp [State.queueProduct]
@[simp] theorem State.queueMatrix_mem (s : State) (i : Instr) (row rm : Nat) (slab : Dword) : (s.queueMatrix i row rm slab).mem = s.mem := by
  simp [State.queueMatrix]

/-! ### Events of recovery -/

@[simp] theorem execCheckpointCommit_mem (t : Nat) (s : State) : KeepsMem s (execCheckpointCommit t s) := by simp [execCheckpointCommit]
@[simp] theorem execTimingReplay_mem (t back : Nat) (restarts : List Nat) (s : State) : KeepsMem s (execTimingReplay t back restarts s) := by
  simp [execTimingReplay]

@[simp] theorem execKgroupReplay_mem (t : Nat) (restarts : List Nat) (s : State) : KeepsMem s (execKgroupReplay t restarts s) := by
  unfold execKgroupReplay
  dsimp only
  split <;> simp

@[simp] theorem State.countRollback_mem (s : State) (t : Nat) : (s.countRollback t).mem = s.mem := foldl_mem _ _ _ fun u t => by simp
@[simp] theorem execDataErrorRollback_mem (t kind : Nat) (s : State) : KeepsMem s (execDataErrorRollback t kind s) := by simp [execDataErrorRollback]

@[simp] theorem State.takeDueErr_mem (s : State) (t h : Nat) : (s.takeDueErr t h).mem = s.mem := by
  unfold State.takeDueErr
  split <;> simp

@[simp] theorem execTrapEntry_mem (t h : Nat) (s : State) : KeepsMem s (execTrapEntry t h s) := by simp [execTrapEntry]
@[simp] theorem State.recordErrs_mem (s : State) (t h : Nat) : (s.recordErrs t h).mem = s.mem := by simp [State.recordErrs]

@[simp] theorem State.applyDisposition_mem (s : State) (t h disp : Nat) : (s.applyDisposition t h disp).mem = s.mem := by
  unfold State.applyDisposition
  dsimp only
  (repeat' split) <;> simp

@[simp] theorem State.askPreempt_mem (s : State) (ts : List Nat) : (s.askPreempt ts).mem = s.mem := by
  unfold State.askPreempt
  dsimp only
  split
  · rfl
  · exact foldl_mem _ _ _ fun u p => rfl

@[simp] theorem State.commitStopped_mem (s : State) (t : Nat) : (s.commitStopped t).mem = s.mem := by simp [State.commitStopped]

@[simp] theorem execPreEmption_mem (job : Nat) (s : State) : KeepsMem s (execPreEmption job s) := by
  unfold execPreEmption
  split <;> simp

@[simp] theorem State.restoreImage_mem (s : State) (j : Job) (t : Nat) (image : Core) : (s.restoreImage j t image).mem = s.mem := by
  simp [State.restoreImage]
@[simp] theorem State.loseJob_mem (s : State) (j : Job) : (s.loseJob j).mem = s.mem := by simp [State.loseJob]

@[simp] theorem execRestore_mem (job : Nat) (s : State) : KeepsMem s (execRestore job s) := by
  unfold execRestore
  split <;> simp

@[simp] theorem execPredictiveLeak_mem (s : State) (node : Nat := 0) : KeepsMem s (execPredictiveLeak s node) := by simp [execPredictiveLeak]

/-! ### Events of power -/

@[simp] theorem execChinookWindowEnd_mem (t : Nat) (s : State) : KeepsMem s (execChinookWindowEnd t s) := by simp [execChinookWindowEnd]
@[simp] theorem State.writeLearned_mem (s : State) (t : Nat) : (s.writeLearned t).mem = s.mem := by simp [State.writeLearned]
@[simp] theorem execChinookFlashWrite_mem (t : Nat) (s : State) : KeepsMem s (execChinookFlashWrite t s) := by simp [execChinookFlashWrite]
@[simp] theorem State.allRegions_mem (s : State) (f : PowerRegion → PowerRegion) : (s.allRegions f).mem = s.mem :=
  foldl_mem _ _ _ fun _ _ => rfl
@[simp] theorem State.noteArray_mem (s : State) (t : Nat) : (s.noteArray t).mem = s.mem := by simp [State.noteArray]
@[simp] theorem execThrottleStep_mem (region ik i0 : Nat) (s : State) : KeepsMem s (execThrottleStep region ik i0 s) := by simp [execThrottleStep]

@[simp] theorem execDroopAlarm_mem (region : Nat) (s : State) (begun : Bool := false) (lasts : Nat := 0) :
    KeepsMem s (execDroopAlarm region s begun lasts) := by
  unfold execDroopAlarm
  (repeat' split) <;> simp

@[simp] theorem execDroopStretchRelax_mem (region : Nat) (s : State) : KeepsMem s (execDroopStretchRelax region s) := by simp [execDroopStretchRelax]
@[simp] theorem execPowerCapEvaluation_mem (power : Nat) (s : State) : KeepsMem s (execPowerCapEvaluation power s) := by simp [execPowerCapEvaluation]

@[simp] theorem execPacingEvaluation_mem (job : Nat) (slacks : List (Nat × Nat)) (s : State) : KeepsMem s (execPacingEvaluation job slacks s) := by
  have regions (u : State) (f : Nat → PowerRegion → PowerRegion) (l : List Nat) : (l.foldl (fun s r => s.updRegion r (f r)) u).mem = u.mem :=
    foldl_mem _ _ _ fun _ _ => rfl
  simp [execPacingEvaluation, regions]

@[simp] theorem State.declareRails_mem (s : State) : s.declareRails.mem = s.mem := by simp [State.declareRails]

@[simp] theorem State.removeCompute_mem (s : State) : s.removeCompute.mem = s.mem := by
  unfold State.removeCompute
  extract_lets
  split
  · rw [State.after_mem, State.declareRails_mem]
  · rw [State.declareRails_mem]

@[simp] theorem State.tripRails_mem (s : State) : s.tripRails.mem = s.mem := by simp [State.tripRails]
@[simp] theorem execInternalBusLow_mem (s : State) : KeepsMem s (execInternalBusLow s) := by simp [execInternalBusLow]

@[simp] theorem execEmergencySequence_mem (thermal : Bool) (s : State) : KeepsMem s (execEmergencySequence thermal s) := by
  unfold execEmergencySequence
  dsimp only
  (repeat' split) <;> simp

@[simp] theorem execInputSag_mem (volt : Nat) (s : State) : KeepsMem s (execInputSag volt s) := by simp [execInputSag]
@[simp] theorem execSagRecovery_mem (volt : Nat) (s : State) : KeepsMem s (execSagRecovery volt s) := by simp [execSagRecovery]
@[simp] theorem execSagTimeout_mem (s : State) : KeepsMem s (execSagTimeout s) := by simp [execSagTimeout]
@[simp] theorem execTemperatureRead_mem (die : Nat) (temps : List Nat) (s : State) : KeepsMem s (execTemperatureRead die temps s) := by
  simp [execTemperatureRead]
@[simp] theorem State.takeTime_mem (s : State) : s.takeTime.mem = s.mem := foldl_mem _ _ _ fun _ _ => rfl
@[simp] theorem State.warmRestart_mem (s : State) : s.warmRestart.mem = s.mem := by simp [State.warmRestart]

/-! ### The VX slot -/

@[simp] theorem vxDue_mem (s : State) (dst : Reg) (val : Row) (l : Nat) (r : Rnd) : (vxDue s dst val l r).mem = s.mem := by simp [vxDue]

@[simp] theorem gatedOp_mem (s : State) (d : BitVec 5) (av bv : Row) (p : BitVec 3) (w : Nat) (z : BitVec 1) (readsD : Bool) (l : Nat) (f : LaneFn) :
    (gatedOp s d av bv p w z readsD l f).mem = s.mem := by
  simp [gatedOp]

/-! ### A control cycle -/

@[simp] theorem State.atSlot_mem (s : State) (c : SlotClass) : (s.atSlot c).mem = s.mem := by simp [State.atSlot]
@[simp] theorem State.look_mem (s : State) (t h : Nat) (pc link : Dword) : (s.look t h pc link).mem = s.mem := by simp [State.look]
@[simp] theorem State.beginBundle_mem (s : State) (b : Bundle) : (s.beginBundle b).mem = s.mem := by simp [State.beginBundle]

@[simp] theorem State.endBundle_mem (s : State) (b : Bundle) (conflict collide waited : Bool) :
    (s.endBundle b conflict collide waited).mem = s.mem := by
  simp [State.endBundle]

@[simp] theorem State.holdNow_mem (s : State) (gs : List (SlotClass × Instr)) : (s.holdNow gs).mem = s.mem := by simp [State.holdNow]

@[simp] theorem State.fetchTrap_mem (s : State) (t h : Nat) (r : FetchResult) : (s.fetchTrap t h r).mem = s.mem := by
  unfold State.fetchTrap
  split <;> simp

@[simp] theorem State.preemptCtx_mem (s : State) (t h : Nat) : (s.preemptCtx t h).mem = s.mem := by simp [State.preemptCtx]

@[simp] theorem State.tend_mem (s : State) (t h : Nat) : (s.tend t h).1.mem = s.mem := by
  unfold State.tend
  extract_lets c asked quit u
  have hu : u.mem = s.mem := by simp [u]
  clear_value u
  split
  · rfl
  · split
    · split <;> simp
    · split
      · rfl
      · split
        · simp
        · split
          · rfl
          · split
            · simp
            · split
              · simp
              · split
                · simp
                · split
                  · exact hu
                  · split <;> simp [hu]

@[simp] theorem State.tendAll_mem (s : State) (t : Nat) : (s.tendAll t).1.mem = s.mem := by simp [State.tendAll]
@[simp] theorem State.sampled_mem (s : State) (t : Nat) : (s.sampled t).mem = s.mem := by simp [State.sampled]
@[simp] theorem State.overrun_mem (s : State) (t : Nat) : (s.overrun t).mem = s.mem := by simp [State.overrun]
@[simp] theorem State.arrivals_mem (s : State) (t : Nat) : (s.arrivals t).mem = s.mem := by simp [State.arrivals]
@[simp] theorem State.thaw_mem (s : State) (t : Nat) : (s.thaw t).mem = s.mem := by simp [State.thaw]
@[simp] theorem State.openCycle_mem (s : State) (t : Nat) : (s.openCycle t).mem = s.mem := by simp [State.openCycle]

@[simp] theorem State.runArray_mem (s : State) (t n : Nat) : (s.runArray t n).mem = s.mem := by
  induction n generalizing s with
  | zero => rfl
  | succ n ih =>
    unfold State.runArray
    simp [ih]

@[simp] theorem State.settle_mem (s : State) (t : Nat) : (s.settle t).mem = s.mem := by
  unfold State.settle
  extract_lets u v
  have hu : u.mem = s.mem := foldl_mem _ _ _ fun u h => nextOr_mem _ _ (execNextRotate_mem _ _ _)
  have hv : v.mem = u.mem := foldl_mem _ _ _ fun u h => nextOr_mem _ _ (execResultDue_mem _ _ _)
  rw [State.reportFault_mem, State.runArray_mem, hv, hu]

@[simp] theorem State.engines_mem (s : State) (t : Nat) : (s.engines t).mem = s.mem := by simp [State.engines]

@[simp] theorem State.endWork_mem (s : State) (t : Nat) : (s.endWork t).mem = s.mem := by
  unfold State.endWork
  extract_lets done u
  have hu : u.mem = s.mem := foldl_mem _ _ _ fun u h => by simp
  clear_value u
  split
  · exact hu
  · simp [hu]

@[simp] theorem State.endIfDue_mem (s : State) (t : Nat) : (s.endIfDue t).mem = s.mem := by simp [State.endIfDue]

@[simp] theorem State.closeCycle_mem (s : State) (t : Nat) (g : Stage) (bcnt : Dword) : (s.closeCycle t g bcnt).mem = s.mem := by
  generalize e : s.closeCycle t g bcnt = r
  unfold State.closeCycle at e
  extract_lets conflict u v w x y live at e
  rw [← e, State.updTile_mem]
  clear e live
  unfold y
  rw [State.sendCancels_mem, State.endPair_mem, State.noteArray_mem]
  unfold x
  rw [State.ite_mem, State.once_mem, ite_self]
  unfold w
  rw [State.endWork_mem]
  unfold v
  rw [State.endIfDue_mem, State.updTile_mem]
  unfold u
  rw [State.engines_mem, State.updTile_mem]

@[simp] theorem State.runLoads_mem (s : State) (t : Nat) : (s.runLoads t).mem = s.mem := by simp [State.runLoads]
@[simp] theorem State.freezeCycle_mem (s : State) (t h : Nat) : (s.freezeCycle t h).mem = s.mem := by simp [State.freezeCycle]

theorem State.stalled_mem {s u : State} {t : Nat} (e : s.stalled t = some u) : u.mem = s.mem := by
  have shape : ∃ (c b : Bool) (v : State), s.stalled t = (if c = true then none else some (if b = true then v.runLoads t else v)) ∧ v.mem = s.mem := by
    refine ⟨_, _, _, rfl, ?_⟩
    split <;> simp
  obtain ⟨c, b, v, h, hv⟩ := shape
  rw [h] at e
  split at e
  · cases e
  · cases e
    simp [hv]

@[simp] theorem State.ghostCycle_mem (s : State) (t : Nat) : (s.ghostCycle t).mem = s.mem := by simp [State.ghostCycle]
@[simp] theorem State.soiled_mem (s : State) (t : Nat) (was : Core) : (s.soiled t was).mem = s.mem := by simp [State.soiled]

end Sys2Proof.Machine
end

section
/-! SUPPORT. No operation of a slot changes device memory: a store leaves its tile as a request (R168). -/

namespace Sys2Proof.Machine

theorem branchIf_mem (sp : BitVec 3) (i : Instr) (off : BitVec 18) (test : State → Bool) (s : State) : KeepsMem s (branchIf sp i off test s) :=
  issueSlot_mem _ _ _ _ fun u => by simp

theorem atomicWord_mem (sp : BitVec 3) (i : Instr) (t base : BitVec 5) (off : BitVec 8) (f : State → Dword → Dword) (s : State) :
    KeepsMem s (atomicWord sp i t base off f s) :=
  issueSlot_mem _ _ _ _ fun u => by simp

theorem atomicRow_mem (sp : BitVec 3) (i : Instr) (t base : BitVec 5) (off : BitVec 13) (f : Row → Row → Row) (s : State) :
    KeepsMem s (atomicRow sp i t base off f s) :=
  issueSlot_mem _ _ _ _ fun u => by simp

theorem alu2_mem (sp : BitVec 3) (i : Instr) (d a b : BitVec 5) (n : Nat) (f : Dword → Dword → Dword) (s : State) :
    KeepsMem s (alu2 sp i d a b n f s) :=
  issueSlot_mem _ _ _ _ fun u => by simp

theorem alu1_mem (sp : BitVec 3) (i : Instr) (d a : BitVec 5) (f : Dword → Dword) (s : State) : KeepsMem s (alu1 sp i d a f s) :=
  issueSlot_mem _ _ _ _ fun u => by simp

theorem compareOp_mem (sp : BitVec 3) (i : Instr) (d a b : BitVec 5) (p ty : BitVec 3) (z : BitVec 1) (fi : Nat → Nat → Bool) (ff : FV → FV → Bool) (s : State) :
    KeepsMem s (compareOp sp i d a b p ty z fi ff s) :=
  issueSlot_mem _ _ _ _ fun u => by simp

theorem reduceOp_mem (sp : BitVec 3) (i : Instr) (d a : BitVec 5) (p ty : BitVec 3) (nat : BitVec 1) (none_ : Nat) (fi : Int → Int → Int)
    (ff : Rnd → Nat → Nat → Nat × Rnd) (s : State) : KeepsMem s (reduceOp sp i d a p ty nat none_ fi ff s) :=
  issueSlot_mem _ _ _ _ fun u => by simp

/-- VPACK4 by itself: its rounded blocks stay unevaluated, as the kernel would not come to an end of them. -/
theorem execVpack4_mem (sp : BitVec 3) (d a b : BitVec 5) (h ty : BitVec 3) (bt : BitVec 2) (s : State) : KeepsMem s (execVpack4 sp d a b h ty bt s) := by
  unfold execVpack4
  refine issueSlot_mem _ _ _ _ fun u => ?_
  extract_lets w nb src
  generalize mapRnd (β := Nat × List Nat) _ _ _ = m
  obtain ⟨blocks, r⟩ := m
  exact (State.due_mem ..).trans (vxDue_mem ..)

/-- By its family or by its own effect, each operation of a slot leaves memory alone. -/
theorem exec_slot_mem (i : Instr) (s : State) (h : i.encode ≠ none) : KeepsMem s (exec i s) := by
  cases i
  case add => unfold exec execAdd; exact alu2_mem ..
  case sub => unfold exec execSub; exact alu2_mem ..
  case and => unfold exec execAnd; exact alu2_mem ..
  case or => unfold exec execOr; exact alu2_mem ..
  case xor => unfold exec execXor; exact alu2_mem ..
  case andn => unfold exec execAndn; exact alu2_mem ..
  case shl => unfold exec execShl; exact alu2_mem ..
  case shr => unfold exec execShr; exact alu2_mem ..
  case sar => unfold exec execSar; exact alu2_mem ..
  case rol => unfold exec execRol; exact alu2_mem ..
  case min => unfold exec execMin; exact alu2_mem ..
  case max => unfold exec execMax; exact alu2_mem ..
  case minn => unfold exec execMinn; exact alu2_mem ..
  case maxn => unfold exec execMaxn; exact alu2_mem ..
  case seq => unfold exec execSeq; exact alu2_mem ..
  case slt => unfold exec execSlt; exact alu2_mem ..
  case sltn => unfold exec execSltn; exact alu2_mem ..
  case sel => unfold exec execSel; exact issueSlot_mem _ _ _ _ fun u => by simp
  case clz => unfold exec execClz; exact alu1_mem ..
  case popc => unfold exec execPopc; exact alu1_mem ..
  case addsh => unfold exec execAddsh; exact alu2_mem ..
  case addw => unfold exec execAddw; exact alu2_mem ..
  case bext => unfold exec execBext; exact alu1_mem ..
  case bins => unfold exec execBins; exact issueSlot_mem _ _ _ _ fun u => by simp
  case mul => unfold exec execMul; exact alu2_mem ..
  case mulh => unfold exec execMulh; exact alu2_mem ..
  case mulhn => unfold exec execMulhn; exact alu2_mem ..
  case div => unfold exec execDiv; exact alu2_mem ..
  case divn => unfold exec execDivn; exact alu2_mem ..
  case rem => unfold exec execRem; exact alu2_mem ..
  case remn => unfold exec execRemn; exact alu2_mem ..
  case addi => unfold exec execAddi; exact alu1_mem ..
  case andi => unfold exec execAndi; exact alu1_mem ..
  case ori => unfold exec execOri; exact alu1_mem ..
  case xori => unfold exec execXori; exact alu1_mem ..
  case shli => unfold exec execShli; exact alu1_mem ..
  case shri => unfold exec execShri; exact alu1_mem ..
  case sari => unfold exec execSari; exact alu1_mem ..
  case slti => unfold exec execSlti; exact alu1_mem ..
  case sltni => unfold exec execSltni; exact alu1_mem ..
  case seqi => unfold exec execSeqi; exact alu1_mem ..
  case movl => unfold exec execMovl; exact issueSlot_mem _ _ _ _ fun u => by simp
  case cati => unfold exec execCati; exact issueSlot_mem _ _ _ _ fun u => by simp
  case ldx => unfold exec execLdx; exact issueSlot_mem _ _ _ _ fun u => by simp
  case stx => unfold exec execStx; exact issueSlot_mem _ _ _ _ fun u => by simp
  case ldv => unfold exec execLdv; exact issueSlot_mem _ _ _ _ fun u => by simp
  case stv => unfold exec execStv; exact issueSlot_mem _ _ _ _ fun u => by simp
  case stvp => unfold exec execStvp; exact issueSlot_mem _ _ _ _ fun u => by simp
  case ldxf => unfold exec execLdxf; exact issueSlot_mem _ _ _ _ fun u => by simp
  case stxe => unfold exec execStxe; exact issueSlot_mem _ _ _ _ fun u => by simp
  case ldvf => unfold exec execLdvf; exact issueSlot_mem _ _ _ _ fun u => by simp
  case stve => unfold exec execStve; exact issueSlot_mem _ _ _ _ fun u => by simp
  case setfe => unfold exec execSetfe; exact issueSlot_mem _ _ _ _ fun u => by simp
  case getfe => unfold exec execGetfe; exact issueSlot_mem _ _ _ _ fun u => by simp
  case ldsp => unfold exec execLdsp; exact issueSlot_mem _ _ _ _ fun u => by simp
  case stsp => unfold exec execStsp; exact issueSlot_mem _ _ _ _ fun u => by simp
  case ldspv => unfold exec execLdspv; exact issueSlot_mem _ _ _ _ fun u => by simp
  case stspv => unfold exec execStspv; exact issueSlot_mem _ _ _ _ fun u => by simp
  case aadd => unfold exec execAadd; exact atomicWord_mem ..
  case amin => unfold exec execAmin; exact atomicWord_mem ..
  case amax => unfold exec execAmax; exact atomicWord_mem ..
  case aminn => unfold exec execAminn; exact atomicWord_mem ..
  case amaxn => unfold exec execAmaxn; exact atomicWord_mem ..
  case aand => unfold exec execAand; exact atomicWord_mem ..
  case aor => unfold exec execAor; exact atomicWord_mem ..
  case axor => unfold exec execAxor; exact atomicWord_mem ..
  case aswp => unfold exec execAswp; exact atomicWord_mem ..
  case acas => unfold exec execAcas; exact atomicWord_mem ..
  case vaor => unfold exec execVaor; exact atomicRow_mem ..
  case vaadd => unfold exec execVaadd; exact atomicRow_mem ..
  case gldx => unfold exec execGldx; exact issueSlot_mem _ _ _ _ fun u => by simp
  case gstx => unfold exec execGstx; exact issueSlot_mem _ _ _ _ fun u => by simp
  case gldv => unfold exec execGldv; exact issueSlot_mem _ _ _ _ fun u => by simp
  case gstv => unfold exec execGstv; exact issueSlot_mem _ _ _ _ fun u => State.deferAccess_mem ..
  case gamo => unfold exec execGamo; exact issueSlot_mem _ _ _ _ fun u => by simp
  case gred => unfold exec execGred; exact issueSlot_mem _ _ _ _ fun u => by simp
  case drain => unfold exec execDrain; exact issueSlot_mem _ _ _ _ fun u => by simp
  case vadd => unfold exec execVadd; exact issueSlot_mem _ _ _ _ fun u => by simp
  case vsub => unfold exec execVsub; exact issueSlot_mem _ _ _ _ fun u => by simp
  case vmul => unfold exec execVmul; exact issueSlot_mem _ _ _ _ fun u => by simp
  case vfma => unfold exec execVfma; exact issueSlot_mem _ _ _ _ fun u => by simp
  case vfms => unfold exec execVfms; exact issueSlot_mem _ _ _ _ fun u => by simp
  case vmin => unfold exec execVmin; exact issueSlot_mem _ _ _ _ fun u => by simp
  case vmax => unfold exec execVmax; exact issueSlot_mem _ _ _ _ fun u => by simp
  case vminn => unfold exec execVminn; exact issueSlot_mem _ _ _ _ fun u => by simp
  case vmaxn => unfold exec execVmaxn; exact issueSlot_mem _ _ _ _ fun u => by simp
  case vabs => unfold exec execVabs; exact issueSlot_mem _ _ _ _ fun u => by simp
  case vneg => unfold exec execVneg; exact issueSlot_mem _ _ _ _ fun u => by simp
  case vadds => unfold exec execVadds; exact issueSlot_mem _ _ _ _ fun u => by simp
  case vsubs => unfold exec execVsubs; exact issueSlot_mem _ _ _ _ fun u => by simp
  case vmulh => unfold exec execVmulh; exact issueSlot_mem _ _ _ _ fun u => by simp
  case vmulhn => unfold exec execVmulhn; exact issueSlot_mem _ _ _ _ fun u => by simp
  case vdot => unfold exec execVdot; exact issueSlot_mem _ _ _ _ fun u => by simp
  case vand => unfold exec execVand; exact issueSlot_mem _ _ _ _ fun u => by simp
  case vor => unfold exec execVor; exact issueSlot_mem _ _ _ _ fun u => by simp
  case vxor => unfold exec execVxor; exact issueSlot_mem _ _ _ _ fun u => by simp
  case vandn => unfold exec execVandn; exact issueSlot_mem _ _ _ _ fun u => by simp
  case vshl => unfold exec execVshl; exact issueSlot_mem _ _ _ _ fun u => by simp
  case vshr => unfold exec execVshr; exact issueSlot_mem _ _ _ _ fun u => by simp
  case vsar => unfold exec execVsar; exact issueSlot_mem _ _ _ _ fun u => by simp
  case vshli => unfold exec execVshli; exact issueSlot_mem _ _ _ _ fun u => by simp
  case vshri => unfold exec execVshri; exact issueSlot_mem _ _ _ _ fun u => by simp
  case vpopc => unfold exec execVpopc; exact issueSlot_mem _ _ _ _ fun u => by simp
  case vclz => unfold exec execVclz; exact issueSlot_mem _ _ _ _ fun u => by simp
  case vcmpeq => unfold exec execVcmpeq; exact compareOp_mem ..
  case vcmpne => unfold exec execVcmpne; exact compareOp_mem ..
  case vcmplt => unfold exec execVcmplt; exact compareOp_mem ..
  case vcmple => unfold exec execVcmple; exact compareOp_mem ..
  case vcmpltn => unfold exec execVcmpltn; exact compareOp_mem ..
  case vcmpun => unfold exec execVcmpun; exact compareOp_mem ..
  case vsel => unfold exec execVsel; exact issueSlot_mem _ _ _ _ fun u => by simp
  case vmov => unfold exec execVmov; exact issueSlot_mem _ _ _ _ fun u => by simp
  case vbcast => unfold exec execVbcast; exact issueSlot_mem _ _ _ _ fun u => by simp
  case vext => unfold exec execVext; exact issueSlot_mem _ _ _ _ fun u => by simp
  case vins => unfold exec execVins; exact issueSlot_mem _ _ _ _ fun u => by simp
  case vperm => unfold exec execVperm; exact issueSlot_mem _ _ _ _ fun u => by simp
  case vrot => unfold exec execVrot; exact issueSlot_mem _ _ _ _ fun u => by simp
  case vmerge => unfold exec execVmerge; exact issueSlot_mem _ _ _ _ fun u => by simp
  case viota => unfold exec execViota; exact issueSlot_mem _ _ _ _ fun u => by simp
  case vredadd => unfold exec execVredadd; exact reduceOp_mem ..
  case vredmax => unfold exec execVredmax; exact reduceOp_mem ..
  case vredmin => unfold exec execVredmin; exact reduceOp_mem ..
  case vscan => unfold exec execVscan; exact issueSlot_mem _ _ _ _ fun u => by simp
  case vcvt => unfold exec execVcvt; exact issueSlot_mem _ _ _ _ fun u => by simp
  case vpack4 => exact execVpack4_mem ..
  case vunpk4 => unfold exec execVunpk4; exact issueSlot_mem _ _ _ _ fun u => by simp
  case vcord => unfold exec execVcord; exact issueSlot_mem _ _ _ _ fun u => by simp
  case pand => unfold exec execPand; exact issueSlot_mem _ _ _ _ fun u => by simp
  case por => unfold exec execPor; exact issueSlot_mem _ _ _ _ fun u => by simp
  case pxor => unfold exec execPxor; exact issueSlot_mem _ _ _ _ fun u => by simp
  case pnot => unfold exec execPnot; exact issueSlot_mem _ _ _ _ fun u => by simp
  case pcnt => unfold exec execPcnt; exact issueSlot_mem _ _ _ _ fun u => by simp
  case pfirst => unfold exec execPfirst; exact issueSlot_mem _ _ _ _ fun u => by simp
  case ptail => unfold exec execPtail; exact issueSlot_mem _ _ _ _ fun u => by simp
  case mma => unfold exec execMma; exact issueCommand_mem _ _ _ _ fun u => by simp
  case mmat => unfold exec execMmat; exact issueCommand_mem _ _ _ _ fun u => by simp
  case mmae => unfold exec execMmae; exact issueCommand_mem _ _ _ _ fun u => by simp
  case wbld => unfold exec execWbld; exact issueCommand_mem _ _ _ _ fun u => by simp
  case wbclr => unfold exec execWbclr; exact issueCommand_mem _ _ _ _ fun u => by simp
  case accz => unfold exec execAccz; exact issueCommand_mem _ _ _ _ fun u => by simp
  case accrd => unfold exec execAccrd; exact issueCommand_mem _ _ _ _ fun u => by simp
  case accwr => unfold exec execAccwr; exact issueCommand_mem _ _ _ _ fun u => by simp
  case accbias => unfold exec execAccbias; exact issueCommand_mem _ _ _ _ fun u => by simp
  case accst => unfold exec execAccst; exact issueCommand_mem _ _ _ _ fun u => by simp
  case ftset => unfold exec execFtset; exact issueCommand_mem _ _ _ _ fun u => by simp
  case ftget => unfold exec execFtget; exact issueCommand_mem _ _ _ _ fun u => by simp
  case monrd => unfold exec execMonrd; exact issueCommand_mem _ _ _ _ fun u => by simp
  case monclr => unfold exec execMonclr; exact issueCommand_mem _ _ _ _ fun u => by simp
  case mbset => unfold exec execMbset; exact issueCommand_mem _ _ _ _ fun u => by simp
  case cpy => unfold exec execCpy; exact issueCommand_mem _ _ _ _ fun u => by simp
  case cpy2 => unfold exec execCpy2; exact issueCommand_mem _ _ _ _ fun u => by simp
  case cpyg => unfold exec execCpyg; exact issueCommand_mem _ _ _ _ fun u => by simp
  case cpys => unfold exec execCpys; exact issueCommand_mem _ _ _ _ fun u => by simp
  case cpyr => unfold exec execCpyr; exact issueCommand_mem _ _ _ _ fun u => by simp
  case cpyt => unfold exec execCpyt; exact issueCommand_mem _ _ _ _ fun u => by simp
  case cpyx => unfold exec execCpyx; exact issueCommand_mem _ _ _ _ fun u => by simp
  case twany => unfold exec execTwany; exact issueCommand_mem _ _ _ _ fun u => by simp
  case twall => unfold exec execTwall; exact issueCommand_mem _ _ _ _ fun u => by simp
  case tffr => unfold exec execTffr; exact issueCommand_mem _ _ _ _ fun u => by simp; split <;> rfl
  case tclr => unfold exec execTclr; exact issueCommand_mem _ _ _ _ fun u => by simp
  case wait => unfold exec execWait; exact issueCommand_mem _ _ _ _ fun u => by simp
  case semsig => unfold exec execSemsig; exact issueCommand_mem _ _ _ _ fun u => by simp
  case semwait => unfold exec execSemwait; exact issueCommand_mem _ _ _ _ fun u => by simp
  case semrd => unfold exec execSemrd; exact issueCommand_mem _ _ _ _ fun u => by simp
  case bararv => unfold exec execBararv; exact issueCommand_mem _ _ _ _ fun u => by simp
  case barwt => unfold exec execBarwt; exact issueCommand_mem _ _ _ _ fun u => by simp
  case treearv => unfold exec execTreearv; exact issueCommand_mem _ _ _ _ fun u => by simp
  case treewt => unfold exec execTreewt; exact issueCommand_mem _ _ _ _ fun u => by simp
  case treemask => unfold exec execTreemask; exact issueCommand_mem _ _ _ _ fun u => by simp
  case next => unfold exec execNext; exact issueCommand_mem _ _ _ _ fun u => by simp
  case launch => unfold exec execLaunch; exact issueCommand_mem _ _ _ _ fun u => by simp
  case task => unfold exec execTask; exact issueCommand_mem _ _ _ _ fun u => by simp
  case doneUnit => unfold exec execDoneUnit; exact issueCommand_mem _ _ _ _ fun u => by simp; split <;> simp
  case doneItem => unfold exec execDoneItem; exact issueCommand_mem _ _ _ _ fun u => by simp
  case cancel => unfold exec execCancel; exact issueCommand_mem _ _ _ _ fun u => by simp
  case slabtag => unfold exec execSlabtag; exact issueCommand_mem _ _ _ _ fun u => by simp
  case clkdiv => unfold exec execClkdiv; exact issueCommand_mem _ _ _ _ fun u => by simp
  case timewt => unfold exec execTimewt; exact issueCommand_mem _ _ _ _ fun u => by simp
  case bra => unfold exec execBra; exact branchIf_mem ..
  case bz => unfold exec execBz; exact branchIf_mem ..
  case bnz => unfold exec execBnz; exact branchIf_mem ..
  case bltz => unfold exec execBltz; exact branchIf_mem ..
  case bgez => unfold exec execBgez; exact branchIf_mem ..
  case loopb => unfold exec execLoopb; exact issueSlot_mem _ _ _ _ fun u => by simp
  case loopset => unfold exec execLoopset; exact issueSlot_mem _ _ _ _ fun u => by simp
  case call => unfold exec execCall; exact issueSlot_mem _ _ _ _ fun u => by simp
  case jr => unfold exec execJr; exact issueSlot_mem _ _ _ _ fun u => by simp
  case jalr => unfold exec execJalr; exact issueSlot_mem _ _ _ _ fun u => by simp
  case trap => unfold exec execTrap; exact issueSlot_mem _ _ _ _ fun u => by simp
  case eret => unfold exec execEret; exact issueSlot_mem _ _ _ _ fun u => by simp
  case srd => unfold exec execSrd; exact issueSlot_mem _ _ _ _ fun u => by simp
  case swr => unfold exec execSwr; exact issueSlot_mem _ _ _ _ fun u => by simp
  case fence => unfold exec execFence; exact issueSlot_mem _ _ _ _ fun u => by simp
  case halt => unfold exec execHalt; exact issueSlot_mem _ _ _ _ fun u => by simp
  case locq => unfold exec execLocq; exact issueSlot_mem _ _ _ _ fun u => by simp
  case tsr => unfold exec execTsr; exact issueSlot_mem _ _ _ _ fun u => by simp
  case cyc => unfold exec execCyc; exact issueSlot_mem _ _ _ _ fun u => by simp
  all_goals exact absurd rfl h

end Sys2Proof.Machine
end

section
/-! SUPPORT. The operations that store in device memory, or begin it again, keep it in its one form. -/

namespace Sys2Proof.Machine

/-- An outcome keeps device memory in its one form. -/
abbrev KeepsCanonical (s : State) (o : Host.Outcome State Fault Refusal) : Prop := MemoryCanonical s → Yields MemoryCanonical o

theorem canonical_of_mem {s t : State} (h : MemoryCanonical s) (e : t.mem = s.mem) : MemoryCanonical t :=
  (congrArg (fun m => Memory.wf m = true) e).mpr h

theorem KeepsMem.canonical {s : State} {o : Host.Outcome State Fault Refusal} (h : KeepsMem s o) : KeepsCanonical s o := by
  intro hs
  cases h with
  | next e => exact .next (canonical_of_mem hs e)
  | fault r => exact .fault r
  | refused r => exact .refused r

theorem foldl_canonical {α : Type} (f : State → α → State) (l : List α) {s : State} (h : MemoryCanonical s)
    (hf : ∀ s a, MemoryCanonical s → MemoryCanonical (f s a)) : MemoryCanonical (l.foldl f s) := by
  induction l generalizing s with
  | nil => exact h
  | cons a l ih => exact ih (hf s a h)

theorem State.storeAt_canonical {s : State} (pa : Nat) (bs : List Byte) (h : MemoryCanonical s) : MemoryCanonical (s.storeAt pa bs) := by
  unfold State.storeAt
  split
  · exact h
  · exact State.storeBytes_canonical pa bs h

theorem State.storeParts_canonical {s : State} (ps : List (Nat × Nat)) (bs : List Byte) (h : MemoryCanonical s) :
    MemoryCanonical (s.storeParts ps bs) := by
  induction ps generalizing s bs with
  | nil => exact h
  | cons p ps ih => exact ih _ (State.storeAt_canonical _ _ h)

/-! ### Home ports (R197, R358) -/

theorem State.perform_canonical {s : State} (r : Req) (h : MemoryCanonical s) : MemoryCanonical (s.perform r).2 := by
  unfold State.perform
  cases hk : r.kind
  all_goals dsimp only
  case store | storeRow | copyOut | amo | red | tagWrite => exact State.storeBytes_canonical _ _ h
  case slabtag =>
    split
    · exact h
    · exact State.storeBytes_canonical _ _ h
  all_goals exact h

theorem State.performHome_canonical {s : State} (r : Req) (corrected : Bool) (h : MemoryCanonical s) :
    MemoryCanonical (s.performHome r corrected) := by
  unfold State.performHome
  split
  · exact canonical_of_mem h (by simp)
  · have hp := State.perform_canonical (s := s.updReq r.id fun x => { x with state := .performed }) r h
    generalize (s.updReq r.id fun x => { x with state := .performed }).perform r = p at hp
    obtain ⟨v, u⟩ := p
    refine canonical_of_mem hp ?_
    cases v <;> simp

theorem execHomePortAccess_canonical (rid : Nat) (s : State) (corrected : Bool) : KeepsCanonical s (execHomePortAccess rid s corrected) := by
  intro h
  unfold execHomePortAccess
  split
  · exact .next (canonical_of_mem h (State.passPeer_mem ..))
  · (repeat' split)
    · exact .next (canonical_of_mem h (State.answered_mem ..))
    · exact .next h
    · exact .fault _
    · exact .next (State.performHome_canonical _ corrected h)
    · exact .next (canonical_of_mem h (State.replyTo_mem ..))
    · exact .next (canonical_of_mem h (State.forward_mem ..))

/-- Constituents of a reduction that has met uncorrectable data are answered with aborts, which leaves memory alone. -/
theorem foldl_fail_mem (k : Nat) (cs : List Constituent) (s : State) :
    (cs.foldl (fun s c =>
      match s.req c.rid with
      | some r => (s.updReq c.rid fun x => { x with state := .failing }).replyTo r (.error c.rid k)
      | none => s) s).mem = s.mem :=
  foldl_mem _ _ _ fun s c => by cases s.req c.rid <;> simp

theorem execReductionApply_canonical (pid : Nat) (s : State) : KeepsCanonical s (execReductionApply pid s) := by
  intro h
  unfold execReductionApply
  refine .next ?_
  split
  · exact h
  · split
    · rename_i pa aop _ _ _ _
      split
      rename_i fresh u hu
      have hc : MemoryCanonical u := canonical_of_mem h (by
        rw [← (show _ = u from congrArg Prod.snd hu), foldl_snd_mem _ _ _ fun _ _ => by simp])
      refine canonical_of_mem ?_ ((State.forget_mem ..).trans (State.oweRed_mem ..))
      dsimp only
      generalize (if aop = 10 then 4 else 8) = size
      split
      · exact hc
      · split
        · exact canonical_of_mem hc ((foldl_fail_mem ..).trans (State.badRead_mem ..))
        · have hs : MemoryCanonical (u.readStack pa) := canonical_of_mem hc (State.readStack_mem ..)
          exact canonical_of_mem (State.storeBytes_canonical _ _ hs) (foldl_mem _ _ _ fun _ _ => State.updReq_mem ..)
    · exact h

/-! ### Launches, jobs and the aperture (R234, R308, R313) -/

theorem State.writeRecord_canonical {s : State} (jobNum : Nat) (w : Work) (state : Nat) (h : MemoryCanonical s) :
    MemoryCanonical (s.writeRecord jobNum w state) := by
  unfold State.writeRecord
  extract_lets a
  split
  · exact h
  · split
    · exact State.storeAt_canonical _ _ h
    · split
      · exact canonical_of_mem h (State.noteBad_mem ..)
      · exact h

theorem execLaunchComplete_canonical (job lid : Nat) (s : State) : KeepsCanonical s (execLaunchComplete job lid s) := by
  intro h
  unfold execLaunchComplete
  refine .next ?_
  split
  · exact h
  · rename_i w _
    split
    · exact h
    · refine canonical_of_mem (State.writeRecord_canonical job w w.outcome h) ?_
      generalize s.writeRecord job w w.outcome = u
      cases w.parent <;> simp

theorem execJobClearing_canonical (job : Nat) (s : State) : KeepsCanonical s (execJobClearing job s) := by
  intro h
  unfold execJobClearing
  refine .next ?_
  split
  · exact h
  · extract_lets spans zero u
    have hu : MemoryCanonical u := foldl_canonical _ _ h fun v pa hv => by
      unfold zero
      split
      · exact State.storeBytes_canonical pa [0] hv
      · exact hv
    exact hu

theorem execApertureWrite_canonical (port off : Nat) (bytes : List (BitVec 8)) (s : State) :
    KeepsCanonical s (execApertureWrite port off bytes s) := by
  intro h
  have ha : MemoryCanonical (s.aperture port off bytes.length true).2 := canonical_of_mem h (State.aperture_mem ..)
  unfold execApertureWrite
  refine .next ?_
  generalize s.aperture port off bytes.length true = a at ha
  obtain ⟨pas, u⟩ := a
  split
  · exact canonical_of_mem h (State.dropRecord_mem ..)
  · cases pas with
    | none => exact canonical_of_mem ha (State.dropRecord_mem ..)
    | some ps => exact State.storeParts_canonical ps bytes ha

/-! ### Power (R319, R385, R402) -/

theorem State.removeAll_canonical (s : State) : MemoryCanonical s.removeAll := Memory.wf_nil

theorem execModuleReset_canonical (recovery cd24ok : Bool) (s : State) : KeepsCanonical s (execModuleReset recovery cd24ok s) := by
  intro _
  unfold execModuleReset
  extract_lets c ctl0 ctl bare kept tiled power booted
  have hb : MemoryCanonical booted := by
    unfold booted
    split
    · exact Memory.wf_nil
    · exact canonical_of_mem (s := tiled) Memory.wf_nil (State.bootFirmware_mem ..)
  refine .next ?_
  split
  · exact hb
  · exact canonical_of_mem hb (foldl_mem _ _ _ fun _ _ => State.once_mem ..)

theorem execPowerEnableLow_canonical (micros : Nat) (s : State) : KeepsCanonical s (execPowerEnableLow micros s) := by
  intro h
  unfold execPowerEnableLow
  refine .next ?_
  (repeat' split)
  · exact h
  · exact canonical_of_mem h (by simp)
  · exact State.removeAll_canonical s
  · exact canonical_of_mem h (State.warmRestart_mem ..)
  · exact h

end Sys2Proof.Machine
end

section
/-! SUPPORT. Every event, every slot and every stage of a control cycle keeps device memory in its one form. -/

namespace Sys2Proof.Machine

/-! ### Events and operations -/

/-- The events that store in memory or begin it again have their own lemmas; every other event leaves it alone. -/
theorem Event.run_canonical (e : Event) (s : State) : KeepsCanonical s (e.run s) := by
  cases e
  case homePortAccess => exact fun h => execHomePortAccess_canonical _ _ _ h
  case reductionApply => exact fun h => execReductionApply_canonical _ _ h
  case launchComplete => exact fun h => execLaunchComplete_canonical _ _ _ h
  case jobClearing => exact fun h => execJobClearing_canonical _ _ h
  case apertureWrite => exact fun h => execApertureWrite_canonical _ _ _ _ h
  case powerEnableLow => exact fun h => execPowerEnableLow_canonical _ _ h
  case inputRemoval => exact fun _ => .next (State.removeAll_canonical s)
  case moduleReset => exact fun h => execModuleReset_canonical _ _ _ h
  all_goals exact KeepsMem.canonical (by simp [Event.run])

theorem exec_event_canonical (i : Instr) (s : State) (hi : i.encode = none) : KeepsCanonical s (exec i s) := by
  cases i
  case emptyBundle => unfold exec; exact KeepsMem.canonical (by simp [execEmptyBundle])
  case resultDue t h => exact Event.run_canonical (.resultDue t h) s
  case clkdivApply t => exact Event.run_canonical (.clkdivApply t) s
  case arrayPhaseStart t => exact Event.run_canonical (.arrayPhaseStart t) s
  case mmaeEscalation t => exact Event.run_canonical (.mmaeEscalation t) s
  case arrayOperationDue t => exact Event.run_canonical (.arrayOperationDue t) s
  case matrixCommandCompletion t id => exact Event.run_canonical (.matrixCommandCompletion t id) s
  case copyCommandStart t => exact Event.run_canonical (.copyCommandStart t) s
  case cpytStart t id => exact Event.run_canonical (.cpytStart t id) s
  case copyRowLand rid => exact Event.run_canonical (.copyRowLand rid) s
  case copyCompletion t id => exact Event.run_canonical (.copyCompletion t id) s
  case globalLoadCompletion rid => exact Event.run_canonical (.globalLoadCompletion rid) s
  case globalAckArrival pid => exact Event.run_canonical (.globalAckArrival pid) s
  case globalAccessError rid cause => exact Event.run_canonical (.globalAccessError rid cause) s
  case translationWalk die rid => exact Event.run_canonical (.translationWalk die rid) s
  case homePortAccess rid corrected => exact Event.run_canonical (.homePortAccess rid corrected) s
  case reductionApply pid => exact Event.run_canonical (.reductionApply pid) s
  case packetArrival pid noise => exact Event.run_canonical (.packetArrival pid noise) s
  case mergeEntrySend node e => exact Event.run_canonical (.mergeEntrySend node e) s
  case retransmitTimeout node dest cls => exact Event.run_canonical (.retransmitTimeout node dest cls) s
  case linkLevelRetry edge m lane failed => exact Event.run_canonical (.linkLevelRetry edge m lane failed) s
  case moduleOutOfService edge m => exact Event.run_canonical (.moduleOutOfService edge m) s
  case moduleRetrainEnd edge m ok lanes => exact Event.run_canonical (.moduleRetrainEnd edge m ok lanes) s
  case edgeFailure edge => exact Event.run_canonical (.edgeFailure edge) s
  case nodeReset node enter => exact Event.run_canonical (.nodeReset node enter) s
  case routeTableAdoption node => exact Event.run_canonical (.routeTableAdoption node) s
  case scaleOutRetrain port up => exact Event.run_canonical (.scaleOutRetrain port up) s
  case ptcAlignment node skip => exact Event.run_canonical (.ptcAlignment node skip) s
  case semaphoreUpdate t => exact Event.run_canonical (.semaphoreUpdate t) s
  case barrierUpdate t => exact Event.run_canonical (.barrierUpdate t) s
  case treeArrivalAtRoot job tree t => exact Event.run_canonical (.treeArrivalAtRoot job tree t) s
  case treeMaskAtRoot job tree row k mask => exact Event.run_canonical (.treeMaskAtRoot job tree row k mask) s
  case tgenIncrement job tree die => exact Event.run_canonical (.tgenIncrement job tree die) s
  case nextRotate t h => exact Event.run_canonical (.nextRotate t h) s
  case nextReplyArrival t h => exact Event.run_canonical (.nextReplyArrival t h) s
  case nextRequestService t h => exact Event.run_canonical (.nextRequestService t h) s
  case itemReport rid => exact Event.run_canonical (.itemReport rid) s
  case launchReady job lid => exact Event.run_canonical (.launchReady job lid) s
  case launchSpecRead job lid => exact Event.run_canonical (.launchSpecRead job lid) s
  case unitPlacement job lid => exact Event.run_canonical (.unitPlacement job lid) s
  case unitEnd job uid => exact Event.run_canonical (.unitEnd job uid) s
  case launchComplete job lid => exact Event.run_canonical (.launchComplete job lid) s
  case taskDispatch job lid => exact Event.run_canonical (.taskDispatch job lid) s
  case graphInstanceStart seq => exact Event.run_canonical (.graphInstanceStart seq) s
  case graphInstanceComplete job inst => exact Event.run_canonical (.graphInstanceComplete job inst) s
  case phaseComplete job => exact Event.run_canonical (.phaseComplete job) s
  case jobClearing job => exact Event.run_canonical (.jobClearing job) s
  case jobClearingEnd job => exact Event.run_canonical (.jobClearingEnd job) s
  case checkpointCommit t => exact Event.run_canonical (.checkpointCommit t) s
  case timingReplay t back restarts => exact Event.run_canonical (.timingReplay t back restarts) s
  case kgroupReplay t restarts => exact Event.run_canonical (.kgroupReplay t restarts) s
  case dataErrorRollback t kind => exact Event.run_canonical (.dataErrorRollback t kind) s
  case trapEntry t h => exact Event.run_canonical (.trapEntry t h) s
  case preEmption job => exact Event.run_canonical (.preEmption job) s
  case restore job => exact Event.run_canonical (.restore job) s
  case predictiveLeak node => exact Event.run_canonical (.predictiveLeak node) s
  case chinookWindowEnd t => exact Event.run_canonical (.chinookWindowEnd t) s
  case chinookFlashWrite t => exact Event.run_canonical (.chinookFlashWrite t) s
  case throttleStep region ik i0 => exact Event.run_canonical (.throttleStep region ik i0) s
  case droopAlarm region begun lasts => exact Event.run_canonical (.droopAlarm region begun lasts) s
  case droopStretchRelax region => exact Event.run_canonical (.droopStretchRelax region) s
  case powerCapEvaluation power => exact Event.run_canonical (.powerCapEvaluation power) s
  case pacingEvaluation job slacks => exact Event.run_canonical (.pacingEvaluation job slacks) s
  case temperatureRead die temps => exact Event.run_canonical (.temperatureRead die temps) s
  case inputSag volt => exact Event.run_canonical (.inputSag volt) s
  case sagRecovery volt => exact Event.run_canonical (.sagRecovery volt) s
  case sagTimeout => exact Event.run_canonical (.sagTimeout) s
  case internalBusLow => exact Event.run_canonical (.internalBusLow) s
  case emergencySequence thermal => exact Event.run_canonical (.emergencySequence thermal) s
  case powerEnableLow micros => exact Event.run_canonical (.powerEnableLow micros) s
  case inputRemoval => exact Event.run_canonical (.inputRemoval) s
  case moduleReset recovery cd24ok => exact Event.run_canonical (.moduleReset recovery cd24ok) s
  case flashWrite port off bytes => exact Event.run_canonical (.flashWrite port off bytes) s
  case commandRecordWrite port off size data => exact Event.run_canonical (.commandRecordWrite port off size data) s
  case recordAccept port => exact Event.run_canonical (.recordAccept port) s
  case createJob seq => exact Event.run_canonical (.createJob seq) s
  case loadRange seq => exact Event.run_canonical (.loadRange seq) s
  case loadInval seq => exact Event.run_canonical (.loadInval seq) s
  case loadMethod seq => exact Event.run_canonical (.loadMethod seq) s
  case loadGraph seq => exact Event.run_canonical (.loadGraph seq) s
  case runGraph seq => exact Event.run_canonical (.runGraph seq) s
  case cancelRecord seq => exact Event.run_canonical (.cancelRecord seq) s
  case query seq hostOk => exact Event.run_canonical (.query seq hostOk) s
  case selfTest seq fails => exact Event.run_canonical (.selfTest seq fails) s
  case setPolicyTree seq => exact Event.run_canonical (.setPolicyTree seq) s
  case setPolicyPcap seq => exact Event.run_canonical (.setPolicyPcap seq) s
  case setPolicyCslr seq => exact Event.run_canonical (.setPolicyCslr seq) s
  case setPolicyMarks seq => exact Event.run_canonical (.setPolicyMarks seq) s
  case completionRecord seq => exact Event.run_canonical (.completionRecord seq) s
  case hsemClaim port i p => exact Event.run_canonical (.hsemClaim port i p) s
  case hsemRelease port i => exact Event.run_canonical (.hsemRelease port i) s
  case hostLinkDown port => exact Event.run_canonical (.hostLinkDown port) s
  case apertureRead port off len => exact Event.run_canonical (.apertureRead port off len) s
  case apertureWrite port off bytes => exact Event.run_canonical (.apertureWrite port off bytes) s
  case registerWrite port off value => exact Event.run_canonical (.registerWrite port off value) s
  case acknowledgementDeparture node src cls => exact Event.run_canonical (.acknowledgementDeparture node src cls) s
  all_goals exact absurd hi nofun

/-- Every operation and every event keeps device memory in its one form. -/
theorem exec_canonical (i : Instr) (s : State) : KeepsCanonical s (exec i s) := by
  by_cases h : i.encode = none
  · exact exec_event_canonical i s h
  · exact (exec_slot_mem i s h).canonical

theorem runSlots_canonical (gs : List (SlotClass × Instr)) (s : State) : KeepsCanonical s (runSlots gs s) := by
  intro h
  induction gs generalizing s with
  | nil => exact .next h
  | cons p gs ih => exact Yields.andThen (exec_canonical p.2 _ (canonical_of_mem h (State.atSlot_mem ..))) ih

theorem State.issueBundle_canonical (s : State) (b : Bundle) : KeepsCanonical s (s.issueBundle b) := by
  intro h
  refine Yields.andThen (runSlots_canonical _ _ (canonical_of_mem h (State.beginBundle_mem ..))) fun u hu => ?_
  exact .next (canonical_of_mem hu (State.endBundle_mem ..))

/-! ### The issue stage -/

/-- A stage in progress has its memory in its one form. -/
abbrev StageCanonical (o : Host.Outcome Stage Fault Refusal) : Prop := Yields (fun g => MemoryCanonical g.s) o

theorem primaryTurn_canonical (t h : Nat) (r : Option FetchResult) {s : State} (hs : MemoryCanonical s) : StageCanonical (primaryTurn t h r s) := by
  unfold primaryTurn
  split
  · exact .next hs
  · rename_i pc b link
    have hl : MemoryCanonical (s.look t h pc link) := canonical_of_mem hs (State.look_mem ..)
    dsimp only
    split
    · exact Yields.andThen (State.issueBundle_canonical _ b hl) fun _ hu => .next hu
    · exact .next (canonical_of_mem hl (State.raise_mem ..))
    · exact .next (canonical_of_mem hl (State.holdNow_mem ..))
    · exact .next hl
    · exact .next hl
  · exact .next (canonical_of_mem hs (State.fetchTrap_mem ..))

theorem secondaryTurn_canonical (t h : Nat) (r : FetchResult) {g : Stage} (hg : MemoryCanonical g.s) : StageCanonical (secondaryTurn t h r g) := by
  unfold secondaryTurn
  split
  · rename_i pc b link
    have hl : MemoryCanonical (g.s.look t h pc link) := canonical_of_mem hg (State.look_mem ..)
    dsimp only
    (repeat' split)
    · exact .next (canonical_of_mem hl (State.raise_mem ..))
    · exact .next (canonical_of_mem hl (State.holdNow_mem ..))
    · exact .next hg
    · exact Yields.andThen (State.issueBundle_canonical _ b hl) fun _ hu => .next (canonical_of_mem hu (State.updTile_mem ..))
    · exact .next (canonical_of_mem hl (State.raise_mem ..))
    · exact .next (canonical_of_mem hl (State.holdNow_mem ..))
    · exact .next hg
    · exact .next hg
  · exact .next (canonical_of_mem hg (State.fetchTrap_mem ..))

theorem secondaryTurns_canonical (t : Nat) (cands : List (Nat × FetchResult)) (hs : List Nat) {g : Stage} (hg : MemoryCanonical g.s) :
    StageCanonical (secondaryTurns t cands hs g) := by
  induction hs generalizing g with
  | nil => exact .next hg
  | cons h hs ih =>
    unfold secondaryTurns
    split
    · exact ih hg
    · refine Yields.andThen (secondaryTurn_canonical t h _ hg) fun v hv => ?_
      split
      · exact .next hv
      · exact ih hv

theorem streams_canonical (t : Nat) (cands : List (Nat × FetchResult)) {s : State} (hs : MemoryCanonical s) : StageCanonical (streams t cands s) := by
  unfold streams
  refine Yields.andThen (primaryTurn_canonical _ _ _ hs) fun g hg => ?_
  split
  · exact .next hg
  · exact secondaryTurns_canonical _ _ _ hg

theorem issueStage_canonical (t : Nat) {s : State} (hs : MemoryCanonical s) : StageCanonical (issueStage t s) := by
  have ht : MemoryCanonical (s.tendAll t).1 := canonical_of_mem hs (State.tendAll_mem ..)
  unfold issueStage
  generalize s.tendAll t = p at ht
  obtain ⟨u, cands⟩ := p
  exact streams_canonical t cands (canonical_of_mem ht (State.sampled_mem ..))

/-! ### A control cycle, an event, a step -/

theorem finishCycle_canonical (t : Nat) {s : State} {g : Stage} (hs : MemoryCanonical s) (hg : MemoryCanonical g.s) :
    Yields MemoryCanonical (finishCycle t s g) := by
  unfold finishCycle
  split
  · exact .next (canonical_of_mem hs (State.freezeCycle_mem ..))
  · exact .next (canonical_of_mem hg (State.closeCycle_mem ..))

theorem issueCycle_canonical (t : Nat) (s : State) : KeepsCanonical s (issueCycle t s) := by
  intro hs
  unfold issueCycle
  refine Yields.andThen (issueStage_canonical t hs) fun g hg => ?_
  split
  · have he : MemoryCanonical ((s.endRegion t).arrivals t) := canonical_of_mem hs ((State.arrivals_mem ..).trans (State.endRegion_mem ..))
    dsimp only
    split
    · exact .next he
    · exact Yields.andThen (issueStage_canonical t he) fun v hv => finishCycle_canonical t he hv
  · exact finishCycle_canonical t hs hg

theorem controlCycle_canonical (t : Nat) (s : State) : KeepsCanonical s (controlCycle t s) := by
  intro hs
  unfold controlCycle
  extract_lets u
  have hu : MemoryCanonical u := canonical_of_mem hs (State.openCycle_mem ..)
  split
  · exact .next (canonical_of_mem hu (State.ghostCycle_mem ..))
  · split
    · rename_i v hv
      exact .next (canonical_of_mem hu (State.stalled_mem hv))
    · have hw : MemoryCanonical (u.settle t) := canonical_of_mem hu (State.settle_mem ..)
      split
      · refine Yields.andThen (issueStage_canonical t hw) fun g _ => ?_
        split
        · exact .next (canonical_of_mem hw (State.freezeCycle_mem ..))
        · exact issueCycle_canonical t _ (canonical_of_mem hw (State.thaw_mem ..))
      · exact issueCycle_canonical t _ hw

theorem cycle_canonical (t : Nat) (s : State) : KeepsCanonical s (cycle t s) := by
  intro hs
  unfold cycle
  exact Yields.andThen (controlCycle_canonical t s hs) fun _ hu => .next (canonical_of_mem hu (State.soiled_mem ..))

theorem advance_canonical (s : State) : KeepsCanonical s (advance s) := by
  intro hs
  unfold advance runEvent
  split
  · exact .next hs
  · exact cycle_canonical _ s hs
  · exact Event.run_canonical _ _ hs
  · split
    · exact Event.run_canonical _ _ hs
    · exact cycle_canonical _ s hs

/-- The invariant of O8: a step draws a fresh value, then runs one event or one control cycle. -/
theorem step_canonical (s : State) : KeepsCanonical s (step s) := by
  intro hs
  unfold step
  exact advance_canonical { s with free := s.free + 1 } hs

end Sys2Proof.Machine
end

section
/-! The obligations of the scope: memory's one form and the meaning of events. -/

namespace Sys2Proof.Machine

/-- Settles O7. -/
theorem resetMemoryIsCanonical : Obligations.ResetMemoryIsCanonical := Memory.wf_nil

/-- Settles O8, by the writers of device memory, each of which stores bytes, and the frame of every other function. -/
theorem everyStepKeepsMemoryCanonical : Obligations.EveryStepKeepsMemoryCanonical := by
  intro s t hs ht
  cases ht ▸ step_canonical s hs with
  | next h => exact h

/-- Settles O10, event by event: `Event.run` and `exec` name the same operation. -/
theorem eventsActAsTheirOperations : Obligations.EventsActAsTheirOperations := by
  intro e s
  cases e <;> rfl

end Sys2Proof.Machine
end

section
/-! SUPPORT. Fields of a number and lanes of a row (R36, R95). -/

namespace Sys2Proof.Machine

theorem cut_getElem? (w n v i : Nat) (h : i < n) : (cut w n v)[i]? = some (v / 2 ^ (w * i) % 2 ^ w) := by
  induction n generalizing v i with
  | zero => omega
  | succ n ih =>
    cases i with
    | zero => simp [cut]
    | succ i =>
      rw [cut, List.getElem?_cons_succ, ih _ _ (by omega), Nat.div_div_eq_div_mul, ← pow_add, Nat.mul_succ, Nat.add_comm]

@[simp] theorem cut_length (w n v : Nat) : (cut w n v).length = n := by
  induction n generalizing v with
  | zero => rfl
  | succ n ih => simp [cut, ih]

theorem join_lt (w : Nat) (xs : List Nat) : join w xs < 2 ^ (w * xs.length) := by
  induction xs with
  | nil => simp [join]
  | cons x xs ih =>
    have hx : x % 2 ^ w < 2 ^ w := Nat.mod_lt _ (Nat.two_pow_pos w)
    calc join w (x :: xs) = x % 2 ^ w + 2 ^ w * join w xs := rfl
      _ < 2 ^ w * (join w xs + 1) := by rw [Nat.mul_succ]; omega
      _ ≤ 2 ^ w * 2 ^ (w * xs.length) := Nat.mul_le_mul_left _ ih
      _ = 2 ^ (w * (x :: xs).length) := by rw [← pow_add, List.length_cons, Nat.mul_succ, Nat.add_comm]

theorem join_field (w : Nat) (xs : List Nat) (i : Nat) : join w xs / 2 ^ (w * i) % 2 ^ w = xs.getD i 0 % 2 ^ w := by
  induction xs generalizing i with
  | nil => simp [join]
  | cons x xs ih =>
    have hw : 0 < 2 ^ w := Nat.two_pow_pos w
    rw [join]
    cases i with
    | zero => simp
    | succ i =>
      rw [Nat.mul_succ, Nat.add_comm (w * i), pow_add, ← Nat.div_div_eq_div_mul, Nat.add_mul_div_left _ _ hw,
        Nat.div_eq_of_lt (Nat.mod_lt _ hw), Nat.zero_add, ih, List.getD_cons_succ]

theorem lanes_getElem? {w i : Nat} (v : Row) (h : i < 2048 / w) : (lanes w v)[i]? = some (lane w v i) := cut_getElem? w _ _ i h

@[simp] theorem lanes_length (w : Nat) (v : Row) : (lanes w v).length = 2048 / w := cut_length ..

theorem lane_lt (w : Nat) (v : Row) (i : Nat) : lane w v i < 2 ^ w := Nat.mod_lt _ (Nat.two_pow_pos w)

/-- A lane of a register put together from lanes that fit it. -/
theorem lane_ofLanes {w : Nat} (xs : List Nat) (i : Nat) (h : xs.length = 2048 / w) : lane w (ofLanes w xs) i = xs.getD i 0 % 2 ^ w := by
  have hj : join w xs < 2 ^ 2048 :=
    (join_lt w xs).trans_le (Nat.pow_le_pow_right Nat.two_pos (h ▸ Nat.mul_div_le 2048 w))
  rw [lane, ofLanes, BitVec.toNat_ofNat, Nat.mod_eq_of_lt hj, join_field]

theorem lane_setLane {w i j : Nat} (v : Row) (x : Nat) (hj : j < 2048 / w) :
    lane w (setLane w v i x) j = if j = i then x % 2 ^ w else lane w v j := by
  rw [setLane, lane_ofLanes _ _ (by simp), List.getD_eq_getElem?_getD]
  by_cases h : j = i
  · subst h
    simp [hj]
  · rw [if_neg h, List.getElem?_set_ne (Ne.symm h), lanes_getElem? v hj, Option.getD_some, Nat.mod_eq_of_lt (lane_lt w v j)]

/-- A dword put into a row reads back, and the other 31 read as before (R152). -/
theorem rowWord_setRowWord (r : Row) {w v : Nat} (x : Dword) (hv : v < 32) :
    rowWord (setRowWord r w x) v = if v = w then x else rowWord r v := by
  rw [rowWord, setRowWord, lane_setLane _ _ (by omega)]
  split
  · rw [Nat.mod_eq_of_lt x.isLt, BitVec.ofNat_toNat, BitVec.setWidth_eq]
  · rfl

theorem laneBits_toNat (w : Nat) (v : Row) (k : Nat) : (laneBits w v k).toNat = lane w v k := by
  rw [laneBits, BitVec.extractLsb'_toNat, Nat.shiftRight_eq_div_pow, lane]

/-- A byte of a store under a predicate is the stored one where the predicate selects it, else the old one (R162). -/
theorem laneBits_mergeBytes (p : Pred) (new old : Row) {k : Nat} (hk : k < 256) :
    laneBits 8 (mergeBytes p new old) k = if p.getLsbD k then laneBits 8 new k else laneBits 8 old k := by
  have hm : lane 8 (mergeBytes p new old) k = if p.getLsbD k then lane 8 new k else lane 8 old k := by
    rw [mergeBytes, lane_ofLanes _ _ (by simp), List.getD_eq_getElem?_getD, List.getElem?_map, List.getElem?_zipIdx, List.zip,
      List.getElem?_zipWith, lanes_getElem? new hk, lanes_getElem? old hk]
    simp only [Option.map_some, Option.getD_some, Nat.zero_add]
    split <;> rw [Nat.mod_eq_of_lt (lane_lt 8 _ k)]
  apply BitVec.eq_of_toNat_eq
  rw [laneBits_toNat, hm]
  split <;> rw [laneBits_toNat]

end Sys2Proof.Machine
end

section
/-! SUPPORT. What a write of the acting slot to a scratch row or to its spill store leaves (R152, R156, R160, R329). -/

namespace Sys2Proof.Machine

theorem Tile.ownRow_iff (x : Tile) (n : Nat) : x.ownRow n = true ↔ ∃ old fe, .row (n % 1024) old fe ∈ x.region.undo := by
  rw [Tile.ownRow, List.any_eq_true]
  constructor
  · rintro ⟨u, hu, h⟩
    cases u with
    | row m old fe => exact ⟨old, fe, (beq_iff_eq.mp h) ▸ hu⟩
    | spill hw m old => cases h
  · rintro ⟨old, fe, hu⟩
    exact ⟨_, hu, beq_self_eq_true _⟩

theorem Tile.logRow_undo (x : Tile) (n : Nat) : (x.logRow n).region.undo =
    if (∃ old fe, .row (n % 1024) old fe ∈ x.region.undo) then x.region.undo else x.region.undo ++ [.row (n % 1024) (x.core.row n) (x.core.feBits n)] := by
  rw [Tile.logRow, apply_ite (fun y : Tile => y.region.undo)]
  simp only [Tile.ownRow_iff]

/-- The log of a row changes the undo log alone. -/
theorem Tile.logRow_rest (x : Tile) (n : Nat) : ∃ u, x.logRow n = { x with region := { x.region with undo := u } } := by
  unfold Tile.logRow
  split
  · exact ⟨_, rfl⟩
  · exact ⟨_, rfl⟩

/-- The log of a spill block changes the undo log alone. -/
theorem Tile.logSpill_rest (x : Tile) (h n : Nat) : ∃ u, x.logSpill h n = { x with region := { x.region with undo := u } } := by
  unfold Tile.logSpill
  dsimp only
  split
  · exact ⟨_, rfl⟩
  · exact ⟨_, rfl⟩

theorem State.storeRow_discarded {s : State} (n : Nat) (data : Row) (fe fresh : BitVec 32) (h : s.cur.ldDiscard = true ∧ s.cur.pm = 2) :
    s.storeRow n data fe fresh = s := if_pos h

theorem State.storeRow_written {s : State} (n : Nat) (data : Row) (fe fresh : BitVec 32) (h : ¬(s.cur.ldDiscard = true ∧ s.cur.pm = 2)) :
    RowWritten s (s.storeRow n data fe fresh) n data fe fresh := by
  have hw : s.storeRow n data fe fresh = s.updMe fun t => (t.noteStore s.ids n).writeRow n data fe fresh := if_neg h
  have hu := Tile.logRow_undo (s.me.noteStore s.ids n) n
  obtain ⟨u, hr⟩ := Tile.logRow_rest (s.me.noteStore s.ids n) n
  rw [hr] at hu
  have hm : (s.storeRow n data fe fresh).me = (s.me.noteStore s.ids n).writeRow n data fe fresh := by rw [hw, State.updMe_me]
  rw [Tile.writeRow, hr] at hm
  constructor
  · simp [hm, Core.row, Core.feBits, Core.badBits, Tile.soil, Tile.enter, Tile.noteStore]
  · intro m hne
    simp [hm, Core.row, Core.feBits, Tile.soil, Tile.enter, Tile.noteStore, sget_sput_ne _ _ _ hne]
  · rw [hm]
    exact hu
  · rw [hm]
    rfl
  · intro t ht
    rw [hw]
    exact State.updTile_tile_ne s _ ht
  · rw [hw]
    rfl

end Sys2Proof.Machine
end

section
/-! SUPPORT and O17. The stores of scratch and of the spill store (R160 to R165). -/

namespace Sys2Proof.Machine

theorem State.due_row (s : State) (r : Reg) (v : Row) (dom l n : Nat) : (s.due r v dom l).me.core.row n = s.me.core.row n := by
  simp [State.due, State.dueFlags, State.updSelf_core]

/-- A store, in the state `u` that the slot leaves but for its row: it is discarded (R156) or writes its row. -/
theorem State.storeRow_spec {s u : State} (n : Nat) (data : Row) (fe fresh : BitVec 32) (hc : u.cur = s.cur) :
    (s.cur.ldDiscard = true ∧ s.cur.pm = 2 → u.storeRow n data fe fresh = u) ∧
      (¬(s.cur.ldDiscard = true ∧ s.cur.pm = 2) → RowWritten u (u.storeRow n data fe fresh) n data fe fresh) := by
  rw [← hc]
  exact ⟨State.storeRow_discarded n data fe fresh, State.storeRow_written n data fe fresh⟩

/-- The same of full/empty bits changed without their row's data, after a load of it (R163). -/
theorem storeFe_due_spec (s : State) (r : Reg) (v : Row) (dom l : Nat) (ea : Dword) (fe : BitVec 32) :
    (s.cur.ldDiscard = true ∧ s.cur.pm = 2 → storeFe (s.due r v dom l) ea fe = s.due r v dom l) ∧
      (¬(s.cur.ldDiscard = true ∧ s.cur.pm = 2) →
        RowWritten (s.due r v dom l) (storeFe (s.due r v dom l) ea fe) (rowOf ea) (s.me.core.row (rowOf ea)) fe 0) := by
  rw [storeFe, State.due_row]
  exact State.storeRow_spec _ _ _ _ rfl

theorem State.storeSpill_core (s : State) (n : Nat) (data : Row) :
    (s.storeSpill n data).me.core = s.me.core.updCtx s.cur.hw fun c => { c with spill := sput n data c.spill } := by
  obtain ⟨u, hu⟩ := Tile.logSpill_rest s.me s.cur.hw n
  rw [State.storeSpill, State.updMe_me]
  dsimp only
  rw [hu]
  rfl

/-- A write to a spill block changes it and nothing else that the statement of the spill stores names (R160, R165). -/
theorem State.storeSpill_spec (s : State) (n : Nat) (data : Row) :
    let u := s.storeSpill n data
    sget 0 u.ctx.spill n = data ∧ (∀ m, m ≠ n → sget 0 u.ctx.spill m = sget 0 s.ctx.spill m) ∧ { u.ctx with spill := s.ctx.spill } = s.ctx ∧
      (∀ h, h ≠ s.cur.hw → u.me.core.ctx h = s.me.core.ctx h) ∧ { u.me.core with ctxs := s.me.core.ctxs } = s.me.core ∧
      (∀ m, m ≠ s.cur.tile → u.tile m = s.tile m) ∧ { u with tiles := s.tiles } = s := by
  intro u
  have hk : u.me.core = s.me.core.updCtx s.cur.hw fun c => { c with spill := sput n data c.spill } := State.storeSpill_core s n data
  have hc : u.ctx = { s.ctx with spill := sput n data s.ctx.spill } := by
    have hcur : u.cur = s.cur := rfl
    rw [State.ctx, hk, hcur, Core.updCtx_ctx]
    rfl
  refine ⟨?_, fun m hm => ?_, ?_, fun h hh => ?_, ?_, fun m hm => State.updTile_tile_ne s _ hm, rfl⟩
  · rw [hc, sget_sput, if_pos rfl]
  · rw [hc, sget_sput_ne _ _ _ hm]
  · rw [hc]
  · rw [hk, Core.updCtx_ctx_ne _ _ hh]
  · rw [hk]
    rfl

/-- Settles O17: each store is `State.storeRow` or `State.storeSpill`, whose effects are stated once. -/
theorem storesWriteTheirRowOrSlotAlone : Obligations.StoresWriteTheirRowOrSlotAlone := by
  refine ⟨?_, ?_, fun r w v x _ hv => rowWord_setRowWord r x hv, fun p new old k hk => laneBits_mergeBytes p new old hk⟩
  · intro sp t base off p o s ea er ep w bit row fe old q hq ha
    simp only [List.mem_cons, List.not_mem_nil, or_false] at hq
    rcases hq with rfl | rfl | rfl | rfl | rfl | rfl | rfl | rfl <;> dsimp only at ha ⊢
    · refine ⟨_, exec_of_acts ha (show execStx sp t base off s = _ from rfl), ?_⟩
      exact State.storeRow_spec _ _ _ _ rfl
    · refine ⟨_, exec_of_acts ha (show execStxe sp t base off s = _ from rfl), ?_⟩
      exact State.storeRow_spec _ _ _ _ rfl
    · refine ⟨_, exec_of_acts ha (show execLdxf sp t base off s = _ from rfl), ?_⟩
      exact storeFe_due_spec ..
    · refine ⟨_, exec_of_acts ha (show execStv sp t base off s = _ from rfl), ?_⟩
      exact State.storeRow_spec _ _ _ _ rfl
    · refine ⟨_, exec_of_acts ha (show execStve sp t base off s = _ from rfl), ?_⟩
      exact State.storeRow_spec _ _ _ _ rfl
    · refine ⟨_, exec_of_acts ha (show execLdvf sp t base off s = _ from rfl), ?_⟩
      exact storeFe_due_spec ..
    · refine ⟨_, exec_of_acts ha (show execSetfe sp t base off s = _ from rfl), ?_⟩
      exact State.storeRow_spec _ _ _ _ rfl
    · refine ⟨_, exec_of_acts ha (show execStvp sp t base p o s = _ from rfl), ?_⟩
      exact State.storeRow_spec _ _ _ _ rfl
  · intro sp t k r s q hq ha
    simp only [List.mem_cons, List.not_mem_nil, or_false] at hq
    rcases hq with rfl | rfl <;> dsimp only at ha ⊢
    · refine ⟨_, exec_of_acts ha (show execStsp sp t k s = _ from rfl), ?_⟩
      exact State.storeSpill_spec ..
    · refine ⟨_, exec_of_acts ha (show execStspv sp t r s = _ from rfl), ?_⟩
      exact State.storeSpill_spec ..

end Sys2Proof.Machine
end

section
/-! SUPPORT. System registers (R40, R56, R68, R215, R241, R393, R394). -/

namespace Sys2Proof.Machine

/-! ### Fields of a register -/

theorem fieldOrOne_other {v mask one : Dword} {lo w : Nat} (h : one.extractLsb' lo w = 0) :
    (fieldOrOne v mask one).extractLsb' lo w = v.extractLsb' lo w := by
  unfold fieldOrOne
  split
  · rw [BitVec.extractLsb'_or, h]
    exact BitVec.or_zero
  · rfl

theorem and_eq_zero_iff_field {v mask : Dword} {lo w : Nat} (hm : ∀ i < 64, mask.getLsbD i = decide (lo ≤ i ∧ i < lo + w)) :
    v &&& mask = 0 ↔ v.extractLsb' lo w = 0 := by
  constructor
  · intro h
    ext i hi
    have hb := congrArg (fun x : Dword => x.getLsbD (lo + i)) h
    by_cases hl : lo + i < 64
    · simpa [hm _ hl, hi] using hb
    · simp [BitVec.getLsbD_of_ge v (lo + i) (by omega)]
  · intro h
    ext i hi
    by_cases hf : lo ≤ i ∧ i < lo + w
    · have hb := congrArg (fun x : BitVec w => x.getLsbD (i - lo)) h
      have hw : i - lo < w := by omega
      have hi' : lo + (i - lo) = i := by omega
      simp [hw, hi', BitVec.getLsbD_eq_getElem hi] at hb
      simp [hb]
    · have hb := hm i hi
      rw [decide_eq_false hf, BitVec.getLsbD_eq_getElem hi] at hb
      simp [hb]

theorem fieldOrOne_self {v mask one : Dword} {lo w : Nat} (hm : ∀ i < 64, mask.getLsbD i = decide (lo ≤ i ∧ i < lo + w))
    (h1 : one.extractLsb' lo w = 1) :
    (fieldOrOne v mask one).extractLsb' lo w = if v.extractLsb' lo w = 0 then 1 else v.extractLsb' lo w := by
  unfold fieldOrOne
  by_cases hz : v.extractLsb' lo w = 0
  · rw [if_pos ((and_eq_zero_iff_field hm).mpr hz), if_pos hz, BitVec.extractLsb'_or, hz, h1]
    exact BitVec.zero_or
  · rw [if_neg fun h => hz ((and_eq_zero_iff_field hm).mp h), if_neg hz]

theorem extractLsb'_and_ones {v mask : Dword} {lo w : Nat} (h : mask.extractLsb' lo w = BitVec.allOnes w) :
    (v &&& mask).extractLsb' lo w = v.extractLsb' lo w := by rw [BitVec.extractLsb'_and, h, BitVec.and_allOnes]

theorem extractLsb'_and_zero {v mask : Dword} {lo w : Nat} (h : mask.extractLsb' lo w = 0) : (v &&& mask).extractLsb' lo w = 0 := by
  rw [BitVec.extractLsb'_and, h]
  exact BitVec.and_zero

/-- PCAP as a write leaves it: reserved bits zero, RTGT and each floor at least 1 (R394). -/
theorem pcapStored_fields (v : Dword) :
    ((pcapStored v).extractLsb' 31 17, (pcapStored v).extractLsb' 48 16, (pcapStored v).extractLsb' 28 3) = (v.extractLsb' 31 17, 0, 0) ∧
      (pcapStored v).extractLsb' 16 12 = (if v.extractLsb' 16 12 = 0 then 1 else v.extractLsb' 16 12) ∧
      ∀ j < 4, (pcapStored v).extractLsb' (4 * j) 4 = if v.extractLsb' (4 * j) 4 = 0 then 1 else v.extractLsb' (4 * j) 4 := by
  have reserved {lo w : Nat} (h4 : (0x10000 : Dword).extractLsb' lo w = 0) (h3 : (0x1000 : Dword).extractLsb' lo w = 0)
      (h2 : (0x100 : Dword).extractLsb' lo w = 0) (h1 : (0x10 : Dword).extractLsb' lo w = 0) (h0 : (1 : Dword).extractLsb' lo w = 0) :
      (pcapStored v).extractLsb' lo w = (v &&& 0x0000FFFF8FFFFFFF).extractLsb' lo w := by
    rw [pcapStored, fieldOrOne_other h0, fieldOrOne_other h1, fieldOrOne_other h2, fieldOrOne_other h3, fieldOrOne_other h4]
  refine ⟨?_, ?_, fun j hj => ?_⟩
  · have h31 := reserved (lo := 31) (w := 17) (by decide) (by decide) (by decide) (by decide) (by decide)
    have h48 := reserved (lo := 48) (w := 16) (by decide) (by decide) (by decide) (by decide) (by decide)
    have h28 := reserved (lo := 28) (w := 3) (by decide) (by decide) (by decide) (by decide) (by decide)
    rw [h31, h48, h28, extractLsb'_and_ones (by decide), extractLsb'_and_zero (by decide), extractLsb'_and_zero (by decide)]
  · rw [pcapStored, fieldOrOne_other (by decide), fieldOrOne_other (by decide), fieldOrOne_other (by decide), fieldOrOne_other (by decide),
      fieldOrOne_self (by decide) (by decide), extractLsb'_and_ones (by decide)]
  · rw [pcapStored]
    interval_cases j
    · rw [fieldOrOne_self (by decide) (by decide), fieldOrOne_other (by decide), fieldOrOne_other (by decide), fieldOrOne_other (by decide),
        fieldOrOne_other (by decide), extractLsb'_and_ones (by decide)]
    · rw [fieldOrOne_other (by decide), fieldOrOne_self (by decide) (by decide), fieldOrOne_other (by decide), fieldOrOne_other (by decide),
        fieldOrOne_other (by decide), extractLsb'_and_ones (by decide)]
    · rw [fieldOrOne_other (by decide), fieldOrOne_other (by decide), fieldOrOne_self (by decide) (by decide), fieldOrOne_other (by decide),
        fieldOrOne_other (by decide), extractLsb'_and_ones (by decide)]
    · rw [fieldOrOne_other (by decide), fieldOrOne_other (by decide), fieldOrOne_other (by decide), fieldOrOne_self (by decide) (by decide),
        fieldOrOne_other (by decide), extractLsb'_and_ones (by decide)]

end Sys2Proof.Machine
end

section
/-! SUPPORT and O35. What SRD, CYC and TSR read and what SWR writes (R40, R55, R56, R215). -/

namespace Sys2Proof.Machine

/-! ### Reads -/

theorem State.identity_eq (s : State) : s.identity s.cur.tile = s.me.pair.getD s.cur.tile := by
  unfold State.identity State.me
  cases (s.tile s.cur.tile).pair <;> rfl

theorem truncate_shiftRight_64 (x : BitVec 128) : (x >>> 64).truncate 64 = x.extractLsb' 64 64 := BitVec.eq_of_toNat_eq (by simp)

theorem exec_srd_of_acts {sp : BitVec 3} {d : BitVec 5} {reg : BitVec 12} {s : State} (ha : Acts (.srd sp d reg) s) :
    exec (.srd sp d reg) s = .next (s.dueX d (s.sysReg reg.toNat) 1) := exec_of_acts ha (show execSrd sp d reg s = _ from rfl)

theorem exec_tsr_of_acts {sp : BitVec 3} {d : BitVec 5} {s : State} (ha : Acts (.tsr sp d) s) :
    exec (.tsr sp d) s = .next (let p := s.recall .ptc fun s => (s.ptc (dieOf s.cur.tile), s); p.2.dueX d (BitVec.ofNat 64 p.1) 1) :=
  exec_of_acts ha (show execTsr sp d s = _ from rfl)

/-- What TSR takes: in a rerun the number that the first run took, else the PTC of the tile's die (R215, R333). -/
theorem State.recall_ptc (s : State) :
    ∃ (v : Nat) (u : State), (s.recall .ptc fun s => (s.ptc (dieOf s.cur.tile), s)) = (v, u) ∧ u.ctx = s.ctx ∧ u.me.core = s.me.core ∧
      (s.again .ptc = none → v = s.ptc (dieOf s.cur.tile)) ∧
      ∀ n, s.again .ptc = some n → v = n ∧ u.me.region.reuse = s.me.region.reuse.erase (takeKey .ptc s.cur.hw, n) := by
  unfold State.recall State.again
  dsimp only
  cases s.me.region.reuse.find? fun p => p.1 == takeKey .ptc s.cur.hw || p.1 == goneKey (takeKey .ptc s.cur.hw) with
  | none =>
    refine ⟨_, _, rfl, ?_, ?_, fun _ => rfl, nofun⟩
    · simp [State.ctx]
    · simp
  | some p =>
    obtain ⟨k, m⟩ := p
    dsimp only
    by_cases hk : k = takeKey .ptc s.cur.hw
    · rw [if_pos hk, if_pos hk]
      refine ⟨_, _, rfl, ?_, ?_, (nomatch ·), fun n h => ?_⟩
      · simp [State.ctx]
      · simp
      · cases h
        subst hk
        simp
    · rw [if_neg hk, if_neg hk]
      refine ⟨_, _, rfl, ?_, ?_, fun _ => rfl, nofun⟩
      · simp [State.ctx]
      · simp

/-! ### Writes -/

theorem State.updSelf_onlyContext (s : State) (f : Ctx → Ctx) : OnlyContext s (s.updSelf f) where
  outside := rfl
  others _ hu := State.updTile_tile_ne s _ hu
  tile := by
    rw [State.updSelf_me]
    rfl
  contexts h hh := by rw [State.updSelf_core, Core.updCtx_ctx_ne _ _ hh]

theorem fcrRm_eq (v : Dword) : fcrRm v = v.toNat % 8 := by
  rw [fcrRm, BitVec.extractLsb'_toNat, Nat.shiftRight_zero]

theorem ofNat_mod_eight (v : Dword) : BitVec.ofNat 64 (v.toNat % 8) = v &&& 7 := by
  apply BitVec.eq_of_toNat_eq
  rw [BitVec.toNat_and, BitVec.toNat_ofNat, Nat.mod_eq_of_lt (by omega)]
  exact (Nat.and_two_pow_sub_one_eq_mod v.toNat 3).symm

theorem fcrWrite_eq (old v : Dword) : fcrWrite old v = (v &&& 0x3F00) ||| (if 5 ≤ v.toNat % 8 then old &&& 7 else v &&& 7) := by
  rw [fcrWrite, fcrRm_eq, fcrRm_eq]
  split <;> rw [ofNat_mod_eight]

theorem exec_swr_of_acts {sp : BitVec 3} {a : BitVec 5} {reg : BitVec 12} {s : State} (ha : Acts (.swr sp a reg) s) :
    exec (.swr sp a reg) s = .next (if sysRegShared reg.toNat then (s.sysWrite reg.toNat (s.rx a)).mustCommit s.cur.tile
      else s.sysWrite reg.toNat (s.rx a)) := exec_of_acts ha (show execSwr sp a reg s = _ from rfl)

/-- A write to a register of the acting context changes that context alone. -/
theorem exec_swr_own {sp : BitVec 3} {a : BitVec 5} {reg : BitVec 12} {s : State} {f : Ctx → Ctx} {c : Ctx} (ha : Acts (.swr sp a reg) s)
    (hr : sysRegShared reg.toNat = false) (hw : s.sysWrite reg.toNat (s.rx a) = s.updSelf f) (hf : f s.ctx = c) :
    ∃ u, exec (.swr sp a reg) s = .next u ∧ u.ctx = c ∧ OnlyContext s u := by
  refine ⟨s.updSelf f, ?_, ?_, State.updSelf_onlyContext s f⟩
  · rw [exec_swr_of_acts ha, hr, hw]
    rfl
  · rw [State.updSelf_ctx, hf]

/-- A write to a device register waits for the commit that its bundle makes. -/
theorem exec_swr_device {sp : BitVec 3} {a : BitVec 5} {reg : BitVec 12} {s : State} (ha : Acts (.swr sp a reg) s)
    (hr : sysRegShared reg.toNat = true) (hw : s.sysWrite reg.toNat (s.rx a) = s.defer (.device reg.toNat (s.rx a))) :
    ∃ u, exec (.swr sp a reg) s = .next u ∧ u.ctx = s.ctx ∧
      u.me.region = { s.me.region with commitDue := true, deferred := s.me.region.deferred ++ [.device reg.toNat (s.rx a)] } ∧
      { u with tiles := s.tiles } = s := by
  have hm : ((s.defer (.device reg.toNat (s.rx a))).mustCommit s.cur.tile).me = { s.me with
      region := { s.me.region with commitDue := true, deferred := s.me.region.deferred ++ [.device reg.toNat (s.rx a)] } } := by
    simp [State.mustCommit, State.defer, State.deferAt, State.me]
  refine ⟨(s.defer (.device reg.toNat (s.rx a))).mustCommit s.cur.tile, ?_, ?_, ?_, rfl⟩
  · rw [exec_swr_of_acts ha, hr, hw]
    rfl
  · rw [State.ctx, hm]
    rfl
  · rw [hm]

/-- A region follows its limits by an event to come, which changes no region or tile before it (R391, R393). -/
theorem State.followLimit_kept (r : Nat) (s : State) : (State.followLimit r s).regions = s.regions ∧ (State.followLimit r s).tiles = s.tiles := by
  unfold State.followLimit State.awaitStep
  dsimp only
  (repeat' split) <;> exact ⟨rfl, rfl⟩

/-- CSLR is written by the next throttle step (R393). -/
theorem State.writeDevice_cslr (s : State) (t : Nat) (v : Dword) :
    sget PowerRegion.reset (s.writeDevice t 0x081 v).regions (regionOf t) = { sget PowerRegion.reset s.regions (regionOf t) with cslrNext := some v } ∧
      (s.writeDevice t 0x081 v).tiles = s.tiles ∧ (s.writeDevice t 0x081 v).mem = s.mem := by
  have hk := State.followLimit_kept (regionOf t)
    { s with regions := sput (regionOf t) { sget PowerRegion.reset s.regions (regionOf t) with cslrNext := some v } s.regions }
  rw [State.writeDevice, if_pos rfl, State.scheduleCslr, hk.1, hk.2, State.followLimit_mem]
  exact ⟨sget_sput_same .., rfl, rfl⟩

/-- Settles O35, register by register: `State.sysReg` and `State.sysWrite` take the number of each to what the table names. -/
theorem systemRegistersReadAndTakeTheirBits : Obligations.SystemRegistersReadAndTakeTheirBits := by
  refine ⟨fun sp d s => ?_, fun sp a s => ?_⟩
  · intro c k w m
    refine ⟨?_, fun ha => ?_, fun ha => ?_, fun ha => ?_⟩
    · intro r hr ha
      rw [exec_srd_of_acts ha]
      suffices h : s.sysReg r.1.toNat = r.2 by rw [h]
      clear ha
      revert r
      simp only [List.forall_mem_cons]
      refine ⟨rfl, rfl, rfl, rfl, rfl, rfl, rfl, rfl, rfl, rfl, rfl, rfl, rfl, rfl, rfl, rfl, rfl, rfl, rfl, rfl, rfl, ?_, rfl, rfl, rfl, rfl, rfl, rfl,
        rfl, rfl, rfl, rfl, rfl, rfl, rfl, rfl, ?_, rfl, rfl, rfl, rfl, List.forall_mem_nil _⟩
      · exact congrArg natWord (State.identity_eq s)
      · exact truncate_shiftRight_64 m.tb
    · exact exec_of_acts ha (show execCyc sp d 0 s = _ from rfl)
    · exact exec_of_acts ha (show execCyc sp d 1 s = _ from rfl)
    · obtain ⟨v, u, hu, h⟩ := s.recall_ptc
      refine ⟨v, u, ?_, h⟩
      rw [exec_tsr_of_acts ha, hu]
  · intro c v g
    refine ⟨?_, ?_, ?_, ?_, ?_, ?_⟩
    · simp only [List.forall_mem_cons]
      refine ⟨?_, ?_, ?_, ?_, ?_, ?_, ?_, ?_, ?_, ?_, ?_, List.forall_mem_nil _⟩
      · exact fun ha => exec_swr_own (f := fun c => { c with epc := v }) ha rfl rfl rfl
      · exact fun ha => exec_swr_own (f := fun c => { c with lc0 := v }) ha rfl rfl rfl
      · exact fun ha => exec_swr_own (f := fun c => { c with lc1 := v }) ha rfl rfl rfl
      · exact fun ha => exec_swr_own (f := fun c => { c with dc := v.truncate 13 }) ha rfl rfl rfl
      · exact fun ha => exec_swr_own (f := fun c => { c with fcr := fcrWrite c.fcr v }) ha rfl rfl (by rw [fcrWrite_eq])
      · exact fun ha => exec_swr_own (f := fun c => { c with lfsr := if v.truncate 32 = (0 : BitVec 32) then 1 else v.truncate 32 }) ha rfl rfl rfl
      · exact fun ha => exec_swr_own (f := fun c => { c with sp := v.truncate 8 ||| 1 }) ha rfl rfl rfl
      · exact fun ha => exec_swr_own (f := fun c => { c with nqw := c.nqw ++ [(0, nqStored v)] }) ha rfl rfl rfl
      · exact fun ha => exec_swr_own (f := fun c => { c with nqw := c.nqw ++ [(1, nqStored v)] }) ha rfl rfl rfl
      · exact fun ha => exec_swr_own (f := fun c => { c with nqw := c.nqw ++ [(2, nqStored v)] }) ha rfl rfl rfl
      · exact fun ha => exec_swr_own (f := fun c => { c with nqw := c.nqw ++ [(3, nqStored v)] }) ha rfl rfl rfl
    · simp only [List.forall_mem_cons]
      refine ⟨?_, ?_, ?_, ?_, ?_, ?_, ?_, ?_, ?_, ?_, ?_, ?_, ?_, List.forall_mem_nil _⟩
      all_goals exact fun ha => exec_swr_of_acts ha
    · simp only [List.forall_mem_cons]
      refine ⟨?_, ?_, ?_, ?_, ?_, ?_, ?_, ?_, ?_, ?_, ?_, ?_, ?_, ?_, ?_, List.forall_mem_nil _⟩
      all_goals exact fun ha => exec_swr_of_acts ha
    · simp only [List.forall_mem_cons]
      exact ⟨fun ha => exec_swr_device ha rfl rfl, fun ha => exec_swr_device ha rfl rfl, List.forall_mem_nil _⟩
    · exact ⟨_, rfl, State.writeDevice_cslr ..⟩
    · exact ⟨_, rfl, rfl, pcapStored_fields v⟩

end Sys2Proof.Machine
end

section
/-! SUPPORT. Ports, the journal, the bytes of a record and the flash: what the updates that the hosts cause give and leave (R310, R314, R317, R405). -/

namespace Sys2Proof.Machine

/-! ### Tables and bytes -/

@[simp] theorem sfind_sput_same {α : Type} (a : Nat) (x : α) (m : Sparse α) : sfind (sput a x m) a = some x := by
  induction m with
  | nil => simp [sput, sfind]
  | cons p r ih =>
    obtain ⟨k, v⟩ := p
    simp only [sput]
    split
    · simp [sfind]
    · split
      · simp [sfind]
      · simp [sfind, *]

@[simp] theorem natBytes_length (n v : Nat) : (natBytes n v).length = n := by
  induction n generalizing v with
  | zero => rfl
  | succ n ih => simp [natBytes, ih]

theorem leNat_natBytes (n v : Nat) : leNat (natBytes n v) = v % 256 ^ n := by
  induction n generalizing v with
  | zero => simp [natBytes, leNat, Nat.mod_one]
  | succ n ih =>
    rw [natBytes, leNat, ih, BitVec.toNat_ofNat, @Nat.pow_succ' 256, Nat.mod_mul]

/-- The dwords of a block of bytes read back, one after another. -/
theorem leNat_dword (ws : List Nat) (i : Nat) : leNat (((ws.flatMap (natBytes 8)).drop (8 * i)).take 8) = ws.getD i 0 % 2 ^ 64 := by
  induction ws generalizing i with
  | nil => simp [leNat]
  | cons w ws ih =>
    rw [List.flatMap_cons]
    cases i with
    | zero => simp [leNat_natBytes]
    | succ i =>
      have hd : (natBytes 8 w ++ ws.flatMap (natBytes 8)).drop (8 * (i + 1)) = (ws.flatMap (natBytes 8)).drop (8 * i) := by
        rw [List.drop_append, List.drop_of_length_le (by simp), natBytes_length, List.nil_append, Nat.mul_succ, Nat.add_sub_cancel]
      rw [hd, ih, List.getD_cons_succ]

/-- Four dwords laid out as bytes. -/
theorem leNat_fourDwords (a b c d : Nat) : let bytes := [a, b, c, d].flatMap (natBytes 8)
    bytes.length = 32 ∧ leNat (bytes.take 8) = a % 2 ^ 64 ∧ leNat ((bytes.drop 8).take 8) = b % 2 ^ 64 ∧
      leNat ((bytes.drop 16).take 8) = c % 2 ^ 64 ∧ leNat ((bytes.drop 24).take 8) = d % 2 ^ 64 :=
  ⟨by simp, leNat_dword [a, b, c, d] 0, leNat_dword [a, b, c, d] 1, leNat_dword [a, b, c, d] 2, leNat_dword [a, b, c, d] 3⟩

/-! ### Ports and what is sent to them -/

@[simp] theorem State.emit_out (s : State) (o : HostOut) : (s.emit o).ctl.out = s.ctl.out ++ [o] := rfl
@[simp] theorem State.emit_port (s : State) (o : HostOut) (p : Nat) : (s.emit o).port p = s.port p := rfl
@[simp] theorem State.updPort_out (s : State) (p : Nat) (f : Port → Port) : (s.updPort p f).ctl.out = s.ctl.out := rfl
@[simp] theorem State.after_port (s : State) (n : Nat) (e : Event) (p : Nat) : (s.after n e).port p = s.port p := rfl

theorem State.mem_after {s : State} {n : Nat} {e : Event} {p : Nat × Event} :
    p ∈ (s.after n e).agenda ↔ p = (s.time + 2 * n, e) ∨ p ∈ s.agenda := mem_insertEvent

@[simp] theorem State.signal_tiles (s : State) (p v : Nat) : (s.signal p v).tiles = s.tiles := by
  unfold State.signal
  split <;> rfl

@[simp] theorem State.signal_k (s : State) (p v : Nat) : ((s.signal p v).port p).k = (s.port p).k := by
  unfold State.signal
  split <;> simp

theorem State.signal_unmasked {s : State} {p v : Nat} (h : (s.port p).masked v = false) : s.signal p v = s.emit (.signal p v) :=
  if_neg (by simp [h])

/-! ### The journal -/

/-- A journal entry whose record has not ended takes a state and a status. -/
theorem State.setJournal_journal {s : State} {seq : Nat} {e : Journal} (state : Nat) (status : Dword) (h : sfind s.ctl.journal seq = some e)
    (ho : e.state < 3) :
    sfind (s.setJournal seq state status).ctl.journal seq = some { e with state := state, status := status, last := s.journalPtc } := by
  have hn : ¬3 ≤ e.state := by omega
  unfold State.setJournal
  simp only [h, hn, if_false]
  (repeat' split) <;> simp

/-- A change of a journal entry reaches the journal, the records and the agenda alone. -/
theorem State.setJournal_kept (s : State) (seq state : Nat) (status : Dword) :
    (s.setJournal seq state status).tiles = s.tiles ∧ (s.setJournal seq state status).ctl.ports = s.ctl.ports ∧
      (s.setJournal seq state status).ctl.jnext = s.ctl.jnext := by
  unfold State.setJournal
  dsimp only
  (repeat' split) <;> exact ⟨rfl, rfl, rfl⟩

/-! ### The flash -/

/-- A byte programmed in slot A reads back, and slot B stays. -/
theorem Control.program_slotA (c : Control) {off : Nat} (b : Byte) (h : off < 0x4000000) :
    flashByte (c.program off b).flashA off = b ∧ (c.program off b).flashB = c.flashB := by
  have hs : off < slotSize := h
  simp only [Control.program, hs, if_true, Nat.mod_eq_of_lt hs]
  refine ⟨sget_sput_same .., ?_⟩
  split <;> rfl

/-- A byte programmed in slot B reads back, and slot A stays. -/
theorem Control.program_slotB (c : Control) {off : Nat} (b : Byte) (h : 0x4000000 ≤ off) (hb : off < 0x8000000) :
    flashByte (c.program off b).flashB (off - 0x4000000) = b ∧ (c.program off b).flashA = c.flashA := by
  have hs : ¬off < slotSize := Nat.not_lt.2 h
  have hm : off % slotSize = off - 0x4000000 := by unfold slotSize; omega
  simp only [Control.program, hs, if_false, hm]
  refine ⟨sget_sput_same .., ?_⟩
  split <;> rfl

end Sys2Proof.Machine
end

section
/-! SUPPORT and O56. Command records from the port to their completion, and the flash (R18, R310, R311, R314, R317, R405). -/

namespace Sys2Proof.Machine

/-! ### A record written by a host -/

/-- A record of 64 aligned bytes takes an intake place where one is free (R310). -/
theorem execCommandRecordWrite_taken {port off : Nat} {s : State} (data : BitVec 512) (hp : port < 2) (ho : off < 0x4000) (ha : off % 64 = 0)
    (hc : s.credit port ≠ 0) (hr : s.power.computeRails = true) :
    execCommandRecordWrite port off 64 data s = .next
      ((s.updPort port fun p => { p with intake := p.intake ++ [(List.range 8).map fun i => data.extractLsb' (64 * i) 64] }).after
        (s.freeTime siteRecord) (.recordAccept port)) := by
  rw [execCommandRecordWrite, if_neg (by omega), if_neg (by simp [ha, hc, hr])]

/-- Any other is dropped and counted (R311, R401). -/
theorem execCommandRecordWrite_dropped {port off size : Nat} {s : State} (data : BitVec 512) (hp : port < 2) (ho : off < 0x4000)
    (h : size ≠ 64 ∨ off % 64 ≠ 0 ∨ s.credit port = 0 ∨ ¬s.power.computeRails = true) :
    execCommandRecordWrite port off size data s = .next (s.dropRecord port) := by
  rw [execCommandRecordWrite, if_neg (by omega), if_pos h]

/-- What a host's write of a record leaves, taken or dropped. -/
theorem exec_commandRecordWrite_spec {port off : Nat} (size : Nat) (data : BitVec 512) (s : State) (hp : port < 2) (ho : off < 0x4000) :
    ∃ u, exec (.commandRecordWrite port off size data) s = .next u ∧ u.tiles = s.tiles ∧ u.mem = s.mem ∧
      (size = 64 → off % 64 = 0 → s.credit port ≠ 0 → s.power.computeRails = true →
        u.port port = { s.port port with intake := (s.port port).intake ++ [(List.range 8).map fun i => data.extractLsb' (64 * i) 64] } ∧
          Planned u (.recordAccept port)) ∧
      (size ≠ 64 ∨ off % 64 ≠ 0 ∨ s.credit port = 0 → u.port port = { s.port port with drops := (s.port port).drops + 1 }) := by
  by_cases h : size ≠ 64 ∨ off % 64 ≠ 0 ∨ s.credit port = 0 ∨ ¬s.power.computeRails = true
  case pos =>
    refine ⟨_, execCommandRecordWrite_dropped data hp ho h, rfl, rfl, fun hs ha hc hr => ?_, fun _ => State.updPort_port ..⟩
    simp [hs, ha, hc, hr] at h
  case neg =>
    push Not at h
    obtain ⟨rfl, ha, hc, hr⟩ := h
    refine ⟨_, execCommandRecordWrite_taken data hp ho ha hc hr, rfl, rfl, fun _ _ _ _ => ⟨?_, _, State.mem_after.2 (.inl rfl)⟩, fun hn => ?_⟩
    · rw [State.after_port, State.updPort_port]
    · simp [ha, hc] at hn

/-! ### A record accepted -/

/-- The oldest record of a port accepted: it leaves the intake, gets the next number, and has a journal entry (R317). -/
def State.numberRecord (s : State) (port : Nat) (d : List Dword) (rest : List (List Dword)) : State :=
  let v := s.updPort port fun p => { p with intake := rest }
  let w := v.journal (recordJob d) port (recordSub d) (recordType d) 1 (d.getD 1 0) 0 v.journalPtc
  { w with ctl := { w.ctl with records := sput s.ctl.jnext d w.ctl.records } }

/-- The journal entry that it has. -/
def State.recordEntry (s : State) (port : Nat) (d : List Dword) : Journal :=
  ⟨s.ctl.jnext, recordJob d, 1, port, recordSub d, recordType d, d.getD 1 0, s.journalPtc, s.journalPtc, 0⟩

/-- A record of a known type and subtype is carried out by its event. -/
theorem execRecordAccept_carried {port : Nat} {s : State} {d : List Dword} {rest : List (List Dword)} {v : Event}
    (hi : (s.port port).intake = d :: rest) (ha : s.admits = true) (hv : recordEvent s.ctl.jnext d = some v) :
    execRecordAccept port s = .next ((s.numberRecord port d rest).after 0 v) := by
  simp only [execRecordAccept, hi, ha, hv]
  rfl

/-- Any other fails with code 1 (R316). -/
theorem execRecordAccept_unknown {port : Nat} {s : State} {d : List Dword} {rest : List (List Dword)}
    (hi : (s.port port).intake = d :: rest) (ha : s.admits = true) (hv : recordEvent s.ctl.jnext d = none) :
    execRecordAccept port s = .next ((s.numberRecord port d rest).failRecord s.ctl.jnext 1) := by
  simp only [execRecordAccept, hi, ha, hv]
  rfl

theorem State.numberRecord_intake (s : State) (port : Nat) (d : List Dword) (rest : List (List Dword)) :
    ((s.numberRecord port d rest).port port).intake = rest :=
  congrArg Port.intake (State.updPort_port s port fun p => { p with intake := rest })

theorem State.numberRecord_journal (s : State) (port : Nat) (d : List Dword) (rest : List (List Dword)) :
    sfind (s.numberRecord port d rest).ctl.journal s.ctl.jnext = some (s.recordEntry port d) := sfind_sput_same ..

theorem State.numberRecord_records (s : State) (port : Nat) (d : List Dword) (rest : List (List Dword)) :
    sfind (s.numberRecord port d rest).ctl.records s.ctl.jnext = some d := sfind_sput_same ..

/-- What the acceptance of a record leaves, whether an event carries it out or it fails at once. -/
theorem exec_recordAccept_spec {port : Nat} {s : State} {d : List Dword} {rest : List (List Dword)} (hi : (s.port port).intake = d :: rest)
    (ha : s.admits = true) : ∃ u e, exec (.recordAccept port) s = .next u ∧
      u.tiles = s.tiles ∧ u.mem = s.mem ∧ (u.port port).intake = rest ∧ u.ctl.jnext = s.ctl.jnext + 1 ∧ sfind u.ctl.journal s.ctl.jnext = some e ∧
      e.seq = s.ctl.jnext ∧ e.port = port ∧ e.type = recordType d ∧ e.sub = recordSub d ∧ e.job = recordJob d ∧ e.tag = d.getD 1 0 ∧
      (∀ v, recordEvent s.ctl.jnext d = some v → e.state = 1 ∧ Due s u 0 v ∧ sfind u.ctl.records s.ctl.jnext = some d) ∧
      (recordEvent s.ctl.jnext d = none → e.state = 4 ∧ e.status = 1) := by
  have hj := s.numberRecord_journal port d rest
  cases hv : recordEvent s.ctl.jnext d with
  | some v =>
    refine ⟨_, s.recordEntry port d, execRecordAccept_carried hi ha hv, rfl, rfl, s.numberRecord_intake port d rest, rfl, hj,
      rfl, rfl, rfl, rfl, rfl, rfl, ?_, fun h => nomatch h⟩
    rintro _ ⟨⟩
    exact ⟨rfl, State.mem_after.2 (.inl rfl), s.numberRecord_records port d rest⟩
  | none =>
    obtain ⟨htiles, hports, hjnext⟩ := State.setJournal_kept (s.numberRecord port d rest) s.ctl.jnext 4 (BitVec.ofNat 64 1)
    have hintake := s.numberRecord_intake port d rest
    rw [State.port, ← hports] at hintake
    exact ⟨_, _, execRecordAccept_unknown hi ha hv, htiles, State.failRecord_mem .., hintake, hjnext, State.setJournal_journal 4 1 hj (by decide : 1 < 3),
      rfl, rfl, rfl, rfl, rfl, rfl, fun v h => (Option.some_ne_none v h.symm).elim, fun _ => ⟨rfl, rfl⟩⟩

/-! ### A record that has ended -/

/-- The bytes of a completion record: number, tag, status, phase and state (R314). -/
def completionBytes (e : Journal) (q : Port) : List Byte :=
  [e.seq, e.tag.toNat, e.status.toNat, (1 - q.k / 2 ^ q.cmpcfg % 2) * 2 ^ 63 + e.state * 2 ^ 24].flatMap (natBytes 8)

theorem completionBytes_fields (e : Journal) (q : Port) : let bytes := completionBytes e q
    bytes.length = 32 ∧ leNat (bytes.take 8) = e.seq % 2 ^ 64 ∧ leNat ((bytes.drop 8).take 8) = e.tag.toNat ∧
      leNat ((bytes.drop 16).take 8) = e.status.toNat ∧
      leNat ((bytes.drop 24).take 8) = ((1 - q.k / 2 ^ q.cmpcfg % 2) * 2 ^ 63 + e.state * 2 ^ 24) % 2 ^ 64 := by
  have h := leNat_fourDwords e.seq e.tag.toNat e.status.toNat ((1 - q.k / 2 ^ q.cmpcfg % 2) * 2 ^ 63 + e.state * 2 ^ 24)
  rw [Nat.mod_eq_of_lt e.tag.isLt, Nat.mod_eq_of_lt e.status.isLt] at h
  exact h

/-- A completion record written into the host's completion area, with its signal (R314). -/
def State.complete (s : State) (e : Journal) : State :=
  let q := s.port e.port
  ((s.emit (.write e.port (q.cmpbase + BitVec.ofNat 64 (32 * (q.k % 2 ^ q.cmpcfg))) (completionBytes e q))).updPort e.port
    fun p => { p with k := p.k + 1 }).signal e.port 0

theorem execCompletionRecord_ended {seq : Nat} {s : State} {e : Journal} (hj : sfind s.ctl.journal seq = some e) (he : 3 ≤ e.state)
    (hp : e.port < 2) : ∃ u, execCompletionRecord seq s = .next u ∧ u.tiles = (s.complete e).tiles ∧ u.mem = (s.complete e).mem ∧
      u.ctl.ports = (s.complete e).ctl.ports ∧ u.ctl.out = (s.complete e).ctl.out := by
  rw [execCompletionRecord]
  simp only [hj, show ¬(e.state < 3 ∨ 2 ≤ e.port) by omega, if_false]
  refine ⟨_, rfl, ?_⟩
  split <;> exact ⟨rfl, rfl, rfl, rfl⟩

theorem State.complete_tiles (s : State) (e : Journal) : (s.complete e).tiles = s.tiles := State.signal_tiles ..
theorem State.complete_mem (s : State) (e : Journal) : (s.complete e).mem = s.mem := State.signal_mem ..

theorem State.complete_k (s : State) (e : Journal) : ((s.complete e).port e.port).k = (s.port e.port).k + 1 := by
  rw [State.complete, State.signal_k]
  exact congrArg Port.k (State.updPort_port ..)

theorem State.complete_out {s : State} {e : Journal} (h : (s.port e.port).masked 0 = false) :
    let q := s.port e.port
    (s.complete e).ctl.out = s.ctl.out ++ [.write e.port (q.cmpbase + BitVec.ofNat 64 (32 * (q.k % 2 ^ q.cmpcfg)))
      (completionBytes e q), .signal e.port 0] := by
  intro q
  rw [State.complete, State.signal_unmasked (by rw [State.updPort_port, State.emit_port]; exact h)]
  simp [q]

/-- What the completion of a record that has ended leaves: its four dwords in the host's memory, and vector 0 (R314). -/
theorem exec_completionRecord_spec {seq : Nat} {s : State} {e : Journal} (hj : sfind s.ctl.journal seq = some e) (he : 3 ≤ e.state)
    (hp : e.port < 2) : ∃ u bytes, exec (.completionRecord seq) s = .next u ∧ u.tiles = s.tiles ∧
      u.mem = s.mem ∧ (u.port e.port).k = (s.port e.port).k + 1 ∧ bytes.length = 32 ∧
      let q := s.port e.port
      leNat (bytes.take 8) = e.seq % 2 ^ 64 ∧ leNat ((bytes.drop 8).take 8) = e.tag.toNat ∧ leNat ((bytes.drop 16).take 8) = e.status.toNat ∧
      leNat ((bytes.drop 24).take 8) = ((1 - q.k / 2 ^ q.cmpcfg % 2) * 2 ^ 63 + e.state * 2 ^ 24) % 2 ^ 64 ∧
      (q.masked 0 = false → u.ctl.out = s.ctl.out ++ [.write e.port (q.cmpbase + BitVec.ofNat 64 (32 * (q.k % 2 ^ q.cmpcfg))) bytes, .signal e.port 0]) := by
  obtain ⟨u, hx, htiles, hmem, hports, hout⟩ := execCompletionRecord_ended hj he hp
  have hk : (u.port e.port).k = (s.port e.port).k + 1 := by
    rw [State.port, hports]
    exact s.complete_k e
  obtain ⟨hlen, hseq, htag, hstatus, hphase⟩ := completionBytes_fields e (s.port e.port)
  exact ⟨u, _, hx, htiles.trans (s.complete_tiles e), hmem.trans (s.complete_mem e), hk, hlen, hseq, htag, hstatus, hphase,
    fun h => hout.trans (State.complete_out h)⟩

/-! ### The flash -/

/-- In the recovery mode a byte within the flash is programmed (R405). -/
theorem exec_flashWrite_byte {s : State} {off : Nat} (port : Nat) (b : Byte) (hm : s.power.mstate = 1) (ho : off < 0x8000000) :
    exec (.flashWrite port off [b]) s = .next { s with ctl := s.ctl.program off b } := by
  have hs : ¬2 * slotSize < off + 1 := by unfold slotSize; omega
  show execFlashWrite port off [b] s = _
  simp [execFlashWrite, hm, hs]

/-! ### The obligation -/

/-- Settles O56, event by event: the write of a record, its acceptance, its completion, and a byte of the flash. -/
theorem recordsAreTakenAndJournalled : Obligations.RecordsAreTakenAndJournalled := by
  intro port off size seq data b s p
  refine ⟨exec_commandRecordWrite_spec size data s, ?_, fun e => exec_completionRecord_spec, ?_, ?_⟩
  · intro d rest hi hr hm hl
    exact exec_recordAccept_spec hi (by simp [State.admits, hr, hm, hl])
  · intro hm ho
    exact ⟨_, exec_flashWrite_byte port b hm ho, rfl, rfl, Control.program_slotA s.ctl b, fun h => Control.program_slotB s.ctl b h ho⟩
  · intro hm
    exact congrArg _ (if_pos hm)

end Sys2Proof.Machine
end

section
/-! SUPPORT. Hardware semaphores, the aperture in the physical mode, and registers: what a host's accesses give and leave (R310, R312, R313). -/

namespace Sys2Proof.Machine

/-! ### Hardware semaphores (R312) -/

/-- Two states agree in everything but the hardware semaphores. -/
def OnlyHsems (s u : State) : Prop := { u with ctl := { u.ctl with hsems := s.ctl.hsems } } = s

theorem OnlyHsems.trans {s t u : State} (h : OnlyHsems s t) (g : OnlyHsems t u) : OnlyHsems s u := by
  unfold OnlyHsems at *
  rw [← h, ← g]

theorem State.claimHsem_onlyHsems (s : State) (port i p : Nat) : OnlyHsems s (s.claimHsem port i p) := by
  unfold State.claimHsem
  split <;> rfl

theorem State.releaseHsem_onlyHsems (s : State) (port i : Nat) : OnlyHsems s (s.releaseHsem port i) := by
  unfold State.releaseHsem
  split <;> rfl

/-- A claim takes a free semaphore for the port that writes its own number. -/
theorem State.claimHsem_hsem (s : State) (port i p k : Nat) : (s.claimHsem port i p).hsem k =
    if k = i ∧ i < 16 ∧ p = port ∧ (s.hsem i).held = false then ⟨true, port⟩ else s.hsem k := by
  unfold State.claimHsem
  split
  case isTrue h =>
    obtain ⟨hp, hi, hh⟩ := h
    rw [if_congr (and_iff_left ⟨hi, hp, Bool.eq_false_iff.2 hh⟩) rfl rfl]
    exact sget_sput ..
  case isFalse h =>
    rw [if_neg fun ⟨_, hi, hp, hh⟩ => h ⟨hp, hi, by simp [hh]⟩]

/-- A release frees a semaphore that the port holds. -/
theorem State.releaseHsem_hsem (s : State) (port i k : Nat) : (s.releaseHsem port i).hsem k =
    if k = i ∧ i < 16 ∧ (s.hsem i).held = true ∧ (s.hsem i).owner = port then ⟨false, 0⟩ else s.hsem k := by
  unfold State.releaseHsem
  split
  case isTrue h =>
    rw [if_congr (and_iff_left h) rfl rfl]
    exact sget_sput ..
  case isFalse h =>
    rw [if_neg fun g => h g.2]

/-- The semaphores of a list released one after another. -/
theorem foldl_releaseHsem (port : Nat) (l : List Nat) (s : State) :
    OnlyHsems s (l.foldl (fun s i => s.releaseHsem port i) s) ∧ ∀ k, (l.foldl (fun s i => s.releaseHsem port i) s).hsem k =
      if k ∈ l ∧ k < 16 ∧ (s.hsem k).held = true ∧ (s.hsem k).owner = port then ⟨false, 0⟩ else s.hsem k := by
  induction l generalizing s with
  | nil => exact ⟨rfl, fun k => by simp⟩
  | cons a l ih =>
    obtain ⟨hsame, hk⟩ := ih (s.releaseHsem port a)
    refine ⟨(s.releaseHsem_onlyHsems port a).trans hsame, fun k => ?_⟩
    rw [List.foldl_cons, hk, State.releaseHsem_hsem]
    by_cases h : k = a
    · subst h
      by_cases g : k < 16 ∧ (s.hsem k).held = true ∧ (s.hsem k).owner = port <;> simp [g]
    · simp [h]

/-! ### Predictive failures tell the hosts alone (R343) -/

@[simp] theorem State.signalBoth_tiles (s : State) (v : Nat) : (s.signalBoth v).tiles = s.tiles := by simp [State.signalBoth]

@[simp] theorem State.setLevel_tiles (s : State) (kind source level : Nat) : (s.setLevel kind source level).tiles = s.tiles := by
  unfold State.setLevel
  dsimp only
  split
  · exact State.signalBoth_tiles ..
  · rfl

@[simp] theorem State.readStack_tiles (s : State) (pa : Nat) : (s.readStack pa).tiles = s.tiles := by
  unfold State.readStack
  split
  · exact State.setLevel_tiles ..
  · rfl

/-! ### The aperture in the physical mode (R313) -/

/-- An access within one page is one piece. -/
theorem apertureParts_page {a len : Nat} (fuel : Nat) (h0 : 0 < len) (hp : a % 4096 + len ≤ 4096) :
    apertureParts (fuel + 2) a len = [(a, len)] := by
  have hm : min len (4096 - a % 4096) = len := by omega
  have hn : len ≠ 0 := by omega
  simp [apertureParts, hm, hn]

/-- In the physical mode a port reaches an address of job memory as the fabric lets it. -/
theorem State.aperturePa_physical {s : State} {port a : Nat} (write : Bool) (hm : (s.port port).apctl.toNat % 4 = 2) (ha : a < 2 ^ 42)
    (hl : paLocal a < Config.jobMemEnd) : s.aperturePa port write a = (s.reached port a, false) := by
  have hb : bitsOf (s.port port).apctl.toNat 0 2 = 2 := by simpa [bitsOf] using hm
  have he : Config.jobMemEnd ≤ Config.stackEnd := by decide
  have hn : ¬(2 ^ 42 ≤ a ∨ Config.stackEnd ≤ paLocal a ∨ write = true ∧ Config.jobMemEnd ≤ paLocal a) := by omega
  simp only [State.aperturePa, hb, if_true, if_neg hn]

/-- An aperture access in the physical mode that lies within one page of job memory, at the address `a`. -/
structure PhysicalPage (s : State) (port off len a : Nat) : Prop where
  rails : s.power.computeRails = true
  mode : (s.port port).apctl.toNat % 4 = 2
  nonempty : 0 < len
  page : a % 4096 + len ≤ 4096
  space : a < 2 ^ 42
  window : off + len ≤ 2 ^ 36
  memory : paLocal a < Config.jobMemEnd
  addr : a = ((s.port port).apbase.toNat + off) % 2 ^ 64

/-- Such an access is one piece, where the port reaches it. -/
theorem PhysicalPage.aperture {s : State} {port off len a : Nat} (h : PhysicalPage s port off len a) (write : Bool) :
    s.aperture port off len write = ((s.reached port a).map fun pa => [(pa, len)], s) := by
  have hw : ¬2 ^ 36 < off + len := Nat.not_lt.2 h.window
  have hc := apertureParts_page (len / 4096) h.nonempty h.page
  have hpa := State.aperturePa_physical write h.mode h.space h.memory
  unfold State.aperture
  simp only [h.rails, hw, ← h.addr, hc]
  cases hr : s.reached port a <;> simp [hpa, hr]

theorem PhysicalPage.exec_apertureRead_unreached {s : State} {port off len a : Nat} (h : PhysicalPage s port off len a)
    (hs : s.power.mstate ≠ 1) (hr : s.reached port a = none) : exec (.apertureRead port off len) s = .next (s.emit (.abort port)) := by
  show execApertureRead port off len s = _
  simp [execApertureRead, hs, h.aperture, hr]

theorem PhysicalPage.exec_apertureWrite_unreached {s : State} {port off a : Nat} {bytes : List Byte}
    (h : PhysicalPage s port off bytes.length a) (hs : s.power.mstate ≠ 1) (hr : s.reached port a = none) :
    exec (.apertureWrite port off bytes) s = .next (s.dropRecord port) := by
  show execApertureWrite port off bytes s = _
  simp [execApertureWrite, hs, h.aperture, hr]

/-- A read of good data sends it, after whatever a corrected error of the stack sends (R342, R343). -/
theorem PhysicalPage.exec_apertureRead_reached {s : State} {port off len a : Nat} (h : PhysicalPage s port off len a)
    (hs : s.power.mstate ≠ 1) (ho : outbound a = false) (hr : s.reached port a = some a) (hb : s.badMem = []) :
    exec (.apertureRead port off len) s = .next ((s.readStack a).emit (.data port (Memory.readBytes s.mem a len))) := by
  have hl : ¬Config.jobMemEnd ≤ paLocal a := Nat.not_le.2 h.memory
  show execApertureRead port off len s = _
  simp [execApertureRead, hs, h.aperture, hr, hb, State.hostBytes, hl, State.bytesAt, ho]

theorem PhysicalPage.exec_apertureWrite_reached {s : State} {port off a : Nat} {bytes : List Byte}
    (h : PhysicalPage s port off bytes.length a) (hs : s.power.mstate ≠ 1) (ho : outbound a = false) (hr : s.reached port a = some a) :
    exec (.apertureWrite port off bytes) s = .next (s.storeBytes a bytes) := by
  show execApertureWrite port off bytes s = _
  simp [execApertureWrite, hs, h.aperture, hr, State.storeParts, State.storeAt, ho]

/-- Bytes that stand one after another in memory read back. -/
theorem Memory.readBytes_eq {m : List Host.Cell} {a : Nat} {bs : List Byte} (h : ∀ i < bs.length, Memory.read m (a + i) = bs.getD i 0) :
    Memory.readBytes m a bs.length = bs := by
  induction bs generalizing a with
  | nil => rfl
  | cons b bs ih =>
    have h0 : Memory.read m a = b := h 0 (Nat.succ_pos _)
    have hr : Memory.readBytes m (a + 1) bs.length = bs := ih fun i hi => by
      have := h (i + 1) (Nat.succ_lt_succ hi)
      rwa [List.getD_cons_succ, ← Nat.add_assoc, Nat.add_right_comm] at this
    rw [List.length_cons, Memory.readBytes, h0, hr]

/-- What is written reads back. -/
theorem Memory.readBytes_writeBytes {m : List Host.Cell} (a : Nat) (bs : List Byte) (h : Memory.wf m = true) :
    Memory.readBytes (Memory.writeBytes m a bs) a bs.length = bs := Memory.readBytes_eq fun i hi => by
  rw [Memory.read_writeBytes _ _ _ h, if_pos ⟨Nat.le_add_right .., Nat.add_lt_add_left hi a⟩, Nat.add_sub_cancel_left]

theorem Memory.read_writeBytes_outside {m : List Host.Cell} {a b : Nat} {bs : List Byte} (h : Memory.wf m = true)
    (hb : b < a ∨ a + bs.length ≤ b) : Memory.read (Memory.writeBytes m a bs) b = Memory.read m b := by
  rw [Memory.read_writeBytes _ _ _ h, if_neg (by omega)]

/-! ### Writes to registers (R310, R312, R313) -/

theorem exec_registerWrite_apbase {port : Nat} (v : Dword) (s : State) (hp : port < 2) :
    exec (.registerWrite port 0x4118 v) s = .next (s.updPort port fun p => { p with apbase := v &&& ~~~0x3FFFFFFF }) := by
  show execRegisterWrite port 0x4118 v s = _
  simp [execRegisterWrite, Nat.not_le.2 hp]

theorem exec_registerWrite_cmpbase {port : Nat} (v : Dword) (s : State) (hp : port < 2) :
    exec (.registerWrite port 0x4120 v) s = .next (s.updPort port fun p => { p with cmpbase := v &&& ~~~0xFFF }) := by
  show execRegisterWrite port 0x4120 v s = _
  simp [execRegisterWrite, Nat.not_le.2 hp]

theorem exec_registerWrite_apctl {port : Nat} (v : Dword) (s : State) (hp : port < 2) :
    exec (.registerWrite port 0x4110 v) s = .next (s.updPort port fun p =>
      { p with apctl := if v &&& 3 = 3 then v &&& 0x3FFFC else v &&& 0x3FFFF }) := by
  show execRegisterWrite port 0x4110 v s = _
  simp [execRegisterWrite, Nat.not_le.2 hp]

/-- A zero written to a semaphore's register releases it. -/
theorem exec_registerWrite_hsem {port i : Nat} (s : State) (hp : port < 2) (hi : i < 16) :
    exec (.registerWrite port (0x4000 + 8 * i) 0) s = .next (s.releaseHsem port i) := by
  have hn : ¬((0x4000 + 8 * i) % 8 ≠ 0 ∨ 2 ≤ port) := by omega
  have hr : 0x4000 ≤ 0x4000 + 8 * i ∧ 0x4000 + 8 * i < 0x4080 := by omega
  have hd : (0x4000 + 8 * i - 0x4000) / 8 = i := by omega
  show execRegisterWrite port (0x4000 + 8 * i) 0 s = _
  refine congrArg Host.Outcome.next ?_
  rw [if_neg hn, if_pos hr, if_pos rfl, hd]

/-- The mode that no rule gives a meaning is the one not taken as it stands. -/
theorem and_three_ne {v : Dword} (h : v.toNat % 4 ≠ 3) : ¬(v &&& 3 = 3) := fun e =>
  h ((Nat.and_two_pow_sub_one_eq_mod v.toNat 2).symm.trans (congrArg BitVec.toNat e))

end Sys2Proof.Machine
end

section
/-! SUPPORT. What O59 rests on; it is not settled here. Its aperture read has the data follow at once on what was sent before, but a read of a stack may
meet an error that the stack's code corrects (R342, log 15), and the event that the counter of its bank then raises (R343) signals both ports first. Whether
a read meets one is a free value (log 4), an opaque constant of which nothing can be proved. -/

namespace Sys2Proof.Machine

/-! ### The error that a stack corrects (R342, R343) -/

/-- No read of job memory that no request makes meets an error that the stack's code corrects. -/
def NoneCorrected : Prop :=
  ∀ a n, a < 2 ^ 42 → paLocal a < Config.jobMemEnd → outbound a = false → Config.freeBits 1 (siteStack + a) n ≠ 1

theorem State.signalBoth_out {s : State} {v : Nat} (h0 : (s.port 0).masked v = false) (h1 : (s.port 1).masked v = false) :
    (s.signalBoth v).ctl.out = s.ctl.out ++ [.signal 0 v, .signal 1 v] := by
  rw [State.signalBoth, State.signal_unmasked h0, State.signal_unmasked (s := s.emit _) h1]
  simp

/-- A counter that rises to its mark signals both ports. -/
theorem State.setLevel_out {s : State} {kind source level : Nat}
    (hl : (sget ⟨0, false⟩ s.ctl.buckets (bucketKey kind source)).level < (s.policy kind).mark) (hm : (s.policy kind).mark ≤ min 0xFFFF level)
    (hs : (sget ⟨0, false⟩ s.ctl.buckets (bucketKey kind source)).spent = false) (h0 : (s.port 0).masked 2 = false)
    (h1 : (s.port 1).masked 2 = false) : (s.setLevel kind source level).ctl.out = s.ctl.out ++ [.signal 0 2, .signal 1 2] := by
  unfold State.setLevel
  simp only [hl, hm, hs, decide_true, Bool.and_self, Bool.not_false, if_true]
  exact State.signalBoth_out h0 h1

/-- A port in the physical mode at an address, the counter of its bank one event short of its mark, `n` free values drawn. -/
def correctedBench (a n : Nat) : State :=
  { State.reset with
    power := { Power.reset with mstate := 3 }
    ctl := { Control.reset with
      ports := [(0, { Port.reset with apctl := 2, apbase := BitVec.ofNat 64 a })]
      buckets := [(bucketKey 0 (bankSource a), ⟨1023, false⟩)] }
    free := n }

theorem correctedBench_page {a : Nat} (n : Nat) (ha : a < 2 ^ 42) (hl : paLocal a < Config.jobMemEnd) :
    PhysicalPage (correctedBench a n) 0 0 1 a where
  rails := rfl
  mode := rfl
  nonempty := Nat.one_pos
  page := Nat.mod_lt a (by decide)
  space := ha
  window := by decide
  memory := hl
  addr := by
    show a = (a % 2 ^ 64 + 0) % 2 ^ 64
    omega

theorem correctedBench_serves (a n : Nat) : (correctedBench a n).power.mstate ≠ 1 := show (3 : Nat) ≠ 1 by decide

theorem correctedBench_reached {a : Nat} (n : Nat) (ho : outbound a = false) : (correctedBench a n).reached 0 a = some a := by
  simp [State.reached, State.pathFailed, ho, State.unreachable, State.route, State.node, correctedBench, State.reset, Fabric.reset, sget, Node.reset]

theorem correctedBench_readStack_out {a n : Nat} (ho : outbound a = false) (hf : Config.freeBits 1 (siteStack + a) n = 1) :
    ((correctedBench a n).readStack a).ctl.out = [.signal 0 2, .signal 1 2] := by
  have hb : sget ⟨0, false⟩ (correctedBench a n).ctl.buckets (bucketKey 0 (bankSource a)) = ⟨1023, false⟩ := if_pos rfl
  have hr : (correctedBench a n).readStack a = (correctedBench a n).setLevel 0 (bankSource a) (1023 + 16) := by
    have hv : (correctedBench a n).freeVal 1 (siteStack + a) = 1 := hf
    simp only [State.readStack, ho, hv, State.countCorrected, State.predict, hb]
    rfl
  have hm : ((correctedBench a n).policy 0).mark = 1024 := rfl
  rw [hr]
  exact State.setLevel_out (by rw [hb, hm]; decide) (by rw [hm]; decide) (by rw [hb]) (show Port.reset.masked 2 = false by decide)
    (show Port.reset.masked 2 = false by decide)

/-- The statement of O59 fails where a stack corrects an error: the counter of its bank may then reach its mark, and the event that R343 has it raise
signals both ports before the data is sent. -/
theorem noneCorrected_of_hostAccesses (h : Obligations.HostAccessesActOnTheModule) : NoneCorrected := by
  intro a n ha hl ho hf
  obtain ⟨-, -, -, h, -⟩ := h 0 0 0 0 1 [] 0 (correctedBench a n)
  have hp := correctedBench_page n ha hl
  rw [← hp.addr] at h
  obtain ⟨-, h⟩ := h (correctedBench_serves a n) hp.rails hp.mode hp.nonempty hp.page hp.space hp.window hp.memory ho
  obtain ⟨u, hx, -, -, hout⟩ := (h (correctedBench_reached n ho)).1 rfl
  rw [hp.exec_apertureRead_reached (correctedBench_serves a n) ho (correctedBench_reached n ho) rfl] at hx
  cases hx
  rw [State.emit_out, correctedBench_readStack_out ho hf] at hout
  have := congrArg List.length hout
  simp [correctedBench, State.reset, Control.reset] at this

/-- Where no stack corrects an error, every clause of O59 holds. -/
theorem hostAccesses_of_noneCorrected (hc : NoneCorrected) : Obligations.HostAccessesActOnTheModule := by
  intro port i p off len bytes v s same at_ P a
  refine ⟨?_, ?_, ?_, ?_, ?_, ?_, ?_, ?_⟩
  · exact ⟨_, rfl, s.claimHsem_onlyHsems port i p, s.claimHsem_hsem port i p⟩
  · exact ⟨_, rfl, s.releaseHsem_onlyHsems port i, s.releaseHsem_hsem port i⟩
  · obtain ⟨hsame, hk⟩ := foldl_releaseHsem port (List.range 16) s
    refine ⟨_, rfl, hsame, fun k => (hk k).trans ?_⟩
    simp only [List.mem_range, and_self_left]
    rfl
  · intro hs hr hm h0 hp ha hw hl ho
    have hpage : PhysicalPage s port off len a := ⟨hr, hm, h0, hp, ha, hw, hl, rfl⟩
    refine ⟨fun hn => ⟨⟨_, hpage.exec_apertureRead_unreached hs hn, rfl, rfl, rfl⟩, ?_⟩, fun hn => ⟨fun hb => ?_, ?_⟩⟩
    · rintro rfl
      exact ⟨_, hpage.exec_apertureWrite_unreached hs hn, rfl, rfl, State.updPort_port ..⟩
    · have hstack : s.readStack a = s := by
        have hf : s.freeVal 1 (siteStack + a) ≠ 1 := hc a s.free ha hl ho
        exact if_neg (by simpa [ho] using hf)
      have hx := hpage.exec_apertureRead_reached hs ho hn hb
      rw [hstack] at hx
      exact ⟨_, hx, rfl, rfl, rfl⟩
    · rintro hmem rfl
      exact ⟨_, hpage.exec_apertureWrite_reached hs ho hn, rfl, rfl, Memory.readBytes_writeBytes a bytes hmem,
        fun b hb => Memory.read_writeBytes_outside hmem hb⟩
  · exact fun hp => ⟨_, exec_registerWrite_apbase v s hp, rfl, State.updPort_port ..⟩
  · exact fun hp => ⟨_, exec_registerWrite_cmpbase v s hp, rfl, State.updPort_port ..⟩
  · refine fun hp => ⟨_, exec_registerWrite_apctl v s hp, rfl, fun hv => ?_⟩
    rw [State.updPort_port, if_neg (and_three_ne hv)]
  · refine fun hp => ⟨_, exec_registerWrite_hsem s hp (Nat.mod_lt i (by decide)), s.releaseHsem_onlyHsems port _, fun hown => ?_⟩
    have hk := s.releaseHsem_hsem port (i % 16) (i % 16)
    cases hh : (s.hsem (i % 16)).held with
    | true => exact congrArg HSem.held (hk.trans (if_pos ⟨rfl, Nat.mod_lt i (by decide), hh, hown⟩))
    | false => exact (congrArg HSem.held (hk.trans (if_neg fun g => by simp [hh] at g))).trans hh

/-- O59 stands or falls with a free value of the model: it holds exactly where no read of a stack meets an error that is corrected. -/
theorem hostAccesses_iff_noneCorrected : Obligations.HostAccessesActOnTheModule ↔ NoneCorrected :=
  ⟨noneCorrected_of_hostAccesses, hostAccesses_of_noneCorrected⟩

end Sys2Proof.Machine
end

section
/-! SUPPORT, O3, O4 and O5. Words and fields: what the encoder lays down the decoder reads back, and the other way round (R22, R27, R31, R33). -/

namespace Sys2Proof

/-! ### Fields, words and layouts -/

/-- What a field of a layout holds: its value, cut to its width; an unused field is zero (R27). -/
def fieldValue (f : Nat × Option Nat) : Nat := f.2.getD 0 % 2 ^ f.1

@[simp] theorem fieldValue_none (n : Nat) : fieldValue (n, none) = 0 := Nat.zero_mod _
@[simp] theorem fieldValue_some (n v : Nat) : fieldValue (n, some v) = v % 2 ^ n := rfl
theorem fieldValue_toNat {n : Nat} (b : BitVec n) : fieldValue (n, some b.toNat) = b.toNat := b.toNat_mod_cancel

theorem fieldValue_bit_zero : fieldValue (1, some 0) = 0 := rfl
theorem fieldValue_bit_one : fieldValue (1, some 1) = 1 := rfl

theorem fieldValue_lt (f : Nat × Option Nat) : fieldValue f < 2 ^ f.1 := Nat.mod_lt _ (Nat.two_pow_pos _)

theorem pack_cons (f : Nat × Option Nat) (fs : List (Nat × Option Nat)) : pack (f :: fs) = fieldValue f + 2 ^ f.1 * pack fs := rfl

theorem pack_cons_mod (f : Nat × Option Nat) (fs : List (Nat × Option Nat)) : pack (f :: fs) % 2 ^ f.1 = fieldValue f := by
  rw [pack_cons, Nat.add_mul_mod_self_left, Nat.mod_eq_of_lt (fieldValue_lt f)]

theorem pack_cons_div (f : Nat × Option Nat) (fs : List (Nat × Option Nat)) : pack (f :: fs) / 2 ^ f.1 = pack fs := by
  rw [pack_cons, Nat.add_mul_div_left _ _ (Nat.two_pow_pos f.1), Nat.div_eq_of_lt (fieldValue_lt f), Nat.zero_add]

/-- The bits that fields take together. -/
abbrev widthOf (fs : List (Nat × Option Nat)) : Nat := (fs.map (·.1)).sum

/-- Fields laid one above the other are read back by their widths, whatever stands above them. -/
theorem unpack_pack (fs gs : List (Nat × Option Nat)) : unpack (fs.map (·.1)) (pack (fs ++ gs)) = fs.map fieldValue := by
  induction fs with
  | nil => rfl
  | cons f fs ih => rw [List.map_cons, List.map_cons, List.cons_append, unpack, pack_cons_mod, pack_cons_div, ih]

theorem pack_append_div (fs gs : List (Nat × Option Nat)) : pack (fs ++ gs) / 2 ^ widthOf fs = pack gs := by
  induction fs with
  | nil => exact Nat.div_one _
  | cons f fs ih => rw [widthOf, List.map_cons, List.sum_cons, pow_add, ← Nat.div_div_eq_div_mul, List.cons_append, pack_cons_div, ih]

theorem pack_lt (fs : List (Nat × Option Nat)) : pack fs < 2 ^ widthOf fs := by
  induction fs with
  | nil => exact Nat.one_pos
  | cons f fs ih =>
    rw [pack_cons, widthOf, List.map_cons, List.sum_cons, pow_add]
    calc fieldValue f + 2 ^ f.1 * pack fs
      _ < 2 ^ f.1 * 1 + 2 ^ f.1 * pack fs := by rw [Nat.mul_one]; exact Nat.add_lt_add_right (fieldValue_lt f) _
      _ = 2 ^ f.1 * (1 + pack fs) := (Nat.mul_add ..).symm
      _ ≤ 2 ^ f.1 * 2 ^ widthOf fs := Nat.mul_le_mul_left _ (by omega)

/-- A number is its low fields, laid below what is left of it. -/
theorem pack_append_of_unpack {fs gs : List (Nat × Option Nat)} {w : Nat} (hf : fs.map fieldValue = unpack (fs.map (·.1)) w)
    (hg : pack gs = w / 2 ^ widthOf fs) : pack (fs ++ gs) = w := by
  induction fs generalizing w with
  | nil => exact hg.trans (Nat.div_one w)
  | cons f fs ih =>
    rw [List.map_cons, List.map_cons, unpack, List.cons.injEq] at hf
    rw [widthOf, List.map_cons, List.sum_cons, pow_add, ← Nat.div_div_eq_div_mul] at hg
    rw [List.cons_append, pack_cons, ih hf.2 hg, hf.1, Nat.mod_add_div]

/-- What `unpack` cuts out fits the widths that it is cut to. -/
theorem zipWith_mod_unpack (ws : List Nat) (w : Nat) : List.zipWith (fun n v => v % 2 ^ n) ws (unpack ws w) = unpack ws w := by
  induction ws generalizing w with
  | nil => rfl
  | cons n ws ih => simp [unpack, ih]

/-- An operation's layout is that of a unit, fills the bits below the opcode, and has a word's opcode and fields. -/
structure Instr.LaidOut (i : Instr) (u : SlotUnit) (w : Nat) (fs : List (Nat × Option Nat)) : Prop where
  layout : i.layout = some (u, w / 2 ^ u.low, fs)
  fields : fs.map fieldValue = unpack (fs.map (·.1)) w

theorem laidOut_of_unpack {i : Instr} {u : SlotUnit} {op w : Nat} {fs : List (Nat × Option Nat)} {vs : List Nat} (h : i.layout = some (u, op, fs))
    (hop : w / 2 ^ u.low = op) (hf : unpack (fs.map (·.1)) w = vs)
    (hv : fs.map fieldValue = List.zipWith (fun n v => v % 2 ^ n) (fs.map (·.1)) vs) : ∃ fs, i.LaidOut u w fs :=
  ⟨fs, hop ▸ h, by rw [hv, ← hf, zipWith_mod_unpack]⟩

/-- A layout of a unit fills a word below the six bits of the opcode, and its table reads the operation from a word with that opcode and those fields. -/
structure LayoutDecodes (u : SlotUnit) (i : Instr) (op : Nat) (fs : List (Nat × Option Nat)) : Prop where
  opcode : op < 2 ^ 6
  fills : widthOf fs = u.low
  decodes : ∀ w, w / 2 ^ u.low = op → unpack (fs.map (·.1)) w = fs.map fieldValue → u.decode w = .ok i

theorem layout_arith_decodes {i : Instr} {op : Nat} {fs : List (Nat × Option Nat)} (h : i.layout = some (.arith, op, fs)) :
    LayoutDecodes .arith i op fs := by
  have hu : i.layout.any (·.1 matches .arith) = true := by rw [h]; rfl
  cases i
  all_goals try exact absurd hu Bool.false_ne_true
  all_goals
    cases h
    refine ⟨by decide, by simp [widthOf, SlotUnit.low], fun w (hop : w / 2 ^ 26 = _) hf => ?_⟩
    simp only [List.map_cons, List.map_nil, fieldValue_none, fieldValue_toNat] at hf
    change decodeArith w = _
    unfold decodeArith
    rw [hop, hf]
    change Except.ok _ = _
    simp only [BitVec.ofNat_toNat, BitVec.setWidth_eq]

theorem laidOut_of_decodeArith {i : Instr} {w : Nat} (h : decodeArith w = .ok i) : ∃ fs, i.LaidOut .arith w fs := by
  unfold decodeArith at h
  split at h
  all_goals try split at h
  all_goals cases h
  all_goals exact laidOut_of_unpack rfl ‹_› ‹_› (by simp)

theorem layout_access_decodes {i : Instr} {op : Nat} {fs : List (Nat × Option Nat)} (h : i.layout = some (.access, op, fs)) :
    LayoutDecodes .access i op fs := by
  have hu : i.layout.any (·.1 matches .access) = true := by rw [h]; rfl
  cases i
  all_goals try exact absurd hu Bool.false_ne_true
  all_goals
    cases h
    refine ⟨by decide, by simp [widthOf, SlotUnit.low], fun w (hop : w / 2 ^ 26 = _) hf => ?_⟩
    simp only [List.map_cons, List.map_nil, fieldValue_none, fieldValue_toNat] at hf
    change decodeAccess w = _
    unfold decodeAccess
    rw [hop, hf]
    change Except.ok _ = _
    simp only [BitVec.ofNat_toNat, BitVec.setWidth_eq]

theorem laidOut_of_decodeAccess {i : Instr} {w : Nat} (h : decodeAccess w = .ok i) : ∃ fs, i.LaidOut .access w fs := by
  unfold decodeAccess at h
  split at h
  all_goals try split at h
  all_goals cases h
  all_goals exact laidOut_of_unpack rfl ‹_› ‹_› (by simp)

theorem layout_vector_decodes {i : Instr} {op : Nat} {fs : List (Nat × Option Nat)} (h : i.layout = some (.vector, op, fs)) :
    LayoutDecodes .vector i op fs := by
  have hu : i.layout.any (·.1 matches .vector) = true := by rw [h]; rfl
  cases i
  all_goals try exact absurd hu Bool.false_ne_true
  all_goals
    cases h
    refine ⟨by decide, by simp [widthOf, SlotUnit.low], fun w (hop : w / 2 ^ 26 = _) hf => ?_⟩
    simp only [List.map_cons, List.map_nil, fieldValue_none, fieldValue_toNat] at hf
    change decodeVector w = _
    unfold decodeVector
    rw [hop, hf]
    change Except.ok _ = _
    simp only [BitVec.ofNat_toNat, BitVec.setWidth_eq]

theorem laidOut_of_decodeVector {i : Instr} {w : Nat} (h : decodeVector w = .ok i) : ∃ fs, i.LaidOut .vector w fs := by
  unfold decodeVector at h
  split at h
  all_goals try split at h
  all_goals cases h
  all_goals exact laidOut_of_unpack rfl ‹_› ‹_› (by simp)

theorem layout_matrix_decodes {i : Instr} {op : Nat} {fs : List (Nat × Option Nat)} (h : i.layout = some (.matrix, op, fs)) :
    LayoutDecodes .matrix i op fs := by
  have hu : i.layout.any (·.1 matches .matrix) = true := by rw [h]; rfl
  cases i
  all_goals try exact absurd hu Bool.false_ne_true
  all_goals
    cases h
    refine ⟨by decide, by simp [widthOf, SlotUnit.low], fun w (hop : w / 2 ^ 58 = _) hf => ?_⟩
    simp only [List.map_cons, List.map_nil, fieldValue_none, fieldValue_toNat] at hf
    change decodeMatrix w = _
    unfold decodeMatrix
    rw [hop, hf]
    change Except.ok _ = _
    simp only [BitVec.ofNat_toNat, BitVec.setWidth_eq]

theorem laidOut_of_decodeMatrix {i : Instr} {w : Nat} (h : decodeMatrix w = .ok i) : ∃ fs, i.LaidOut .matrix w fs := by
  unfold decodeMatrix at h
  split at h
  all_goals try split at h
  all_goals cases h
  all_goals exact laidOut_of_unpack rfl ‹_› ‹_› (by simp)

theorem layout_engine_decodes {i : Instr} {op : Nat} {fs : List (Nat × Option Nat)} (h : i.layout = some (.engine, op, fs)) :
    LayoutDecodes .engine i op fs := by
  have hu : i.layout.any (·.1 matches .engine) = true := by rw [h]; rfl
  cases i
  all_goals try exact absurd hu Bool.false_ne_true
  all_goals
    cases h
    refine ⟨by decide, by simp [widthOf, SlotUnit.low], fun w (hop : w / 2 ^ 58 = _) hf => ?_⟩
    simp only [List.map_cons, List.map_nil, fieldValue_none, fieldValue_toNat, fieldValue_bit_zero, fieldValue_bit_one] at hf
    change decodeEngine w = _
    unfold decodeEngine
    rw [hop, hf]
  case doneItem sp a =>
    have ha : BitVec.ofNat 5 a.toNat = a := by simp
    generalize a.toNat = n at ha
    cases n
    all_goals
      change Except.ok _ = _
      rw [ha, BitVec.ofNat_toNat, BitVec.setWidth_eq]
  all_goals
    change Except.ok _ = _
    simp only [BitVec.ofNat_toNat, BitVec.setWidth_eq]

theorem laidOut_of_decodeEngine {i : Instr} {w : Nat} (h : decodeEngine w = .ok i) : ∃ fs, i.LaidOut .engine w fs := by
  unfold decodeEngine at h
  split at h
  all_goals try split at h
  all_goals cases h
  all_goals exact laidOut_of_unpack rfl ‹_› ‹_› (by simp)

theorem layout_control_decodes {i : Instr} {op : Nat} {fs : List (Nat × Option Nat)} (h : i.layout = some (.control, op, fs)) :
    LayoutDecodes .control i op fs := by
  have hu : i.layout.any (·.1 matches .control) = true := by rw [h]; rfl
  cases i
  all_goals try exact absurd hu Bool.false_ne_true
  all_goals
    cases h
    refine ⟨by decide, by simp [widthOf, SlotUnit.low], fun w (hop : w / 2 ^ 26 = _) hf => ?_⟩
    simp only [List.map_cons, List.map_nil, fieldValue_none, fieldValue_toNat] at hf
    change decodeControl w = _
    unfold decodeControl
    rw [hop, hf]
    change Except.ok _ = _
    simp only [BitVec.ofNat_toNat, BitVec.setWidth_eq]

theorem laidOut_of_decodeControl {i : Instr} {w : Nat} (h : decodeControl w = .ok i) : ∃ fs, i.LaidOut .control w fs := by
  unfold decodeControl at h
  split at h
  all_goals try split at h
  all_goals cases h
  all_goals exact laidOut_of_unpack rfl ‹_› ‹_› (by simp)

/-! ### Words and operations of a unit -/

theorem layout_decodes {i : Instr} {u : SlotUnit} {op : Nat} {fs : List (Nat × Option Nat)} (h : i.layout = some (u, op, fs)) :
    LayoutDecodes u i op fs := by
  cases u with
  | arith => exact layout_arith_decodes h
  | access => exact layout_access_decodes h
  | vector => exact layout_vector_decodes h
  | matrix => exact layout_matrix_decodes h
  | engine => exact layout_engine_decodes h
  | control => exact layout_control_decodes h

theorem laidOut_of_decode {i : Instr} {u : SlotUnit} {w : Nat} (h : u.decode w = .ok i) : ∃ fs, i.LaidOut u w fs := by
  cases u with
  | arith => exact laidOut_of_decodeArith h
  | access => exact laidOut_of_decodeAccess h
  | vector => exact laidOut_of_decodeVector h
  | matrix => exact laidOut_of_decodeMatrix h
  | engine => exact laidOut_of_decodeEngine h
  | control => exact laidOut_of_decodeControl h

/-- A slot holds the bits below its opcode and the six of the opcode (R31, R33). -/
theorem SlotUnit.bits_home (u : SlotUnit) : u.home.bits = u.low + 6 := by cases u <;> rfl

@[simp] theorem SlotUnit.unit_home (u : SlotUnit) : u.home.unit = u := by cases u <;> rfl

@[simp] theorem SlotUnit.slotMayHold_home (u : SlotUnit) (op : Nat) : slotMayHold u.home op = true := by cases u <;> rfl

/-- The slot class that holds every opcode of its table only checks the values that the entry allows (R27). -/
theorem decodeSlot_home {u : SlotUnit} {w : Nat} {i : Instr} (h : u.decode w = .ok i) (hw : i.wf = true) : decodeSlot u.home w = .ok i := by
  simp [decodeSlot, h, hw]

theorem Instr.encode_of_layout {i : Instr} {u : SlotUnit} {op : Nat} {fs : List (Nat × Option Nat)} (h : i.layout = some (u, op, fs)) :
    i.encode = some (u, pack (fs ++ [(6, some op)])) := by rw [Instr.encode, h]

theorem Instr.layout_of_encode {i : Instr} {u : SlotUnit} {w : Nat} (h : i.encode = some (u, w)) :
    ∃ op fs, i.layout = some (u, op, fs) ∧ w = pack (fs ++ [(6, some op)]) := by
  unfold Instr.encode at h
  split at h
  next u' op fs hl => cases h; exact ⟨op, fs, hl, rfl⟩
  next => cases h

/-- The word of an operation is one of its slot's, and its table reads the operation back. -/
theorem SlotUnit.decode_encode {i : Instr} {u : SlotUnit} {w : Nat} (h : i.encode = some (u, w)) : w < 2 ^ u.home.bits ∧ u.decode w = .ok i := by
  obtain ⟨op, fs, hl, rfl⟩ := Instr.layout_of_encode h
  obtain ⟨hop, hw, hdec⟩ := layout_decodes hl
  refine ⟨?_, hdec _ ?_ (unpack_pack fs _)⟩
  · calc pack (fs ++ [(6, some op)]) < 2 ^ widthOf (fs ++ [(6, some op)]) := pack_lt _
      _ = 2 ^ u.home.bits := by simp [widthOf, SlotUnit.bits_home, ← hw]
  · rw [← hw, pack_append_div, pack_cons, fieldValue_some, pack, Nat.mul_zero, Nat.add_zero, Nat.mod_eq_of_lt hop]

/-- Settles O3: fields laid one above the other are read back by their widths, and each table's entry has the layout of its operation. -/
theorem encodedWordsDecodeToTheirOperation : Obligations.EncodedWordsDecodeToTheirOperation := by
  refine ⟨fun i hl hw => ?_, fun i u w h => SlotUnit.decode_encode h⟩
  obtain ⟨⟨u, op, fs⟩, hl⟩ := Option.ne_none_iff_exists'.mp hl
  have he := Instr.encode_of_layout hl
  obtain ⟨hlt, hd⟩ := SlotUnit.decode_encode he
  exact ⟨u, _, he, hlt, decodeSlot_home hd hw⟩

/-- Settles O4: a word is its low fields below its opcode, and an accepted word has the fields of the operation's layout. -/
theorem decodedWordsAreTheWordsOfTheirOperation : Obligations.DecodedWordsAreTheWordsOfTheirOperation := by
  intro u w i hlt hd
  obtain ⟨fs, hl, hf⟩ := laidOut_of_decode hd
  have hop : w / 2 ^ u.low < 2 ^ 6 := by
    rw [SlotUnit.bits_home, pow_add] at hlt
    exact Nat.div_lt_of_lt_mul hlt
  have hg : pack [(6, some (w / 2 ^ u.low))] = w / 2 ^ widthOf fs := by
    rw [(layout_decodes hl).fills, pack_cons, fieldValue_some, pack, Nat.mul_zero, Nat.add_zero, Nat.mod_eq_of_lt hop]
  rw [Instr.encode_of_layout hl, pack_append_of_unpack hf hg]

/-- Settles O5: each word is cut at the widths of its entry. -/
theorem wordsWrittenOutDecode : Obligations.WordsWrittenOutDecode := by
  refine ⟨?_, ?_, ?_, ?_, ?_⟩ <;> decide

end Sys2Proof
end

section
/-! SUPPORT, O11 and O12. What holds, freezes, blocks or traps an operation that issues by itself, and in which order (R28, R29, R35, R159, R254, R263). -/

namespace Sys2Proof.Machine

/-! ### The verdict, cause by cause -/

theorem State.verdict_early {i : Instr} {s : State} (hs : s.ctx.strict = true) (he : s.anyEarly i.condRegs = true) :
    s.verdict i = .trap 0x05 s.cur.pm 0 0 := by simp [State.verdict, hs, he]

/-- The wait of an operation may be tested: in strict mode it names no unpredictable register (R262). -/
def State.tests (s : State) (i : Instr) : Prop := s.ctx.strict = true → s.anyEarly i.condRegs = false

theorem State.tests.cond {s : State} {i : Instr} (h : s.tests i) : (s.ctx.strict && s.anyEarly i.condRegs) = false := by
  cases hs : s.ctx.strict
  · rfl
  · simp [h hs]

theorem State.verdict_hold {i : Instr} {s : State} (ht : s.tests i) (hw : s.waitHolds i = false) : s.verdict i = .hold := by
  simp [State.verdict, ht.cond, hw]

theorem State.verdict_freeze {i : Instr} {s : State} (ht : s.tests i) (hw : s.waitHolds i = true) (hf : s.me.core.mustFreeze i = true) :
    s.verdict i = .freeze := by
  simp [State.verdict, ht.cond, hw, hf]

/-- An operation is ready: its wait is over, the tile need not freeze, and nothing blocks it, so that only a trap can stop it. -/
structure State.Ready (s : State) (i : Instr) : Prop where
  tests : s.tests i
  waited : s.waitHolds i = true
  thawed : s.me.core.mustFreeze i = false
  room : s.commandBlocks i = false
  counted : s.countersFull i.oldAdds i.ostAdds = false

theorem State.verdict_block {i : Instr} {s : State} (ht : s.tests i) (hw : s.waitHolds i = true) (hf : s.me.core.mustFreeze i = false)
    (hb : s.commandBlocks i = true ∨ s.countersFull i.oldAdds i.ostAdds = true) : s.verdict i = .block := by
  rw [← Bool.or_eq_true] at hb
  simp only [State.verdict, ht.cond, hw, hf, hb, Bool.not_true, Bool.false_eq_true, if_false, if_true]

theorem State.Ready.verdict {i : Instr} {s : State} (h : s.Ready i) {code aux w3 w2 : Nat} (ht : s.slotTrap i = some (code, aux, w3, w2)) :
    s.verdict i = .trap code aux w3 w2 := by
  simp [State.verdict, h.tests.cond, h.waited, h.thawed, h.room, h.counted, ht]

/-! ### The traps of a slot in their order (log 21) -/

theorem State.slotTrap_work {i : Instr} {s : State} (h : s.workDenied i = true) : s.slotTrap i = some (0x14, 0, 10, 0x50000000) := by
  simp [State.slotTrap, h]

theorem State.slotTrap_privilege {i : Instr} {s : State} (hw : s.workDenied i = false) (h : s.unprivileged i = true) :
    s.slotTrap i = some (0x04, s.cur.pm, 0, 0) := by simp [State.slotTrap, hw, h]

theorem State.slotTrap_hazard {i : Instr} {s : State} (hw : s.workDenied i = false) (hp : s.unprivileged i = false) (h : s.hazard i = true) :
    s.slotTrap i = some (0x05, s.cur.pm, 0, 0) := by simp [State.slotTrap, hw, hp, h]

/-- An operation with one scratch address that none of the traps before it stops: strict mode checks the address, then its words must be sound. -/
theorem State.slotTrap_scratch {i : Instr} {s : State} {ea : Dword} (he : i.scratch s = some ea) (hn : i.engineEa s = [])
    (hw : s.workDenied i = false) (hp : s.unprivileged i = false) (hh : s.hazard i = false) :
    s.slotTrap i = if s.ctx.strict = true ∧ 2 ^ 18 ≤ ea.toNat then some (0x07, s.cur.pm, 0, 0)
      else if s.me.core.badBits (rowOf ea) &&& i.wordsRead s ea = 0 then none else some (0x08, s.cur.pm, rowOf ea, 0) := by
  simp [State.slotTrap, hw, hp, hh, he, hn]

/-! ### What `exec` answers -/

/-- What a verdict leaves of the state where it does not let the operation go. -/
def State.stopped (s : State) : Verdict → State
  | .go => s
  | .trap code aux w3 w2 => s.raise code aux w3 w2
  | .hold => s.holdBundle
  | .freeze => s.updMe fun t => t.frozen true
  | .block => s

/-- A slot operation that issues by itself does what its verdict says, and nothing else. -/
theorem exec_of_verdict {i : Instr} {s : State} {v : Verdict} (he : i.encode ≠ none) (hg : s.guardOn i.sp = true) (hc : s.cur.checked = false)
    (hv : s.verdict i = v) (hgo : v ≠ .go) : exec i s = .next (s.stopped v) := by
  obtain ⟨act, h⟩ := exec_slot i s he
  rw [h, issueSlot_of_verdict act hg hc, hv]
  cases v with
  | go => exact absurd rfl hgo
  | trap code aux w3 w2 => rfl
  | hold => rfl
  | freeze => rfl
  | block => rfl

theorem exec_of_trap {i : Instr} {s : State} {code aux w3 w2 : Nat} (he : i.encode ≠ none) (hg : s.guardOn i.sp = true)
    (hc : s.cur.checked = false) (hv : s.verdict i = .trap code aux w3 w2) : exec i s = .next (s.raise code aux w3 w2) :=
  exec_of_verdict he hg hc hv (by simp)

theorem State.guardOn_off {s : State} {sp : BitVec 3} (hsp : sp ≠ 0) (h : s.ctx.sp.getLsbD sp.toNat = false) : s.guardOn sp = false := by
  rw [State.guardOn, beq_false_of_ne hsp, h, Bool.or_false]

/-- Settles O11: the order is that of `State.verdict`, and a slot's own traps stand in that of `State.slotTrap`. -/
theorem operationsThatDoNotActHaveNoOtherEffect : Obligations.OperationsThatDoNotActHaveNoOtherEffect := by
  refine ⟨fun i s he hsp hoff => ?_, fun i s he hg hc => ⟨fun hs hearly => ?_, fun ht => ⟨fun hw => ?_, fun hw => ⟨fun hf => ?_, fun hf =>
    ⟨fun hb => ?_, fun hroom hcount => ?_⟩⟩⟩⟩⟩
  · obtain ⟨act, h⟩ := exec_slot i s he
    rw [h, issueSlot_of_guardOff (State.guardOn_off hsp hoff)]
  · exact exec_of_trap he hg hc (State.verdict_early hs hearly)
  · exact exec_of_verdict he hg hc (State.verdict_hold ht hw) (by simp)
  · exact exec_of_verdict he hg hc (State.verdict_freeze ht hw hf) (by simp)
  · exact exec_of_verdict he hg hc (State.verdict_block ht hw hf hb) (by simp)
  · have hr : s.Ready i := ⟨ht, hw, hf, hroom, hcount⟩
    refine ⟨fun hd => ?_, fun hd hp => ?_, fun hd hp hh => ?_, fun ea hea hn hd hp hh => ⟨fun hs hout => ?_, fun hin hbad => ?_⟩⟩
    · exact exec_of_trap he hg hc (hr.verdict (State.slotTrap_work hd))
    · exact exec_of_trap he hg hc (hr.verdict (State.slotTrap_privilege hd hp))
    · exact exec_of_trap he hg hc (hr.verdict (State.slotTrap_hazard hd hp hh))
    · exact exec_of_trap he hg hc (hr.verdict ((State.slotTrap_scratch hea hn hd hp hh).trans (if_pos ⟨hs, hout⟩)))
    · have hin' : ¬(s.ctx.strict = true ∧ 2 ^ 18 ≤ ea.toNat) := fun ⟨hs, hout⟩ => absurd (hin hs) (by omega)
      exact exec_of_trap he hg hc (hr.verdict ((State.slotTrap_scratch hea hn hd hp hh).trans ((if_neg hin').trans (if_neg hbad))))

/-! ### Supervisor-only forms -/

/-- An operation that neither waits nor freezes nor blocks, and that its context may not issue for want of privilege, takes the privilege trap. -/
theorem exec_of_unprivileged {i : Instr} {s : State} (he : i.encode ≠ none) (hg : s.guardOn i.sp = true) (hc : s.cur.checked = false)
    (hr : s.Ready i) (hd : s.workDenied i = false) (hp : s.unprivileged i = true) : exec i s = .next (s.raise 0x04 s.cur.pm 0 0) :=
  exec_of_trap he hg hc (hr.verdict (State.slotTrap_privilege hd hp))

theorem Ctx.not_supervisor {c : Ctx} (hs : c.status.getLsbD 0 = false) (hi : c.inh = false) : c.supervisor = false := by
  rw [Ctx.inh] at hi
  rw [Ctx.supervisor, hs, hi, Bool.or_false]

theorem mem_privileged {r : BitVec 12} (hr : r ∈ [0x014, 0x015, 0x016, 0x017, 0x081, 0x082]) :
    ((0x014 ≤ r.toNat && r.toNat ≤ 0x017) || r == 0x081 || r == 0x082) = true := by
  simp only [List.mem_cons, List.not_mem_nil, or_false] at hr
  rcases hr with rfl | rfl | rfl | rfl | rfl | rfl <;> rfl

/-- Settles O12: each of these forms waits for nothing and takes no counter, and is unprivileged in a user context. -/
theorem supervisorFormsTrapInUserContexts : Obligations.SupervisorFormsTrapInUserContexts := by
  intro i s hg hc hs hi hform
  have hu : s.ctx.supervisor = false := Ctx.not_supervisor hs hi
  rcases hform with ⟨sp, d, a, slot, n, j, oj, rfl, rfl, g, hown⟩ | ⟨sp, a, l, rfl, hl⟩ | ⟨sp, a, b, tr, rfl⟩ | ⟨sp, rfl⟩ |
    ⟨sp, a, r, rfl, hr⟩ | ⟨sp, fc, fv, fm, fy, d, rfl, hlow⟩
  · have hp : s.unprivileged (.launch sp d a slot n j 1) = true := by simp [State.unprivileged, hu]
    have hd : s.workDenied (.launch sp d a slot n j 1) = false := by simp [State.workDenied, hown]
    have hb : s.commandBlocks (.launch sp d a slot n j 1) = false := by
      simp only [State.commandBlocks, Instr.isArray, Instr.isMatCmd, Instr.isCopy, hp, Bool.not_true, Bool.and_false, Bool.false_and,
        Bool.false_eq_true, if_false]
    exact exec_of_unprivileged (Option.some_ne_none _) hg hc ⟨fun _ => rfl, rfl, rfl, hb, rfl⟩ hd hp
  · exact exec_of_unprivileged (Option.some_ne_none _) hg hc ⟨fun _ => rfl, rfl, rfl, rfl, rfl⟩ rfl
      (by simp [State.unprivileged, hu, hl])
  · exact exec_of_unprivileged (Option.some_ne_none _) hg hc ⟨fun _ => rfl, rfl, rfl, rfl, rfl⟩ rfl
      (by simp [State.unprivileged, hu])
  · exact exec_of_unprivileged (Option.some_ne_none _) hg hc ⟨fun _ => rfl, rfl, rfl, rfl, rfl⟩ rfl
      (by simp [State.unprivileged, hu])
  · exact exec_of_unprivileged (Option.some_ne_none _) hg hc ⟨fun _ => rfl, rfl, rfl, rfl, rfl⟩ rfl
      (by rw [State.unprivileged, mem_privileged hr, hu]; rfl)
  · exact exec_of_unprivileged (Option.some_ne_none _) hg hc ⟨fun _ => rfl, rfl, rfl, rfl, rfl⟩ rfl
      (by simpa [State.unprivileged, hu, or_assoc] using hlow)

end Sys2Proof.Machine
end

section
/-! SUPPORT and O13. Precise traps: the record and the handler's entry (R366, R369, R371). -/

namespace Sys2Proof.Machine

/-! ### Word 0 of a trap record -/

theorem trapWord0_toNat (cls disp aux code : Nat) :
    ((trapWord0 cls disp aux code).zeroExtend 64).toNat = cls % 4 * 2 ^ 30 + disp % 4 * 2 ^ 28 + aux % 4096 * 2 ^ 12 + code % 256 := by
  simp only [trapWord0, BitVec.toNat_setWidth, BitVec.toNat_ofNat]
  omega

theorem trapWord0_code (cls disp aux code : Nat) : ((trapWord0 cls disp aux code).zeroExtend 64).extractLsb' 0 8 = BitVec.ofNat 8 code := by
  apply BitVec.eq_of_toNat_eq
  rw [BitVec.extractLsb'_toNat, trapWord0_toNat, BitVec.toNat_ofNat, Nat.shiftRight_eq_div_pow]
  omega

theorem trapWord0_aux (cls disp aux code : Nat) : ((trapWord0 cls disp aux code).zeroExtend 64).extractLsb' 12 12 = BitVec.ofNat 12 aux := by
  apply BitVec.eq_of_toNat_eq
  rw [BitVec.extractLsb'_toNat, trapWord0_toNat, BitVec.toNat_ofNat, Nat.shiftRight_eq_div_pow]
  omega

theorem trapWord0_disp (cls disp aux code : Nat) :
    ((trapWord0 cls disp aux code).zeroExtend 64).extractLsb' 28 36 = BitVec.ofNat 36 (cls % 4 * 4 + disp % 4) := by
  apply BitVec.eq_of_toNat_eq
  rw [BitVec.extractLsb'_toNat, trapWord0_toNat, BitVec.toNat_ofNat, Nat.shiftRight_eq_div_pow]
  omega

theorem trapWord0_cls (cls disp aux code : Nat) :
    ((trapWord0 cls disp aux code).zeroExtend 64).extractLsb' 30 34 = BitVec.ofNat 34 (cls % 4) := by
  apply BitVec.eq_of_toNat_eq
  rw [BitVec.extractLsb'_toNat, trapWord0_toNat, BitVec.toNat_ofNat, Nat.shiftRight_eq_div_pow]
  omega

/-! ### Taking a trap -/

@[simp] theorem State.mustCommit_tile (s : State) (t : Nat) :
    (s.mustCommit t).tile t = { s.tile t with region := { (s.tile t).region with commitDue := true } } := by simp [State.mustCommit]

/-- The context of a precise trap enters the handler. -/
theorem State.precise_ctx (s : State) (code aux w3 w2 : Nat) :
    (s.precise code aux w3 w2).ctx = s.ctx.enterTrap
      ⟨0, trapDisp s.ctx code false, aux, code, s.ctx.cmdix, BitVec.ofNat 32 w2, BitVec.ofNat 32 w3⟩ s.cur.pc (s.freeTime siteHandler % 401) := by
  simp [State.precise, State.takeTrap, State.deferAt, State.ctx, State.me, State.updCtx, State.ctxAt]

theorem State.precise_commitDue (s : State) (code aux w3 w2 : Nat) : (s.precise code aux w3 w2).me.region.commitDue = true := by
  simp [State.precise, State.takeTrap, State.deferAt, State.me, State.updCtx]

/-- Only a data abort does more than take the trap (R157, R332). -/
theorem State.raise_of_ne {s : State} {code : Nat} (h : code ≠ 0x08) (aux w3 w2 : Nat) : s.raise code aux w3 w2 = s.precise code aux w3 w2 := by
  simp [State.raise, h]

/-- The low byte of a number kept in AUX (R371). -/
theorem ofNat_mod_byte (x : Dword) : BitVec.ofNat 12 (x.toNat % 256) = (x.extractLsb' 0 8).zeroExtend 12 := by
  apply BitVec.eq_of_toNat_eq
  rw [BitVec.toNat_setWidth, BitVec.extractLsb'_toNat, BitVec.toNat_ofNat, Nat.shiftRight_zero]

/-- Settles O13: a precise trap is the entry of its context, and the record's fields are those of word 0. -/
theorem preciseTrapsSaveTheBundleAndEnterTheHandler : Obligations.PreciseTrapsSaveTheBundleAndEnterTheHandler := by
  rintro s code aux w3 w2 c c' h8 hcode haux rfl hc'
  have hp := State.raise_of_ne h8 (s := s) aux w3 w2
  rw [hp, State.precise_ctx] at hc'
  subst hc'
  refine ⟨rfl, rfl, rfl, rfl, ?_, fun hi => ?_, fun hi => ?_, rfl, ?_, ?_⟩
  · simp [Ctx.enterTrap]
  · simp only [Ctx.enterTrap, hi, Bool.false_eq_true, if_false]
    exact ⟨trapWord0_code .., trapWord0_aux .., trapWord0_cls .., trivial, trivial⟩
  · simp only [Ctx.enterTrap, hi, if_true]
    refine ⟨trapWord0_code .., ?_, trapWord0_disp .., rfl, ?_⟩
    · rw [trapWord0_aux, ofNat_mod_byte]
    · apply BitVec.eq_of_toNat_eq
      simp only [BitVec.toNat_setWidth, BitVec.toNat_ofNat]
      omega
  · rw [hp, State.precise_commitDue]
  · rw [hp]
    rfl

end Sys2Proof.Machine
end

section
/-! SUPPORT and O14. Registers read and written, and the writes that fall due later (R30, R36, R37, R259, R262). -/

namespace Sys2Proof.Machine

/-! ### Registers of a context -/

@[simp] theorem Ctx.x_zero (c : Ctx) : c.x 0 = 0 := rfl
@[simp] theorem Ctx.p_zero (c : Ctx) : c.p 0 = -1 := BitVec.neg_one_eq_allOnes.symm
@[simp] theorem Ctx.write_x_zero (c : Ctx) (val : Row) : c.write (.x 0) val = c := rfl
@[simp] theorem Ctx.write_p_zero (c : Ctx) (val : Row) : c.write (.p 0) val = c := rfl

theorem Ctx.write_v_same (c : Ctx) (n : Nat) (val : Row) : (c.write (.v n) val).v n = val := sget_sput_same ..

theorem Ctx.write_x_same (c : Ctx) {n : Nat} (hn : n ≠ 0) (val : Row) : (c.write (.x n) val).x n = val.truncate 64 := by
  simp [Ctx.write, Ctx.x, hn]

theorem Ctx.write_p_same (c : Ctx) {n : Nat} (hn : n ≠ 0) (val : Row) : (c.write (.p n) val).p n = val.truncate 256 := by
  simp [Ctx.write, Ctx.p, hn]

/-! ### Latencies (R259) -/

theorem ceilDiv_le_iff {a b m : Nat} (hb : 0 < b) : ceilDiv a b ≤ m ↔ a ≤ m * b := by
  rw [ceilDiv, ← Nat.lt_succ_iff, Nat.div_lt_iff_lt_mul hb, Nat.succ_mul]
  omega

/-- A latency is the least positive number of issue cycles in which the domain runs its cycles. -/
theorem Core.latency_le_iff (c : Core) (dom l : Nat) {m : Nat} (hd : 0 < c.dC) :
    c.latency dom l ≤ m ↔ 1 ≤ m ∧ l * c.div dom ≤ m * c.dC := by
  rw [Core.latency, Nat.max_le, ceilDiv_le_iff hd]

/-! ### Writes that are due later -/

/-- The write that `State.dueFlags` adds. -/
def State.pendingWrite (s : State) (dst : Reg) (val : Row) (dom l : Nat) (flags : BitVec 6) : Pending :=
  ⟨s.me.core.cycle + s.me.core.latency dom l, s.me.core.cycle, s.cur.pm, dst, val, flags, dom, sget 0 s.me.core.units dom + l * domainUnit,
    s.ctx.clashes dst⟩

theorem State.dueFlags_eq (s : State) (dst : Reg) (val : Row) (dom l : Nat) (flags : BitVec 6) :
    s.dueFlags dst val dom l flags =
      s.updSelf fun c => { c with due := c.due ++ [s.pendingWrite dst val dom l flags], pend := taint dst c.pend } := rfl

theorem State.dueFlags_ctx (s : State) (dst : Reg) (val : Row) (dom l : Nat) (flags : BitVec 6) :
    (s.dueFlags dst val dom l flags).ctx =
      { s.ctx with due := s.ctx.due ++ [s.pendingWrite dst val dom l flags], pend := taint dst s.ctx.pend } := by
  rw [State.dueFlags_eq, State.updSelf_ctx]

/-- A write marks the loads pending on its register, and changes no register of any (R171). -/
theorem taint_map_reg (r : Reg) (ps : List PendDest) : (taint r ps).map (·.reg) = ps.map (·.reg) := by
  rw [taint, List.map_map]
  refine List.map_congr_left fun d _ => ?_
  simp only [Function.comp_apply]
  split <;> rfl

theorem Ctx.clashes_eq_none_iff (c : Ctx) (r : Reg) : c.clashes r = none ↔ r.wired = true ∨ ∀ d ∈ c.pend, d.reg ≠ r := by
  unfold Ctx.clashes
  split
  next h => simp [h]
  next h => simp [h]

/-- Settles O14, from what reads a write back and from the least latency. -/
theorem wiredRegistersReadAndPendingWritesFallDue : Obligations.WiredRegistersReadAndPendingWritesFallDue := by
  refine ⟨fun c val => ⟨fun r => ⟨Ctx.x_zero _, Ctx.p_zero _⟩, rfl, rfl, fun n => c.write_v_same n val, fun n hn =>
    ⟨c.write_x_same hn val, c.write_p_same hn val⟩⟩, ?_⟩
  rintro s t dst val dom l f rfl hd
  rw [State.dueFlags_ctx]
  refine ⟨⟨s.pendingWrite dst val dom l f, rfl, rfl, rfl, rfl, rfl, rfl, s.ctx.clashes_eq_none_iff dst, s.me.core.latency dom l, rfl, ?_⟩, rfl,
    taint_map_reg .., s.updSelf_onlyContext _⟩
  have least := fun m => s.me.core.latency_le_iff dom l (m := m) hd
  obtain ⟨h1, h2⟩ := (least _).mp le_rfl
  exact ⟨h1, h2, fun m hm hl => (least m).mpr ⟨hm, hl⟩⟩

end Sys2Proof.Machine
end

section
/-! SUPPORT and O15. RESULT_DUE: due writes in their order, and the cycle that a slower domain takes (R30, R57, R261, R262). -/

namespace Sys2Proof.Machine

/-! ### The order of due writes -/

theorem Pending.before_iff (a b : Pending) :
    a.before b = true ↔ a.due < b.due ∨ a.due = b.due ∧ (a.issue < b.issue ∨ a.issue = b.issue ∧ a.pm < b.pm) := by
  simp [Pending.before]

theorem Pending.not_before_of_before {a b : Pending} (h : a.before b = true) : b.before a = false := by
  rw [Pending.before_iff] at h
  rw [Bool.eq_false_iff, ne_eq, Pending.before_iff]
  omega

/-- What comes after a later write does not come before an earlier one. -/
theorem Pending.not_before_trans {p q x : Pending} (hpq : p.before q = true) (hx : x.before q = false) : x.before p = false := by
  rw [Pending.before_iff] at hpq
  rw [Bool.eq_false_iff, ne_eq, Pending.before_iff] at hx ⊢
  omega

/-- A list of writes in order: none comes before one that stands ahead of it. -/
abbrev InOrder (l : List Pending) : Prop := l.Pairwise fun a b => b.before a = false

theorem insertPending_perm (p : Pending) (l : List Pending) : (insertPending p l).Perm (p :: l) := by
  induction l with
  | nil => rfl
  | cons q r ih =>
    unfold insertPending
    split
    · rfl
    · exact (ih.cons q).trans (.swap p q r)

theorem insertPending_inOrder (p : Pending) {l : List Pending} (h : InOrder l) : InOrder (insertPending p l) := by
  induction l with
  | nil => exact List.pairwise_singleton _ p
  | cons q r ih =>
    obtain ⟨hq, hr⟩ := List.pairwise_cons.mp h
    unfold insertPending
    split
    next hpq =>
      refine List.pairwise_cons.mpr ⟨fun x hx => ?_, h⟩
      rcases List.mem_cons.mp hx with rfl | hx
      · exact Pending.not_before_of_before hpq
      · exact Pending.not_before_trans hpq (hq x hx)
    next hpq =>
      refine List.pairwise_cons.mpr ⟨fun x hx => ?_, ih hr⟩
      rcases List.mem_cons.mp ((insertPending_perm p r).mem_iff.mp hx) with rfl | hx
      · exact Bool.eq_false_iff.mpr hpq
      · exact hq x hx

theorem foldl_insertPending (l r : List Pending) (h : InOrder r) :
    (l.foldl (fun r p => insertPending p r) r).Perm (l ++ r) ∧ InOrder (l.foldl (fun r p => insertPending p r) r) := by
  induction l generalizing r with
  | nil => exact ⟨.refl r, h⟩
  | cons p l ih =>
    obtain ⟨hp, ho⟩ := ih (insertPending p r) (insertPending_inOrder p h)
    exact ⟨hp.trans (((insertPending_perm p r).append_left l).trans List.perm_middle), ho⟩

theorem sortPending_perm (l : List Pending) : (sortPending l).Perm l := by
  simpa [sortPending] using (foldl_insertPending l [] .nil).1

theorem sortPending_inOrder (l : List Pending) : InOrder (sortPending l) := (foldl_insertPending l [] .nil).2

/-! ### Writes made one after another -/

theorem foldl_applyWrite_kept {α : Type} (f : Ctx → α) (l : List Pending) (c : Ctx) (h : ∀ q ∈ l, ∀ k : Ctx, f (k.applyWrite q) = f k) :
    f (l.foldl Ctx.applyWrite c) = f c := by
  induction l generalizing c with
  | nil => rfl
  | cons q l ih => rw [List.foldl_cons, ih _ fun p hp => h p (List.mem_cons_of_mem q hp), h q List.mem_cons_self]

/-- A register takes the last of the writes to it: the one that each of the others comes before. -/
theorem foldl_applyWrite_last {α : Type} {f : Ctx → α} {v : α} {p : Pending} {l : List Pending} (ho : InOrder l) (hp : p ∈ l)
    (hlast : ∀ q ∈ l, q.dst = p.dst → q ≠ p → q.before p = true) (hsame : ∀ c : Ctx, f (c.applyWrite p) = v)
    (hother : ∀ (q : Pending) (c : Ctx), q.dst ≠ p.dst → f (c.applyWrite q) = f c) (c : Ctx) : f (l.foldl Ctx.applyWrite c) = v := by
  induction l generalizing c with
  | nil => cases hp
  | cons q l ih =>
    obtain ⟨hq, ho⟩ := List.pairwise_cons.mp ho
    rw [List.foldl_cons]
    by_cases hmem : p ∈ l
    · exact ih ho hmem (fun x hx => hlast x (List.mem_cons_of_mem q hx)) (c.applyWrite q)
    · obtain rfl : p = q := (List.mem_cons.mp hp).resolve_right hmem
      rw [foldl_applyWrite_kept f l _ fun x hx k => hother x k fun hd => ?_, hsame]
      have hx' := hlast x (List.mem_cons_of_mem p hx) hd fun h => hmem (h ▸ hx)
      exact Bool.noConfusion ((hq x hx).symm.trans hx')

/-! ### One due write -/

/-- A write to an x register changes at most the x registers. -/
theorem Ctx.write_x_rest (c : Ctx) (n : Nat) (val : Row) : ∃ xs, c.write (.x n) val = { c with xs := xs } := by
  by_cases hn : n = 0
  · exact ⟨c.xs, by rw [hn, Ctx.write_x_zero]⟩
  · exact ⟨_, if_neg hn⟩

/-- A write to a p register changes at most the p registers. -/
theorem Ctx.write_p_rest (c : Ctx) (n : Nat) (val : Row) : ∃ ps, c.write (.p n) val = { c with ps := ps } := by
  by_cases hn : n = 0
  · exact ⟨c.ps, by rw [hn, Ctx.write_p_zero]⟩
  · exact ⟨_, if_neg hn⟩

theorem Ctx.write_x_ne (c : Ctx) {r : Reg} {n : Nat} (h : r ≠ .x n) (val : Row) : (c.write r val).x n = c.x n := by
  cases r with
  | x m =>
    by_cases hm : m = 0
    · rw [hm, Ctx.write_x_zero]
    · simp [Ctx.write, Ctx.x, hm, sget_sput_ne _ _ _ fun e => h (congrArg Reg.x e.symm)]
  | v m => rfl
  | p m => obtain ⟨ps, h⟩ := c.write_p_rest m val; rw [h]; rfl
  | none => rfl

theorem Ctx.write_v_ne (c : Ctx) {r : Reg} {n : Nat} (h : r ≠ .v n) (val : Row) : (c.write r val).v n = c.v n := by
  cases r with
  | x m => obtain ⟨xs, h⟩ := c.write_x_rest m val; rw [h]; rfl
  | v m => exact sget_sput_ne _ _ _ fun e => h (congrArg Reg.v e.symm)
  | p m => obtain ⟨ps, h⟩ := c.write_p_rest m val; rw [h]; rfl
  | none => rfl

theorem Ctx.write_p_ne (c : Ctx) {r : Reg} {n : Nat} (h : r ≠ .p n) (val : Row) : (c.write r val).p n = c.p n := by
  cases r with
  | x m => obtain ⟨xs, h⟩ := c.write_x_rest m val; rw [h]; rfl
  | v m => rfl
  | p m =>
    by_cases hm : m = 0
    · rw [hm, Ctx.write_p_zero]
    · simp [Ctx.write, Ctx.p, hm, sget_sput_ne _ _ _ fun e => h (congrArg Reg.p e.symm)]
  | none => rfl

theorem Ctx.write_fcr (c : Ctx) (r : Reg) (val : Row) : (c.write r val).fcr = c.fcr := by
  cases r with
  | x m => obtain ⟨xs, h⟩ := c.write_x_rest m val; rw [h]
  | v m => rfl
  | p m => obtain ⟨ps, h⟩ := c.write_p_rest m val; rw [h]
  | none => rfl

@[simp] theorem Ctx.applyWrite_x (c : Ctx) (p : Pending) (n : Nat) : (c.applyWrite p).x n = (c.write p.dst p.left).x n := rfl
@[simp] theorem Ctx.applyWrite_v (c : Ctx) (p : Pending) (n : Nat) : (c.applyWrite p).v n = (c.write p.dst p.left).v n := rfl
@[simp] theorem Ctx.applyWrite_p (c : Ctx) (p : Pending) (n : Nat) : (c.applyWrite p).p n = (c.write p.dst p.left).p n := rfl
@[simp] theorem Ctx.applyWrite_fcr (c : Ctx) (p : Pending) : (c.applyWrite p).fcr = c.fcr := Ctx.write_fcr ..
@[simp] theorem Ctx.applyWrite_raised (c : Ctx) (p : Pending) : (c.applyWrite p).raised = c.raised ||| p.flags := rfl

/-- What no load has clashed with takes its value (R171). -/
theorem Pending.left_of_noClash {p : Pending} (h : p.clash = none) : p.left = p.val := by rw [Pending.left, h]

/-! ### The writes due by an issue cycle -/

/-- The writes of a context that are due by an issue cycle, in their order. -/
def Ctx.hits (c : Ctx) (now : Nat) : List Pending := sortPending (c.due.filter fun p => p.due ≤ now)

theorem Ctx.mem_hits {c : Ctx} {now : Nat} {p : Pending} : p ∈ c.hits now ↔ p ∈ c.due ∧ p.due ≤ now := by
  rw [Ctx.hits, (sortPending_perm _).mem_iff, List.mem_filter, decide_eq_true_iff]

/-- What reads a context but not its list of due writes reads it after `Ctx.applyDue` as after the writes in their order. -/
theorem Ctx.applyDue_eq (c : Ctx) (now : Nat) :
    c.applyDue now = { (c.hits now).foldl Ctx.applyWrite c with due := c.due.filter fun p => now < p.due } := rfl

/-- A due write is the last one to its register: each of the others comes before it. -/
def Ctx.LastHit (c : Ctx) (now : Nat) (p : Pending) : Prop :=
  (p ∈ c.due ∧ p.due ≤ now) ∧ ∀ q, (q ∈ c.due ∧ q.due ≤ now) → q.dst = p.dst → q ≠ p → q.before p = true

theorem Ctx.LastHit.foldl {c : Ctx} {now : Nat} {p : Pending} (h : c.LastHit now p) {α : Type} {f : Ctx → α} {v : α}
    (hsame : ∀ c : Ctx, f (c.applyWrite p) = v) (hother : ∀ (q : Pending) (c : Ctx), q.dst ≠ p.dst → f (c.applyWrite q) = f c) :
    f ((c.hits now).foldl Ctx.applyWrite c) = v :=
  foldl_applyWrite_last (sortPending_inOrder _) (Ctx.mem_hits.mpr h.1) (fun q hq => h.2 q (Ctx.mem_hits.mp hq)) hsame hother c

section
variable {c : Ctx} {now : Nat} {q : Pending} {n : Nat}

theorem Ctx.LastHit.x (h : c.LastHit now q) (hc : q.clash = none) (hn : n ≠ 0) (hd : q.dst = .x n) :
    (c.applyDue now).x n = q.val.truncate 64 := by
  refine h.foldl (f := fun c => c.x n) (fun k => ?_) fun r k hr => k.write_x_ne (hd ▸ hr) r.left
  rw [Ctx.applyWrite_x, hd, Ctx.write_x_same _ hn, Pending.left_of_noClash hc]

theorem Ctx.LastHit.v (h : c.LastHit now q) (hc : q.clash = none) (hd : q.dst = .v n) : (c.applyDue now).v n = q.val := by
  refine h.foldl (f := fun c => c.v n) (fun k => ?_) fun r k hr => k.write_v_ne (hd ▸ hr) r.left
  rw [Ctx.applyWrite_v, hd, Ctx.write_v_same, Pending.left_of_noClash hc]

theorem Ctx.LastHit.p (h : c.LastHit now q) (hc : q.clash = none) (hn : n ≠ 0) (hd : q.dst = .p n) :
    (c.applyDue now).p n = q.val.truncate 256 := by
  refine h.foldl (f := fun c => c.p n) (fun k => ?_) fun r k hr => k.write_p_ne (hd ▸ hr) r.left
  rw [Ctx.applyWrite_p, hd, Ctx.write_p_same _ hn, Pending.left_of_noClash hc]

end

section
variable {c : Ctx} {now n : Nat}

theorem Ctx.applyDue_x_kept (h : ∀ p, (p ∈ c.due ∧ p.due ≤ now) → p.dst ≠ .x n) : (c.applyDue now).x n = c.x n :=
  foldl_applyWrite_kept (fun c => c.x n) _ c fun q hq k => k.write_x_ne (h q (Ctx.mem_hits.mp hq)) q.left

theorem Ctx.applyDue_v_kept (h : ∀ p, (p ∈ c.due ∧ p.due ≤ now) → p.dst ≠ .v n) : (c.applyDue now).v n = c.v n :=
  foldl_applyWrite_kept (fun c => c.v n) _ c fun q hq k => k.write_v_ne (h q (Ctx.mem_hits.mp hq)) q.left

theorem Ctx.applyDue_p_kept (h : ∀ p, (p ∈ c.due ∧ p.due ≤ now) → p.dst ≠ .p n) : (c.applyDue now).p n = c.p n :=
  foldl_applyWrite_kept (fun c => c.p n) _ c fun q hq k => k.write_p_ne (h q (Ctx.mem_hits.mp hq)) q.left

end

theorem Ctx.applyDue_fcr (c : Ctx) (now : Nat) : (c.applyDue now).fcr = c.fcr :=
  foldl_applyWrite_kept Ctx.fcr _ c fun q _ k => k.applyWrite_fcr q

theorem foldl_applyWrite_raised (l : List Pending) (c : Ctx) (j : Nat) :
    (l.foldl Ctx.applyWrite c).raised.getLsbD j = (c.raised.getLsbD j || l.any fun p => p.flags.getLsbD j) := by
  induction l generalizing c with
  | nil => simp
  | cons p l ih => rw [List.foldl_cons, ih, Ctx.applyWrite_raised, BitVec.getLsbD_or, List.any_cons, Bool.or_assoc]

/-- The flags of every result that is due are raised (R57). -/
theorem Ctx.applyDue_raised (c : Ctx) (now j : Nat) :
    (c.applyDue now).raised.getLsbD j = (c.raised.getLsbD j || c.due.any fun p => p.due ≤ now && p.flags.getLsbD j) := by
  refine (foldl_applyWrite_raised (c.hits now) c j).trans (congrArg _ ?_)
  rw [Ctx.hits, (sortPending_perm _).any_eq, List.any_filter]

/-- FCR takes the flags raised at the end of the issue cycle (R57). -/
theorem Ctx.gather_flag (c : Ctx) {j : Nat} (hj : j < 6) : c.gather.fcr.getLsbD (8 + j) = (c.fcr.getLsbD (8 + j) || c.raised.getLsbD j) := by
  have hlt : 8 + j < 64 := by omega
  have hge : ¬ 8 + j < 8 := by omega
  simp [Ctx.gather, fcrRaise, hlt, hge]

/-! ### The tile in RESULT_DUE -/

theorem State.resultDue_lag {s : State} {t h : Nat} (hl : (s.tile t).core.lagging h ≠ []) :
    s.resultDue t h = s.updTile t fun x => x.lag ((s.tile t).core.lagging h) := by
  simp [State.resultDue, hl]

theorem foldl_enter_core (h : Nat) (l : List Pending) (x : Tile) :
    (l.foldl (fun x p => (x.soil (p.dst.bank h)).enter (p.dst.number h) (crcOf p.dst.bytes p.left.toNat)) x).core = x.core := by
  induction l generalizing x with
  | nil => rfl
  | cons p l ih => rw [List.foldl_cons, ih]; rfl

theorem State.resultDue_ctx {s : State} {t h : Nat} (hl : (s.tile t).core.lagging h = []) :
    (s.resultDue t h).ctxAt t h = (s.ctxAt t h).applyDue (s.tile t).core.cycle := by
  simp [State.resultDue, hl, State.ctxAt, foldl_enter_core]

theorem foldl_runDomain_kept (l : List Nat) (k : Core) :
    (l.foldl Core.runDomain k).ctxs = k.ctxs ∧ (l.foldl Core.runDomain k).isscnt = k.isscnt := by
  induction l generalizing k with
  | nil => exact ⟨rfl, rfl⟩
  | cons d l ih => exact ih (k.runDomain d)

/-- Settles O15: the due writes are made in their order, and a register takes the last of those to it. -/
theorem resultsTakeEffectInOrderWhenDue : Obligations.ResultsTakeEffectInOrderWhenDue := by
  rintro t h s c rfl
  refine ⟨s.resultDue t h, rfl, State.resultDue_mem s t h, fun hl => ?_, fun hl => ?_⟩
  · rw [State.resultDue_ctx hl]
    exact ⟨fun p n hp hc hn hd => Ctx.LastHit.x hp hc hn hd, fun p n hp hc hd => Ctx.LastHit.v hp hc hd,
      fun p n hp hc hn hd => Ctx.LastHit.p hp hc hn hd, fun n => Ctx.applyDue_x_kept, fun n => Ctx.applyDue_v_kept,
      fun n => Ctx.applyDue_p_kept, Ctx.applyDue_fcr .., fun j _ => Ctx.applyDue_raised .., fun j hj => Ctx.gather_flag _ hj, rfl⟩
  · obtain ⟨hctx, hiss⟩ := foldl_runDomain_kept ((s.tile t).core.lagging h) ((s.tile t).frozen false).core
    rw [State.resultDue_lag hl]
    refine ⟨?_, ?_, ?_⟩
    · rw [State.ctxAt, State.updTile_tile]
      exact congrArg (sget Ctx.reset · h) hctx
    · rw [State.updTile_tile]; rfl
    · rw [State.updTile_tile]; exact hiss

end Sys2Proof.Machine
end

section
/-! SUPPORT, O20. A FENCE before an access that a rerun has not come to again: the mark passes the access over (R333), the statement counts it. -/

namespace Sys2Proof.Machine

/-- A load of tile 0's context 0 that the first run of a region has made and that has not been performed. -/
def rerunLoad : Req := ⟨5, .load, 1, 0, 0, 0, 0x1000, noPa, .x 4, 0, 0, 0, 0, [], .waiting, 0⟩

/-- A rerun of the region that made the load: the context has come to a FENCE, not yet to the load again. -/
def fenceInRerun : State where
  __ := State.reset
  fab := { Fabric.reset with reqs := [rerunLoad] }
  tiles := [(0, { Tile.reset with region := { Region.reset with reuse := [(takeKey .access 0, 5)] } })]
  cur := { Frame.reset with checked := true }

theorem acts_fence_fenceInRerun (kind sc : BitVec 2) : Acts (.fence 0 kind sc) fenceInRerun := ⟨rfl, .inl rfl⟩

theorem unsettled_fenceInRerun : fenceInRerun.unsettled 0 0 = [] := by decide

/-- The mark of a FENCE names the loads among the accesses that `State.unsettled` gives. -/
theorem exec_fence_marks {sp : BitVec 3} {kind sc : BitVec 2} {s : State} (h : Acts (.fence sp kind sc) s) :
    ∃ u, exec (.fence sp kind sc) s = .next u ∧ u.ctx = { s.ctx with fences := s.ctx.fences ++
      [⟨kind.toNat, ((s.unsettled s.cur.tile s.cur.hw).filter fun r => r.kind.isLoad).map (·.id),
        ((s.unsettled s.cur.tile s.cur.hw).filter fun r => r.kind.isStore).map (·.id)⟩] } :=
  ⟨_, exec_of_acts h (by unfold exec execFence; rfl), State.updSelf_ctx ..⟩

end Sys2Proof.Machine

namespace Sys2Proof
open Machine

/-- Refutes O20: in a rerun a FENCE does not mark an open load of its context that the rerun has not come to again (R333). -/
theorem not_fencesDrainsTagsAndEmptyBundlesAct : ¬ Obligations.FencesDrainsTagsAndEmptyBundlesAct := by
  intro h
  have hacts := acts_fence_fenceInRerun 0 0
  obtain ⟨u, m, hu, -, hm, -, hloads, -⟩ := (h.1 0 0 0 0 fenceInRerun).1 hacts
  obtain ⟨v, hv, hmark⟩ := exec_fence_marks hacts
  obtain rfl : v = u := by rw [hv] at hu; exact Host.Outcome.next.inj hu
  have hnone : m.loads = [] := by
    have heq := congrArg Ctx.fences (hm.symm.trans hmark)
    rw [List.append_cancel_left_eq, List.singleton_inj] at heq
    rw [heq]
    exact congrArg (fun l : List Req => (l.filter fun r => r.kind.isLoad).map (·.id)) unsettled_fenceInRerun
  have hin : 5 ∈ m.loads := (hloads 5).mpr ⟨rerunLoad, List.mem_singleton.mpr rfl, rfl, rfl, rfl, rfl, .inl rfl⟩
  rw [hnone] at hin
  cases hin

end Sys2Proof
end

section
/-! SUPPORT, O60. Operations, empty bundles and events answer a next state. -/

namespace Sys2Proof.Machine

theorem ite_next {c : Prop} [Decidable c] {a b : Host.Outcome State Fault Refusal} (ha : c → ∃ u, a = .next u) (hb : ¬ c → ∃ u, b = .next u) :
    ∃ u, (if c then a else b) = .next u := by
  split
  next h => exact ha h
  next h => exact hb h

/-- A request that has been sent to an address of the stack faults nowhere at its home. -/
theorem execHomePortAccess_next {rid : Nat} {corrected : Bool} {s : State}
    (h : ∀ r, s.req rid = some r → r.state = .sent → paLocal r.pa < Config.stackEnd) :
    ∃ u, execHomePortAccess rid s corrected = .next u := by
  unfold execHomePortAccess
  split
  next => exact ⟨_, rfl⟩
  next r hr =>
    refine ite_next (fun _ => ⟨_, rfl⟩) fun _ => ite_next (fun _ => ⟨_, rfl⟩) fun hsent => ?_
    rw [if_neg (Nat.not_le.mpr (h r hr (not_not.mp hsent)))]
    exact ite_next (fun _ => ⟨_, rfl⟩) fun _ => ite_next (fun _ => ⟨_, rfl⟩) fun _ => ⟨_, rfl⟩

/-- Every event but an access at its home is defined by the next state that it answers. -/
theorem event_completes (e : Event) (s : State) : e.completes s := by
  cases e
  case homePortAccess rid corrected => exact execHomePortAccess_next
  all_goals exact ⟨_, rfl⟩

end Sys2Proof.Machine

namespace Sys2Proof
open Machine

/-- Settles O60: an operation of a slot goes through `issueSlot`, and only an access at its home can fault. -/
theorem operationsAndEventsComplete : Obligations.OperationsAndEventsComplete := by
  refine ⟨fun i s hi _ => ?_, fun ckpt solo s => ⟨_, rfl⟩, fun e s => event_completes e s⟩
  obtain ⟨act, hact⟩ := exec_slot i s hi
  rw [hact]
  exact issueSlot_next ..

end Sys2Proof
end

section
/-! SUPPORT. What keeps the frame and the STATUS of every context: every function that an operation of a slot goes through, but taking a trap and ERET. -/

namespace Sys2Proof.Machine

/-! ### Modes -/

/-- STATUS of the contexts of a core. -/
def ctxStatus (cs : Sparse Ctx) (h : Nat) : Dword := (sget Ctx.reset cs h).status

/-- STATUS of the contexts of some tiles. -/
def tileStatus (ts : Sparse Tile) (t : Nat) : Nat → Dword := ctxStatus (sget Tile.reset ts t).core.ctxs

/-- The frame of a state and the STATUS of every context. -/
def State.modes (s : State) : Frame × (Nat → Nat → Dword) := (s.cur, tileStatus s.tiles)

theorem State.cur_of_modes {s u : State} (h : u.modes = s.modes) : u.cur = s.cur := congrArg Prod.fst h

theorem State.status_of_modes {s u : State} (h : u.modes = s.modes) : u.ctx.status = s.ctx.status := by
  have hs : tileStatus u.tiles u.cur.tile u.cur.hw = tileStatus s.tiles s.cur.tile s.cur.hw := by
    rw [show tileStatus u.tiles = tileStatus s.tiles from congrArg Prod.snd h, State.cur_of_modes h]
  exact hs

@[simp] theorem State.modes_mk (mem : List Host.Cell) (badMem : List Nat) (tiles : Sparse Tile) (dies : Sparse Die) (regions : Sparse PowerRegion)
    (fab : Fabric) (jobs : List Job) (ctl : Control) (power : Power) (cur : Frame) (time ptcBase : Nat) (agenda : List (Nat × Event)) (free ids : Nat) :
    State.modes ⟨mem, badMem, tiles, dies, regions, fab, jobs, ctl, power, cur, time, ptcBase, agenda, free, ids⟩ = (cur, tileStatus tiles) := rfl

@[simp] theorem State.modes_eta (s : State) : (s.cur, tileStatus s.tiles) = s.modes := rfl

/-! ### Contexts, cores and tiles -/

@[simp] theorem ite_status (c : Prop) [Decidable c] (a b : Ctx) : (if c then a else b).status = if c then a.status else b.status :=
  apply_ite Ctx.status c a b

@[simp] theorem Core.updCtx_status (k : Core) (h : Nat) (f : Ctx → Ctx) (hf : ∀ c, (f c).status = c.status) :
    ctxStatus (k.updCtx h f).ctxs = ctxStatus k.ctxs := by
  funext j
  rw [ctxStatus, Core.updCtx, sget_sput]
  split
  next hj => rw [hj, hf]; rfl
  next => rfl

/-- Contexts changed in place under their keys. -/
theorem ctxStatus_map (g : Nat × Ctx → Nat × Ctx) (hk : ∀ p, (g p).1 = p.1) (hs : ∀ p, (g p).2.status = p.2.status) (cs : Sparse Ctx) :
    ctxStatus (cs.map g) = ctxStatus cs := by
  funext h
  induction cs with
  | nil => rfl
  | cons p cs ih =>
    have hg : g p = (p.1, (g p).2) := Prod.ext (hk p) rfl
    simp only [ctxStatus, List.map_cons] at ih ⊢
    rw [hg]
    simp only [sget]
    split
    next => exact hs p
    next => exact ih

theorem State.updTile_modes_of {s : State} {t : Nat} {f : Tile → Tile}
    (hf : ctxStatus (f (s.tile t)).core.ctxs = ctxStatus (s.tile t).core.ctxs) : (s.updTile t f).modes = s.modes := by
  refine Prod.ext rfl (funext fun u => ?_)
  change ctxStatus (sget Tile.reset (sput t _ s.tiles) u).core.ctxs = ctxStatus (sget Tile.reset s.tiles u).core.ctxs
  rw [sget_sput]
  split
  next hu => rw [hu, hf]; rfl
  next => rfl

@[simp] theorem State.updTile_modes (s : State) (t : Nat) (f : Tile → Tile) (hf : ∀ x, ctxStatus (f x).core.ctxs = ctxStatus x.core.ctxs) :
    (s.updTile t f).modes = s.modes := State.updTile_modes_of (hf _)

@[simp] theorem State.updCore_modes (s : State) (t : Nat) (f : Core → Core) (hf : ∀ k, ctxStatus (f k).ctxs = ctxStatus k.ctxs) :
    (s.updCore t f).modes = s.modes := State.updTile_modes _ _ _ fun x => hf x.core

@[simp] theorem State.updCtx_modes (s : State) (t h : Nat) (f : Ctx → Ctx) (hf : ∀ c, (f c).status = c.status) :
    (s.updCtx t h f).modes = s.modes := State.updCore_modes _ _ _ fun k => Core.updCtx_status k h f hf

@[simp] theorem State.updSelf_modes (s : State) (f : Ctx → Ctx) (hf : ∀ c, (f c).status = c.status) : (s.updSelf f).modes = s.modes :=
  State.updCtx_modes _ _ _ _ hf

@[simp] theorem State.updMe_modes (s : State) (f : Tile → Tile) (hf : ∀ x, ctxStatus (f x).core.ctxs = ctxStatus x.core.ctxs) :
    (s.updMe f).modes = s.modes := State.updTile_modes _ _ _ hf

@[simp] theorem State.updMyCore_modes (s : State) (f : Core → Core) (hf : ∀ k, ctxStatus (f k).ctxs = ctxStatus k.ctxs) :
    (s.updMyCore f).modes = s.modes := State.updCore_modes _ _ _ hf

/-! ### The rest of the module -/

@[simp] theorem State.ite_modes (c : Prop) [Decidable c] (a b : State) : (if c then a else b).modes = if c then a.modes else b.modes :=
  apply_ite State.modes c a b

@[simp] theorem ite_snd_modes {α : Type} (c : Prop) [Decidable c] (a b : α × State) :
    (if c then a else b).2.modes = if c then a.2.modes else b.2.modes := by split <;> rfl

/-- A fold of steps that each keep the modes keeps them. -/
@[simp] theorem foldl_modes {α : Type} (f : State → α → State) (l : List α) (s : State) (h : ∀ s a, (f s a).modes = s.modes) :
    (l.foldl f s).modes = s.modes := by
  induction l generalizing s with
  | nil => rfl
  | cons a l ih => rw [List.foldl_cons, ih, h]

@[simp] theorem State.updJob_modes (s : State) (n : Nat) (f : Job → Job) : (s.updJob n f).modes = s.modes := rfl
@[simp] theorem State.updFab_modes (s : State) (f : Fabric → Fabric) : (s.updFab f).modes = s.modes := rfl
@[simp] theorem State.updNode_modes (s : State) (n : Nat) (f : Node → Node) : (s.updNode n f).modes = s.modes := rfl
@[simp] theorem State.updPort_modes (s : State) (p : Nat) (f : Port → Port) : (s.updPort p f).modes = s.modes := rfl
@[simp] theorem State.after_modes (s : State) (n : Nat) (e : Event) : (s.after n e).modes = s.modes := rfl
@[simp] theorem State.atTick_modes (s : State) (n : Nat) (e : Event) : (s.atTick n e).modes = s.modes := rfl
@[simp] theorem State.emit_modes (s : State) (o : HostOut) : (s.emit o).modes = s.modes := rfl
@[simp] theorem State.fresh_modes (s : State) : s.fresh.2.modes = s.modes := rfl
@[simp] theorem State.updReq_modes (s : State) (rid : Nat) (f : Req → Req) : (s.updReq rid f).modes = s.modes := rfl
@[simp] theorem State.dropReq_modes (s : State) (rid : Nat) : (s.dropReq rid).modes = s.modes := rfl

@[simp] theorem State.once_modes (s : State) (ticks : Nat) (e : Event) : (s.once ticks e).modes = s.modes := by simp [State.once]
@[simp] theorem State.askRollback_modes (s : State) (t : Nat) : (s.askRollback t).modes = s.modes := by simp [State.askRollback]
@[simp] theorem State.signal_modes (s : State) (port v : Nat) : (s.signal port v).modes = s.modes := by simp [State.signal]
@[simp] theorem State.signalBoth_modes (s : State) (v : Nat) : (s.signalBoth v).modes = s.modes := by simp [State.signalBoth]

/-! ### The acting context and its tile -/

@[simp] theorem State.mustCommit_modes (s : State) (t : Nat) : (s.mustCommit t).modes = s.modes := by simp [State.mustCommit]
@[simp] theorem State.deferAt_modes (s : State) (t : Nat) (d : Deferred) : (s.deferAt t d).modes = s.modes := by simp [State.deferAt]
@[simp] theorem State.defer_modes (s : State) (d : Deferred) : (s.defer d).modes = s.modes := by simp [State.defer]
@[simp] theorem State.jump_modes (s : State) (target : Dword) (extra : Nat) : (s.jump target extra).modes = s.modes := by simp [State.jump]
@[simp] theorem State.countCommand_modes (s : State) : s.countCommand.modes = s.modes := by simp [State.countCommand]
@[simp] theorem State.holdBundle_modes (s : State) : s.holdBundle.modes = s.modes := by simp [State.holdBundle]
@[simp] theorem State.dueFlags_modes (s : State) (dst : Reg) (val : Row) (dom l : Nat) (flags : BitVec 6) :
    (s.dueFlags dst val dom l flags).modes = s.modes := by simp [State.dueFlags]
@[simp] theorem State.due_modes (s : State) (dst : Reg) (val : Row) (dom l : Nat) : (s.due dst val dom l).modes = s.modes := by simp [State.due]
@[simp] theorem State.dueX_modes (s : State) (d : BitVec 5) (val : Dword) (l : Nat) : (s.dueX d val l).modes = s.modes := by simp [State.dueX]
@[simp] theorem vxDue_modes (s : State) (dst : Reg) (val : Row) (l : Nat) (r : Rnd) : (vxDue s dst val l r).modes = s.modes := by simp [vxDue]
@[simp] theorem Tile.soil_core (t : Tile) (d : Dirty) : (t.soil d).core = t.core := rfl
@[simp] theorem State.updRest_modes (s : State) (f : Core → Core) (hf : ∀ k, ctxStatus (f k).ctxs = ctxStatus k.ctxs) :
    (s.updRest f).modes = s.modes := by simp [State.updRest, hf]

@[simp] theorem Tile.enter_core (t : Tile) (n : Nat) (crc : Dword) : (t.enter n crc).core = t.core := rfl
@[simp] theorem Tile.noteStore_core (t : Tile) (id n : Nat) : (t.noteStore id n).core = t.core := rfl

@[simp] theorem Tile.logRow_core (t : Tile) (n : Nat) : (t.logRow n).core = t.core := by
  obtain ⟨u, h⟩ := Tile.logRow_rest t n
  rw [h]

@[simp] theorem Tile.logSpill_core (t : Tile) (h n : Nat) : (t.logSpill h n).core = t.core := by
  unfold Tile.logSpill
  dsimp only
  split <;> rfl

@[simp] theorem Tile.writeRow_ctxs (t : Tile) (n : Nat) (data : Row) (fe fresh : BitVec 32) : (t.writeRow n data fe fresh).core.ctxs = t.core.ctxs := by
  simp [Tile.writeRow]

@[simp] theorem State.storeRow_modes (s : State) (n : Nat) (data : Row) (fe fresh : BitVec 32) : (s.storeRow n data fe fresh).modes = s.modes := by
  simp [State.storeRow]
@[simp] theorem State.storeSpill_modes (s : State) (n : Nat) (data : Row) : (s.storeSpill n data).modes = s.modes := by simp [State.storeSpill]

/-! ### Inputs that reach a tile -/

@[simp] theorem Core.tagIssue_ctxs (k : Core) (tag : Option Nat) : (k.tagIssue tag).ctxs = k.ctxs := by cases tag <;> rfl
@[simp] theorem Core.tagDone_ctxs (k : Core) (tag : Option Nat) (failed : Bool) : (k.tagDone tag failed).ctxs = k.ctxs := by cases tag <;> rfl
@[simp] theorem Ctx.write_status (c : Ctx) (r : Reg) (v : Row) : (c.write r v).status = c.status := by
  unfold Ctx.write
  (repeat' split) <;> rfl
@[simp] theorem Ctx.land_status (c : Ctx) (rid : Nat) (reg : Reg) (val : Row) : (c.land rid reg val).status = c.status := by simp [Ctx.land]
@[simp] theorem Ctx.counted_status (c : Ctx) (old : Bool) : (c.counted old).status = c.status := by simp [Ctx.counted]
@[simp] theorem Ctx.makePending_status (c : Ctx) (now rid : Nat) (reg : Reg) (q : Nat) : (c.makePending now rid reg q).status = c.status := by
  simp [Ctx.makePending]

@[simp] theorem Core.commandDone_status (k : Core) (h : Nat) (copy : Bool) (tag : Option Nat) (failed : Bool) (trap : Option Err) (flags : BitVec 6) :
    ctxStatus (k.commandDone h copy tag failed trap flags).ctxs = ctxStatus k.ctxs := by simp [Core.commandDone]

@[simp] theorem Tile.updCtx_status (x : Tile) (h : Nat) (f : Ctx → Ctx) (hf : ∀ c, (f c).status = c.status) :
    ctxStatus (x.updCtx h f).core.ctxs = ctxStatus x.core.ctxs := Core.updCtx_status _ _ _ hf

@[simp] theorem Tile.applyInput_status (x : Tile) (i : Input) : ctxStatus (x.applyInput i).core.ctxs = ctxStatus x.core.ctxs := by
  cases i <;> simp [Tile.applyInput, Tile.walked, Ctx.putReply]

@[simp] theorem Tile.input_status (x : Tile) (i : Input) : ctxStatus (x.input i).core.ctxs = ctxStatus x.core.ctxs := by
  unfold Tile.input
  split
  · rfl
  · split
    · rfl
    · simp [Tile.note]

@[simp] theorem foldl_soil_core {α : Type} (p : Tile → α → Prop) [∀ x a, Decidable (p x a)] (d : α → Dirty) (l : List α) (x : Tile) :
    (l.foldl (fun x a => if p x a then x else x.soil (d a)) x).core = x.core := by
  induction l generalizing x with
  | nil => rfl
  | cons a l ih =>
    rw [List.foldl_cons, ih]
    split <;> rfl

@[simp] theorem Tile.soilFrom_core (x : Tile) (was : Core) : (x.soilFrom was).core = x.core := by
  unfold Tile.soilFrom
  split
  · rfl
  · dsimp only
    split
    · rw [foldl_soil_core]
    · rw [Tile.soil_core, foldl_soil_core]

@[simp] theorem State.prime_core (s : State) (t : Nat) (x : Tile) : (s.prime t x).core = x.core := by
  unfold State.prime
  split
  · rfl
  · split <;> rfl

@[simp] theorem Tile.catchUp_ctxs (x : Tile) (parts : Nat) : (x.catchUp parts).core.ctxs = x.core.ctxs := by
  unfold Tile.catchUp
  split <;> rfl

@[simp] theorem State.wake_modes (s : State) (t : Nat) : (s.wake t).modes = s.modes :=
  State.updTile_modes _ _ _ fun x => by split <;> simp

@[simp] theorem State.input_modes (s : State) (t : Nat) (i : Input) : (s.input t i).modes = s.modes := by
  unfold State.input
  split <;> simp

@[simp] theorem State.recall_modes (s : State) (kind : Taken) (take : State → Nat × State) (h : ∀ u, (take u).2.modes = u.modes) :
    (s.recall kind take).2.modes = s.modes := by
  unfold State.recall
  dsimp only
  split
  · split
    · simp
    · simp [h]
  · simp [h]

/-! ### Requests on their way -/

@[simp] theorem State.launchLater_modes (s : State) (wait : Nat) (p : Packet) (src : Nat) (ready : Nat) :
    (s.launchLater wait p src ready).2.modes = s.modes := by
  unfold State.launchLater
  split <;> simp

@[simp] theorem State.launchFlight_modes (s : State) (p : Packet) (src : Nat) (ready : Nat) : (s.launchFlight p src ready).2.modes = s.modes := by
  simp [State.launchFlight]
@[simp] theorem State.sendOn_modes (s : State) (p : Packet) (key : Nat) : (s.sendOn p key).modes = s.modes := by simp [State.sendOn]
@[simp] theorem State.sendPacket_modes (s : State) (src dst cls beats : Nat) (load : Payload) :
    (s.sendPacket src dst cls beats load).modes = s.modes := by simp [State.sendPacket]

@[simp] theorem State.newReq_modes (s : State) (kind : ReqKind) (q : Nat) (ea : Dword) (reg : Reg) (opnd aux : Dword) (data : Row) (st : ReqState) :
    (s.newReq kind q ea reg opnd aux data st).2.modes = s.modes := by simp [State.newReq]
@[simp] theorem State.engineReq_modes (s : State) (t h job : Nat) (kind : ReqKind) (ea opnd : Dword) (data : Row) (cmdix : BitVec 32) (after : List Nat)
    (st : ReqState) : (s.engineReq t h job kind ea opnd data cmdix after st).2.modes = s.modes := by simp [State.engineReq]
@[simp] theorem State.countAccess_modes (s : State) (old : Bool) : (s.countAccess old).modes = s.modes := by simp [State.countAccess]
@[simp] theorem State.uncount_modes (s : State) (r : Req) : (s.uncount r).modes = s.modes := by simp [State.uncount]

@[simp] theorem State.dispatchReq_modes (s : State) (r : Req) : (s.dispatchReq r).modes = s.modes := by
  unfold State.dispatchReq
  dsimp only
  split
  · simp
  · split
    · split <;> simp
    · simp

@[simp] theorem State.askWalk_modes (s : State) (r : Req) : (s.askWalk r).modes = s.modes := by
  unfold State.askWalk
  split
  · rfl
  · simp

@[simp] theorem State.faultReq_modes (s : State) (r : Req) (code : Nat) : (s.faultReq r code).modes = s.modes := by simp [State.faultReq]
@[simp] theorem State.arriveSem_modes (s : State) (t k n : Nat) (set : Bool) : (s.arriveSem t k n set).modes = s.modes := by simp [State.arriveSem]
@[simp] theorem State.arriveBar_modes (s : State) (t k n : Nat) (set : Bool) : (s.arriveBar t k n set).modes = s.modes := by simp [State.arriveBar]
@[simp] theorem State.signalError_modes (s : State) (r : Req) (target : Nat) : (s.signalError r target).modes = s.modes := by simp [State.signalError]

@[simp] theorem State.sendSignal_modes (s : State) (r : Req) (target : Nat) (perform : State → State) (h : ∀ u, (perform u).modes = u.modes) :
    (s.sendSignal r target perform).modes = s.modes := by
  simp [State.sendSignal, h]

@[simp] theorem State.sendAlong_modes (s : State) (src dst : Nat) (e : Event) (spent : Nat) : (s.sendAlong src dst e spent).modes = s.modes := by
  simp [State.sendAlong]

@[simp] theorem State.sendTree_modes (s : State) (r : Req) (tree : Nat) : (s.sendTree r tree).modes = s.modes := by
  unfold State.sendTree
  split <;> simp

@[simp] theorem State.answer_modes (s : State) (rid : Nat) (v : Dword) : (s.answer rid v).modes = s.modes := by simp [State.answer]

@[simp] theorem State.tryReq_modes (s : State) (r : Req) : (s.tryReq r).modes = s.modes := by
  cases hk : r.kind with
  | sem t k n set o => cases o <;> simp [State.tryReq, hk]
  | fetch | cancel | tree | item | copyTo | spec | bar => simp [State.tryReq, hk]
  | _ =>
    simp [State.tryReq, hk]
    split <;> simp

@[simp] theorem State.kick_modes (s : State) (t : Nat) : (s.kick t).modes = s.modes := by simp [State.kick]

@[simp] theorem State.sendAccess_modes (s : State) (kind : ReqKind) (q : Nat) (ea : Dword) (reg : Reg) (opnd aux : Dword) :
    (s.sendAccess kind q ea reg opnd aux).modes = s.modes := by simp [State.sendAccess]
@[simp] theorem State.deferAccess_modes (s : State) (kind : ReqKind) (q : Nat) (ea : Dword) (reg : Reg) (opnd aux : Dword) (data : Row) :
    (s.deferAccess kind q ea reg opnd aux data).modes = s.modes := by simp [State.deferAccess]

/-! ### System registers, commands and work -/

@[simp] theorem State.sysWrite_modes (s : State) (n : Nat) (v : Dword) : (s.sysWrite n v).modes = s.modes := by
  unfold State.sysWrite
  split <;> simp

@[simp] theorem State.queueCopy_modes (s : State) (i : Instr) (g : Dword) (row src : Nat) (third : Dword) :
    (s.queueCopy i g row src third).modes = s.modes := by simp [State.queueCopy]
@[simp] theorem Core.enqueue_ctxs (k : Core) (o : ArrayOp) (phase : Nat) : (k.enqueue o phase).ctxs = k.ctxs := rfl

@[simp] theorem State.queueArray_modes (s : State) (i : Instr) (row entry phase : Nat) (data : Row) :
    (s.queueArray i row entry phase data).modes = s.modes := by
  unfold State.queueArray
  dsimp only
  rw [State.updSelf_modes]
  · exact (State.updTile_modes_of (congrArg ctxStatus (Core.enqueue_ctxs ..))).trans s.fresh_modes
  · exact fun _ => rfl
@[simp] theorem State.queueProduct_modes (s : State) (i : Instr) (a : BitVec 5) (off : BitVec 10) : (s.queueProduct i a off).modes = s.modes := by
  simp [State.queueProduct]
@[simp] theorem State.queueMatrix_modes (s : State) (i : Instr) (row rm : Nat) (slab : Dword) : (s.queueMatrix i row rm slab).modes = s.modes := by
  simp [State.queueMatrix]
@[simp] theorem State.queueSignal_modes (s : State) (kind : ReqKind) (loc : Bool) : (s.queueSignal kind loc).modes = s.modes := by simp [State.queueSignal]

@[simp] theorem State.updUnitOf_modes (s : State) (c : Ctx) (f : WorkUnit → WorkUnit) : (s.updUnitOf c f).modes = s.modes := by
  unfold State.updUnitOf State.updUnit
  split <;> simp

@[simp] theorem State.updSlot_modes (s : State) (jobNum t h : Nat) (inst : Option Nat) (slot : Nat) (f : Nat → Nat) :
    (s.updSlot jobNum t h inst slot f).modes = s.modes := by
  unfold State.updSlot
  split <;> simp

@[simp] theorem State.takeLid_modes (s : State) (jobNum : Nat) : (s.takeLid jobNum).2.modes = s.modes := by simp [State.takeLid]
@[simp] theorem State.addWork_modes (s : State) (jobNum : Nat) (w : Work) : (s.addWork jobNum w).modes = s.modes := by simp [State.addWork]

end Sys2Proof.Machine
end

section
/-! SUPPORT and O38. An operation of a slot keeps device memory, and its context's STATUS but for the bit that a trap sets and ERET clears. -/

namespace Sys2Proof.Machine

/-- The acting context has entered the handler (R371). -/
def State.EntersHandler (s t : State) : Prop := t.ctx.status = s.ctx.status ||| 8 ∧ t.ctx.pc = Config.trapEntry

/-- The modes stay, but for those of an acting context that enters the handler. -/
def State.KeepsModes (s t : State) : Prop := t.modes = s.modes ∨ s.EntersHandler t

theorem State.precise_entersHandler (s : State) (code aux w3 w2 : Nat) : s.EntersHandler (s.precise code aux w3 w2) := by
  rw [State.EntersHandler, State.precise_ctx]
  exact ⟨rfl, rfl⟩

theorem State.signalBoth_ctx (s : State) (v : Nat) : (s.signalBoth v).ctx = s.ctx := by
  have hc : (s.signalBoth v).cur = s.cur := State.cur_of_modes (State.signalBoth_modes s v)
  rw [State.ctx, State.me, State.tile, State.signalBoth_tiles, hc]
  rfl

theorem State.raise_keepsModes (s : State) (code aux w3 w2 : Nat) : s.KeepsModes (s.raise code aux w3 w2) := by
  unfold State.raise
  split
  · exact .inl (State.askRollback_modes ..)
  · right
    dsimp only
    split
    · rw [State.EntersHandler, State.signalBoth_ctx]
      exact s.precise_entersHandler ..
    · exact s.precise_entersHandler ..

/-- What becomes of an operation at its issue keeps the modes where its own effect does. -/
theorem issueSlot_keepsModes {sp : BitVec 3} {i : Instr} {s t : State} {act : State → State} {P : State → Prop} (hP : ∀ u, s.KeepsModes u → P u)
    (hact : P (act s)) (h : issueSlot sp i s act = .next t) : P t := by
  obtain rfl := Host.Outcome.next.inj h
  split
  · exact hP _ (.inl rfl)
  · split
    · exact hact
    · split
      · exact hact
      · exact hP _ (State.raise_keepsModes ..)
      · exact hP _ (.inl (State.holdBundle_modes s))
      · exact hP _ (.inl (State.updMe_modes _ _ fun x => rfl))
      · exact hP _ (.inl rfl)

/-- An operation whose own effect keeps the modes keeps them, or traps. -/
theorem keepsModes_of_issueSlot {sp : BitVec 3} {i : Instr} {s t : State} {act : State → State} (hact : ∀ u, (act u).modes = u.modes)
    (h : issueSlot sp i s act = .next t) : s.KeepsModes t :=
  issueSlot_keepsModes (fun _ hu => hu) (.inl (hact s)) h

theorem State.takeTrap_entersHandler (s : State) (i : TrapInfo) (epc : Dword) : s.EntersHandler (s.takeTrap s.cur.tile s.cur.hw i epc) := by
  simp [State.EntersHandler, State.takeTrap, State.deferAt, State.ctx, State.me, State.updCtx, State.ctxAt, Ctx.enterTrap]

end Sys2Proof.Machine
end

section
/-! SUPPORT. Roundings step LFSR under the stochastic mode alone (R74). -/

namespace Sys2Proof.Machine

/-- A rounding state after another of the same work: the mode stays, and LFSR too unless the mode is the stochastic one. -/
def Rnd.Keeps (r r' : Rnd) : Prop := r'.mode = r.mode ∧ (r.mode ≠ 4 → r'.lfsr = r.lfsr)

theorem Rnd.Keeps.rfl {r : Rnd} : r.Keeps r := ⟨Eq.refl _, fun _ => Eq.refl _⟩

theorem Rnd.Keeps.trans {a b c : Rnd} (h : a.Keeps b) (g : b.Keeps c) : a.Keeps c :=
  ⟨g.1.trans h.1, fun ha => (g.2 (h.1 ▸ ha)).trans (h.2 ha)⟩

theorem Rnd.Keeps.flags {r r' : Rnd} (h : r.Keeps r') (f : BitVec 6) : r.Keeps { r' with flags := f } := h

theorem Rnd.Keeps.raise {r r' : Rnd} (h : r.Keeps r') (f : BitVec 6) : r.Keeps (r'.raise f) := h

theorem Rnd.Keeps.ite {r a b : Rnd} {c : Prop} [Decidable c] (ha : r.Keeps a) (hb : r.Keeps b) : r.Keeps (if c then a else b) := by
  split
  · exact ha
  · exact hb

theorem Rnd.Keeps.ite_snd {α : Type} {r : Rnd} {a b : α × Rnd} {c : Prop} [Decidable c] (ha : r.Keeps a.2) (hb : r.Keeps b.2) :
    r.Keeps (if c then a else b).2 := by
  split
  · exact ha
  · exact hb

theorem Rnd.keeps_step (r : Rnd) : r.Keeps r.step := by
  unfold Rnd.step
  split
  next h => exact ⟨rfl, fun hne => absurd h hne⟩
  next => exact .rfl

/-! ### Roundings of one value -/

theorem roundFin_keeps (f : Fmt) (r : Rnd) (neg : Bool) (mag : Nat) (exp : Int) : r.Keeps (roundFin f r neg mag exp).2 := by
  simp only [roundFin]
  exact .ite_snd (Rnd.Keeps.rfl.raise _) (.ite .rfl (Rnd.Keeps.rfl.raise _))

theorem fround_keeps (f : Fmt) (r : Rnd) (x : FV) : r.Keeps (fround f r x).2 := by
  cases x with
  | nan => exact r.keeps_step
  | inf neg => exact .ite_snd (r.keeps_step.raise _) r.keeps_step
  | fin neg mag exp => exact .ite_snd r.keeps_step (r.keeps_step.trans (roundFin_keeps ..))

theorem fToInt_keeps (w : Nat) (natural : Bool) (r : Rnd) (x : FV) : r.Keeps (fToInt w natural r x).2 := by
  cases x with
  | nan => exact r.keeps_step.raise _
  | inf neg => exact r.keeps_step.raise _
  | fin neg mag exp =>
    simp only [fToInt]
    exact .ite_snd (r.keeps_step.raise _) (.ite_snd (r.keeps_step.raise _) (.ite r.keeps_step (r.keeps_step.raise _)))

theorem packElem_keeps (t s : Nat) (r : Rnd) (x : FV) : r.Keeps (packElem t s r x).2 := by
  cases x with
  | nan => exact r.keeps_step.raise _
  | inf neg => exact r.keeps_step.raise _
  | fin neg mag exp =>
    have hx (c : Prop) [Decidable c] (q : Rnd) (hq : r.Keeps q) (f : BitVec 6) : r.Keeps (if c then q.raise f else q) := .ite (hq.raise f) hq
    simp only [packElem]
    exact hx _ _ (hx _ _ (.ite r.keeps_step (r.keeps_step.raise _)) _) _

theorem roundSum_keeps (f : Fmt) (r : Rnd) (bad : Bool) (xs : List FV) : r.Keeps (roundSum f r bad xs).2 := by
  simp only [roundSum]
  exact .ite ((fround_keeps ..).raise _) (fround_keeps ..)

theorem convert_keeps (src dst : NumFmt) (r : Rnd) (b : Nat) : r.Keeps (convert src dst r b).2 := by
  cases src with
  | int sw sn =>
    cases dst with
    | int dw dn => exact .rfl
    | flt f => exact fround_keeps ..
  | flt s =>
    cases dst with
    | int w n => exact fToInt_keeps ..
    | flt f =>
      simp only [convert]
      exact .ite_snd .rfl (fround_keeps ..)

/-! ### Roundings in order -/

theorem mapRnd_keeps {α β : Type} {f : Rnd → α → β × Rnd} (hf : ∀ (r : Rnd) x, r.Keeps (f r x).2) (r : Rnd) (xs : List α) :
    r.Keeps (mapRnd f r xs).2 := by
  induction xs generalizing r with
  | nil => exact .rfl
  | cons x xs ih => exact (hf r x).trans (ih _)

theorem packBlock_keeps (t : Nat) (r : Rnd) (xs : List FV) : r.Keeps (packBlock t r xs).2.2 := mapRnd_keeps (packElem_keeps t _) r xs

theorem treeLevel_keeps {f : Rnd → Nat → Nat → Nat × Rnd} (hf : ∀ (r : Rnd) x y, r.Keeps (f r x y).2) :
    ∀ (r : Rnd) (xs : List (Option Nat)), r.Keeps (treeLevel f r xs).2
  | _, [] => .rfl
  | _, [_] => .rfl
  | r, none :: _ :: xs => treeLevel_keeps hf r xs
  | r, some _ :: none :: xs => treeLevel_keeps hf r xs
  | r, some a :: some b :: xs => (hf r a b).trans (treeLevel_keeps hf _ xs)

theorem treeRoot_keeps {f : Rnd → Nat → Nat → Nat × Rnd} (hf : ∀ (r : Rnd) x y, r.Keeps (f r x y).2) (n : Nat) (r : Rnd) (xs : List (Option Nat)) :
    r.Keeps (treeRoot f n r xs).2 := by
  induction n generalizing r xs with
  | zero => exact .rfl
  | succ n ih => exact (treeLevel_keeps hf r xs).trans (ih ..)

theorem scanLanes_keeps {add : Rnd → Nat → Nat → Nat × Rnd} (hf : ∀ (r : Rnd) x y, r.Keeps (add r x y).2) (r : Rnd) (acc : Nat)
    (xs : List (Bool × Nat × Nat)) : r.Keeps (scanLanes add r acc xs).2 := by
  induction xs generalizing r acc with
  | nil => exact .rfl
  | cons x xs ih =>
    obtain ⟨on, x, base⟩ := x
    simp only [scanLanes]
    exact .ite_snd ((hf r acc x).trans (ih ..)) (ih ..)

/-! ### Lane functions -/

/-- A lane function keeps the rounding state but for its roundings. -/
def LaneKeeps (f : LaneFn) : Prop := ∀ (r : Rnd) a b c, r.Keeps (f r a b c).2

theorem LaneKeeps.ite {c : Prop} [Decidable c] {f g : LaneFn} (hf : LaneKeeps f) (hg : LaneKeeps g) : LaneKeeps (if c then f else g) := by
  split
  · exact hf
  · exact hg

theorem laneKeeps_intFn (w : Nat) (f : Int → Int → Int) (nat : Bool) : LaneKeeps (intFn w f nat) := fun _ _ _ _ => .rfl
theorem laneKeeps_bitFn (f : Nat → Nat → Nat) : LaneKeeps (bitFn f) := fun _ _ _ _ => .rfl
theorem laneKeeps_fmmFn (f : Fmt) (hi : Bool) : LaneKeeps (fmmFn f hi) := fun _ _ _ _ => .rfl
theorem laneKeeps_sumFn (f : Fmt) (neg : Bool) : LaneKeeps (sumFn f neg) := fun _ _ _ _ => roundSum_keeps ..
theorem laneKeeps_fmaFn (f : Fmt) (neg : Bool) : LaneKeeps (fmaFn f neg) := fun _ _ _ _ => roundSum_keeps ..
theorem laneKeeps_mulFn (f : Fmt) : LaneKeeps (mulFn f) := fun _ _ _ _ => .ite ((fround_keeps ..).raise _) (fround_keeps ..)
theorem laneKeeps_signFn (f : Fmt) (abs : Bool) : LaneKeeps (signFn f abs) := fun _ _ _ _ => .ite_snd .rfl .rfl

theorem gatedLanes_keeps {f : LaneFn} (hf : LaneKeeps f) (w : Nat) (act : List Bool) (base a b c : List Nat) (r : Rnd) :
    r.Keeps (gatedLanes w act base a b c r f).2 :=
  mapRnd_keeps (fun _ _ => .ite_snd (hf ..) .rfl) r _

end Sys2Proof.Machine
end

section
/-! SUPPORT. The operations of the arith and vector slots: results due in their destinations and nothing else (R30, R36, R81, R99). -/

namespace Sys2Proof.Machine

/-! ### Results -/

theorem taint_map_reg_rid (r : Reg) (ps : List PendDest) : (taint r ps).map (fun d => (d.reg, d.rid)) = ps.map fun d => (d.reg, d.rid) := by
  rw [taint, List.map_map]
  refine List.map_congr_left fun d _ => ?_
  simp only [Function.comp_apply]
  split <;> rfl

/-- A context after results for some registers have become due: pending destinations may be tainted, LFSR moves under the stochastic mode alone. -/
structure Ctx.Results (rs : List Reg) (c c' : Ctx) : Prop where
  rest : { c' with due := c.due, pend := c.pend, lfsr := c.lfsr } = c
  pends : c'.pend.map (fun d => (d.reg, d.rid)) = c.pend.map fun d => (d.reg, d.rid)
  due : ∃ ps, c'.due = c.due ++ ps ∧ ps.map (·.dst) = rs
  lfsr : fcrRm c.fcr ≠ 4 → c'.lfsr = c.lfsr

theorem Ctx.Results.status {rs : List Reg} {c c' : Ctx} (h : c.Results rs c') : c'.status = c.status := (congrArg Ctx.status h.rest :)
theorem Ctx.Results.fcr {rs : List Reg} {c c' : Ctx} (h : c.Results rs c') : c'.fcr = c.fcr := (congrArg Ctx.fcr h.rest :)

theorem Ctx.Results.trans {rs rs' : List Reg} {a b c : Ctx} (h : a.Results rs b) (g : b.Results rs' c) : a.Results (rs ++ rs') c where
  rest := by
    calc { c with due := a.due, pend := a.pend, lfsr := a.lfsr }
      _ = { { c with due := b.due, pend := b.pend, lfsr := b.lfsr } with due := a.due, pend := a.pend, lfsr := a.lfsr } := rfl
      _ = { b with due := a.due, pend := a.pend, lfsr := a.lfsr } := by rw [g.rest]
      _ = a := h.rest
  pends := g.pends.trans h.pends
  due := by
    obtain ⟨ps, hps, hr⟩ := h.due
    obtain ⟨qs, hqs, hr'⟩ := g.due
    exact ⟨ps ++ qs, by rw [hqs, hps, List.append_assoc], by rw [List.map_append, hr, hr']⟩
  lfsr hm := (g.lfsr (h.fcr ▸ hm)).trans (h.lfsr hm)

theorem OnlyContext.cur {s t : State} (h : OnlyContext s t) : t.cur = s.cur := (congrArg State.cur h.outside :)
theorem OnlyContext.mem {s t : State} (h : OnlyContext s t) : t.mem = s.mem := (congrArg State.mem h.outside :)

/-- A tile with other contexts. -/
def Tile.withCtxs (cs : Sparse Ctx) (x : Tile) : Tile := { x with core := { x.core with ctxs := cs } }

theorem OnlyContext.trans {s t u : State} (h : OnlyContext s t) (g : OnlyContext t u) : OnlyContext s u where
  outside := by
    calc { u with tiles := s.tiles }
      _ = { { u with tiles := t.tiles } with tiles := s.tiles } := rfl
      _ = { t with tiles := s.tiles } := by rw [g.outside]
      _ = s := h.outside
  others n hn := (g.others n (h.cur ▸ hn)).trans (h.others n hn)
  tile := (congrArg (Tile.withCtxs s.me.core.ctxs) g.tile).trans h.tile
  contexts n hn := (g.contexts n (h.cur ▸ hn)).trans (h.contexts n hn)

/-- A state after results of the acting context for some registers have become due. -/
structure State.Results (rs : List Reg) (s t : State) : Prop where
  only : OnlyContext s t
  ctx : s.ctx.Results rs t.ctx

theorem State.Results.trans {rs rs' : List Reg} {s t u : State} (h : s.Results rs t) (g : t.Results rs' u) : s.Results (rs ++ rs') u :=
  ⟨h.only.trans g.only, h.ctx.trans g.ctx⟩

theorem State.dueFlags_results (s : State) (dst : Reg) (val : Row) (dom l : Nat) (flags : BitVec 6) :
    s.Results [dst] (s.dueFlags dst val dom l flags) where
  only := State.updSelf_onlyContext ..
  ctx := by
    rw [State.dueFlags_ctx]
    exact ⟨rfl, taint_map_reg_rid .., ⟨_, rfl, rfl⟩, fun _ => rfl⟩

theorem State.due_results (s : State) (dst : Reg) (val : Row) (dom l : Nat) : s.Results [dst] (s.due dst val dom l) := s.dueFlags_results ..

theorem vxDue_results {s : State} {r : Rnd} (hr : s.ctx.rnd.Keeps r) (dst : Reg) (val : Row) (l : Nat) : s.Results [dst] (vxDue s dst val l r) := by
  have hl : s.Results [] (s.updSelf fun c => { c with lfsr := r.lfsr }) := by
    refine ⟨State.updSelf_onlyContext .., ?_⟩
    rw [State.updSelf_ctx]
    exact ⟨rfl, rfl, ⟨[], (List.append_nil _).symm, rfl⟩, hr.2⟩
  exact hl.trans (State.dueFlags_results ..)

theorem gatedOp_results {f : LaneFn} (hf : LaneKeeps f) (s : State) (d : BitVec 5) (av bv : Row) (p : BitVec 3) (w : Nat) (z : BitVec 1)
    (readsD : Bool) (l : Nat) : s.Results [rV d] (gatedOp s d av bv p w z readsD l f) :=
  vxDue_results (gatedLanes_keeps hf w ..) ..

/-! ### How an operation is issued -/

/-- An operation goes through `issueSlot`, and its own effect relates every state to the one that it answers. -/
def IssuesAs (i : Instr) (s : State) (o : Host.Outcome State Fault Refusal) (P : State → State → Prop) : Prop :=
  ∃ act, o = issueSlot i.sp i s act ∧ ∀ u, P u (act u)

theorem alu2_issuesAs (i : Instr) (d a b : BitVec 5) (n : Nat) (f : Dword → Dword → Dword) (s : State) :
    IssuesAs i s (alu2 i.sp i d a b n f s) (State.Results [rX d]) := ⟨_, rfl, fun _ => State.due_results ..⟩

theorem alu1_issuesAs (i : Instr) (d a : BitVec 5) (f : Dword → Dword) (s : State) :
    IssuesAs i s (alu1 i.sp i d a f s) (State.Results [rX d]) := ⟨_, rfl, fun _ => State.due_results ..⟩

/-- An operation of the arith slots has its result due in its destination. -/
theorem exec_arith_issuesAs (i : Instr) (s : State) (hu : i.layout.any (·.1 matches .arith) = true) :
    IssuesAs i s (exec i s) (State.Results i.dests) := by
  cases i
  all_goals try exact absurd hu Bool.false_ne_true
  all_goals
    delta exec
    dsimp only
  case clz | popc | bext | addi | andi | ori | xori | shli | shri | sari | slti | sltni | seqi => exact alu1_issuesAs ..
  case sel | bins | movl | cati => exact ⟨_, rfl, fun _ => State.due_results ..⟩
  all_goals exact alu2_issuesAs ..

/-! ### The vector slot -/

theorem compareOp_issuesAs (i : Instr) (d a b : BitVec 5) (p ty : BitVec 3) (z : BitVec 1) (fi : Nat → Nat → Bool) (ff : FV → FV → Bool) (s : State) :
    IssuesAs i s (compareOp i.sp i d a b p ty z fi ff s) (State.Results [rP5 d]) := ⟨_, rfl, fun _ => State.due_results ..⟩

theorem reduceOp_issuesAs (i : Instr) (d a : BitVec 5) (p ty : BitVec 3) (nat : BitVec 1) (none_ : Nat) (fi : Int → Int → Int)
    {ff : Rnd → Nat → Nat → Nat × Rnd} (hf : ∀ (r : Rnd) x y, r.Keeps (ff r x y).2) (s : State) :
    IssuesAs i s (reduceOp i.sp i d a p ty nat none_ fi ff s) (State.Results [rX d]) := by
  refine ⟨_, rfl, fun u => ?_⟩
  extract_lets w leaf g f xs
  have hr : u.ctx.rnd.Keeps (treeRoot f 8 u.ctx.rnd xs).2 := treeRoot_keeps (fun _ _ _ => .ite_snd .rfl (hf ..)) ..
  generalize treeRoot f 8 u.ctx.rnd xs = m at hr ⊢
  obtain ⟨root, r⟩ := m
  exact vxDue_results hr ..

theorem execVscan_issuesAs (sp : BitVec 3) (d a : BitVec 5) (p ty : BitVec 3) (z : BitVec 1) (s : State) :
    IssuesAs (.vscan sp d a p ty z) s (execVscan sp d a p ty z s) (State.Results [rV d]) := by
  refine ⟨_, rfl, fun u => ?_⟩
  extract_lets w base add
  have hr (xs : List (Bool × Nat × Nat)) : u.ctx.rnd.Keeps (scanLanes add u.ctx.rnd 0 xs).2 :=
    scanLanes_keeps (fun _ _ _ => .ite_snd .rfl (laneKeeps_sumFn _ _ _ _ _ _)) ..
  exact vxDue_results (hr _) ..

theorem execVcvt_issuesAs (sp : BitVec 3) (d a : BitVec 5) (smod : BitVec 1) (sty h ty : BitVec 3) (dmod z : BitVec 1) (s : State) :
    IssuesAs (.vcvt sp d a smod sty h ty dmod z) s (execVcvt sp d a smod sty h ty dmod z s) (State.Results [rV d]) := by
  refine ⟨_, rfl, fun u => ?_⟩
  extract_lets ws wd ls ld conv src
  have hr (xs : List Nat) : u.ctx.rnd.Keeps (mapRnd conv u.ctx.rnd xs).2 := mapRnd_keeps (convert_keeps _ _) ..
  split
  · exact vxDue_results (hr _) ..
  · split
    · exact vxDue_results (hr _) ..
    · exact vxDue_results (hr _) ..

theorem execVpack4_issuesAs (sp : BitVec 3) (d a b : BitVec 5) (h ty : BitVec 3) (bt : BitVec 2) (s : State) :
    IssuesAs (.vpack4 sp d a b h ty bt) s (execVpack4 sp d a b h ty bt s) (State.Results [rV d, rV b]) := by
  refine ⟨_, rfl, fun u => ?_⟩
  extract_lets w nb src
  generalize hm : mapRnd (β := Nat × List Nat) _ _ _ = m
  have hr : u.ctx.rnd.Keeps m.2 := by
    rw [← hm]
    refine mapRnd_keeps (fun r k => ?_) _ _
    exact packBlock_keeps bt.toNat r _
  obtain ⟨blocks, r⟩ := m
  exact (vxDue_results hr ..).trans (State.due_results ..)

theorem execVunpk4_issuesAs (sp : BitVec 3) (d a b : BitVec 5) (h ty : BitVec 3) (s : State) :
    IssuesAs (.vunpk4 sp d a b h ty) s (execVunpk4 sp d a b h ty s) (State.Results [rV d]) := by
  refine ⟨_, rfl, fun u => ?_⟩
  extract_lets f nb src
  generalize hm : mapRnd (β := Nat) _ _ _ = m
  have hr : u.ctx.rnd.Keeps m.2 := hm ▸ mapRnd_keeps (fun _ _ => .ite ((fround_keeps ..).raise _) (fround_keeps ..)) ..
  exact vxDue_results hr ..

theorem execVcord_issuesAs (sp : BitVec 3) (d a n : BitVec 5) (func ty : BitVec 3) (s : State) :
    IssuesAs (.vcord sp d a n func ty) s (execVcord sp d a n func ty s) (State.Results [rV d]) := by
  refine ⟨_, rfl, fun u => ?_⟩
  extract_lets f
  generalize hm : mapRnd (β := Nat) _ _ _ = m
  have hr : u.ctx.rnd.Keeps m.2 := by
    rw [← hm]
    refine mapRnd_keeps (fun r x => ?_) _ _
    exact (fround_keeps f { r with flags := 0 } _).flags _
  exact vxDue_results hr ..

/-- An operation of the vector slot has its results due in its destinations. -/
theorem exec_vector_issuesAs (i : Instr) (s : State) (hu : i.layout.any (·.1 matches .vector) = true) :
    IssuesAs i s (exec i s) (State.Results i.dests) := by
  cases i
  all_goals try exact absurd hu Bool.false_ne_true
  all_goals
    delta exec
    dsimp only
  case vadd | vsub => exact ⟨_, rfl, fun _ => gatedOp_results (.ite (laneKeeps_intFn _ _ _) (laneKeeps_sumFn _ _)) ..⟩
  case vmul => exact ⟨_, rfl, fun _ => gatedOp_results (.ite (laneKeeps_intFn _ _ _) (laneKeeps_mulFn _)) ..⟩
  case vfma | vfms => exact ⟨_, rfl, fun _ => gatedOp_results (.ite (fun _ _ _ _ => .rfl) (laneKeeps_fmaFn _ _)) ..⟩
  case vmin | vmax => exact ⟨_, rfl, fun _ => gatedOp_results (.ite (laneKeeps_intFn _ _ _) (laneKeeps_fmmFn _ _)) ..⟩
  case vabs | vneg => exact ⟨_, rfl, fun _ => gatedOp_results (.ite (laneKeeps_bitFn _) (laneKeeps_signFn _ _)) ..⟩
  case vminn | vmaxn | vmulh | vmulhn => exact ⟨_, rfl, fun _ => gatedOp_results (laneKeeps_intFn _ _ _) ..⟩
  case vdot => exact ⟨_, rfl, fun _ => gatedOp_results (fun _ _ _ _ => .ite_snd .rfl (roundSum_keeps ..)) ..⟩
  case vcmpeq | vcmpne | vcmplt | vcmple | vcmpltn | vcmpun => exact compareOp_issuesAs ..
  case vredadd => exact reduceOp_issuesAs _ _ _ _ _ _ _ _ (fun _ _ _ => laneKeeps_sumFn _ _ _ _ _ _) _
  case vredmax | vredmin => exact reduceOp_issuesAs _ _ _ _ _ _ _ _ (fun _ _ _ => .rfl) _
  case vscan => exact execVscan_issuesAs ..
  case vcvt => exact execVcvt_issuesAs ..
  case vpack4 => exact execVpack4_issuesAs ..
  case vunpk4 => exact execVunpk4_issuesAs ..
  case vcord => exact execVcord_issuesAs ..
  case vsel | vext | vins | vmerge | pand | por | pxor | pnot | pcnt | pfirst | ptail => exact ⟨_, rfl, fun _ => State.due_results ..⟩
  all_goals exact ⟨_, rfl, fun _ => gatedOp_results (laneKeeps_bitFn _) ..⟩

end Sys2Proof.Machine
end

section
/-! SUPPORT and O37. The operations on scratch rows and spill blocks: the row of their address, the spill store and results due (R154, R156, R160, R165). -/

namespace Sys2Proof.Machine

/-- A state after operations of the acting context on its spill store and on the rows of `P`, with results for some registers due. -/
structure State.Touches (P : Nat → Prop) (rs : List Reg) (s t : State) : Prop where
  outside : { t with tiles := s.tiles } = s
  others : ∀ u, u ≠ s.cur.tile → t.tile u = s.tile u
  contexts : ∀ h, h ≠ s.cur.hw → t.me.core.ctx h = s.me.core.ctx h
  rows : ∀ n, ¬ P (n % 1024) → t.me.core.row n = s.me.core.row n ∧ t.me.core.feBits n = s.me.core.feBits n
  rest : { t.ctx with due := s.ctx.due, pend := s.ctx.pend, spill := s.ctx.spill } = s.ctx
  due : ∃ ps, t.ctx.due = s.ctx.due ++ ps ∧ ps.map (·.dst) = rs

theorem State.Touches.cur {P : Nat → Prop} {rs : List Reg} {s t : State} (h : s.Touches P rs t) : t.cur = s.cur := (congrArg State.cur h.outside :)
theorem State.Touches.mem {P : Nat → Prop} {rs : List Reg} {s t : State} (h : s.Touches P rs t) : t.mem = s.mem := (congrArg State.mem h.outside :)

theorem State.Touches.refl (P : Nat → Prop) (s : State) : s.Touches P [] s :=
  ⟨rfl, fun _ _ => rfl, fun _ _ => rfl, fun _ _ => ⟨rfl, rfl⟩, rfl, [], (List.append_nil _).symm, rfl⟩

/-- A state with other tiles. -/
def State.withTiles (ts : Sparse Tile) (s : State) : State := { s with tiles := ts }

/-- A context with other results due, destinations pending and spill blocks. -/
def Ctx.withSpill (due : List Pending) (pend : List PendDest) (spill : Sparse Row) (c : Ctx) : Ctx :=
  { c with due := due, pend := pend, spill := spill }

theorem State.Touches.trans {P : Nat → Prop} {rs rs' : List Reg} {s t u : State} (h : s.Touches P rs t) (g : t.Touches P rs' u) :
    s.Touches P (rs ++ rs') u where
  outside := (congrArg (State.withTiles s.tiles) g.outside).trans h.outside
  others n hn := (g.others n (h.cur ▸ hn)).trans (h.others n hn)
  contexts n hn := (g.contexts n (h.cur ▸ hn)).trans (h.contexts n hn)
  rows n hn := ⟨(g.rows n hn).1.trans (h.rows n hn).1, (g.rows n hn).2.trans (h.rows n hn).2⟩
  rest := (congrArg (Ctx.withSpill s.ctx.due s.ctx.pend s.ctx.spill) g.rest).trans h.rest
  due := by
    obtain ⟨ps, hps, hr⟩ := h.due
    obtain ⟨qs, hqs, hr'⟩ := g.due
    exact ⟨ps ++ qs, by rw [hqs, hps, List.append_assoc], by rw [List.map_append, hr, hr']⟩

theorem State.due_touches (P : Nat → Prop) (s : State) (dst : Reg) (val : Row) (dom l : Nat) : s.Touches P [dst] (s.due dst val dom l) := by
  have ho := (State.due_results s dst val dom l).only
  refine ⟨ho.outside, ho.others, ho.contexts, fun n _ => ⟨?_, ?_⟩, ?_, (State.due_results s dst val dom l).ctx.due⟩
  · exact (congrArg (fun x : Tile => x.core.row n) ho.tile :)
  · exact (congrArg (fun x : Tile => x.core.feBits n) ho.tile :)
  · rw [State.due, State.dueFlags_ctx]

theorem State.storeRow_touches {P : Nat → Prop} (s : State) {n : Nat} (hn : P (n % 1024)) (data : Row) (fe fresh : BitVec 32) :
    s.Touches P [] (s.storeRow n data fe fresh) := by
  by_cases hd : s.cur.ldDiscard = true ∧ s.cur.pm = 2
  · rw [State.storeRow_discarded n data fe fresh hd]
    exact .refl P s
  · have hw := State.storeRow_written n data fe fresh hd
    have hctxs : (s.storeRow n data fe fresh).me.core.ctxs = s.me.core.ctxs := (congrArg (fun x : Tile => x.core.ctxs) hw.tile :)
    have hctx (h : Nat) : (s.storeRow n data fe fresh).me.core.ctx h = s.me.core.ctx h := by rw [Core.ctx, hctxs]; rfl
    have hme : (s.storeRow n data fe fresh).ctx = s.ctx := by rw [State.ctx, State.storeRow_cur]; exact hctx _
    refine ⟨hw.outside, hw.tiles, fun h _ => hctx h, fun m hm => hw.others m fun he => hm (he ▸ hn), ?_, [], ?_, rfl⟩
    · rw [hme]
    · rw [hme, List.append_nil]

theorem State.storeSpill_touches (P : Nat → Prop) (s : State) (n : Nat) (data : Row) : s.Touches P [] (s.storeSpill n data) := by
  obtain ⟨-, -, hrest, hcontexts, hcore, hothers, houtside⟩ := State.storeSpill_spec s n data
  refine ⟨houtside, hothers, hcontexts, fun m _ => ⟨?_, ?_⟩, ?_, [], ?_, rfl⟩
  · exact (congrArg (fun k : Core => k.row m) hcore :)
  · exact (congrArg (fun k : Core => k.feBits m) hcore :)
  · exact (congrArg (Ctx.withSpill s.ctx.due s.ctx.pend s.ctx.spill) hrest :)
  · rw [List.append_nil]
    exact (congrArg Ctx.due hrest :)

/-! ### Scratch and spill operations -/

/-- The row that an operation may write in a state: that of its effective address. -/
def mayWriteRow (i : Instr) (s : State) (n : Nat) : Prop := i.writesRow = true ∧ ∃ ea, i.scratch s = some ea ∧ n = rowOf ea

theorem rowOf_mod (ea : Dword) : rowOf ea % 1024 = rowOf ea := Nat.mod_mod ..

theorem mayWriteRow_rowOf {i : Instr} {s : State} {ea : Dword} (hw : i.writesRow = true) (he : i.scratch s = some ea) :
    mayWriteRow i s (rowOf ea % 1024) := ⟨hw, ea, he, rowOf_mod ea⟩

/-- What an operation on scratch or spill does to the state: its row, its spill store and its results. -/
abbrev StaysInTile (i : Instr) (s t : State) : Prop := s.Touches (mayWriteRow i s) i.dests t

theorem atomicWord_issuesAs {i : Instr} {t base : BitVec 5} {off : BitVec 8} (hw : i.writesRow = true)
    (he : ∀ u : State, i.scratch u = some (scratchEa u base off.toInt 8)) (hd : i.dests = [rX t]) (f : State → Dword → Dword) (s : State) :
    IssuesAs i s (atomicWord i.sp i t base off f s) (StaysInTile i) := by
  refine ⟨_, rfl, fun u => ?_⟩
  rw [StaysInTile, hd]
  exact (State.due_touches _ u ..).trans (State.storeRow_touches _ (mayWriteRow_rowOf hw (he u)) ..)

theorem atomicRow_issuesAs {i : Instr} {t base : BitVec 5} {off : BitVec 13} (hw : i.writesRow = true)
    (he : ∀ u : State, i.scratch u = some (scratchEa u base off.toInt 256)) (hd : i.dests = [rV t]) (f : Row → Row → Row) (s : State) :
    IssuesAs i s (atomicRow i.sp i t base off f s) (StaysInTile i) := by
  refine ⟨_, rfl, fun u => ?_⟩
  rw [StaysInTile, hd]
  exact (State.due_touches _ u ..).trans (State.storeRow_touches _ (mayWriteRow_rowOf hw (he u)) ..)

/-- An operation of the access slots that counts in neither OLD nor OST stays within its tile. -/
theorem exec_access_issuesAs (i : Instr) (s : State) (hu : i.layout.any (·.1 matches .access) = true) (hold : i.oldAdds = 0) (host : i.ostAdds = 0) :
    IssuesAs i s (exec i s) (StaysInTile i) := by
  cases i
  all_goals try exact absurd hu Bool.false_ne_true
  case gldx | gldv => exact absurd hold Nat.one_ne_zero
  case gstx | gstv | gred => exact absurd host Nat.one_ne_zero
  case gamo sp d a b ret q aop =>
    simp only [Instr.oldAdds, Instr.ostAdds] at hold host
    omega
  all_goals
    delta exec
    dsimp only
  case drain => exact ⟨_, rfl, fun u => .refl _ u⟩
  case ldx | ldv | getfe | ldsp | ldspv => exact ⟨_, rfl, fun u => State.due_touches ..⟩
  case stsp | stspv => exact ⟨_, rfl, fun u => State.storeSpill_touches ..⟩
  case stx | stv | stvp | stxe | stve | setfe => exact ⟨_, rfl, fun u => State.storeRow_touches _ (mayWriteRow_rowOf rfl rfl) ..⟩
  case ldxf | ldvf =>
    exact ⟨_, rfl, fun u => (State.due_touches _ u ..).trans (State.storeRow_touches _ (mayWriteRow_rowOf rfl rfl) ..)⟩
  case vaor | vaadd => exact atomicRow_issuesAs rfl (fun _ => rfl) rfl _ _
  all_goals exact atomicWord_issuesAs rfl (fun _ => rfl) rfl _ _

/-! ### The statement -/

theorem IssuesAs.exec_eq {i : Instr} {s t : State} {P : State → State → Prop} (h : IssuesAs i s (exec i s) P) (ha : Acts i s)
    (he : exec i s = .next t) : P s t := by
  obtain ⟨act, hact, hP⟩ := h
  rw [exec_of_acts ha hact] at he
  obtain rfl := Host.Outcome.next.inj he
  exact hP s

theorem layout_any_of_encode {i : Instr} {u : SlotUnit} {w : Nat} (h : i.encode = some (u, w)) (p : SlotUnit → Bool) (hp : p u = true) :
    i.layout.any (fun l => p l.1) = true := by
  obtain ⟨op, fs, hl, -⟩ := Instr.layout_of_encode h
  rw [hl]
  exact hp

end Sys2Proof.Machine

namespace Sys2Proof
open Machine

/-- Settles O37: by its slot each operation has results due and nothing else, or touches its row and its spill store. -/
theorem operationsLeaveOtherRegistersAndRowsAlone : Obligations.OperationsLeaveOtherRegistersAndRowsAlone := by
  refine ⟨fun i w s t henc hacts hexec => ?_, fun i w s t henc hold host hacts hexec => ?_⟩
  · have hr : s.Results i.dests t := by
      rcases henc with henc | henc
      · exact (exec_arith_issuesAs i s (layout_any_of_encode henc (· matches .arith) rfl)).exec_eq hacts hexec
      · exact (exec_vector_issuesAs i s (layout_any_of_encode henc (· matches .vector) rfl)).exec_eq hacts hexec
    exact ⟨hr.only, hr.only.mem, hr.ctx.rest, hr.ctx.pends, hr.ctx.due, hr.ctx.lfsr⟩
  · have ht : StaysInTile i s t :=
      (exec_access_issuesAs i s (layout_any_of_encode henc (· matches .access) rfl) hold host).exec_eq hacts hexec
    refine ⟨ht.mem, ht.outside, ht.others, ht.contexts, fun n hn => ht.rows n ?_, fun hw n => ht.rows n ?_, ht.rest, ht.due⟩
    · rintro ⟨-, ea, he, hrow⟩
      exact hn ea he hrow
    · rintro ⟨hw', -⟩
      rw [hw] at hw'
      cases hw'

end Sys2Proof
end

section
/-! SUPPORT and O38. No operation of a slot changes device memory or STATUS, but for the bit that a trap sets and ERET clears (R35, R168, R371, R372). -/

namespace Sys2Proof.Machine

/-- Results of the acting context leave the frame and every STATUS. -/
theorem State.Results.modes {rs : List Reg} {s t : State} (h : s.Results rs t) : t.modes = s.modes := by
  have hcur : t.cur = s.cur := h.only.cur
  refine Prod.ext hcur (funext fun n => funext fun k => ?_)
  change ((t.tile n).core.ctx k).status = ((s.tile n).core.ctx k).status
  by_cases hn : n = s.cur.tile
  · have ht : t.tile n = t.me := by rw [hn, State.me, hcur]
    have hs : s.tile n = s.me := by rw [hn]; rfl
    rw [ht, hs]
    by_cases hk : k = s.cur.hw
    · have hst := h.ctx.status
      rw [State.ctx, hcur] at hst
      rw [hk]
      exact hst
    · rw [h.only.contexts k hk]
  · rw [h.only.others n hn]

/-- The effect of an operation keeps the modes. -/
abbrev SameModes (s t : State) : Prop := t.modes = s.modes

theorem atomicWord_sameModes (i : Instr) (t base : BitVec 5) (off : BitVec 8) (f : State → Dword → Dword) (s : State) :
    IssuesAs i s (atomicWord i.sp i t base off f s) SameModes := ⟨_, rfl, fun u => by simp [SameModes, storeWord]⟩

theorem atomicRow_sameModes (i : Instr) (t base : BitVec 5) (off : BitVec 13) (f : Row → Row → Row) (s : State) :
    IssuesAs i s (atomicRow i.sp i t base off f s) SameModes := ⟨_, rfl, fun u => by simp [SameModes, storeWhole]⟩

theorem branchIf_sameModes (i : Instr) (off : BitVec 18) (test : State → Bool) (s : State) :
    IssuesAs i s (branchIf i.sp i off test s) SameModes := ⟨_, rfl, fun u => by simp [SameModes]⟩

theorem issueCommand_sameModes {i : Instr} {s : State} {act : State → State} (h : ∀ u, (act u).modes = u.modes) :
    IssuesAs i s (issueCommand i.sp i s act) SameModes := ⟨_, rfl, fun u => (State.countCommand_modes _).trans (h u)⟩

theorem exec_access_sameModes (i : Instr) (s : State) (hu : i.layout.any (·.1 matches .access) = true) : IssuesAs i s (exec i s) SameModes := by
  cases i
  all_goals try exact absurd hu Bool.false_ne_true
  all_goals
    delta exec
    dsimp only
  case vaor | vaadd => exact atomicRow_sameModes ..
  case aadd | amin | amax | aminn | amaxn | aand | aor | axor | aswp | acas => exact atomicWord_sameModes ..
  all_goals exact ⟨_, rfl, fun u => by simp [SameModes, loadWord, loadRow, storeWord, storeWhole, storeFe]⟩

theorem exec_matrix_sameModes (i : Instr) (s : State) (hu : i.layout.any (·.1 matches .matrix) = true) : IssuesAs i s (exec i s) SameModes := by
  cases i
  all_goals try exact absurd hu Bool.false_ne_true
  all_goals
    delta exec
    dsimp only
  all_goals exact issueCommand_sameModes fun u => by simp

theorem tffr_sameModes (sp : BitVec 3) (d m : BitVec 5) (s : State) : IssuesAs (.tffr sp d m) s (execTffr sp d m s) SameModes :=
  issueCommand_sameModes fun u => by
    dsimp only
    split <;> simp

/-- DONE.UNIT stops the contexts of its unit, whose STATUS stays. -/
theorem doneUnit_sameModes (sp : BitVec 3) (s : State) : IssuesAs (.doneUnit sp) s (execDoneUnit sp s) SameModes := by
  refine issueCommand_sameModes fun u => (State.mustCommit_modes ..).trans ?_
  split
  · refine (State.defer_modes ..).trans (State.updMyCore_modes _ _ fun k => ctxStatus_map _ (fun p => ?_) (fun p => ?_) k.ctxs)
    · split <;> rfl
    · split <;> rfl
  · exact State.updSelf_modes _ _ fun _ => rfl

theorem exec_engine_sameModes (i : Instr) (s : State) (hu : i.layout.any (·.1 matches .engine) = true) : IssuesAs i s (exec i s) SameModes := by
  cases i
  all_goals try exact absurd hu Bool.false_ne_true
  all_goals
    delta exec
    dsimp only
  case tffr => exact tffr_sameModes ..
  case doneUnit => exact doneUnit_sameModes ..
  all_goals exact issueCommand_sameModes fun u => by simp

theorem exec_control_sameModes (i : Instr) (s : State) (hu : i.layout.any (·.1 matches .control) = true) (ht : ∀ sp n, i ≠ .trap sp n)
    (he : ∀ sp, i ≠ .eret sp) : IssuesAs i s (exec i s) SameModes := by
  cases i
  all_goals try exact absurd hu Bool.false_ne_true
  case trap sp n => exact absurd rfl (ht sp n)
  case eret sp => exact absurd rfl (he sp)
  all_goals
    delta exec
    dsimp only
  case bra | bz | bnz | bltz | bgez => exact branchIf_sameModes ..
  all_goals exact ⟨_, rfl, fun u => by simp [SameModes]⟩

/-! ### The statement -/

/-- An operation that is neither TRAP nor ERET keeps the modes by its own effect. -/
theorem exec_sameModes {i : Instr} (h : i.encode ≠ none) (ht : ∀ sp n, i ≠ .trap sp n) (he : ∀ sp, i ≠ .eret sp) (s : State) :
    IssuesAs i s (exec i s) SameModes := by
  obtain ⟨⟨u, w⟩, henc⟩ := Option.ne_none_iff_exists'.mp h
  have hres {rs : List Reg} (hr : IssuesAs i s (exec i s) (State.Results rs)) : IssuesAs i s (exec i s) SameModes := by
    obtain ⟨act, hact, hP⟩ := hr
    exact ⟨act, hact, fun u => (hP u).modes⟩
  cases u with
  | arith => exact hres (exec_arith_issuesAs i s (layout_any_of_encode henc (· matches .arith) rfl))
  | access => exact exec_access_sameModes i s (layout_any_of_encode henc (· matches .access) rfl)
  | vector => exact hres (exec_vector_issuesAs i s (layout_any_of_encode henc (· matches .vector) rfl))
  | matrix => exact exec_matrix_sameModes i s (layout_any_of_encode henc (· matches .matrix) rfl)
  | engine => exact exec_engine_sameModes i s (layout_any_of_encode henc (· matches .engine) rfl)
  | control => exact exec_control_sameModes i s (layout_any_of_encode henc (· matches .control) rfl) ht he

/-- An operation but ERET keeps the modes, or its context enters the handler. -/
theorem exec_keepsModes {i : Instr} {s t : State} (h : i.encode ≠ none) (he : ∀ sp, i ≠ .eret sp) (hx : exec i s = .next t) : s.KeepsModes t := by
  by_cases ht : ∃ sp n, i = .trap sp n
  · obtain ⟨sp, n, rfl⟩ := ht
    delta exec at hx
    dsimp only at hx
    exact issueSlot_keepsModes (fun _ hu => hu) (.inr (State.takeTrap_entersHandler s _ _)) hx
  · obtain ⟨act, hact, hP⟩ := exec_sameModes h (fun sp n hi => ht ⟨sp, n, hi⟩) he s
    rw [hact] at hx
    exact keepsModes_of_issueSlot hP hx

/-- ERET clears INH (R372), unless it traps or does not issue. -/
theorem exec_eret_modes {sp : BitVec 3} {s t : State} (hx : exec (.eret sp) s = .next t) :
    s.KeepsModes t ∨ t.ctx.status = s.ctx.status &&& ~~~8 := by
  delta exec at hx
  dsimp only at hx
  refine issueSlot_keepsModes (P := fun u => s.KeepsModes u ∨ u.ctx.status = s.ctx.status &&& ~~~8) (fun _ hu => .inl hu) (.inr ?_) hx
  have hs := State.status_of_modes (State.mustCommit_modes (s.updSelf Ctx.eret) s.cur.tile)
  rw [hs, State.updSelf_ctx]
  rfl

/-- Bit 3 of STATUS is INH (R41). -/
theorem getLsbD_or_eight (x : Dword) {b : Nat} (hb : b ≠ 3) : (x ||| 8).getLsbD b = x.getLsbD b := by
  have h8 : (8 : Dword).getLsbD b = false := by
    rw [show (8 : Dword) = BitVec.twoPow 64 3 from rfl, BitVec.getLsbD_twoPow]
    simp [Ne.symm hb]
  rw [BitVec.getLsbD_or, h8, Bool.or_false]

theorem getLsbD_and_not_eight (x : Dword) {b : Nat} (hb : b ≠ 3) : (x &&& ~~~8).getLsbD b = x.getLsbD b := by
  have h8 : (8 : Dword).getLsbD b = false := by
    rw [show (8 : Dword) = BitVec.twoPow 64 3 from rfl, BitVec.getLsbD_twoPow]
    simp [Ne.symm hb]
  rw [BitVec.getLsbD_and, BitVec.getLsbD_not, h8]
  by_cases hlt : b < 64
  · simp [hlt]
  · simp [BitVec.getLsbD_of_ge x b (Nat.le_of_not_lt hlt)]

/-- STATUS as an operation leaves it: a bit but INH is as it was, and a change of it enters the handler. -/
theorem State.KeepsModes.status {s t : State} (h : s.KeepsModes t) :
    (∀ b, b ≠ 3 → t.ctx.status.getLsbD b = s.ctx.status.getLsbD b) ∧
      (t.ctx.status ≠ s.ctx.status → t.ctx.inh = true ∧ t.ctx.pc = Config.trapEntry) := by
  rcases h with h | ⟨hs, hpc⟩
  · rw [State.status_of_modes h]
    exact ⟨fun _ _ => rfl, fun hne => absurd rfl hne⟩
  · refine ⟨fun b hb => by rw [hs, getLsbD_or_eight _ hb], fun _ => ⟨?_, hpc⟩⟩
    rw [Ctx.inh, hs, BitVec.getLsbD_or]
    exact Bool.or_true _

end Sys2Proof.Machine

namespace Sys2Proof
open Machine

/-- Settles O38: an operation's own effect keeps memory and every STATUS; taking a trap sets INH, and ERET clears it. -/
theorem slotOperationsKeepMemoryAndMode : Obligations.SlotOperationsKeepMemoryAndMode := by
  refine ⟨fun i s t h hx => ?_, fun i s t h hx => ?_⟩
  · have hm := exec_slot_mem i s h
    rw [hx] at hm
    exact (yields_next _ t).mp hm
  · by_cases he : ∃ sp, i = .eret sp
    · obtain ⟨sp, rfl⟩ := he
      refine ⟨fun b hb => ?_, fun _ => .inl ⟨sp, rfl⟩⟩
      rcases exec_eret_modes hx with hk | hs
      · exact hk.status.1 b hb
      · rw [hs, getLsbD_and_not_eight _ hb]
    · have hk := exec_keepsModes h (fun sp hi => he ⟨sp, hi⟩) hx
      exact ⟨hk.status.1, fun hne => .inr (hk.status.2 hne)⟩

end Sys2Proof
end

section
/-! SUPPORT and O6. What the module holds right after reset (R39, R40, R260, R306, R318, R374, R391, R393, R394). -/

namespace Sys2Proof.Machine

@[simp] theorem sget_nil {α : Type} (d : α) (a : Nat) : sget d [] a = d := rfl

theorem State.reset_tile (t : Nat) : State.reset.tile t = Tile.reset := sget_nil ..
theorem Core.reset_ctx (h : Nat) : Core.reset.ctx h = Ctx.reset := sget_nil ..
theorem State.reset_region (r : Nat) : sget PowerRegion.reset State.reset.regions r = PowerRegion.reset := sget_nil ..

/-- The registers that are not hard-wired hold the model's choice after reset (log 2). -/
theorem Ctx.reset_x (n : Nat) : Ctx.reset.x n = 0 := ite_self 0
theorem Ctx.reset_v (n : Nat) : Ctx.reset.v n = 0 := sget_nil ..
theorem Ctx.reset_p {n : Nat} (hn : n ≠ 0) : Ctx.reset.p n = 0 := if_neg hn

/-- Settles O6: nothing is listed after reset, so that every tile, context and power region reads as the reset one. -/
theorem resetLeavesTheModuleEmpty : Obligations.ResetLeavesTheModuleEmpty := by
  refine ⟨rfl, rfl, rfl, rfl, rfl, fun t => ?_, fun r => ?_, rfl⟩
  · rw [State.reset_tile]
    refine ⟨rfl, rfl, rfl, rfl, rfl, fun h => ?_⟩
    have hctx : Tile.reset.core.ctx h = Ctx.reset := Core.reset_ctx h
    rw [hctx]
    exact ⟨rfl, rfl, rfl, rfl, rfl, fun n hn => ⟨Ctx.reset_x n, Ctx.reset_p hn⟩, Ctx.reset_v⟩
  · rw [State.reset_region]
    exact ⟨rfl, rfl⟩

end Sys2Proof.Machine
end

section
/-! SUPPORT and O33. Branches, calls and loops: where the acting context goes on, and what it counts (R32, R48, R49, R51, R52). -/

namespace Sys2Proof.Machine

/-! ### Transfers -/

/-- An offset counts halfwords (R32). -/
theorem State.branchTarget_eq (s : State) (off : BitVec 18) : s.branchTarget off = s.cur.pc + off.signExtend 64 * 2 := by
  rw [State.branchTarget, BitVec.shiftLeft_eq_mul_twoPow]
  rfl

/-- A transfer after a change of the acting context. -/
theorem State.updSelf_jump_ctx (s : State) (f : Ctx → Ctx) (target : Dword) (extra : Nat) :
    ((s.updSelf f).jump target extra).ctx = { f s.ctx with pc := target, arrived := true, pause := extra } := by
  rw [State.jump, State.updSelf_ctx, State.updSelf_ctx]

/-- A conditional branch is taken where its condition holds, and changes nothing where it does not. -/
theorem exec_branchIf_of_acts {i : Instr} {s : State} {off : BitVec 18} {test : State → Bool} {P : Prop}
    (he : exec i s = branchIf i.sp i off test s) (hP : test s = true ↔ P) (ha : Acts i s) :
    (P → exec i s = .next (s.jump (s.cur.pc + off.signExtend 64 * 2) 2)) ∧ (¬P → exec i s = .next s) := by
  rw [exec_of_acts ha he, ← State.branchTarget_eq, ← hP]
  exact ⟨fun h => by rw [if_pos h], fun h => by rw [if_neg h]⟩

theorem exec_call_of_acts {sp : BitVec 3} {off : BitVec 18} {s : State} (ha : Acts (.call sp off) s) :
    exec (.call sp off) s = .next ((s.dueX 31 s.cur.link 1).jump (s.cur.pc + off.signExtend 64 * 2) 2) := by
  rw [← State.branchTarget_eq]
  exact exec_of_acts ha (show execCall sp off s = _ from rfl)

/-! ### Loops -/

/-- The shifted stage window (R49): stage 0 is always on, stage 1 is the new one, and every other is the one below it. -/
theorem shiftStages_bits (w : BitVec 8) (on : Bool) :
    (shiftStages w on).getLsbD 0 = true ∧ (shiftStages w on).getLsbD 1 = on ∧
      ∀ j, 2 ≤ j → j < 8 → (shiftStages w on).getLsbD j = w.getLsbD (j - 1) := by
  have hbit (j : Nat) : (shiftStages w on).getLsbD j =
      if j < 1 then (1 : BitVec 1).getLsbD j else if j - 1 < 1 then (BitVec.ofBool on).getLsbD (j - 1)
        else (w.extractLsb' 1 6).getLsbD (j - 1 - 1) := by
    rw [shiftStages, BitVec.getLsbD_append, BitVec.getLsbD_append]
  refine ⟨hbit 0, (hbit 1).trans (by simp), fun j h2 h8 => ?_⟩
  rw [hbit, if_neg (by omega), if_neg (by omega), BitVec.getLsbD_extractLsb', decide_eq_true (by omega), Bool.true_and]
  congr 1
  omega

theorem exec_loopset_of_acts {sp : BitVec 3} {lvl : BitVec 1} {a : BitVec 5} {n : BitVec 13} {s : State} (ha : Acts (.loopset sp lvl a n) s) :
    exec (.loopset sp lvl a n) s =
      .next (s.updSelf fun c => if lvl = 0 then { c with lc0 := s.rx a, dc := n, sp := 3 } else { c with lc1 := s.rx a }) :=
  exec_of_acts ha (show execLoopset sp lvl a n s = _ from rfl)

/-- LOOPB at level 0 repeats while LC0 lasts, then drains while DC lasts, then ends; at level 1 it repeats while LC1 lasts. -/
theorem exec_loopb_of_acts {sp : BitVec 3} {lvl : BitVec 1} {off : BitVec 18} {s : State} (ha : Acts (.loopb sp lvl off) s) :
    exec (.loopb sp lvl off) s = .next (
      if lvl = 0 then
        if 1 < s.ctx.lc0.toNat then
          (s.updSelf fun c => { c with lc0 := c.lc0 - 1, sp := shiftStages c.sp true }).jump (s.branchTarget off) 0
        else if s.ctx.dc ≠ 0 then
          (s.updSelf fun c => { c with dc := c.dc - 1, sp := shiftStages c.sp false }).jump (s.branchTarget off) 0
        else s
      else if 1 < s.ctx.lc1.toNat then (s.updSelf fun c => { c with lc1 := c.lc1 - 1 }).jump (s.branchTarget off) 0
      else s) := exec_of_acts ha (show execLoopb sp lvl off s = _ from rfl)

/-- Settles O33: each transfer is `State.jump`, and a LOOPB is one after its counters have been stepped. -/
theorem branchesAndLoopsTransferControl : Obligations.BranchesAndLoopsTransferControl := by
  refine ⟨fun sp c d off s => ?_, fun sp off a n s => ?_⟩
  · intro x label goes
    refine ⟨?_, exec_call_of_acts, fun ha => ?_, fun ha => ?_⟩
    · simp only [List.forall_mem_cons]
      refine ⟨?_, ?_, ?_, ?_, ?_, List.forall_mem_nil _⟩
      · exact exec_branchIf_of_acts (test := fun _ => true) rfl (iff_of_true rfl trivial)
      · exact exec_branchIf_of_acts (test := fun s => s.rx c == 0) rfl beq_iff_eq
      · exact exec_branchIf_of_acts (test := fun s => s.rx c != 0) rfl bne_iff_ne
      · exact exec_branchIf_of_acts (test := fun s => (s.rx c).toInt < 0) rfl decide_eq_true_iff
      · exact exec_branchIf_of_acts (test := fun s => 0 ≤ (s.rx c).toInt) rfl decide_eq_true_iff
    · exact exec_of_acts ha (show execJr sp c s = _ from rfl)
    · exact exec_of_acts ha (show execJalr sp d c s = _ from rfl)
  · intro c label
    refine ⟨fun ha => ⟨_, exec_loopset_of_acts ha, s.updSelf_onlyContext _, s.updSelf_ctx _⟩,
      fun ha => ⟨_, exec_loopset_of_acts ha, s.updSelf_onlyContext _, s.updSelf_ctx _⟩, fun ha => ⟨_, exec_loopb_of_acts ha, ?_⟩,
      fun ha => ⟨_, exec_loopb_of_acts ha, ?_⟩⟩
    · rw [if_pos (rfl : (0 : BitVec 1) = 0), State.branchTarget_eq]
      by_cases hlc : 1 < c.lc0.toNat
      · rw [if_pos hlc]
        exact ⟨rfl, fun _ => ⟨_, s.updSelf_jump_ctx .., shiftStages_bits ..⟩, fun h => absurd hlc (Nat.not_lt.mpr h),
          fun h => absurd hlc (Nat.not_lt.mpr h)⟩
      · rw [if_neg hlc]
        by_cases hdc : c.dc ≠ 0
        · rw [if_pos hdc]
          exact ⟨rfl, fun h => absurd h hlc, fun _ _ => ⟨_, s.updSelf_jump_ctx .., shiftStages_bits ..⟩, fun _ h => absurd h hdc⟩
        · rw [if_neg hdc]
          exact ⟨rfl, fun h => absurd h hlc, fun _ h => absurd h hdc, fun _ _ => rfl⟩
    · rw [if_neg (by decide : (1 : BitVec 1) ≠ 0), State.branchTarget_eq]
      by_cases hlc : 1 < c.lc1.toNat
      · rw [if_pos hlc]
        exact ⟨rfl, fun _ => s.updSelf_jump_ctx .., fun h => absurd hlc (Nat.not_lt.mpr h)⟩
      · rw [if_neg hlc]
        exact ⟨rfl, fun h => absurd h hlc, fun _ => rfl⟩

end Sys2Proof.Machine
end

section
/-! SUPPORT and O34. TRAP, ERET and HALT, each of which commits the region (R53, R54, R327, R366, R371, R372). -/

namespace Sys2Proof.Machine

/-- A trap of the acting context has it enter the handler. -/
theorem State.takeTrap_ctx (s : State) (i : TrapInfo) (epc : Dword) :
    (s.takeTrap s.cur.tile s.cur.hw i epc).ctx = s.ctx.enterTrap i epc (s.freeTime siteHandler % 401) := by
  simp [State.takeTrap, State.deferAt, State.ctx, State.me, State.updCtx, State.ctxAt]

theorem State.takeTrap_commitDue (s : State) (i : TrapInfo) (epc : Dword) :
    (s.takeTrap s.cur.tile s.cur.hw i epc).me.region.commitDue = true := by
  simp [State.takeTrap, State.deferAt, State.me, State.updCtx]

/-- A commit that is due leaves the contexts of the acting tile alone. -/
theorem State.mustCommit_ctx (s : State) : (s.mustCommit s.cur.tile).ctx = s.ctx := by
  simp [State.ctx, State.me]

theorem State.mustCommit_commitDue (s : State) : (s.mustCommit s.cur.tile).me.region.commitDue = true := by
  simp [State.me]

/-- A change of the acting context after which its region commits. -/
theorem State.updSelf_mustCommit (s : State) (f : Ctx → Ctx) :
    ((s.updSelf f).mustCommit s.cur.tile).me.region.commitDue = true ∧ ((s.updSelf f).mustCommit s.cur.tile).ctx = f s.ctx :=
  ⟨(s.updSelf f).mustCommit_commitDue, (s.updSelf f).mustCommit_ctx.trans (s.updSelf_ctx f)⟩

/-- Word 0 of a software trap (R53, R369): class and disposition 0, its number in AUX, code 0x09. -/
theorem trapWord0_software (n : BitVec 12) : (trapWord0 0 0 n.toNat 0x09).zeroExtend 64 = (n.zeroExtend 64 <<< 12) ||| (9 : Dword) := by
  apply BitVec.eq_of_toNat_eq
  have hn := n.isLt
  have hs : (n.zeroExtend 64 <<< 12 : Dword).toNat = n.toNat <<< 12 := by
    rw [BitVec.toNat_shiftLeft, BitVec.toNat_setWidth, Nat.mod_eq_of_lt (a := n.toNat) (by omega), Nat.shiftLeft_eq]
    omega
  rw [trapWord0_toNat, BitVec.toNat_or, hs, show (9 : Dword).toNat = 9 from rfl, ← Nat.shiftLeft_add_eq_or_of_lt (by decide), Nat.shiftLeft_eq]
  omega

/-- Settles O34: TRAP is the entry of its context under the link value, and ERET and HALT are one change of it before the commit. -/
theorem trapReturnAndHaltAct : Obligations.TrapReturnAndHaltAct := by
  intro sp n s c
  refine ⟨fun ha => ?_, fun ha => ?_, fun ha => ?_⟩
  · refine ⟨_, exec_of_acts ha (show execTrap sp n s = _ from rfl), s.takeTrap_commitDue .., ?_⟩
    rw [State.takeTrap_ctx]
    refine ⟨rfl, rfl, rfl, fun hi => ?_⟩
    have hi : s.ctx.inh = false := hi
    simp only [Ctx.enterTrap, hi, Bool.false_eq_true, if_false]
    exact ⟨trapWord0_software n, trivial, rfl, rfl, rfl⟩
  · exact ⟨_, exec_of_acts ha (show execEret sp s = _ from rfl), s.updSelf_mustCommit Ctx.eret⟩
  · exact ⟨_, exec_of_acts ha (show execHalt sp s = _ from rfl), s.updSelf_mustCommit _⟩

end Sys2Proof.Machine
end

section
/-! SUPPORT. Lanes and packed fields of a register, read back from the lists that an operation makes of them (R36, R95). -/

namespace Sys2Proof.Machine

/-- A field within a field of a number. -/
theorem mod_div_mod {a w m : Nat} (x : Nat) (h : a + w ≤ m) : x % 2 ^ m / 2 ^ a % 2 ^ w = x / 2 ^ a % 2 ^ w := by
  obtain ⟨k, rfl⟩ : ∃ k, m = a + k := ⟨m - a, by omega⟩
  rw [pow_add, Nat.mod_mul_right_div_self, Nat.mod_mod_of_dvd _ (pow_dvd_pow 2 (by omega))]

theorem cut_eq_map (w n v : Nat) : cut w n v = (List.range n).map fun i => v / 2 ^ (w * i) % 2 ^ w := by
  refine List.ext_getElem? fun i => ?_
  by_cases h : i < n
  · rw [cut_getElem? w n v i h, List.getElem?_map, List.getElem?_range h, Option.map_some]
  · simp [h]

theorem lanes_eq_map (w : Nat) (v : Row) : lanes w v = (List.range (2048 / w)).map (lane w v) := cut_eq_map ..

/-- The lanes of a part of a register. -/
theorem take_drop_lanes {w i n : Nat} (v : Row) (h : i + n ≤ 2048 / w) :
    ((lanes w v).drop i).take n = (List.range n).map fun j => lane w v (i + j) := by
  refine List.ext_getElem? fun j => ?_
  rw [List.getElem?_take]
  split
  next hj => simp [lanes_getElem? v (show i + j < 2048 / w by omega), hj]
  next hj => simp [hj]

theorem getD_map_range {n k : Nat} (f : Nat → Nat) (h : k < n) : ((List.range n).map f).getD k 0 = f k := by
  simp [h]

theorem laneBits_eq_ofNat (w : Nat) (v : Row) (k : Nat) : laneBits w v k = BitVec.ofNat w (lane w v k) := by
  rw [← laneBits_toNat, BitVec.ofNat_toNat, BitVec.setWidth_eq]

theorem laneBits_ofLanes {w : Nat} {xs : List Nat} (h : xs.length = 2048 / w) (k : Nat) :
    laneBits w (ofLanes w xs) k = BitVec.ofNat w (xs.getD k 0) := by
  rw [laneBits_eq_ofNat, lane_ofLanes xs k h]
  exact BitVec.eq_of_toNat_eq (by simp)

theorem asSigned_lane (w : Nat) (v : Row) (k : Nat) (hw : 0 < w) : asSigned w (lane w v k) = (laneBits w v k).toInt := by
  have hp : 2 ^ w = 2 * 2 ^ (w - 1) := by rw [← pow_succ', Nat.sub_add_cancel hw]
  rw [BitVec.toInt_eq_toNat_cond, laneBits_toNat, asSigned, Nat.mod_eq_of_lt (lane_lt w v k)]
  simp only [hp, Nat.mul_lt_mul_left, Nat.two_pos]

/-! ### A part of a list replaced -/

theorem length_splice {old bs : List Nat} {i : Nat} (h : i + bs.length ≤ old.length) :
    (old.take i ++ bs ++ old.drop (i + bs.length)).length = old.length := by
  simp only [List.length_append, List.length_take, List.length_drop]
  omega

theorem getD_splice {old bs : List Nat} {i : Nat} (h : i + bs.length ≤ old.length) (k : Nat) :
    (old.take i ++ bs ++ old.drop (i + bs.length)).getD k 0 = if i ≤ k ∧ k < i + bs.length then bs.getD (k - i) 0 else old.getD k 0 := by
  have hi : min i old.length = i := by omega
  simp only [List.getD_eq_getElem?_getD, List.getElem?_append, List.length_append, List.length_take, hi, List.getElem?_take, List.getElem?_drop]
  by_cases h1 : k < i
  · rw [if_pos (by omega), if_pos h1, if_pos h1, if_neg (by omega)]
  · by_cases h2 : k < i + bs.length
    · rw [if_pos h2, if_neg h1, if_pos (by omega)]
    · rw [if_neg h2, if_neg (by omega)]
      congr 3
      omega

/-- Bytes put into a register read back, and the others read as before. -/
theorem lane_setBytes (v : Row) {i k : Nat} {bs : List Nat} (h : i + bs.length ≤ 256) (hk : k < 256) :
    lane 8 (setBytes v i bs) k = if i ≤ k ∧ k < i + bs.length then bs.getD (k - i) 0 % 2 ^ 8 else lane 8 v k := by
  have hl : i + bs.length ≤ (lanes 8 v).length := by simpa using h
  rw [setBytes, lane_ofLanes _ _ ((length_splice hl).trans (lanes_length ..)), getD_splice hl]
  split
  · rfl
  · rw [lanes_eq_map, getD_map_range _ hk, Nat.mod_eq_of_lt (lane_lt 8 v k)]

/-! ### Codes of four bits -/

/-- Code `j` of a number is a half of its byte `j / 2`. -/
theorem nibble_of_byte (x j : Nat) : x / 2 ^ (8 * (j / 2)) % 2 ^ 8 / 2 ^ (4 * (j % 2)) % 2 ^ 4 = x / 2 ^ (4 * j) % 2 ^ 4 := by
  rw [mod_div_mod _ (by omega), Nat.div_div_eq_div_mul, ← pow_add]
  congr 3
  omega

theorem lane_nibble (v : Row) (j : Nat) : lane 4 v j = lane 8 v (j / 2) / 2 ^ (4 * (j % 2)) % 2 ^ 4 := (nibble_of_byte v.toNat j).symm

/-- An element of chunks of one length laid one after another. -/
theorem getElem?_flatMap_chunks {α β : Type} {f : α → List β} {n : Nat} (hf : ∀ x, (f x).length = n) (l : List α) (i : Nat) {j : Nat} (hj : j < n) :
    (l.flatMap f)[n * i + j]? = l[i]?.bind fun x => (f x)[j]? := by
  induction l generalizing i with
  | nil => simp
  | cons x l ih =>
    rw [List.flatMap_cons]
    cases i with
    | zero => simp [List.getElem?_append_left, hf, hj]
    | succ i =>
      rw [List.getElem?_append_right (by rw [hf, Nat.mul_succ]; omega), hf, show n * (i + 1) + j - n = n * i + j by rw [Nat.mul_succ]; omega, ih]
      rfl

theorem length_flatMap_chunks {α β : Type} {f : α → List β} {n : Nat} (hf : ∀ x, (f x).length = n) (l : List α) :
    (l.flatMap f).length = n * l.length := by
  simp [List.length_flatMap, hf, Nat.mul_comm]

end Sys2Proof.Machine
end

section
/-! SUPPORT. Outside the stochastic mode a rounding does not depend on those before it (R71, R74). -/

namespace Sys2Proof.Machine

/-- The values of a rounding function in a rounding state do not depend on the flags raised so far. -/
def FlagFree {α β : Type} (f : Rnd → α → β × Rnd) (r : Rnd) : Prop := ∀ (fl : BitVec 6) (x : α), (f { r with flags := fl } x).1 = (f r x).1

theorem FlagFree.of_flags {α β : Type} {f : Rnd → α → β × Rnd} {r : Rnd} (hf : FlagFree f r) (fl : BitVec 6) : FlagFree f { r with flags := fl } :=
  fun g x => (hf g x).trans (hf fl x).symm

theorem Rnd.Keeps.eq_flags {r r' : Rnd} (h : r.Keeps r') (hm : r.mode ≠ 4) : r' = { r with flags := r'.flags } := by
  obtain ⟨mode, lfsr, flags⟩ := r'
  obtain ⟨hmode, hlfsr⟩ := h
  rw [← hmode, ← hlfsr hm]

theorem Rnd.step_flags (r : Rnd) (fl : BitVec 6) : ({ r with flags := fl } : Rnd).step = { r.step with flags := fl } := by
  simp only [Rnd.step]
  split <;> rfl

theorem roundFin_flags (f : Fmt) (r : Rnd) (fl : BitVec 6) (neg : Bool) (mag : Nat) (exp : Int) :
    (roundFin f { r with flags := fl } neg mag exp).1 = (roundFin f r neg mag exp).1 := by
  simp only [roundFin, apply_ite Prod.fst]
  rfl

theorem fround_flagFree (f : Fmt) (r : Rnd) : FlagFree (fround f) r := by
  intro fl x
  cases x with
  | nan => rfl
  | inf neg =>
    simp only [fround]
    split <;> rfl
  | fin neg mag exp =>
    simp only [fround, Rnd.step_flags]
    split
    · rfl
    · exact roundFin_flags ..

theorem fToInt_flagFree (w : Nat) (natural : Bool) (r : Rnd) : FlagFree (fToInt w natural) r := by
  intro fl x
  cases x with
  | nan => rfl
  | inf neg => rfl
  | fin neg mag exp =>
    simp only [fToInt, Rnd.step_flags, apply_ite Prod.fst]
    rfl

theorem convert_flagFree (src dst : NumFmt) (r : Rnd) : FlagFree (convert src dst) r := by
  intro fl b
  cases src with
  | int sw sn =>
    cases dst with
    | int dw dn => rfl
    | flt f => exact fround_flagFree f r fl _
  | flt s =>
    cases dst with
    | int w n => exact fToInt_flagFree w n r fl _
    | flt f =>
      simp only [convert]
      split
      · exact fround_flagFree f { r with mode := 0 } fl _
      · exact fround_flagFree f r fl _

theorem blockGrid_flags (t : Nat) (r : Rnd) (fl : BitVec 6) (neg : Bool) (num den : Nat) :
    blockGrid t { r with flags := fl } neg num den = blockGrid t r neg num den := rfl

theorem packElem_flagFree (t s : Nat) (r : Rnd) : FlagFree (packElem t s) r := by
  intro fl x
  cases x with
  | nan => rfl
  | inf neg => rfl
  | fin neg mag exp => simp only [packElem, Rnd.step_flags, blockGrid_flags]

/-- Outside the stochastic mode each of several roundings in order gives what it gives alone. -/
theorem mapRnd_steady {α β : Type} {f : Rnd → α → β × Rnd} (hk : ∀ (r : Rnd) x, r.Keeps (f r x).2) {r : Rnd} (hf : FlagFree f r) (hm : r.mode ≠ 4)
    (xs : List α) : (mapRnd f r xs).1 = xs.map fun x => (f r x).1 := by
  induction xs generalizing r with
  | nil => rfl
  | cons x xs ih =>
    have hx : (f r x).2 = { r with flags := (f r x).2.flags } := (hk r x).eq_flags hm
    calc (mapRnd f r (x :: xs)).1 = (f r x).1 :: (mapRnd f (f r x).2 xs).1 := rfl
      _ = (f r x).1 :: (mapRnd f { r with flags := (f r x).2.flags } xs).1 := by rw [← hx]
      _ = (f r x).1 :: xs.map fun y => (f { r with flags := (f r x).2.flags } y).1 := by
        rw [ih (r := { r with flags := (f r x).2.flags }) (hf.of_flags _) hm]
      _ = (f r x).1 :: xs.map fun y => (f r y).1 := by simp only [hf _ _]

theorem length_mapRnd {α β : Type} (f : Rnd → α → β × Rnd) (r : Rnd) (xs : List α) : (mapRnd f r xs).1.length = xs.length := by
  induction xs generalizing r with
  | nil => rfl
  | cons x xs ih => exact congrArg (· + 1) (ih _)

/-! ### Blocks of 4-bit codes (R65, R78) -/

theorem packBlock_steady {t : Nat} {r : Rnd} (hm : r.mode ≠ 4) (xs : List FV) :
    (packBlock t r xs).2.1 = xs.map fun x => (packElem t (blockScale t xs) r x).1 := mapRnd_steady (packElem_keeps t _) (packElem_flagFree t _ r) hm xs

theorem blockScale_lt (t : Nat) (xs : List FV) : blockScale t xs < 63 := by
  simp only [blockScale]
  split
  · decide
  · generalize hf : List.find? _ _ = o
    cases o with
    | none => decide
    | some n => exact List.mem_range.mp (List.mem_of_find?_eq_some hf)

theorem packBlock_scale_lt {t : Nat} (ht : t < 4) (r : Rnd) (xs : List FV) : (packBlock t r xs).1 < 256 := by
  have := blockScale_lt t xs
  simp only [packBlock]
  omega

theorem blockGrid_lt (t : Nat) (r : Rnd) (neg : Bool) (num den : Nat) : (blockGrid t r neg num den).1 < 8 := by
  have hlo := List.length_filter_le (fun c => decide (blockMag t c * den ≤ num)) (List.range 8)
  rw [List.length_range] at hlo
  simp only [blockGrid]
  split
  · simp only
    omega
  · split
    · omega
    · omega

theorem packElem_lt (t s : Nat) (r : Rnd) (x : FV) : (packElem t s r x).1 < 16 := by
  cases x with
  | nan => simp only [packElem]; split <;> decide
  | inf neg => simp only [packElem]; split <;> decide
  | fin neg mag exp =>
    simp only [packElem]
    generalize hg : blockGrid t r.step neg _ _ = g
    have hc : g.1 < 8 := hg ▸ blockGrid_lt ..
    split
    · split <;> omega
    · split <;> omega

end Sys2Proof.Machine
end

section
/-! SUPPORT and O25. VCVT, VUNPK4, VCORD and VPACK4 (R108 to R112). -/

namespace Sys2Proof.Machine

/-! ### Widths of the type codes -/

theorem tyWidth_pos : ∀ ty, 0 < tyWidth ty := by decide
theorem tyWidth_dvd_row : ∀ ty, tyWidth ty ∣ 2048 := by decide
theorem tyWidth_dvd : ∀ src dst, tyWidth src ≤ tyWidth dst → tyWidth src ∣ tyWidth dst := by decide
theorem tyFmt_width : ∀ ty : BitVec 3, 4 ≤ ty.toNat → (tyFmt ty).width = tyWidth ty := by decide
theorem blocks_mul : ∀ ty, 32 * (2048 / tyWidth ty / 32) = 2048 / tyWidth ty := by decide

/-- A part of a register that its field `h` names lies in the register: there are as many parts as the widths' ratio (R109). -/
theorem part_fits {src dst : BitVec 3} (hw : tyWidth src ≤ tyWidth dst) {h : Nat} (hh : h < tyWidth dst / tyWidth src) :
    h * (2048 / tyWidth dst) + 2048 / tyWidth dst ≤ 2048 / tyWidth src := by
  calc h * (2048 / tyWidth dst) + 2048 / tyWidth dst = (h + 1) * (2048 / tyWidth dst) := (Nat.succ_mul ..).symm
    _ ≤ tyWidth dst / tyWidth src * (2048 / tyWidth dst) := Nat.mul_le_mul_right _ hh
    _ = 2048 / tyWidth src := by
      rw [Nat.div_mul_div_comm (tyWidth_dvd src dst hw) (tyWidth_dvd_row dst), Nat.mul_comm (tyWidth src), Nat.mul_div_mul_left _ _ (tyWidth_pos dst)]

theorem cvtRatio_of_le {src dst : BitVec 3} (hw : tyWidth src ≤ tyWidth dst) : cvtRatio dst src = tyWidth dst / tyWidth src := by
  rw [cvtRatio, Nat.max_eq_left hw, Nat.min_eq_right hw]

theorem cvtRatio_comm (a b : BitVec 3) : cvtRatio a b = cvtRatio b a := by
  rw [cvtRatio, cvtRatio, Nat.max_comm, Nat.min_comm]

/-! ### Results that fill their lanes -/

/-- An operation that acts leaves a vector result, and outside RSR its lanes are `f`. -/
def FillsLanes (i : Instr) (s : State) (d : BitVec 5) (l w : Nat) (f : Nat → BitVec w) : Prop :=
  Acts i s → ∃ v fl l', exec i s = .next ((s.updSelf fun c => { c with lfsr := l' }).dueFlags (.v d.toNat) v 1 l fl) ∧
    (fcrRm s.ctx.fcr ≠ 4 → ∀ k < 2048 / w, laneBits w v k = f k)

/-- It does where its result is put together from a list of roundings that are `f` outside RSR. -/
theorem fillsLanes_of_vxDue {i : Instr} {s : State} {d : BitVec 5} {l w : Nat} {f : Nat → BitVec w} {act : State → State}
    (he : exec i s = issueSlot i.sp i s act) {xs : List Nat} {r : Rnd} (ha : act s = vxDue s (.v d.toNat) (ofLanes w xs) l r)
    (hl : xs.length = 2048 / w) (hx : s.ctx.rnd.mode ≠ 4 → ∀ k < 2048 / w, BitVec.ofNat w (xs.getD k 0) = f k) : FillsLanes i s d l w f :=
  fun h => ⟨_, _, _, (exec_of_acts h he).trans (congrArg _ ha), fun hm k hk => (laneBits_ofLanes hl k).trans (hx hm k hk)⟩

/-- It does where its result is a list of roundings in order, each of which is its lane of `f` where it is made alone. -/
theorem fillsLanes_of_mapRnd {α : Type} {i : Instr} {s : State} {d : BitVec 5} {l w : Nat} {f : Nat → BitVec w} {act : State → State}
    {g : Rnd → α → Nat × Rnd} {src : List α} (he : exec i s = issueSlot i.sp i s act)
    (ha : act s = vxDue s (.v d.toNat) (ofLanes w (mapRnd g s.ctx.rnd src).1) l (mapRnd g s.ctx.rnd src).2)
    (hg : ∀ (r : Rnd) x, r.Keeps (g r x).2) (hf : FlagFree g s.ctx.rnd) (hl : src.length = 2048 / w)
    (hx : ∀ k < 2048 / w, (src[k]?.map fun x => BitVec.ofNat w (g s.ctx.rnd x).1) = some (f k)) : FillsLanes i s d l w f := by
  refine fillsLanes_of_vxDue he ha ((length_mapRnd ..).trans hl) fun hm k hk => ?_
  obtain ⟨x, hs, hv⟩ := Option.map_eq_some_iff.mp (hx k hk)
  rw [mapRnd_steady hg hf hm, List.getD_eq_getElem?_getD, List.getElem?_map, hs]
  exact hv

/-! ### VCVT -/

/-- The lanes that a narrowing conversion does not write: zero, or the old ones (R109). -/
def keptLanes (w : Nat) (z : BitVec 1) (v : Row) : List Nat := if z = 1 then List.replicate (2048 / w) 0 else lanes w v

theorem length_keptLanes (w : Nat) (z : BitVec 1) (v : Row) : (keptLanes w z v).length = 2048 / w := by
  rw [keptLanes]
  split
  · rw [List.length_replicate]
  · rw [lanes_length]

theorem ofNat_keptLanes {w : Nat} (z : BitVec 1) (v : Row) {k : Nat} (hk : k < 2048 / w) :
    BitVec.ofNat w ((keptLanes w z v).getD k 0) = if z = 1 then 0 else laneBits w v k := by
  rw [keptLanes]
  split
  · rw [List.getD_replicate _ hk]
    rfl
  · rw [lanes_eq_map, getD_map_range _ hk, laneBits_eq_ofNat]

section Vcvt

variable (sp : BitVec 3) (d a : BitVec 5) (sm : BitVec 1) (sty h ty : BitVec 3) (dm z : BitVec 1) (s : State)

/-- The conversion of one lane (R76, R77, R108). -/
abbrev cvtLane : Rnd → Nat → Nat × Rnd := convert (NumFmt.ofCode sty.toNat (sm == 1)) (NumFmt.ofCode ty.toNat (dm == 1))

/-- To a wider format: the lanes of part `h` of the source. -/
theorem vcvt_widening (hw : tyWidth sty < tyWidth ty) (hh : h.toNat < cvtRatio ty sty) :
    FillsLanes (.vcvt sp d a sm sty h ty dm z) s d 4 (tyWidth ty) fun k =>
      BitVec.ofNat _ (cvtLane sm sty ty dm s.ctx.rnd (lane (tyWidth sty) (s.rv a) (h.toNat * (2048 / tyWidth ty) + k))).1 := by
  have hsrc := take_drop_lanes (s.rv a) (part_fits hw.le (cvtRatio_of_le hw.le ▸ hh))
  refine fillsLanes_of_mapRnd (show _ = execVcvt sp d a sm sty h ty dm z s from rfl) (if_pos hw) (convert_keeps _ _) (convert_flagFree _ _ _) ?_
    fun k hk => ?_
  · rw [hsrc, List.length_map, List.length_range]
  · rw [hsrc, List.getElem?_map, List.getElem?_range hk]
    rfl

/-- Between formats of one width. -/
theorem vcvt_same (hw : tyWidth sty = tyWidth ty) :
    FillsLanes (.vcvt sp d a sm sty h ty dm z) s d 4 (tyWidth ty) fun k =>
      BitVec.ofNat _ (cvtLane sm sty ty dm s.ctx.rnd (lane (tyWidth sty) (s.rv a) k)).1 := by
  refine fillsLanes_of_mapRnd (show _ = execVcvt sp d a sm sty h ty dm z s from rfl) ((if_neg hw.not_lt).trans (if_neg hw.not_gt))
    (convert_keeps _ _) (convert_flagFree _ _ _) (by rw [lanes_length, hw]) fun k hk => ?_
  rw [lanes_getElem? _ (hw ▸ hk)]
  rfl

/-- To a narrower format: part `h` of the destination, the rest zero or as it was. -/
theorem vcvt_narrowing (hw : tyWidth ty < tyWidth sty) (hh : h.toNat < cvtRatio ty sty) :
    FillsLanes (.vcvt sp d a sm sty h ty dm z) s d 4 (tyWidth ty) fun k =>
      if h.toNat * (2048 / tyWidth sty) ≤ k ∧ k < (h.toNat + 1) * (2048 / tyWidth sty) then
        BitVec.ofNat _ (cvtLane sm sty ty dm s.ctx.rnd (lane (tyWidth sty) (s.rv a) (k - h.toNat * (2048 / tyWidth sty)))).1
      else if z = 1 then 0 else laneBits (tyWidth ty) (s.rv d) k := by
  have hfit := part_fits hw.le (cvtRatio_of_le hw.le ▸ cvtRatio_comm .. ▸ hh)
  generalize hm : mapRnd (cvtLane sm sty ty dm) s.ctx.rnd (lanes (tyWidth sty) (s.rv a)) = m
  have hxs : m.1.length = 2048 / tyWidth sty := by rw [← hm, length_mapRnd, lanes_length]
  have hle : h.toNat * (2048 / tyWidth sty) + m.1.length ≤ (keptLanes (tyWidth ty) z (s.rv d)).length := by rwa [hxs, length_keptLanes]
  refine fillsLanes_of_vxDue (show _ = execVcvt sp d a sm sty h ty dm z s from rfl) (r := m.2) ?_
    ((length_splice hle).trans (length_keptLanes ..)) fun hr k hk => ?_
  · rw [hxs, ← hm]
    exact (if_neg hw.not_gt).trans (if_pos hw)
  · rw [getD_splice hle, hxs, Nat.succ_mul]
    split
    next hin =>
      rw [← hm, mapRnd_steady (convert_keeps _ _) (convert_flagFree _ _ _) hr, lanes_eq_map, List.map_map, getD_map_range _ (by omega)]
      rfl
    next => exact ofNat_keptLanes _ _ hk

end Vcvt

/-! ### VUNPK4 -/

/-- The rounding of a code under its scale byte (R111). -/
def unpackLane (f : Fmt) (r : Rnd) (x : Nat × Nat) : Nat × Rnd :=
  let y := fround f r (blockValue x.1 x.2).1
  (y.1, if (blockValue x.1 x.2).2 then y.2.raise flNV else y.2)

theorem unpackLane_keeps (f : Fmt) (r : Rnd) (x : Nat × Nat) : r.Keeps (unpackLane f r x).2 := .ite ((fround_keeps ..).raise _) (fround_keeps ..)

theorem unpackLane_flagFree (f : Fmt) (r : Rnd) : FlagFree (unpackLane f) r := fun fl _ => fround_flagFree f r fl _

/-- The codes of block `g` of a register, each with the block's scale byte (R64). -/
def blockCodes (a b : Row) (g : Nat) : List (Nat × Nat) := (cut 4 32 (bitsOf a.toNat (128 * g) 128)).map fun c => (lane 8 b g, c)

theorem length_blockCodes (a b : Row) (g : Nat) : (blockCodes a b g).length = 32 := by rw [blockCodes, List.length_map, cut_length]

theorem getElem?_blockCodes (a b : Row) (g : Nat) {j : Nat} (hj : j < 32) : (blockCodes a b g)[j]? = some (lane 8 b g, lane 4 a (32 * g + j)) := by
  rw [blockCodes, List.getElem?_map, cut_getElem? _ _ _ _ hj, bitsOf, mod_div_mod _ (by omega), Nat.div_div_eq_div_mul, ← pow_add, Option.map_some,
    show 128 * g + 4 * j = 4 * (32 * g + j) by omega]
  rfl

/-- Code `k` of the blocks from block `g` on. -/
theorem getElem?_flatMap_blockCodes (a b : Row) (g : Nat) {n k : Nat} (hk : k < 32 * n) :
    ((List.range n).flatMap fun i => blockCodes a b (g + i))[k]? = some (lane 8 b (g + k / 32), lane 4 a (32 * g + k)) := by
  have hi : k / 32 < n := by omega
  calc _ = ((List.range n).flatMap fun i => blockCodes a b (g + i))[32 * (k / 32) + k % 32]? := by rw [Nat.div_add_mod]
    _ = (List.range n)[k / 32]?.bind fun i => (blockCodes a b (g + i))[k % 32]? :=
      getElem?_flatMap_chunks (fun _ => length_blockCodes ..) _ _ (Nat.mod_lt _ (by decide))
    _ = some (lane 8 b (g + k / 32), lane 4 a (32 * g + k)) := by
      rw [List.getElem?_range hi, Option.bind_some, getElem?_blockCodes _ _ _ (Nat.mod_lt _ (by decide)), Nat.mul_add, Nat.add_assoc, Nat.div_add_mod]

theorem vunpk4_fillsLanes (sp : BitVec 3) (d a b : BitVec 5) (h ty : BitVec 3) (s : State) (hty : 4 ≤ ty.toNat) :
    FillsLanes (.vunpk4 sp d a b h ty) s d 4 (tyWidth ty) fun k => BitVec.ofNat _ (fround (tyFmt ty) s.ctx.rnd
      (blockValue (lane 8 (s.rv b) (h.toNat * (2048 / tyWidth ty / 32) + k / 32))
        (lane 4 (s.rv a) (32 * (h.toNat * (2048 / tyWidth ty / 32)) + k))).1).1 := by
  have hn := blocks_mul ty
  refine fillsLanes_of_mapRnd (show _ = execVunpk4 sp d a b h ty s from rfl)
    (src := (List.range (2048 / tyWidth ty / 32)).flatMap fun i => blockCodes (s.rv a) (s.rv b) (h.toNat * (2048 / tyWidth ty / 32) + i))
    (by rw [← tyFmt_width ty hty]; rfl) (unpackLane_keeps (tyFmt ty)) (unpackLane_flagFree _ _) ?_ fun k hk => ?_
  · rw [length_flatMap_chunks (fun _ => length_blockCodes ..), List.length_range, hn]
  · rw [getElem?_flatMap_blockCodes _ _ _ (hn.symm ▸ hk)]
    rfl

/-! ### VCORD -/

/-- The rounding of one lane of VCORD: OF and UF are those of its final rounding (R112). -/
def cordLane (func n : Nat) (f : Fmt) (r : Rnd) (x : Nat) : Nat × Rnd :=
  let y := fround f { r with flags := 0 } (cordicLane func n x f).1
  (y.1, { y.2 with flags := r.flags ||| (y.2.flags &&& (flOF ||| flUF)) ||| (cordicLane func n x f).2 })

theorem cordLane_keeps (func n : Nat) (f : Fmt) (r : Rnd) (x : Nat) : r.Keeps (cordLane func n f r x).2 :=
  (fround_keeps f { r with flags := 0 } _).flags _

theorem cordLane_flagFree (func n : Nat) (f : Fmt) (r : Rnd) : FlagFree (cordLane func n f) r := fun _ _ => rfl

theorem vcord_fillsLanes (sp : BitVec 3) (d a n : BitVec 5) (fn ty : BitVec 3) (s : State) (hty : 4 ≤ ty.toNat) :
    FillsLanes (.vcord sp d a n fn ty) s d (n.toNat + 4) (tyWidth ty) fun k => BitVec.ofNat _ (fround (tyFmt ty) s.ctx.rnd
      (cordicLane fn.toNat n.toNat (lane (tyWidth ty) (s.rv a) k) (tyFmt ty)).1).1 := by
  refine fillsLanes_of_mapRnd (show _ = execVcord sp d a n fn ty s from rfl) (src := lanes (tyWidth ty) (s.rv a))
    (by rw [← tyFmt_width ty hty]; rfl) (cordLane_keeps fn.toNat n.toNat (tyFmt ty)) (cordLane_flagFree _ _ _ _) (lanes_length ..) fun k hk => ?_
  rw [lanes_getElem? _ hk]
  exact congrArg (some <| BitVec.ofNat _ ·) (fround_flagFree (tyFmt ty) s.ctx.rnd 0 _)

/-! ### VPACK4 -/

/-- The value of one lane of VPACK4 (R110). -/
def packSource (ty : BitVec 3) (x : Nat) : FV := if tyInt ty then FV.ofInt (asSigned 8 x) else fvalue (tyFmt ty) x

/-- The values of block `k` of a register. -/
def packSources (ty : BitVec 3) (v : Row) (k : Nat) : List FV := (List.range 32).map fun j => packSource ty (lane (tyWidth ty) v (32 * k + j))

theorem take_drop_packSource (ty : BitVec 3) (v : Row) {k : Nat} (hk : k < 2048 / tyWidth ty / 32) :
    ((((lanes (tyWidth ty) v).map (packSource ty)).drop (32 * k)).take 32) = packSources ty v k := by
  have hn := blocks_mul ty
  rw [← List.map_drop, ← List.map_take, take_drop_lanes _ (by omega), List.map_map]
  rfl

/-- One block of VPACK4: its scale byte and its codes (R78, R110). -/
def packLane (t : Nat) (src : List FV) (r : Rnd) (k : Nat) : (Nat × List Nat) × Rnd :=
  let m := packBlock t r ((src.drop (32 * k)).take 32)
  ((m.1, m.2.1), m.2.2)

theorem packLane_keeps (t : Nat) (src : List FV) (r : Rnd) (k : Nat) : r.Keeps (packLane t src r k).2 := packBlock_keeps ..

theorem packLane_flagFree (t : Nat) (src : List FV) {r : Rnd} (hm : r.mode ≠ 4) : FlagFree (packLane t src) r := by
  intro fl k
  refine Prod.ext rfl ?_
  simp only [packLane]
  rw [packBlock_steady hm, packBlock_steady (r := { r with flags := fl }) hm]
  simp only [packElem_flagFree _ _ r _ _]

/-- The bytes of the codes of a block. -/
def codeBytes (x : Nat × List Nat) : List Nat := cut 8 16 (join 4 x.2)

theorem length_codeBytes (x : Nat × List Nat) : (codeBytes x).length = 16 := cut_length ..

/-- Code `j` of block `k` in the bytes of the codes of several blocks. -/
theorem nibble_codeBytes {l : List (Nat × List Nat)} {k j : Nat} {x : Nat × List Nat} (hk : l[k]? = some x) (hj : j < 32) :
    (l.flatMap codeBytes).getD (16 * k + j / 2) 0 % 2 ^ 8 / 2 ^ (4 * (j % 2)) % 2 ^ 4 = x.2.getD j 0 % 2 ^ 4 := by
  rw [List.getD_eq_getElem?_getD, getElem?_flatMap_chunks length_codeBytes l k (by omega), hk, Option.bind_some, codeBytes,
    cut_getElem? _ _ _ _ (by omega), Option.getD_some, Nat.mod_mod, nibble_of_byte, join_field]

/-- The destination of the codes after blocks were put into it from block `g` on. -/
def withCodes (v : Row) (g : Nat) (l : List (Nat × List Nat)) : Row := setBytes v (16 * g) (l.flatMap codeBytes)

/-- The destination of the scale bytes after it. -/
def withScales (v : Row) (g : Nat) (l : List (Nat × List Nat)) : Row := setBytes v g (l.map (·.1))

section Blocks

variable (v : Row) {g : Nat} {l : List (Nat × List Nat)} (h : g + l.length ≤ 16)
include h

theorem lane_withScales {k : Nat} (hk : k < 256) :
    lane 8 (withScales v g l) k = if g ≤ k ∧ k < g + l.length then (l.map (·.1)).getD (k - g) 0 % 2 ^ 8 else lane 8 v k := by
  rw [withScales, lane_setBytes v (by rw [List.length_map]; omega) hk, List.length_map]

theorem lane_withCodes {k : Nat} (hk : k < 256) :
    lane 8 (withCodes v g l) k =
      if 16 * g ≤ k ∧ k < 16 * g + 16 * l.length then (l.flatMap codeBytes).getD (k - 16 * g) 0 % 2 ^ 8 else lane 8 v k := by
  have hl := length_flatMap_chunks length_codeBytes l
  rw [withCodes, lane_setBytes v (by omega) hk, hl]

theorem withScales_outside {k : Nat} (hk : k < 256) (ho : ¬(g ≤ k ∧ k < g + l.length)) : laneBits 8 (withScales v g l) k = laneBits 8 v k := by
  rw [laneBits_eq_ofNat, laneBits_eq_ofNat, lane_withScales v h hk, if_neg ho]

theorem withCodes_outside {k : Nat} (hk : k < 512) (ho : ¬(32 * g ≤ k ∧ k < 32 * g + 32 * l.length)) :
    laneBits 4 (withCodes v g l) k = laneBits 4 v k := by
  rw [laneBits_eq_ofNat, laneBits_eq_ofNat, lane_nibble, lane_nibble, lane_withCodes v h (by omega), if_neg (by omega)]

theorem lane_withScales_inside {k : Nat} {x : Nat × List Nat} (hk : l[k]? = some x) : lane 8 (withScales v g l) (g + k) = x.1 % 2 ^ 8 := by
  have hlt : k < l.length := (List.getElem?_eq_some_iff.mp hk).1
  rw [lane_withScales v h (by omega), if_pos (by omega), Nat.add_sub_cancel_left, List.getD_eq_getElem?_getD, List.getElem?_map, hk]
  rfl

theorem lane_withCodes_inside {k j : Nat} {x : Nat × List Nat} (hk : l[k]? = some x) (hj : j < 32) :
    lane 4 (withCodes v g l) (32 * (g + k) + j) = x.2.getD j 0 % 2 ^ 4 := by
  have hlt : k < l.length := (List.getElem?_eq_some_iff.mp hk).1
  rw [lane_nibble, lane_withCodes v h (by omega), if_pos (by omega), ← nibble_codeBytes hk hj,
    show (32 * (g + k) + j) / 2 - 16 * g = 16 * k + j / 2 by omega, show (32 * (g + k) + j) % 2 = j % 2 by omega]

end Blocks

section Vpack4

variable (sp : BitVec 3) (d a b : BitVec 5) (h ty : BitVec 3) (bt : BitVec 2) (s : State)

theorem blocks_dvd : ∀ ty : BitVec 3, ty = 0 ∨ 4 ≤ ty.toNat → 2048 / tyWidth ty / 32 ∣ 16 := by decide

/-- The blocks of an accepted VPACK4 or VUNPK4 lie in the register of codes. -/
theorem blocks_fit {ty : BitVec 3} (hty : ty = 0 ∨ 4 ≤ ty.toNat) {g : Nat} (hg : g * (2048 / tyWidth ty / 32) < 16) :
    g * (2048 / tyWidth ty / 32) + 2048 / tyWidth ty / 32 ≤ 16 := by
  obtain ⟨c, hc⟩ := blocks_dvd ty hty
  generalize 2048 / tyWidth ty / 32 = nb at hg hc ⊢
  have hlt : g < c := Nat.lt_of_mul_lt_mul_left (a := nb) (by rwa [Nat.mul_comm, ← hc])
  calc g * nb + nb = nb * (g + 1) := by rw [Nat.mul_succ, Nat.mul_comm]
    _ ≤ nb * c := Nat.mul_le_mul_left _ hlt
    _ = 16 := hc.symm

theorem packSource_lane {ty : BitVec 3} (hty : ty = 0 ∨ 4 ≤ ty.toNat) (v : Row) (k : Nat) : packSource ty (lane (tyWidth ty) v k) =
    if tyInt ty then FV.ofInt (laneBits (tyWidth ty) v k).toInt else fvalue (tyFmt ty) (lane (tyWidth ty) v k) := by
  rcases hty with rfl | hty
  · exact congrArg FV.ofInt (asSigned_lane 8 v k (by decide))
  · have hi : tyInt ty = false := by simpa [tyInt] using hty
    rw [packSource, hi]
    rfl

/-- The blocks that VPACK4 makes: the scale byte and the codes of each. -/
def packedBlocks : List (Nat × List Nat) × Rnd :=
  mapRnd (packLane bt.toNat ((lanes (tyWidth ty) (s.rv a)).map (packSource ty))) s.ctx.rnd (List.range (2048 / tyWidth ty / 32))

theorem length_packedBlocks : (packedBlocks a ty bt s).1.length = 2048 / tyWidth ty / 32 := (length_mapRnd ..).trans List.length_range

theorem getElem?_packedBlocks (hm : s.ctx.rnd.mode ≠ 4) {k : Nat} (hk : k < 2048 / tyWidth ty / 32) :
    (packedBlocks a ty bt s).1[k]? =
      some ((packBlock bt.toNat s.ctx.rnd (packSources ty (s.rv a) k)).1, (packBlock bt.toNat s.ctx.rnd (packSources ty (s.rv a) k)).2.1) := by
  rw [packedBlocks, mapRnd_steady (packLane_keeps _ _) (packLane_flagFree _ _ hm) hm, List.getElem?_map, List.getElem?_range hk, Option.map_some,
    packLane, take_drop_packSource ty _ hk]

theorem exec_vpack4_of_acts (ha : Acts (.vpack4 sp d a b h ty bt) s) : exec (.vpack4 sp d a b h ty bt) s =
    .next ((vxDue s (.v d.toNat) (withCodes (s.rv d) (h.toNat * (2048 / tyWidth ty / 32)) (packedBlocks a ty bt s).1) 4 (packedBlocks a ty bt s).2).due
      (.v b.toNat) (withScales (s.rv b) (h.toNat * (2048 / tyWidth ty / 32)) (packedBlocks a ty bt s).1) 1 4) := by
  rw [withCodes, ← Nat.mul_assoc]
  exact exec_of_acts ha (show _ = execVpack4 sp d a b h ty bt s from rfl)

end Vpack4

/-- Every code of a block fits its four bits. -/
theorem packBlock_code_lt {t : Nat} {r : Rnd} (hm : r.mode ≠ 4) (xs : List FV) (j : Nat) : (packBlock t r xs).2.1.getD j 0 < 2 ^ 4 := by
  rw [packBlock_steady hm, List.getD_eq_getElem?_getD, List.getElem?_map]
  cases xs[j]? with
  | none => exact Nat.two_pow_pos 4
  | some x => exact packElem_lt ..

section PackedBlocks

variable (a : BitVec 5) (ty : BitVec 3) (bt : BitVec 2) (s : State) (v : Row) {g : Nat} (hfit : g + (packedBlocks a ty bt s).1.length ≤ 16)
  (hm : s.ctx.rnd.mode ≠ 4) {k : Nat} (hk : k < 2048 / tyWidth ty / 32)
include hfit hm hk

theorem lane_packedScale : lane 8 (withScales v g (packedBlocks a ty bt s).1) (g + k) = (packBlock bt.toNat s.ctx.rnd (packSources ty (s.rv a) k)).1 := by
  rw [lane_withScales_inside v hfit (getElem?_packedBlocks a ty bt s hm hk)]
  exact Nat.mod_eq_of_lt (packBlock_scale_lt bt.isLt s.ctx.rnd _)

theorem lane_packedCode {j : Nat} (hj : j < 32) : lane 4 (withCodes v g (packedBlocks a ty bt s).1) (32 * (g + k) + j) =
    (packBlock bt.toNat s.ctx.rnd (packSources ty (s.rv a) k)).2.1.getD j 0 := by
  rw [lane_withCodes_inside v hfit (getElem?_packedBlocks a ty bt s hm hk) hj]
  dsimp only
  rw [Nat.mod_eq_of_lt (packBlock_code_lt hm (packSources ty (s.rv a) k) j)]

end PackedBlocks

/-- What VPACK4 leaves (R110): the codes and scale bytes of its blocks, and every other code and byte as it was. -/
theorem vpack4_packs (sp : BitVec 3) (d a b : BitVec 5) (h ty : BitVec 3) (bt : BitVec 2) (s : State) (hty : ty = 0 ∨ 4 ≤ ty.toNat)
    (hg : h.toNat * (2048 / tyWidth ty / 32) < 16) (ha : Acts (.vpack4 sp d a b h ty bt) s) :
    let nb := 2048 / tyWidth ty / 32
    ∃ v u fl l', exec (.vpack4 sp d a b h ty bt) s =
        .next (((s.updSelf fun c => { c with lfsr := l' }).dueFlags (.v d.toNat) v 1 4 fl).due (.v b.toNat) u 1 4) ∧
      (∀ k < 512, ¬(32 * (h.toNat * nb) ≤ k ∧ k < 32 * (h.toNat * nb) + 32 * nb) → laneBits 4 v k = laneBits 4 (s.rv d) k) ∧
      (∀ k < 256, ¬(h.toNat * nb ≤ k ∧ k < h.toNat * nb + nb) → laneBits 8 u k = laneBits 8 (s.rv b) k) ∧
      (s.ctx.rnd.mode ≠ 4 → ∀ k < nb, lane 8 u (h.toNat * nb + k) = (packBlock bt.toNat s.ctx.rnd (packSources ty (s.rv a) k)).1 ∧
        ∀ j < 32, lane 4 v (32 * (h.toNat * nb + k) + j) = (packBlock bt.toNat s.ctx.rnd (packSources ty (s.rv a) k)).2.1.getD j 0) := by
  intro nb
  have hn := length_packedBlocks a ty bt s
  have hfit : h.toNat * nb + (packedBlocks a ty bt s).1.length ≤ 16 := hn.symm ▸ blocks_fit hty hg
  exact ⟨_, _, _, _, exec_vpack4_of_acts sp d a b h ty bt s ha, fun k hk ho => withCodes_outside _ hfit hk (hn.symm ▸ ho),
    fun k hk ho => withScales_outside _ hfit hk (hn.symm ▸ ho), fun hm k hk =>
      ⟨lane_packedScale a ty bt s _ hfit hm hk, fun j hj => lane_packedCode a ty bt s _ hfit hm hk hj⟩⟩

/-- Settles O25: each lane is one rounding of its own outside RSR, and the lists of lanes, codes and scale bytes are laid into their registers in order. -/
theorem conversionsFillTheirLanes : Obligations.ConversionsFillTheirLanes := by
  intro sp d a b n h ty sty fn sm dm z bt s w ws r steady conv nb src fills
  refine ⟨fun hwf => ?_, fun hwf => ?_, fun hwf => ?_, fun hwf ha => ?_⟩
  · have hh : h.toNat < cvtRatio ty sty := by
      simp only [Instr.wf, Bool.and_eq_true, decide_eq_true_eq] at hwf
      exact hwf.1.2
    rcases Nat.lt_trichotomy ws w with hw | hw | hw
    · simp only [if_pos hw.le]
      exact vcvt_widening sp d a sm sty h ty dm z s hw hh
    · have h0 : h.toNat = 0 := by
        rw [cvtRatio_of_le hw.le, show tyWidth sty = tyWidth ty from hw, Nat.div_self (tyWidth_pos ty)] at hh
        omega
      simp only [if_pos hw.le, h0, Nat.zero_mul, Nat.zero_add]
      exact vcvt_same sp d a sm sty h ty dm z s hw
    · simp only [if_neg hw.not_ge]
      exact vcvt_narrowing sp d a sm sty h ty dm z s hw hh
  · simp only [Instr.wf, Bool.and_eq_true, decide_eq_true_eq] at hwf
    exact vunpk4_fillsLanes sp d a b h ty s hwf.1
  · simp only [Instr.wf, tyFlt, Bool.and_eq_true, decide_eq_true_eq] at hwf
    exact vcord_fillsLanes sp d a n fn ty s (Nat.le_of_succ_le hwf.2)
  · simp only [Instr.wf, Bool.and_eq_true, Bool.or_eq_true, decide_eq_true_eq, beq_iff_eq] at hwf
    obtain ⟨⟨hty, hg⟩, -⟩ := hwf
    have hsrc : src = packSources ty (s.rv a) := funext fun k => (List.map_congr_left fun j _ => packSource_lane hty ..).symm
    rw [hsrc, show r = s.ctx.rnd from rfl]
    exact vpack4_packs sp d a b h ty bt s hty hg ha

end Sys2Proof.Machine
end

section
/-! SUPPORT and O27. WBLD, WBCLR and ACCST at issue: their command, counters and tag (R74, R129, R180, R328). -/

namespace Sys2Proof.Machine

theorem lfsrAfter_eq_iterate (n : Nat) (l : BitVec 32) : lfsrAfter n l = lfsrStep^[n] l := by
  induction n generalizing l with
  | zero => rfl
  | succ n ih => exact ih _

theorem rowOf_eq_extractLsb' (ea : Dword) : rowOf ea = (ea.extractLsb' 8 10).toNat := by
  rw [rowOf, bitsOf, BitVec.extractLsb'_toNat, Nat.shiftRight_eq_div_pow]

theorem fcrRm_eq_mod (fcr : Dword) : fcrRm fcr = fcr.toNat % 8 := by
  rw [fcrRm, BitVec.extractLsb'_toNat, Nat.shiftRight_zero]

/-! ### Tags (R180) -/

theorem getLsbD_tagBit {t k : Nat} (ht : t < 128) : (tagBit t).getLsbD k = decide (k = t) := by
  have hk : (1 <<< t).testBit k = decide (t = k) := by rw [Nat.one_shiftLeft, Nat.testBit_two_pow]
  rw [tagBit, Nat.mod_eq_of_lt ht]
  refine (BitVec.getLsbD_ofNat ..).trans ?_
  rw [hk, Bool.eq_iff_iff]
  simp only [Bool.and_eq_true, decide_eq_true_eq]
  omega

/-- A command counted under its tag at issue: the count one more and TB clear; other tags keep TB, and without a tag nothing changes. -/
def TagCounted (k k' : Core) (tag : BitVec 7) (tg : BitVec 1) : Prop :=
  (tg = 1 → sget 0 k'.cnt tag.toNat = sget 0 k.cnt tag.toNat + 1 ∧ k'.tb.getLsbD tag.toNat = false ∧
    ∀ j, j ≠ tag.toNat → k'.tb.getLsbD j = k.tb.getLsbD j) ∧
  (tg = 0 → k'.cnt = k.cnt ∧ k'.tb = k.tb)

theorem Core.tagIssue_tb (k : Core) {t : Nat} (ht : t < 128) (j : Nat) : (k.tagIssue (some t)).tb.getLsbD j = (k.tb.getLsbD j && j != t) := by
  have hj := BitVec.getLsbD_of_ge k.tb j
  simp only [Core.tagIssue, BitVec.getLsbD_and, BitVec.getLsbD_not, getLsbD_tagBit ht]
  by_cases h : j < 128
  · rw [decide_eq_true h]
    rfl
  · rw [hj (by omega)]
    rfl

theorem Core.tagIssue_tagCounted (k : Core) (tag : BitVec 7) (tg : BitVec 1) :
    TagCounted k (k.tagIssue (if tg = 1 then some tag.toNat else none)) tag tg := by
  refine ⟨fun h => ?_, fun h => ?_⟩
  · rw [if_pos h]
    refine ⟨sget_sput_same .., ?_, fun j hj => ?_⟩
    · rw [Core.tagIssue_tb _ tag.isLt, bne_self_eq_false, Bool.and_false]
    · rw [Core.tagIssue_tb _ tag.isLt, bne_iff_ne.mpr hj, Bool.and_true]
  · rw [if_neg (by rw [h]; decide)]
    exact ⟨rfl, rfl⟩

/-! ### The command -/

theorem State.updMyCore_me (s : State) (f : Core → Core) : (s.updMyCore f).me = { s.me with core := f s.me.core } := by
  simp [State.updMyCore, State.updCore, State.me]

theorem State.defer_me (s : State) (d : Deferred) :
    (s.defer d).me = { s.me with region := { s.me.region with deferred := s.me.region.deferred ++ [d] } } := by
  simp [State.defer, State.deferAt, State.me]

/-- The command that the acting context hands to its path (R129): it takes at issue what it will need. -/
def State.matCmd (s : State) (i : Instr) (row rm : Nat) (slab : Dword) : MatCmd where
  id := s.ids
  op := i
  hw := s.cur.hw
  cmdix := s.ctx.cmdix
  row := row
  slab := slab
  rm := rm
  lfsr := s.ctx.lfsr
  after := if acquires i || releases i then s.openAccesses else []
  deferred := true
  begun := false
  acc := 0
  moved := 0
  flags := 0
  err := none
  tagWrite := 0

/-- The context that has handed a matrix command over (R74, R129): OMX is one more, and an ACCST under RSR has taken its 1,024 values of LFSR. -/
def Ctx.handsMatrix (rm : Nat) (c : Ctx) : Ctx := { c with omx := c.omx + 1, lfsr := if rm = 4 then lfsrAfter 1024 c.lfsr else c.lfsr }

/-- The acting tile after it: the command in its list and under its tag, and among what waits for the region's commit. -/
theorem State.queueMatrix_me (s : State) (i : Instr) (row rm : Nat) (slab : Dword) :
    (s.queueMatrix i row rm slab).me = { s.me with
      core := ({ s.me.core.tagIssue (tagOf i) with mcmds := s.me.core.mcmds ++ [s.matCmd i row rm slab] } : Core).updCtx s.cur.hw (Ctx.handsMatrix rm)
      region := { s.me.region with deferred := s.me.region.deferred ++ [.matrix s.ids] } } := by
  simp only [State.queueMatrix, State.defer_me, State.updSelf_me, State.updMyCore_me, State.updMyCore_cur]
  rfl

/-- What the issue of a matrix command leaves, for the row, the rounding mode, the slab word and the acquire or release flag that it reads (R129, R328). -/
def MatrixCommandWaits (s : State) (i : Instr) (row rm : Nat) (slab : Dword) (aq : BitVec 1) (tag : BitVec 7) (tg : BitVec 1) : Prop :=
  ∃ (v : State) (m : MatCmd), exec i s = .next v ∧ v.me.core.mcmds = s.me.core.mcmds ++ [m] ∧ m.op = i ∧ m.row = row ∧
    m.rm = rm ∧ m.slab = slab ∧ m.deferred = true ∧ m.begun = false ∧ m.id = s.ids ∧ m.lfsr = s.ctx.lfsr ∧
    m.after = (if aq = 1 then s.openAccesses else []) ∧
    v.me.region.deferred = s.me.region.deferred ++ [.matrix s.ids] ∧ v.ctx = { s.ctx with
      omx := s.ctx.omx + 1, cmdix := s.ctx.cmdix + 1, lfsr := if rm = 4 then lfsrStep^[1024] s.ctx.lfsr else s.ctx.lfsr } ∧
    TagCounted s.me.core v.me.core tag tg

theorem State.queueMatrix_ctx (s : State) (i : Instr) (row rm : Nat) (slab : Dword) :
    (s.queueMatrix i row rm slab).ctx = Ctx.handsMatrix rm s.ctx := by
  rw [State.ctx, State.queueMatrix_me, show (s.queueMatrix i row rm slab).cur = s.cur from rfl]
  simp only [Core.updCtx_ctx]
  exact congrArg _ (congrArg (sget Ctx.reset · _) (Core.tagIssue_ctxs ..))

theorem matrixCommandWaits_of_acts {s : State} {i : Instr} {row rm : Nat} {slab : Dword} {aq : BitVec 1} {tag : BitVec 7} {tg : BitVec 1}
    {act : State → State} (ha : Acts i s) (he : exec i s = issueCommand i.sp i s act) (hact : act s = s.queueMatrix i row rm slab)
    (htag : tagOf i = if tg = 1 then some tag.toNat else none) (haq : (acquires i || releases i) = (aq == 1)) :
    MatrixCommandWaits s i row rm slab aq tag tg := by
  have hme : (s.queueMatrix i row rm slab).countCommand.me = _ := (State.updSelf_me ..).trans (by rw [State.queueMatrix_me])
  have htags : TagCounted s.me.core (s.me.core.tagIssue (tagOf i)) tag tg := htag ▸ s.me.core.tagIssue_tagCounted tag tg
  refine ⟨_, s.matCmd i row rm slab, hact ▸ exec_of_acts_command ha he, ?_, rfl, rfl, rfl, rfl, rfl, rfl, rfl, rfl, ?_, ?_, ?_, ?_⟩
  · rw [hme]
    rfl
  · simp only [State.matCmd, haq, beq_iff_eq]
  · rw [hme]
  · rw [State.countCommand, State.updSelf_ctx, State.queueMatrix_ctx, Ctx.handsMatrix, lfsrAfter_eq_iterate]
  · rw [hme]
    exact htags

/-- Settles O27: each of the three is `State.queueMatrix` on what the issue reads. -/
theorem matrixCommandsWaitForTheCommit : Obligations.MatrixCommandsWaitForTheCommit := by
  intro sp ws acc x off srow n sx kind fmt xf ofmt rm mask tag tg tw aq sc s row i hi ha
  have hrow : matrixRow s x off = row := by rw [matrixRow, rowOf_eq_extractLsb']
  simp only [List.mem_cons, List.not_mem_nil, or_false] at hi
  obtain rfl | rfl | rfl := hi
  · exact matrixCommandWaits_of_acts ha (show _ = execWbld sp ws x off srow n kind fmt xf tag tg aq sc s from rfl) (by rw [← hrow]) rfl (Bool.or_false _)
  · exact matrixCommandWaits_of_acts ha (show _ = execWbclr sp mask tag tg s from rfl) rfl rfl rfl
  · exact matrixCommandWaits_of_acts ha (show _ = execAccst sp acc x off ofmt rm tag tg tw sx aq sc s from rfl) (by rw [← hrow, ← fcrRm_eq_mod]) rfl
      (Bool.false_or _)

end Sys2Proof.Machine
end

section
/-! SUPPORT. Gated vector operations lane by lane (R96, R97, R100). -/

namespace Sys2Proof.Machine

/-! ### The gate -/

theorem State.rp_zero (s : State) : s.rp 0 = -1 := by
  rw [State.rp, if_neg (by simp [State.early, Ctx.early, Reg.wired])]
  exact Ctx.p_zero _

/-- The predicate bit of a lane is one of the 256. -/
theorem lane_bit_lt {w k : Nat} (hk : k < 2048 / w) : k * (w / 8) < 256 := by
  rcases Nat.eq_zero_or_pos w with rfl | hw
  · simp at hk
  · have hkw : k * w + w ≤ 2048 := Nat.succ_mul k w ▸ (Nat.le_div_iff_mul_le hw).mp hk
    have hle : k * (w / 8) * 8 ≤ k * w := by
      rw [Nat.mul_assoc]
      exact Nat.mul_le_mul_left _ (Nat.div_mul_le_self w 8)
    omega

/-- Under p0 every lane is active (R96). -/
theorem State.active_p_zero (s : State) {p : BitVec 3} (hp : p = 0) {w k : Nat} (hk : k < 2048 / w) : active (s.rp p.toNat) w k = true := by
  rw [hp, show (0 : BitVec 3).toNat = 0 from rfl, State.rp_zero, active, show (-1 : Pred) = BitVec.allOnes 256 from rfl, BitVec.getLsbD_allOnes]
  exact decide_eq_true (lane_bit_lt hk)

theorem actives_eq_map (s : State) (p : BitVec 3) (w : Nat) : actives s p w = (List.range (2048 / w)).map (active (s.rp p.toNat) w) := rfl

/-- A lane that the gate leaves is zero or the old one (R97). -/
theorem ofNat_gateOld_lane {s : State} {d : BitVec 5} {p : BitVec 3} {z : BitVec 1} {w k : Nat} (hk : k < 2048 / w)
    (ha : active (s.rp p.toNat) w k = false) :
    BitVec.ofNat w (if z = 1 then 0 else lane w (gateOld s d p z) k) = if z = 1 then 0 else laneBits w (s.rv d) k := by
  have hp : p ≠ 0 := fun hp => absurd (s.active_p_zero hp hk) (by simp [ha])
  by_cases hz : z = 1
  · simp [hz]
  · rw [if_neg hz, if_neg hz, gateOld, if_neg (not_or.mpr ⟨hp, hz⟩), laneBits_eq_ofNat]

/-! ### Roundings in order -/

theorem mapRnd_map {α β γ : Type} (f : Rnd → α → β × Rnd) (g : γ → α) (r : Rnd) (xs : List γ) :
    mapRnd f r (xs.map g) = mapRnd (fun r x => f r (g x)) r xs := by
  induction xs generalizing r with
  | nil => rfl
  | cons x xs ih => simp only [List.map_cons, mapRnd, ih]

theorem mapRnd_pure {α β : Type} (g : α → β) (r : Rnd) (xs : List α) : mapRnd (fun r x => (g x, r)) r xs = (xs.map g, r) := by
  induction xs with
  | nil => rfl
  | cons x xs ih => simp only [mapRnd, ih, List.map_cons]

theorem mapRnd_append {α β : Type} (f : Rnd → α → β × Rnd) (r : Rnd) (xs ys : List α) :
    mapRnd f r (xs ++ ys) = ((mapRnd f r xs).1 ++ (mapRnd f (mapRnd f r xs).2 ys).1, (mapRnd f (mapRnd f r xs).2 ys).2) := by
  induction xs generalizing r with
  | nil => rfl
  | cons x xs ih => simp only [List.cons_append, mapRnd, ih]

/-! ### Gated operations -/

/-- Lane `k` of a gated operation over the lanes `a` and `b` and the old destination `c` (R100). -/
def gatedLane (on : Nat → Bool) (z : BitVec 1) (a b c : Nat → Nat) (f : LaneFn) (r : Rnd) (k : Nat) : Nat × Rnd :=
  if on k then f r (a k) (b k) (c k) else (if z = 1 then 0 else c k, r)

/-- The old destination of a gated operation, which its function may read (R97). -/
def gateSource (s : State) (d : BitVec 5) (p : BitVec 3) (z : BitVec 1) (readsD : Bool) : Row := if readsD then s.rv d else gateOld s d p z

/-- The lanes of a gated operation in their order. -/
def gatedMap (s : State) (d : BitVec 5) (av bv : Row) (p : BitVec 3) (w : Nat) (z : BitVec 1) (readsD : Bool) (f : LaneFn) : List Nat × Rnd :=
  mapRnd (gatedLane (active (s.rp p.toNat) w) z (lane w av) (lane w bv) (lane w (gateSource s d p z readsD)) f) s.ctx.rnd (List.range (2048 / w))

theorem keptLanes_eq_map (w : Nat) (z : BitVec 1) (v : Row) :
    keptLanes w z v = (List.range (2048 / w)).map fun k => if z = 1 then 0 else lane w v k := by
  rw [keptLanes]
  split
  next hz => simp
  next hz => rw [lanes_eq_map]

theorem gatedOp_eq (s : State) (d : BitVec 5) (av bv : Row) (p : BitVec 3) (w : Nat) (z : BitVec 1) (readsD : Bool) (l : Nat) (f : LaneFn) :
    gatedOp s d av bv p w z readsD l f = vxDue s (.v d.toNat) (ofLanes w (gatedMap s d av bv p w z readsD f).1) l
      (gatedMap s d av bv p w z readsD f).2 := by
  have hk := keptLanes_eq_map w z (gateSource s d p z readsD)
  simp only [gatedOp, gatedLanes, gatedMap]
  rw [show (if z = 1 then List.replicate (2048 / w) 0 else lanes w (if readsD = true then s.rv d else gateOld s d p z)) = _ from hk,
    actives_eq_map, lanes_eq_map, lanes_eq_map, lanes_eq_map, List.zip_map', List.zip_map', List.zip_map', List.zip_map', mapRnd_map]
  rfl

/-- The gate leaves an inactive lane as R97 says, whether or not the operation's function reads the destination. -/
theorem ofNat_gateSource_lane {s : State} {d : BitVec 5} {p : BitVec 3} {z : BitVec 1} {w k : Nat} (readsD : Bool) (hk : k < 2048 / w)
    (ha : active (s.rp p.toNat) w k = false) :
    BitVec.ofNat w (if z = 1 then 0 else lane w (gateSource s d p z readsD) k) = if z = 1 then 0 else laneBits w (s.rv d) k := by
  cases readsD with
  | false => exact ofNat_gateOld_lane hk ha
  | true =>
    rw [laneBits_eq_ofNat]
    split <;> rfl

/-- A function of the lanes that does not round. -/
abbrev pureFn (g : Nat → Nat → Nat → Nat) : LaneFn := fun r a b c => (g a b c, r)

theorem vxDue_rnd (s : State) (dst : Reg) (val : Row) (l : Nat) :
    vxDue s dst val l s.ctx.rnd = (s.updSelf fun c => { c with lfsr := c.lfsr }).due dst val 1 l := rfl

/-- A gated operation that does not round: the value of its function in each active lane. -/
theorem gated_of_pure {i : Instr} {s : State} {d : BitVec 5} {p : BitVec 3} {z : BitVec 1} {w l : Nat} {f : Nat → BitVec w} {act : State → State}
    {av bv : Row} {readsD : Bool} {F : LaneFn} {g : Nat → Nat → Nat → Nat}
    (he : exec i s = issueSlot i.sp i s act) (ha : act s = gatedOp s d av bv p w z readsD l F) (hF : F = pureFn g)
    (hg : ∀ k < 2048 / w, BitVec.ofNat w (g (lane w av k) (lane w bv k) (lane w (gateSource s d p z readsD) k)) = f k) : Gated i s d p z w l f := by
  intro h
  let v (k : Nat) : Nat := if active (s.rp p.toNat) w k then g (lane w av k) (lane w bv k) (lane w (gateSource s d p z readsD) k)
    else if z = 1 then 0 else lane w (gateSource s d p z readsD) k
  have hm : gatedMap s d av bv p w z readsD F = ((List.range (2048 / w)).map v, s.ctx.rnd) := by
    rw [← mapRnd_pure, gatedMap, hF]
    congr 1
    funext r k
    simp only [gatedLane, v]
    split <;> rfl
  refine ⟨ofLanes w ((List.range (2048 / w)).map v), ?_, fun k hk => ?_⟩
  · rw [exec_of_acts h he, ha, gatedOp_eq, hm, vxDue_rnd]
  · rw [laneBits_ofLanes (by simp), getD_map_range _ hk]
    simp only [v]
    by_cases hon : active (s.rp p.toNat) w k = true
    · rw [if_pos hon, if_pos hon, hg k hk]
    · rw [if_neg hon, if_neg hon, ofNat_gateSource_lane readsD hk (Bool.eq_false_iff.mpr hon)]

end Sys2Proof.Machine
end

section
/-! SUPPORT. Integer lanes as bit vectors (R36, R100, R102, R103). -/

namespace Sys2Proof.Machine

/-! ### Numbers and bit vectors -/

theorem truncInt_lt (w : Nat) (i : Int) : truncInt w i < 2 ^ w := by
  have hp : (0 : Int) < (2 ^ w : Nat) := by exact_mod_cast Nat.two_pow_pos w
  have hnn := Int.emod_nonneg i hp.ne'
  have hub := Int.emod_lt_of_pos i hp
  rw [truncInt]
  omega

theorem ofNat_truncInt (w : Nat) (i : Int) : BitVec.ofNat w (truncInt w i) = BitVec.ofInt w i := by
  refine BitVec.eq_of_toNat_eq ?_
  rw [BitVec.toNat_ofNat, Nat.mod_eq_of_lt (truncInt_lt w i), BitVec.toNat_ofInt, truncInt]

theorem asSigned_toNat {w : Nat} (hw : 0 < w) (x : BitVec w) : asSigned w x.toNat = x.toInt := by
  have hp : 2 ^ w = 2 * 2 ^ (w - 1) := by rw [← pow_succ', Nat.sub_add_cancel hw]
  rw [BitVec.toInt_eq_toNat_cond, asSigned, Nat.mod_eq_of_lt x.isLt]
  simp only [hp, Nat.mul_lt_mul_left, Nat.two_pos]

theorem ofNat_toNat_self {w : Nat} (x : BitVec w) : BitVec.ofNat w x.toNat = x := by rw [BitVec.ofNat_toNat, BitVec.setWidth_eq]

theorem ofInt_toNat_self {w : Nat} (x : BitVec w) : BitVec.ofInt w x.toNat = x := by rw [BitVec.ofInt_natCast, ofNat_toNat_self]

/-! ### Arithmetic (R100) -/

theorem ofInt_add_toInt {w : Nat} (x y : BitVec w) : BitVec.ofInt w (x.toInt + y.toInt) = x + y := by
  rw [BitVec.ofInt_add, BitVec.ofInt_toInt, BitVec.ofInt_toInt]

theorem ofInt_neg_toInt {w : Nat} (x : BitVec w) : BitVec.ofInt w (-x.toInt) = -x := by rw [BitVec.ofInt_neg, BitVec.ofInt_toInt]

theorem ofInt_sub_toInt {w : Nat} (x y : BitVec w) : BitVec.ofInt w (x.toInt - y.toInt) = x - y := by
  rw [Int.sub_eq_add_neg, BitVec.ofInt_add, BitVec.ofInt_toInt, ofInt_neg_toInt, BitVec.sub_eq_add_neg]

theorem ofInt_mul_toInt {w : Nat} (x y : BitVec w) : BitVec.ofInt w (x.toInt * y.toInt) = x * y := by
  rw [BitVec.ofInt_mul, BitVec.ofInt_toInt, BitVec.ofInt_toInt]

theorem ofInt_mulAdd_toNat {w : Nat} (x y c : BitVec w) : BitVec.ofInt w (c.toNat + x.toNat * y.toNat) = c + x * y := by
  rw [BitVec.ofInt_add, BitVec.ofInt_mul, ofInt_toNat_self, ofInt_toNat_self, ofInt_toNat_self]

theorem ofInt_mulSub_toNat {w : Nat} (x y c : BitVec w) : BitVec.ofInt w (c.toNat - x.toNat * y.toNat) = c - x * y := by
  rw [Int.sub_eq_add_neg, BitVec.ofInt_add, BitVec.ofInt_neg, BitVec.ofInt_mul, ofInt_toNat_self, ofInt_toNat_self, ofInt_toNat_self,
    BitVec.sub_eq_add_neg]

theorem ofInt_min_toInt {w : Nat} (x y : BitVec w) : BitVec.ofInt w (min x.toInt y.toInt) = if x.toInt ≤ y.toInt then x else y := by
  rw [min_def]
  split <;> exact BitVec.ofInt_toInt

theorem ofInt_max_toInt {w : Nat} (x y : BitVec w) : BitVec.ofInt w (max x.toInt y.toInt) = if x.toInt ≥ y.toInt then x else y := by
  rw [max_comm, max_def]
  split <;> exact BitVec.ofInt_toInt

theorem ofInt_min_toNat {w : Nat} (x y : BitVec w) : BitVec.ofInt w (min (x.toNat : Int) y.toNat) = if x ≤ y then x else y := by
  simp only [min_def, Nat.cast_le, ← BitVec.le_def]
  split <;> exact ofInt_toNat_self _

theorem ofInt_max_toNat {w : Nat} (x y : BitVec w) : BitVec.ofInt w (max (x.toNat : Int) y.toNat) = if x ≥ y then x else y := by
  simp only [max_comm (x.toNat : Int), max_def, Nat.cast_le, ← BitVec.le_def]
  split <;> exact ofInt_toNat_self _

theorem ofInt_natAbs_toInt {w : Nat} (x : BitVec w) : BitVec.ofInt w x.toInt.natAbs = if x.toInt < 0 then -x else x := by
  split
  next h => rw [Int.ofNat_natAbs_of_nonpos h.le, ofInt_neg_toInt]
  next h => rw [Int.natAbs_of_nonneg (not_lt.mp h), BitVec.ofInt_toInt]

/-- The upper half of an integer's `2 * w` low bits. -/
theorem extractLsb'_ofInt (w : Nat) (i : Int) : (BitVec.ofInt (2 * w) i).extractLsb' w w = BitVec.ofInt w (i / 2 ^ w) := by
  have hp : (0 : Int) < 2 ^ w := by positivity
  have hN : ((2 ^ (2 * w) : Nat) : Int) = 2 ^ w * 2 ^ w := by rw [Nat.cast_pow, Nat.cast_ofNat, Nat.two_mul, pow_add]
  obtain ⟨y, hy⟩ := Int.eq_ofNat_of_zero_le (Int.emod_nonneg i (mul_pos hp hp).ne')
  have hi : i / 2 ^ w = (y / 2 ^ w : Nat) + 2 ^ w * (i / (2 ^ w * 2 ^ w)) := by
    conv_lhs => rw [← Int.emod_add_mul_ediv i (2 ^ w * 2 ^ w), hy, Int.mul_assoc, Int.add_mul_ediv_left _ _ hp.ne']
    norm_cast
  have hz : BitVec.ofInt w (2 ^ w * (i / (2 ^ w * 2 ^ w))) = 0#w := by
    refine BitVec.eq_of_toNat_eq ?_
    rw [BitVec.toNat_ofInt, Nat.cast_pow, Nat.cast_ofNat, Int.mul_emod_right]
    rfl
  rw [hi, BitVec.ofInt_add, hz, BitVec.ofInt_natCast, BitVec.add_zero]
  refine BitVec.eq_of_toNat_eq ?_
  rw [BitVec.extractLsb'_toNat, BitVec.toNat_ofInt, hN, hy, BitVec.toNat_ofNat, Nat.shiftRight_eq_div_pow, Int.toNat_natCast]

theorem ofInt_mulh_toInt {w : Nat} (x y : BitVec w) :
    BitVec.ofInt w (x.toInt * y.toInt / 2 ^ w) = (x.signExtend (2 * w) * y.signExtend (2 * w)).extractLsb' w w := by
  rw [← extractLsb'_ofInt, BitVec.ofInt_mul]
  rfl

theorem ofInt_mulh_toNat {w : Nat} (x y : BitVec w) :
    BitVec.ofInt w (x.toNat * y.toNat / 2 ^ w) = (x.zeroExtend (2 * w) * y.zeroExtend (2 * w)).extractLsb' w w := by
  rw [← extractLsb'_ofInt, BitVec.ofInt_mul, BitVec.ofInt_natCast, BitVec.ofInt_natCast, BitVec.ofNat_toNat, BitVec.ofNat_toNat]

/-! ### Saturation (R36, R100) -/

theorem ofNat_satS_signed {w : Nat} (hw : 0 < w) (f : Int → Int → Int) (x y : BitVec w) :
    BitVec.ofNat w (satS w (f (asSigned w x.toNat) (asSigned w y.toNat))) =
      BitVec.ofInt w (max (-(2 ^ (w - 1) - 1) - 1) (min (f x.toInt y.toInt) (2 ^ (w - 1) - 1))) := by
  rw [satS, ofNat_truncInt, asSigned_toNat hw, asSigned_toNat hw, Nat.cast_pow, Nat.cast_ofNat,
    show -((2 : Int) ^ (w - 1) - 1) - 1 = -2 ^ (w - 1) by omega]

theorem ofNat_satN_add {w : Nat} (x y : BitVec w) :
    BitVec.ofNat w (satN w ((x.toNat : Int) + y.toNat)) = if x.toNat + y.toNat < 2 ^ w then x + y else -1 := by
  rw [satN, ofNat_truncInt]
  split
  next h =>
    rw [min_eq_left (by omega), max_eq_right (by omega), BitVec.ofInt_add, ofInt_toNat_self, ofInt_toNat_self]
  next h =>
    have hp := Nat.two_pow_pos w
    rw [min_eq_right (by omega), max_eq_right (by omega), show (-1 : BitVec w) = BitVec.allOnes w from BitVec.neg_one_eq_allOnes]
    refine BitVec.eq_of_toNat_eq ?_
    rw [BitVec.toNat_ofInt, BitVec.toNat_allOnes, Int.emod_eq_of_lt (by omega) (by omega)]
    omega

theorem ofNat_satN_sub {w : Nat} (x y : BitVec w) :
    BitVec.ofNat w (satN w ((x.toNat : Int) - y.toNat)) = BitVec.ofNat w (x.toNat - y.toNat) := by
  have hx := x.isLt
  rw [satN, ofNat_truncInt, ← BitVec.ofInt_natCast]
  congr 1
  omega

/-! ### Logic, shifts and counts (R103) -/

theorem ofNat_and {w : Nat} (x y : BitVec w) : BitVec.ofNat w (x.toNat &&& y.toNat) = x &&& y := by rw [← BitVec.toNat_and, ofNat_toNat_self]
theorem ofNat_or {w : Nat} (x y : BitVec w) : BitVec.ofNat w (x.toNat ||| y.toNat) = x ||| y := by rw [← BitVec.toNat_or, ofNat_toNat_self]
theorem ofNat_xor {w : Nat} (x y : BitVec w) : BitVec.ofNat w (x.toNat ^^^ y.toNat) = x ^^^ y := by rw [← BitVec.toNat_xor, ofNat_toNat_self]

theorem ofNat_andNot {w : Nat} (x y : BitVec w) : BitVec.ofNat w (x.toNat &&& (2 ^ w - 1 - y.toNat)) = x &&& ~~~y := by
  rw [← BitVec.toNat_not, ofNat_and]

theorem ofNat_shlLane {w : Nat} (x : BitVec w) (n : Nat) : BitVec.ofNat w (shlLane w x.toNat n) = x <<< n := by
  rw [shlLane]
  split
  next h => rw [BitVec.shiftLeft_eq_zero h]
  next => exact BitVec.eq_of_toNat_eq (by rw [BitVec.toNat_ofNat, Nat.mod_mod, BitVec.toNat_shiftLeft, Nat.shiftLeft_eq])

theorem ofNat_shrLane {w : Nat} (x : BitVec w) (n : Nat) : BitVec.ofNat w (shrLane w x.toNat n) = x >>> n := by
  rw [shrLane]
  split
  next h => rw [BitVec.ushiftRight_eq_zero h]
  next => rw [← Nat.shiftRight_eq_div_pow, ← BitVec.toNat_ushiftRight, ofNat_toNat_self]

/-- A signed shift by more than the width leaves copies of the sign, as one by the width less one does. -/
theorem toInt_div_two_pow_min {w : Nat} (x : BitVec w) (n : Nat) : x.toInt / 2 ^ min n (w - 1) = x.toInt / 2 ^ n := by
  rcases Nat.le_total n (w - 1) with h | h
  · rw [Nat.min_eq_left h]
  · have hle : (2 : Int) ^ (w - 1) ≤ 2 ^ n := pow_le_pow_right₀ (by decide) h
    have hlo := BitVec.le_toInt x
    have hhi := BitVec.toInt_lt (x := x)
    have hpos : (0 : Int) < 2 ^ (w - 1) := by positivity
    rw [Nat.min_eq_right h]
    rcases lt_or_ge x.toInt 0 with hneg | hnn
    · rw [Int.ediv_eq_neg_one_of_neg_of_le, Int.ediv_eq_neg_one_of_neg_of_le] <;> omega
    · rw [Int.ediv_eq_zero_of_lt hnn hhi, Int.ediv_eq_zero_of_lt hnn (hhi.trans_le hle)]

theorem ofNat_sarLane {w : Nat} (hw : 0 < w) (x : BitVec w) (n : Nat) : BitVec.ofNat w (sarLane w x.toNat n) = x.sshiftRight n := by
  rw [sarLane, ofNat_truncInt, asSigned_toNat hw, toInt_div_two_pow_min, BitVec.sshiftRight_eq, Int.shiftRight_eq_div_pow]
  norm_cast

theorem bitOf_toNat {w : Nat} (x : BitVec w) (j : Nat) : bitOf x.toNat j = x.getLsbD j := by
  rw [bitOf, BitVec.getLsbD, Nat.testBit_eq_decide_div_mod_eq]
  rfl

theorem popCount_toNat {w : Nat} (x : BitVec w) : popCount w x.toNat = (List.range w).countP fun j => x.getLsbD j := by
  rw [popCount, List.countP_eq_length_filter]
  simp only [bitOf_toNat]

theorem leadingZeros_toNat {w : Nat} (x : BitVec w) :
    leadingZeros w x.toNat = ((List.range w).find? fun j => x.getLsbD (w - 1 - j)).getD w := by
  rw [leadingZeros, Nat.mod_eq_of_lt x.isLt]
  split
  next h =>
    have hx : x = 0#w := BitVec.eq_of_toNat_eq h
    simp [hx, List.find?_eq_none.mpr]
  next h =>
    have hlog : x.toNat.log2 < w := (Nat.log2_lt h).mpr x.isLt
    have hf : ((List.range w).find? fun j => x.getLsbD (w - 1 - j)) = some (w - 1 - x.toNat.log2) := by
      rw [List.find?_range_eq_some]
      refine ⟨?_, ?_, fun j hj => ?_⟩
      · rw [show w - 1 - (w - 1 - x.toNat.log2) = x.toNat.log2 by omega]
        exact Nat.testBit_log2 h
      · exact List.mem_range.mpr (by omega)
      · have hb : x.getLsbD (w - 1 - j) = false :=
          Nat.testBit_lt_two_pow (Nat.lt_log2_self.trans_le (Nat.pow_le_pow_right Nat.two_pos (by omega)))
        rw [hb]
        rfl
    rw [hf]
    rfl

end Sys2Proof.Machine
end

section
/-! SUPPORT and O21. The gated integer and logic operations (R100, R102, R103). -/

namespace Sys2Proof.Machine

section Operations

variable {i : Instr} {s : State} {d : BitVec 5} {p : BitVec 3} {z : BitVec 1} {w l : Nat} {act : State → State} {av bv : Row} {readsD : Bool} {F : LaneFn}

/-- A gated operation whose lanes are a function of two lanes as bit vectors. -/
theorem gated_of_bits {φ : BitVec w → BitVec w → BitVec w} {g : Nat → Nat → Nat → Nat} (he : exec i s = issueSlot i.sp i s act)
    (ha : act s = gatedOp s d av bv p w z readsD l F) (hF : F = pureFn g)
    (hg : ∀ (x y : BitVec w) c, BitVec.ofNat w (g x.toNat y.toNat c) = φ x y) :
    Gated i s d p z w l fun k => φ (laneBits w av k) (laneBits w bv k) :=
  gated_of_pure he ha hF fun k _ => by rw [← hg, laneBits_toNat, laneBits_toNat]

/-- One whose lanes are a function of three, the old destination's the last. -/
theorem gated_of_bits_old {φ : BitVec w → BitVec w → BitVec w → BitVec w} {g : Nat → Nat → Nat → Nat} (he : exec i s = issueSlot i.sp i s act)
    (ha : act s = gatedOp s d av bv p w z true l F) (hF : F = pureFn g)
    (hg : ∀ x y c : BitVec w, BitVec.ofNat w (g x.toNat y.toNat c.toNat) = φ x y c) :
    Gated i s d p z w l fun k => φ (laneBits w av k) (laneBits w bv k) (laneBits w (s.rv d) k) :=
  gated_of_pure he ha hF fun k _ => by
    rw [← hg, laneBits_toNat, laneBits_toNat, laneBits_toNat]
    rfl

/-- One over the signed readings of two lanes. -/
theorem gated_of_signed {φ : BitVec w → BitVec w → BitVec w} {h : Int → Int → Int} (hw : 0 < w) (he : exec i s = issueSlot i.sp i s act)
    (ha : act s = gatedOp s d av bv p w z readsD l F) (hF : F = intFn w h false)
    (hh : ∀ x y : BitVec w, BitVec.ofInt w (h x.toInt y.toInt) = φ x y) :
    Gated i s d p z w l fun k => φ (laneBits w av k) (laneBits w bv k) :=
  gated_of_bits he ha hF fun x y _ => by
    rw [← hh, ← asSigned_toNat hw, ← asSigned_toNat hw]
    exact ofNat_truncInt ..

/-- One over their natural readings. -/
theorem gated_of_natural {φ : BitVec w → BitVec w → BitVec w} {h : Int → Int → Int} (he : exec i s = issueSlot i.sp i s act)
    (ha : act s = gatedOp s d av bv p w z readsD l F) (hF : F = intFn w h true)
    (hh : ∀ x y : BitVec w, BitVec.ofInt w (h x.toNat y.toNat) = φ x y) :
    Gated i s d p z w l fun k => φ (laneBits w av k) (laneBits w bv k) :=
  gated_of_bits he ha hF fun x y _ => by
    rw [← hh, ← ofNat_truncInt]
    simp only [if_true, Nat.mod_eq_of_lt x.isLt, Nat.mod_eq_of_lt y.isLt]

theorem mulLatency_of_int {ty : BitVec 3} (h : tyInt ty = true) : mulLatency ty = 2 := if_pos h

end Operations

/-! ### The dot product of bytes (R102) -/

/-- The fields of a lane are lanes of their own width. -/
theorem cut_lane (m n : Nat) (v : Row) (k : Nat) : cut m n (lane (m * n) v k) = (List.range n).map fun j => lane m v (n * k + j) := by
  rw [cut_eq_map]
  refine List.map_congr_left fun j hj => ?_
  have hle : m * j + m ≤ m * n := Nat.mul_succ m j ▸ Nat.mul_le_mul_left m (List.mem_range.mp hj)
  rw [lane, mod_div_mod _ hle, Nat.div_div_eq_div_mul, ← pow_add, Nat.mul_assoc, ← Nat.mul_add]
  rfl

/-- The reading of a byte of VDOT, natural or signed. -/
def dotByte (nat : BitVec 1) (x : Nat) : Int := if nat = 1 then (x : Int) else asSigned 8 x

/-- A lane of VDOT over bytes: four products added to the old destination. -/
def dotBytes (nat : BitVec 1) (a b c : Nat) : Nat :=
  truncInt 32 (asSigned 32 c + (List.zipWith (fun x y => dotByte nat x * dotByte nat y) (cut 8 4 a) (cut 8 4 b)).sum)

theorem dotByte_lane (nat : BitVec 1) (v : Row) (j : Nat) :
    dotByte nat (lane 8 v j) = if nat = 1 then ((laneBits 8 v j).toNat : Int) else (laneBits 8 v j).toInt := by
  rw [dotByte, laneBits_toNat, asSigned_lane 8 v j (by decide)]

theorem ofNat_dotBytes (nat : BitVec 1) (av bv cv : Row) (k : Nat) :
    let x (v : Row) (j : Nat) : Int := if nat = 1 then ((laneBits 8 v (4 * k + j)).toNat : Int) else (laneBits 8 v (4 * k + j)).toInt
    BitVec.ofNat 32 (dotBytes nat (lane 32 av k) (lane 32 bv k) (lane 32 cv k)) = BitVec.ofInt 32
      ((laneBits 32 cv k).toInt + x av 0 * x bv 0 + x av 1 * x bv 1 + x av 2 * x bv 2 + x av 3 * x bv 3) := by
  intro x
  have hx (v : Row) (j : Nat) : dotByte nat (lane 8 v (4 * k + j)) = x v j := dotByte_lane ..
  have hsum : (List.zipWith (fun x y => dotByte nat x * dotByte nat y) (cut 8 4 (lane 32 av k)) (cut 8 4 (lane 32 bv k))).sum =
      x av 0 * x bv 0 + (x av 1 * x bv 1 + (x av 2 * x bv 2 + (x av 3 * x bv 3 + 0))) := by
    rw [cut_lane 8 4 av k, cut_lane 8 4 bv k]
    simp only [← hx]
    rfl
  rw [dotBytes, ofNat_truncInt, asSigned_lane 32 cv k (by decide), hsum]
  congr 1
  omega

/-! ### The obligation -/

/-- Settles O21: each lane function is that of its two lanes as bit vectors. -/
theorem integerAndLogicLanesGiveTheirResult : Obligations.IntegerAndLogicLanesGiveTheirResult := by
  refine ⟨fun sp d a b p ty nat z s hty => ?_, fun sp d a b n p ty nat z s => ⟨?_, fun hty => ?_, ?_⟩⟩
  · intro w A B C hi clamp q hq
    have hw : 0 < w := tyWidth_pos ty
    have hl : mulLatency ty = 2 := mulLatency_of_int hty
    simp only [List.mem_cons, List.not_mem_nil, or_false] at hq
    obtain rfl | rfl | rfl | rfl | rfl | rfl | rfl | rfl | rfl | rfl | rfl | rfl | rfl | rfl | rfl := hq
    · exact gated_of_signed (φ := (· + ·)) hw (show _ = execVadd sp d a b p ty z s from rfl) rfl (if_pos hty) ofInt_add_toInt
    · exact gated_of_signed (φ := (· - ·)) hw (show _ = execVsub sp d a b p ty z s from rfl) rfl (if_pos hty) ofInt_sub_toInt
    · exact hl ▸ gated_of_signed (φ := (· * ·)) hw (show _ = execVmul sp d a b p ty z s from rfl) rfl (if_pos hty) ofInt_mul_toInt
    · exact hl ▸ gated_of_bits_old (φ := fun x y c => c + x * y) (show _ = execVfma sp d a b p ty z s from rfl) rfl (if_pos hty)
        fun x y c => (ofNat_truncInt ..).trans (ofInt_mulAdd_toNat x y c)
    · exact hl ▸ gated_of_bits_old (φ := fun x y c => c - x * y) (show _ = execVfms sp d a b p ty z s from rfl) rfl (if_pos hty)
        fun x y c => (ofNat_truncInt ..).trans (ofInt_mulSub_toNat x y c)
    · exact gated_of_signed (φ := fun x y => if x.toInt ≤ y.toInt then x else y) hw (show _ = execVmin sp d a b p ty z s from rfl) rfl (if_pos hty)
        ofInt_min_toInt
    · exact gated_of_signed (φ := fun x y => if x.toInt ≥ y.toInt then x else y) hw (show _ = execVmax sp d a b p ty z s from rfl) rfl (if_pos hty)
        ofInt_max_toInt
    · exact gated_of_natural (φ := fun x y => if x ≤ y then x else y) (show _ = execVminn sp d a b p ty z s from rfl) rfl rfl ofInt_min_toNat
    · exact gated_of_natural (φ := fun x y => if x ≥ y then x else y) (show _ = execVmaxn sp d a b p ty z s from rfl) rfl rfl ofInt_max_toNat
    · exact gated_of_bits (φ := fun x _ => if x.toInt < 0 then -x else x) (show _ = execVabs sp d a p ty z s from rfl) rfl (if_pos hty)
        fun x _ _ => by rw [ofNat_truncInt, asSigned_toNat hw, ofInt_natAbs_toInt]
    · exact gated_of_bits (φ := fun x _ => -x) (show _ = execVneg sp d a p ty z s from rfl) rfl (if_pos hty)
        fun x _ _ => by rw [ofNat_truncInt, asSigned_toNat hw, ofInt_neg_toInt]
    · exact gated_of_signed (φ := fun x y => (x.signExtend (2 * w) * y.signExtend (2 * w)).extractLsb' w w) hw
        (show _ = execVmulh sp d a b p ty z s from rfl) rfl rfl ofInt_mulh_toInt
    · exact gated_of_natural (φ := fun x y => (x.zeroExtend (2 * w) * y.zeroExtend (2 * w)).extractLsb' w w)
        (show _ = execVmulhn sp d a b p ty z s from rfl) rfl rfl ofInt_mulh_toNat
    · refine gated_of_bits (φ := fun x y => if nat = 1 then (if x.toNat + y.toNat < 2 ^ w then x + y else -1) else clamp (x.toInt + y.toInt))
        (show _ = execVadds sp d a b p ty nat z s from rfl) rfl rfl fun x y _ => ?_
      split
      · exact ofNat_satN_add x y
      · exact ofNat_satS_signed hw (· + ·) x y
    · refine gated_of_bits (φ := fun x y => if nat = 1 then BitVec.ofNat w (x.toNat - y.toNat) else clamp (x.toInt - y.toInt))
        (show _ = execVsubs sp d a b p ty nat z s from rfl) rfl rfl fun x y _ => ?_
      split
      · exact ofNat_satN_sub x y
      · exact ofNat_satS_signed hw (· - ·) x y
  · intro q hq
    simp only [List.mem_cons, List.not_mem_nil, or_false] at hq
    obtain rfl | rfl | rfl | rfl := hq
    · exact gated_of_bits (φ := (· &&& ·)) (show _ = execVand sp d a b p ty z s from rfl) rfl rfl fun x y _ => ofNat_and x y
    · exact gated_of_bits (φ := (· ||| ·)) (show _ = execVor sp d a b p ty z s from rfl) rfl rfl fun x y _ => ofNat_or x y
    · exact gated_of_bits (φ := (· ^^^ ·)) (show _ = execVxor sp d a b p ty z s from rfl) rfl rfl fun x y _ => ofNat_xor x y
    · exact gated_of_bits (φ := fun x y => x &&& ~~~y) (show _ = execVandn sp d a b p ty z s from rfl) rfl rfl fun x y _ => ofNat_andNot x y
  · intro q hq
    have hw := tyWidth_pos ty
    simp only [List.mem_cons, List.not_mem_nil, or_false] at hq
    obtain rfl | rfl | rfl | rfl | rfl | rfl | rfl := hq
    · exact gated_of_bits (φ := fun x y => x <<< y.toNat) (show _ = execVshl sp d a b p ty z s from rfl) rfl rfl fun x y _ => ofNat_shlLane x _
    · exact gated_of_bits (φ := fun x y => x >>> y.toNat) (show _ = execVshr sp d a b p ty z s from rfl) rfl rfl fun x y _ => ofNat_shrLane x _
    · exact gated_of_bits (φ := fun x y => x.sshiftRight y.toNat) (show _ = execVsar sp d a b p ty z s from rfl) rfl rfl
        fun x y _ => ofNat_sarLane hw x _
    · exact gated_of_bits (φ := fun x _ => x <<< n.toNat) (show _ = execVshli sp d a n p ty z s from rfl) rfl rfl fun x _ _ => ofNat_shlLane x _
    · refine gated_of_bits (φ := fun x _ => if nat = 1 then x >>> n.toNat else x.sshiftRight n.toNat)
        (show _ = execVshri sp d a n p ty nat z s from rfl) rfl rfl fun x _ _ => ?_
      split
      · exact ofNat_shrLane x _
      · exact ofNat_sarLane hw x _
    · exact gated_of_bits (φ := fun x _ => BitVec.ofNat _ ((List.range (tyWidth ty)).countP fun j => x.getLsbD j))
        (show _ = execVpopc sp d a p ty z s from rfl) rfl rfl fun x _ _ => congrArg _ (popCount_toNat x)
    · exact gated_of_bits (φ := fun x _ => BitVec.ofNat _ (((List.range (tyWidth ty)).find? fun j => x.getLsbD (tyWidth ty - 1 - j)).getD (tyWidth ty)))
        (show _ = execVclz sp d a p ty z s from rfl) rfl rfl fun x _ _ => congrArg _ (leadingZeros_toNat x)
  · exact gated_of_pure (g := dotBytes nat) (readsD := true) (show _ = execVdot sp d a b p 0 nat z s from rfl) rfl rfl fun k _ => ofNat_dotBytes nat _ _ _ k

end Sys2Proof.Machine
end

section
/-! SUPPORT and O23. Comparisons and predicate operations (R96, R104, R114). -/

namespace Sys2Proof.Machine

/-! ### Bits of a predicate -/

/-- Bit `j` of field `k` of fields laid one above the other. -/
theorem testBit_join {m j : Nat} (xs : List Nat) (k : Nat) (hj : j < m) : (join m xs).testBit (m * k + j) = (xs.getD k 0).testBit j := by
  have hm (x : Nat) : (x % 2 ^ m).testBit j = x.testBit j := by rw [Nat.testBit_mod_two_pow, decide_eq_true hj, Bool.true_and]
  rw [← hm (xs.getD k 0), ← join_field, hm, Nat.testBit_div_two_pow, Nat.add_comm]

theorem mul_add_lt_256 {w k j : Nat} (hk : k < 2048 / w) (hj : j < w / 8) : w / 8 * k + j < 256 := by
  have h8 : w / 8 * 8 ≤ w := Nat.div_mul_le_self w 8
  have hkw : (k + 1) * w ≤ 2048 := (Nat.le_div_iff_mul_le (by omega)).mp hk
  have hle : (k + 1) * (w / 8 * 8) ≤ 2048 := (Nat.mul_le_mul_left _ h8).trans hkw
  have hsum : (k + 1) * (w / 8 * 8) = (w / 8 * k + w / 8) * 8 := by ring
  omega

/-- A bit of a predicate that is put together from its lanes, in a register-wide value (R96). -/
theorem getLsbD_ofNat_join {w k j : Nat} (xs : List Nat) (hk : k < 2048 / w) (hj : j < w / 8) :
    (BitVec.ofNat 2048 (join (w / 8) xs)).getLsbD (k * (w / 8) + j) = (xs.getD k 0).testBit j := by
  have hlt := mul_add_lt_256 hk hj
  rw [Nat.mul_comm k, BitVec.getLsbD_ofNat, decide_eq_true (by omega), Bool.true_and, testBit_join xs k hj]

/-- Field `k` of a predicate has the lane's bits of it. -/
theorem testBit_predField {w j : Nat} (q : Pred) (k : Nat) (hj : j < w / 8) :
    (q.toNat / 2 ^ (w / 8 * k) % 2 ^ (w / 8)).testBit j = q.getLsbD (k * (w / 8) + j) := by
  rw [Nat.testBit_mod_two_pow, decide_eq_true hj, Bool.true_and, Nat.testBit_div_two_pow, Nat.add_comm, Nat.mul_comm]
  rfl

/-! ### Comparisons (R104) -/

/-- A comparison that acts sets all bits of each active lane of its predicate that `f` holds of, and clears those of the other active ones; the inactive
lanes are kept or cleared. -/
def SetsLanes (i : Instr) (s : State) (d : BitVec 5) (p : BitVec 3) (z : BitVec 1) (w : Nat) (f : Nat → Prop) : Prop :=
  Acts i s → ∃ v : Row, exec i s = .next (s.due (.p d.toNat) v 1 2) ∧
    ∀ k < 2048 / w, ∀ j < w / 8, (v.getLsbD (k * (w / 8) + j) = true ↔ if active (s.rp p.toNat) w k then f k
      else z = 0 ∧ (s.rp d.toNat).getLsbD (k * (w / 8) + j) = true)

/-- What a comparison finds in lane `k`. -/
def compareLane (s : State) (a b : BitVec 5) (ty : BitVec 3) (fi : Nat → Nat → Bool) (ff : FV → FV → Bool) (k : Nat) : Bool :=
  let x := lane (tyWidth ty) (s.rv a) k
  let y := lane (tyWidth ty) (s.rv b) k
  if tyInt ty then fi x y else ff (fvalue (tyFmt ty) x) (fvalue (tyFmt ty) y)

/-- The old predicate of a comparison, as far as it reads it (R97). -/
def compareOld (s : State) (d : BitVec 5) (p : BitVec 3) (z : BitVec 1) : Pred := if p = 0 ∨ z = 1 then 0 else s.rp d.toNat

/-- Field `k` of a comparison's predicate. -/
def compareField (s : State) (d a b : BitVec 5) (p ty : BitVec 3) (z : BitVec 1) (fi : Nat → Nat → Bool) (ff : FV → FV → Bool) (k : Nat) : Nat :=
  if active (s.rp p.toNat) (tyWidth ty) k then (if compareLane s a b ty fi ff k then 2 ^ (tyWidth ty / 8) - 1 else 0)
  else (compareOld s d p z).toNat / 2 ^ (tyWidth ty / 8 * k) % 2 ^ (tyWidth ty / 8)

section Operations

variable {i : Instr} {s : State} {d a b : BitVec 5} {p ty : BitVec 3} {z : BitVec 1} {fi : Nat → Nat → Bool} {ff : FV → FV → Bool}

theorem exec_compare_of_acts (he : exec i s = compareOp i.sp i d a b p ty z fi ff s) (h : Acts i s) :
    exec i s = .next (s.due (.p d.toNat) (BitVec.ofNat 2048 (join (tyWidth ty / 8)
      ((List.range (2048 / tyWidth ty)).map (compareField s d a b p ty z fi ff)))) 1 2) := by
  rw [exec_of_acts h he]
  simp only [actives_eq_map, lanes_eq_map, cut_eq_map, List.zip_map', List.zipWith_map, List.zipWith_self]
  rfl

/-- A kept bit of an inactive lane: under p0 there is none. -/
theorem compareOld_bit {w k : Nat} (hk : k < 2048 / w) (hon : active (s.rp p.toNat) w k = false) (j : Nat) :
    (compareOld s d p z).getLsbD j = true ↔ z = 0 ∧ (s.rp d.toNat).getLsbD j = true := by
  have hp : p ≠ 0 := fun hp => absurd (s.active_p_zero hp hk) (by simp [hon])
  by_cases hz : z = 1
  · simp [compareOld, hz]
  · have hz0 : z = 0 := by bv_omega
    rw [compareOld, if_neg (not_or.mpr ⟨hp, hz⟩), hz0, eq_self, true_and]

theorem compare_setsLanes {f : Nat → Prop} (he : exec i s = compareOp i.sp i d a b p ty z fi ff s)
    (hf : ∀ k, compareLane s a b ty fi ff k = true ↔ f k) : SetsLanes i s d p z (tyWidth ty) f := by
  refine fun h => ⟨_, exec_compare_of_acts he h, fun k hk j hj => ?_⟩
  rw [getLsbD_ofNat_join _ hk hj, getD_map_range _ hk, compareField]
  by_cases hon : active (s.rp p.toNat) (tyWidth ty) k = true
  · rw [if_pos hon, if_pos hon, ← hf]
    split
    next hc => simp [hc, Nat.testBit_two_pow_sub_one, hj]
    next hc => simp [hc]
  · rw [if_neg hon, if_neg hon, testBit_predField _ _ hj, compareOld_bit hk (Bool.eq_false_iff.mpr hon)]

/-- At an integer type, by the patterns of the two lanes. -/
theorem compare_integer {φ : BitVec (tyWidth ty) → BitVec (tyWidth ty) → Prop} (he : exec i s = compareOp i.sp i d a b p ty z fi ff s)
    (hty : tyInt ty = true) (hφ : ∀ x y : BitVec (tyWidth ty), fi x.toNat y.toNat = true ↔ φ x y) :
    SetsLanes i s d p z (tyWidth ty) fun k => φ (laneBits (tyWidth ty) (s.rv a) k) (laneBits (tyWidth ty) (s.rv b) k) :=
  compare_setsLanes he fun k => by rw [← hφ, laneBits_toNat, laneBits_toNat, compareLane, if_pos hty]

/-- At a floating type, by their values. -/
theorem compare_floating {φ : FV → FV → Prop} (he : exec i s = compareOp i.sp i d a b p ty z fi ff s) (hty : tyFlt ty = true)
    (hφ : ∀ x y, ff x y = true ↔ φ x y) :
    SetsLanes i s d p z (tyWidth ty) fun k => φ (fvalue (tyFmt ty) (laneBits (tyWidth ty) (s.rv a) k).toNat)
      (fvalue (tyFmt ty) (laneBits (tyWidth ty) (s.rv b) k).toNat) :=
  compare_setsLanes he fun k => by
    have hi : ¬tyInt ty = true := by simp only [tyInt, tyFlt, decide_eq_true_eq] at hty ⊢; omega
    rw [← hφ, laneBits_toNat, laneBits_toNat, compareLane, if_neg hi]

theorem FV.isNan_iff (x : FV) : x.isNan = true ↔ x = .nan := by
  cases x <;> simp [FV.isNan]

/-! ### Predicate operations (R114) -/

/-- A predicate operation that acts leaves the bits of `q`. -/
theorem exec_predicate_of_acts {act : State → State} {q : Pred} {f : Nat → Bool} (h : Acts i s) (he : exec i s = issueSlot i.sp i s act)
    (ha : act s = s.due (.p d.toNat) (q.zeroExtend 2048) 1 2) (hq : ∀ k < 256, q.getLsbD k = f k) :
    ∃ v : Row, exec i s = .next (s.due (.p d.toNat) v 1 2) ∧ ∀ k < 256, v.getLsbD k = f k := by
  refine ⟨_, (exec_of_acts h he).trans (congrArg _ ha), fun k hk => ?_⟩
  rw [BitVec.zeroExtend_eq_setWidth, BitVec.getLsbD_setWidth, decide_eq_true (by omega), Bool.true_and, hq k hk]

theorem tyWidth_bytes_pos : ∀ ty, 0 < tyWidth ty / 8 := by decide
theorem tyWidth_bytes_mul : ∀ ty, tyWidth ty / 8 * (2048 / tyWidth ty) = 256 := by decide

/-- A bit of a predicate whose lanes are all ones or all zeros (R96). -/
theorem getLsbD_ofLaneBits (ty : BitVec 3) (f : Nat → Bool) {k : Nat} (hk : k < 256) :
    (ofLaneBits (tyWidth ty) ((List.range (2048 / tyWidth ty)).map f)).getLsbD k = f (k / (tyWidth ty / 8)) := by
  have hm := tyWidth_bytes_pos ty
  have hj : k % (tyWidth ty / 8) < tyWidth ty / 8 := Nat.mod_lt _ hm
  have hlane : k / (tyWidth ty / 8) < 2048 / tyWidth ty := Nat.div_lt_of_lt_mul (by rwa [tyWidth_bytes_mul])
  rw [ofLaneBits, BitVec.getLsbD_ofNat, decide_eq_true hk, Bool.true_and]
  conv_lhs => rw [← Nat.div_add_mod k (tyWidth ty / 8)]
  rw [testBit_join _ _ hj, List.map_map, getD_map_range _ hlane, Function.comp_apply]
  cases f (k / (tyWidth ty / 8)) with
  | true => simp [Nat.testBit_two_pow_sub_one, hj]
  | false => simp

theorem wide_ofNat {n : Nat} (h : n < 2 ^ 64) : wide (BitVec.ofNat 64 n) = BitVec.ofNat 2048 n := by
  rw [wide, BitVec.zeroExtend_eq_setWidth]
  refine BitVec.eq_of_toNat_eq ?_
  rw [BitVec.toNat_setWidth, BitVec.toNat_ofNat, BitVec.toNat_ofNat, Nat.mod_eq_of_lt h]

/-- An operation that acts leaves a number of lanes in an x register. -/
theorem exec_count_of_acts {act : State → State} {w n : Nat} (h : Acts i s) (he : exec i s = issueSlot i.sp i s act)
    (ha : act s = s.due (.x d.toNat) (wide (BitVec.ofNat 64 n)) 1 2) (hn : n ≤ 2048 / w) :
    exec i s = .next (s.due (.x d.toNat) (BitVec.ofNat 2048 n) 1 2) := by
  have hlt : n < 2 ^ 64 := (hn.trans (Nat.div_le_self 2048 w)).trans_lt (by norm_num)
  rw [exec_of_acts h he, ha, wide_ofNat hlt]

/-- The first of some lanes that a test holds of, or their number. -/
theorem getD_find?_range (n : Nat) (q : Nat → Bool) :
    let k := ((List.range n).find? q).getD n
    k ≤ n ∧ (∀ j < k, q j = false) ∧ (k < n → q k = true) := by
  intro k
  cases hf : (List.range n).find? q with
  | none =>
    have hk : k = n := by simp only [k, hf, Option.getD_none]
    have hno := List.find?_eq_none.mp hf
    refine ⟨hk.le, fun j hj => ?_, fun hlt => absurd hlt hk.not_lt⟩
    exact Bool.eq_false_iff.mpr (hno j (List.mem_range.mpr (hk ▸ hj)))
  | some m =>
    have hk : k = m := by simp only [k, hf, Option.getD_some]
    obtain ⟨hm, hmem, hno⟩ := List.find?_range_eq_some.mp hf
    rw [hk]
    exact ⟨(List.mem_range.mp hmem).le, fun j hj => by simpa using hno j hj, fun _ => hm⟩

end Operations

/-! ### The obligation -/

/-- Settles O23: a comparison lays its lanes' results into the predicate field by field, and the predicate operations are those of 256 bits. -/
theorem comparisonsAndPredicatesGiveTheirResult : Obligations.ComparisonsAndPredicatesGiveTheirResult := by
  intro sp d a b p ty z s w n A B X Y sets bits
  have hw : 0 < tyWidth ty := tyWidth_pos ty
  refine ⟨fun hty => ⟨?_, ?_, ?_, ?_, ?_⟩, fun hty => ⟨?_, ?_, ?_, ?_, ?_⟩, ?_, ?_, ?_, ?_, ?_, fun ha => ?_, fun ha => ?_⟩
  · exact compare_integer (φ := fun x y => x = y) (show _ = execVcmpeq sp d a b p ty z s from rfl) hty fun x y => by simp [BitVec.toNat_inj]
  · exact compare_integer (φ := fun x y => x ≠ y) (show _ = execVcmpne sp d a b p ty z s from rfl) hty fun x y => by simp [BitVec.toNat_inj]
  · exact compare_integer (φ := fun x y => x.toInt < y.toInt) (show _ = execVcmplt sp d a b p ty z s from rfl) hty
      fun x y => by simp only [asSigned_toNat hw, decide_eq_true_eq]
  · exact compare_integer (φ := fun x y => x.toInt ≤ y.toInt) (show _ = execVcmple sp d a b p ty z s from rfl) hty
      fun x y => by simp only [asSigned_toNat hw, decide_eq_true_eq]
  · exact compare_integer (φ := fun x y => x < y) (show _ = execVcmpltn sp d a b p ty z s from rfl) hty fun x y => by simp [BitVec.lt_def]
  · exact compare_floating (φ := fun x y => x.same y) (show _ = execVcmpeq sp d a b p ty z s from rfl) hty fun _ _ => Iff.rfl
  · exact compare_floating (φ := fun x y => x.same y = false) (show _ = execVcmpne sp d a b p ty z s from rfl) hty fun x y => by simp
  · exact compare_floating (φ := fun x y => x.less false y) (show _ = execVcmplt sp d a b p ty z s from rfl) hty fun _ _ => Iff.rfl
  · exact compare_floating (φ := fun x y => x.less false y ∨ x.same y) (show _ = execVcmple sp d a b p ty z s from rfl) hty fun x y => by simp
  · exact compare_floating (φ := fun x y => x = .nan ∨ y = .nan) (show _ = execVcmpun sp d a b p ty z s from rfl) hty
      fun x y => by rw [Bool.or_eq_true, x.isNan_iff, y.isNan_iff]
  · exact fun ha => exec_predicate_of_acts ha (show _ = execPand sp d a b s from rfl) rfl fun k _ => BitVec.getLsbD_and
  · exact fun ha => exec_predicate_of_acts ha (show _ = execPor sp d a b s from rfl) rfl fun k _ => BitVec.getLsbD_or
  · exact fun ha => exec_predicate_of_acts ha (show _ = execPxor sp d a b s from rfl) rfl fun k _ => by simp
  · exact fun ha => exec_predicate_of_acts ha (show _ = execPnot sp d a s from rfl) rfl fun k hk => by simp [hk]
  · exact fun ha => exec_predicate_of_acts ha (show _ = execPtail sp d a ty s from rfl) rfl fun k hk => getLsbD_ofLaneBits ty _ hk
  · refine exec_count_of_acts ha (show _ = execPcnt sp d a ty s from rfl) (by rw [List.countP_eq_length_filter]) (w := w) ?_
    exact List.countP_le_length.trans List.length_range.le
  · obtain ⟨hle, hbelow, hat⟩ := getD_find?_range n (active (s.rp a.toNat) w)
    exact ⟨_, exec_count_of_acts ha (show _ = execPfirst sp d a ty s from rfl) rfl hle, hle, hbelow, hat⟩

end Sys2Proof.Machine
end

section
/-! SUPPORT. Roundings of the lanes of an operation, each as those below it have left LFSR (R57, R74, R99). -/

namespace Sys2Proof.Machine

/-! ### One rounding after another -/

/-- A rounding state before any flag. -/
def Rnd.fresh (r : Rnd) : Rnd := { r with flags := 0#6 }

/-- A rounding state after `n` roundings, but for their flags: under RSR each has stepped LFSR once (R74). -/
def Rnd.after (n : Nat) (r : Rnd) : Rnd := { r with lfsr := if r.mode = 4 then lfsrStep^[n] r.lfsr else r.lfsr }

theorem Rnd.after_zero (r : Rnd) : r.after 0 = r := by
  simp [Rnd.after]

theorem Rnd.step_eq_after (r : Rnd) : r.step = r.after 1 := by
  simp only [Rnd.step, Rnd.after]
  split <;> rfl

theorem Rnd.after_after (m n : Nat) (r : Rnd) : (r.after m).after n = r.after (m + n) := by
  by_cases h : r.mode = 4
  · simp only [Rnd.after, h, if_true, Nat.add_comm m, Function.iterate_add_apply]
  · simp only [Rnd.after, h, if_false]

/-- A function rounds `n` times: it steps LFSR so often, and its value and the flags that it adds do not depend on those raised so far. -/
def Rounds (n : Nat) (g : Rnd → Nat × Rnd) : Prop :=
  ∀ r, g r = ((g r.fresh).1, { r.after n with flags := r.flags ||| (g r.fresh).2.flags })

theorem rounds_pure (x : Nat) : Rounds 0 fun r => (x, r) := by
  intro r
  simp only [Rnd.after_zero, Rnd.fresh, BitVec.or_zero]

theorem Rounds.of_mode {n : Nat} {g : Nat → Rnd → Nat × Rnd} (h : ∀ m, Rounds n (g m)) : Rounds n fun r => g r.mode r := fun r => h r.mode r

theorem Rounds.after_step {n : Nat} {g : Rnd → Nat × Rnd} (h : Rounds n g) : Rounds (1 + n) fun r => g r.step := by
  intro r
  have hf : r.step.fresh = r.fresh.step := (Rnd.step_flags r 0).symm
  have hs : r.step.flags = r.flags := by rw [Rnd.step_eq_after]; rfl
  calc g r.step = ((g r.step.fresh).1, { r.step.after n with flags := r.step.flags ||| (g r.step.fresh).2.flags }) := h r.step
    _ = ((g r.fresh.step).1, { r.after (1 + n) with flags := r.flags ||| (g r.fresh.step).2.flags }) := by
      rw [hf, hs, Rnd.step_eq_after r, Rnd.after_after]

/-- A flag raised beside a rounding. -/
theorem Rounds.raise_if {n : Nat} {g : Rnd → Nat × Rnd} (h : Rounds n g) (c : Bool) (f : BitVec 6) :
    Rounds n fun r => ((g r).1, if c then (g r).2.raise f else (g r).2) := by
  intro r
  have hr := h r
  cases c with
  | false => exact hr
  | true =>
    simp only [if_true, Rnd.raise]
    rw [hr, BitVec.or_assoc]

theorem rounds_roundFin (f : Fmt) (neg : Bool) (mag : Nat) (exp : Int) : Rounds 0 fun r => roundFin f r neg mag exp := by
  intro r
  have hat : roundAt r.fresh = roundAt r := rfl
  have hraise (fl : BitVec 6) : r.raise fl = { r with flags := r.flags ||| (r.fresh.raise fl).flags } := by
    simp only [Rnd.raise, Rnd.fresh, BitVec.zero_or]
  have hnone : r = { r with flags := r.flags ||| r.fresh.flags } := by simp only [Rnd.fresh, BitVec.or_zero]
  rw [Rnd.after_zero]
  simp only [roundFin, hat]
  split
  · exact Prod.ext rfl (hraise _)
  · refine Prod.ext rfl ?_
    dsimp only
    split
    · exact hnone
    · exact hraise _

theorem rounds_fround (f : Fmt) (x : FV) : Rounds 1 fun r => fround f r x := by
  cases x with
  | nan => exact (rounds_pure f.canonNan).after_step
  | inf neg =>
    cases hs : f.sat with
    | false => simpa only [fround, hs, Bool.false_eq_true, if_false] using (rounds_pure _).after_step
    | true => simpa only [fround, hs, if_true] using ((rounds_pure f.canonNan).raise_if true flNV).after_step
  | fin neg mag exp =>
    by_cases hm : mag = 0
    · simpa only [fround, hm, if_true] using (rounds_pure _).after_step
    · simpa only [fround, hm, if_false] using (rounds_roundFin f neg mag exp).after_step

theorem rounds_roundSum (f : Fmt) (bad : Bool) (xs : List FV) : Rounds 1 fun r => roundSum f r bad xs :=
  Rounds.of_mode (g := fun m r =>
    ((fround f r (if bad then .nan else (fsum m xs).1)).1,
      if bad || (fsum m xs).2 then (fround f r (if bad then .nan else (fsum m xs).1)).2.raise flNV
      else (fround f r (if bad then .nan else (fsum m xs).1)).2)) fun _ => (rounds_fround f _).raise_if _ flNV

theorem rounds_mulFn (f : Fmt) (a b c : Nat) : Rounds 1 fun r => mulFn f r a b c := (rounds_fround f _).raise_if _ flNV

theorem rounds_signFn (f : Fmt) (abs : Bool) (a b c : Nat) : Rounds 0 fun r => signFn f abs r a b c := by
  simp only [signFn]
  split
  · exact rounds_pure _
  · exact rounds_pure _

theorem rounds_sumFn (f : Fmt) (neg : Bool) (a b c : Nat) : Rounds 1 fun r => sumFn f neg r a b c := rounds_roundSum f _ _
theorem rounds_fmaFn (f : Fmt) (neg : Bool) (a b c : Nat) : Rounds 1 fun r => fmaFn f neg r a b c := rounds_roundSum f _ _
theorem rounds_fmmFn (f : Fmt) (hi : Bool) (a b c : Nat) : Rounds 0 fun r => fmmFn f hi r a b c := rounds_pure _

/-! ### The lanes of an operation -/

/-- The rounding state in which lane `k` begins, where each lane that `on` holds of has rounded `n` times. -/
def laneRnd (r : Rnd) (n : Nat) (on : Nat → Bool) (k : Nat) : Rnd := r.after (n * (List.range k).countP on)

theorem laneRnd_succ (r : Rnd) (n : Nat) (on : Nat → Bool) (k : Nat) :
    laneRnd r n on (k + 1) = (laneRnd r n on k).after (if on k then n else 0) := by
  rw [laneRnd, laneRnd, Rnd.after_after, List.range_succ, List.countP_append, Nat.mul_add, List.countP_singleton]
  congr 2
  split <;> simp

/-- The flags that the first `m` lanes raise together. -/
def laneFlags (g : Nat → BitVec 6) (m : Nat) : BitVec 6 := (List.range m).foldl (fun fl k => fl ||| g k) 0

theorem laneFlags_succ (g : Nat → BitVec 6) (m : Nat) : laneFlags g (m + 1) = laneFlags g m ||| g m := by
  rw [laneFlags, List.range_succ, List.foldl_append]
  rfl

theorem getLsbD_laneFlags (g : Nat → BitVec 6) (m j : Nat) : (laneFlags g m).getLsbD j = (List.range m).any fun k => (g k).getLsbD j := by
  induction m with
  | zero => simp [laneFlags]
  | succ m ih => rw [laneFlags_succ, BitVec.getLsbD_or, ih, List.range_succ, List.any_append, List.any_cons, List.any_nil, Bool.or_false]

/-- Lanes that round in order: each begins with LFSR as those below it have stepped it, and their flags come together. -/
theorem mapRnd_lanes {r : Rnd} (hr : r.flags = 0#6) {n : Nat} {on : Nat → Bool} {h : Rnd → Nat → Nat × Rnd}
    (hh : ∀ k, Rounds (if on k then n else 0) fun r => h r k) (m : Nat) :
    mapRnd h r (List.range m) = ((List.range m).map fun k => (h (laneRnd r n on k) k).1,
      { laneRnd r n on m with flags := laneFlags (fun k => (h (laneRnd r n on k) k).2.flags) m }) := by
  have hfresh (k : Nat) (fl : BitVec 6) : ({ laneRnd r n on k with flags := fl } : Rnd).fresh = laneRnd r n on k := by
    simp only [Rnd.fresh, laneRnd, Rnd.after, hr]
  induction m with
  | zero =>
    have h0 : laneRnd r n on 0 = r := Rnd.after_zero r
    obtain ⟨mode, lfsr, flags⟩ := r
    obtain rfl : flags = 0#6 := hr
    exact Prod.ext rfl (by rw [h0]; rfl)
  | succ m ih =>
    have hm := hh m { laneRnd r n on m with flags := laneFlags (fun k => (h (laneRnd r n on k) k).2.flags) m }
    rw [hfresh] at hm
    rw [List.range_succ, mapRnd_append, ih, List.map_append, laneRnd_succ, laneFlags_succ]
    simp only [mapRnd, hm, List.map_cons, List.map_nil]
    rfl

end Sys2Proof.Machine
end

section
/-! SUPPORT and O22. The gated floating operations (R99 to R102). -/

namespace Sys2Proof.Machine

/-- Lane `k` of a gated operation whose function rounds `n` times, with LFSR as the lanes below have stepped it. -/
def roundedLane (s : State) (d : BitVec 5) (av bv : Row) (p : BitVec 3) (w : Nat) (z : BitVec 1) (readsD : Bool) (F : LaneFn) (n k : Nat) : Nat × Rnd :=
  gatedLane (active (s.rp p.toNat) w) z (lane w av) (lane w bv) (lane w (gateSource s d p z readsD)) F
    (laneRnd s.ctx.rnd n (active (s.rp p.toNat) w) k) k

section Gate

variable {i : Instr} {s : State} {d : BitVec 5} {p : BitVec 3} {z : BitVec 1} {w l n : Nat} {act : State → State} {av bv : Row} {readsD : Bool}
  {F G : LaneFn} {f : Rnd → Nat → Nat × Rnd} (he : exec i s = issueSlot i.sp i s act) (ha : act s = gatedOp s d av bv p w z readsD l F)
  (hF : F = G) (hG : ∀ a b c, Rounds n fun r => G r a b c)
include he ha hF hG

theorem exec_gatedOp_of_rounds (h : Acts i s) : exec i s =
    .next ((s.updSelf fun c => { c with lfsr := (laneRnd s.ctx.rnd n (active (s.rp p.toNat) w) (2048 / w)).lfsr }).dueFlags (.v d.toNat)
      (ofLanes w ((List.range (2048 / w)).map fun k => (roundedLane s d av bv p w z readsD G n k).1)) 1 l
      (laneFlags (fun k => (roundedLane s d av bv p w z readsD G n k).2.flags) (2048 / w))) := by
  have hlane (k : Nat) : Rounds (if active (s.rp p.toNat) w k then n else 0) fun r =>
      gatedLane (active (s.rp p.toNat) w) z (lane w av) (lane w bv) (lane w (gateSource s d p z readsD)) G r k := by
    simp only [gatedLane]
    split
    · exact hG _ _ _
    · exact rounds_pure _
  rw [exec_of_acts h he, ha, hF, gatedOp_eq, gatedMap, mapRnd_lanes (r := s.ctx.rnd) rfl hlane]
  rfl

/-- A gated operation that rounds in its active lanes: each lane's value, and the flags of all together. -/
theorem gatedRounded_of_rounds
    (hf : ∀ r k, G r (lane w av k) (lane w bv k) (lane w (gateSource s d p z readsD) k) = f r k) : GatedRounded i s d p z w l n f := by
  have hon {k : Nat} (hk : active (s.rp p.toNat) w k = true) :
      roundedLane s d av bv p w z readsD G n k = f (laneRnd s.ctx.rnd n (active (s.rp p.toNat) w) k) k := by
    rw [roundedLane, gatedLane, if_pos hk, hf]
  refine fun h => ⟨_, _, exec_gatedOp_of_rounds he ha hF hG h, fun k hk => ?_, fun j _ => ?_⟩
  · rw [laneBits_ofLanes (by simp), getD_map_range _ hk]
    by_cases hk' : active (s.rp p.toNat) w k = true
    · rw [hon hk', if_pos hk']
      rfl
    · rw [if_neg hk', roundedLane, gatedLane, if_neg hk', ofNat_gateSource_lane readsD hk (Bool.eq_false_iff.mpr hk')]
  · rw [getLsbD_laneFlags]
    refine congrArg (List.any _) (funext fun k => ?_)
    show _ = (active (s.rp p.toNat) w k && (f (laneRnd s.ctx.rnd n (active (s.rp p.toNat) w) k) k).2.flags.getLsbD j)
    by_cases hk' : active (s.rp p.toNat) w k = true
    · rw [hon hk', hk', Bool.true_and]
    · rw [roundedLane, gatedLane, if_neg hk', Bool.eq_false_iff.mpr hk', Bool.false_and]
      exact BitVec.getLsbD_zero

end Gate

theorem tyInt_of_tyFlt {ty : BitVec 3} (h : tyFlt ty = true) : ¬tyInt ty = true := by
  simp only [tyInt, tyFlt, decide_eq_true_eq] at h ⊢
  omega

theorem mulLatency_of_float {ty : BitVec 3} (h : tyFlt ty = true) : mulLatency ty = 4 := if_neg (tyInt_of_tyFlt h)

/-- The sign bit of a floating lane stands above its exponent and fraction. -/
theorem tyFmt_sign {ty : BitVec 3} (h : tyFlt ty = true) : (tyFmt ty).e + (tyFmt ty).m = tyWidth ty - 1 := by
  have hw := tyFmt_width ty (by simp only [tyFlt, decide_eq_true_eq] at h; omega)
  rw [Fmt.width] at hw
  omega

/-- The change of a sign bit, which is set where the pattern is not its own magnitude. -/
theorem sign_flip {w a : Nat} (hw : 0 < w) (ha : a < 2 ^ w) :
    (if a != a % 2 ^ (w - 1) then a % 2 ^ (w - 1) else a % 2 ^ (w - 1) + 2 ^ (w - 1)) = (a + 2 ^ (w - 1)) % 2 ^ w := by
  have hp : 2 ^ w = 2 * 2 ^ (w - 1) := by rw [← pow_succ', Nat.sub_add_cancel hw]
  generalize 2 ^ (w - 1) = h at hp ⊢
  rw [hp] at ha ⊢
  rcases Nat.lt_or_ge a h with hlt | hge
  · rw [Nat.mod_eq_of_lt hlt, bne_self_eq_false, if_neg Bool.false_ne_true, Nat.mod_eq_of_lt (by omega)]
  · have hm : a % h = a - h := by rw [Nat.mod_eq_sub_mod hge, Nat.mod_eq_of_lt (by omega)]
    rw [hm, if_pos (bne_iff_ne.mpr (by omega)), show a + h = a - h + 2 * h by omega, Nat.add_mod_right, Nat.mod_eq_of_lt (by omega)]

theorem signFn_neg {ty : BitVec 3} (h : tyFlt ty = true) (r : Rnd) (v : Row) (k b c : Nat) :
    signFn (tyFmt ty) false r (lane (tyWidth ty) v k) b c = (if (fvalue (tyFmt ty) (lane (tyWidth ty) v k)).isNan then (tyFmt ty).canonNan
      else (lane (tyWidth ty) v k + 2 ^ (tyWidth ty - 1)) % 2 ^ tyWidth ty, r) := by
  simp only [signFn, tyFmt_sign h, Bool.false_or]
  split
  · rfl
  · rw [sign_flip (tyWidth_pos ty) (lane_lt ..)]

theorem signFn_abs {ty : BitVec 3} (h : tyFlt ty = true) (r : Rnd) (a b c : Nat) :
    signFn (tyFmt ty) true r a b c = (if (fvalue (tyFmt ty) a).isNan then (tyFmt ty).canonNan else a % 2 ^ (tyWidth ty - 1), r) := by
  simp only [signFn, tyFmt_sign h, Bool.true_or, if_true]
  split <;> rfl

/-- A lane of VDOT over the two halves of its sources: their products and the old destination summed and rounded once (R102). -/
def dotHalves (f : Fmt) : LaneFn := fun r a b c =>
  let ps := List.zipWith (fun x y => FV.mul (fvalue f x) (fvalue f y)) (cut 16 2 a) (cut 16 2 b)
  roundSum fmt32 r (ps.any (·.2)) (fvalue fmt32 c :: ps.map (·.1))

theorem rounds_dotHalves (f : Fmt) (a b c : Nat) : Rounds 1 fun r => dotHalves f r a b c := rounds_roundSum fmt32 _ _

theorem dotHalves_lane (f : Fmt) (r : Rnd) (av bv cv : Row) (k : Nat) :
    let dot (j : Nat) := FV.mul (fvalue f (lane 16 av j)) (fvalue f (lane 16 bv j))
    dotHalves f r (lane 32 av k) (lane 32 bv k) (lane 32 cv k) =
      roundSum fmt32 r ((dot (2 * k)).2 || (dot (2 * k + 1)).2) [fvalue fmt32 (lane 32 cv k), (dot (2 * k)).1, (dot (2 * k + 1)).1] := by
  intro dot
  have hps : List.zipWith (fun x y => FV.mul (fvalue f x) (fvalue f y)) (cut 16 2 (lane 32 av k)) (cut 16 2 (lane 32 bv k)) =
      [dot (2 * k), dot (2 * k + 1)] := by
    rw [cut_lane 16 2 av k, cut_lane 16 2 bv k]
    rfl
  simp only [dotHalves, hps, List.any_cons, List.any_nil, Bool.or_false, List.map_cons, List.map_nil]

/-! ### The obligation -/

/-- Settles O22: each lane is one rounding, or none, of the values of its lanes, and steps LFSR so often. -/
theorem floatingVectorLanesGiveTheirResult : Obligations.FloatingVectorLanesGiveTheirResult := by
  intro sp d a b p ty z s hty w f v prod nv half dot
  have hi : ¬tyInt ty = true := tyInt_of_tyFlt hty
  refine ⟨fun q hq => ?_, fun _ => ?_⟩
  · have hl : mulLatency ty = 4 := mulLatency_of_float hty
    simp only [List.mem_cons, List.not_mem_nil, or_false] at hq
    obtain rfl | rfl | rfl | rfl | rfl | rfl | rfl | rfl | rfl := hq
    · exact gatedRounded_of_rounds (show _ = execVadd sp d a b p ty z s from rfl) rfl (if_neg hi) (rounds_sumFn f false) fun _ _ => rfl
    · exact gatedRounded_of_rounds (show _ = execVsub sp d a b p ty z s from rfl) rfl (if_neg hi) (rounds_sumFn f true) fun _ _ => rfl
    · exact hl ▸ gatedRounded_of_rounds (show _ = execVmul sp d a b p ty z s from rfl) rfl (if_neg hi) (rounds_mulFn f)
        fun r k => apply_ite (Prod.mk _) _ _ _
    · exact hl ▸ gatedRounded_of_rounds (show _ = execVfma sp d a b p ty z s from rfl) rfl (if_neg hi) (rounds_fmaFn f false) fun _ _ => rfl
    · exact hl ▸ gatedRounded_of_rounds (show _ = execVfms sp d a b p ty z s from rfl) rfl (if_neg hi) (rounds_fmaFn f true) fun _ _ => rfl
    · exact gatedRounded_of_rounds (show _ = execVmin sp d a b p ty z s from rfl) rfl (if_neg hi) (rounds_fmmFn f false) fun _ _ => rfl
    · exact gatedRounded_of_rounds (show _ = execVmax sp d a b p ty z s from rfl) rfl (if_neg hi) (rounds_fmmFn f true) fun _ _ => rfl
    · exact gatedRounded_of_rounds (show _ = execVabs sp d a p ty z s from rfl) rfl (if_neg hi) (rounds_signFn f true)
        fun r _ => signFn_abs hty r _ _ _
    · exact gatedRounded_of_rounds (show _ = execVneg sp d a p ty z s from rfl) rfl (if_neg hi) (rounds_signFn f false)
        fun r k => signFn_neg hty r _ k _ _
  · exact mulLatency_of_float hty ▸ gatedRounded_of_rounds (readsD := true) (show _ = execVdot sp d a b p ty 0 z s from rfl) rfl
      (funext fun r => funext fun x => funext fun y => funext fun c => if_neg hi) (rounds_dotHalves f) fun r k => dotHalves_lane f r _ _ _ k

end Sys2Proof.Machine
end

section
/-! SUPPORT. Moves, broadcasts, permutes and rotations of lanes, and single lanes to and from an x register (R105). -/

namespace Sys2Proof.Machine

variable {i : Instr} {s : State} {d : BitVec 5} {w : Nat} {act : State → State}

/-- An operation that acts leaves a register put together from its lanes. -/
theorem exec_lanes_of_acts {xs : List Nat} {f : Nat → BitVec w} (h : Acts i s) (he : exec i s = issueSlot i.sp i s act)
    (ha : act s = s.due (.v d.toNat) (ofLanes w xs) 1 2) (hl : xs.length = 2048 / w)
    (hx : ∀ k < 2048 / w, BitVec.ofNat w (xs.getD k 0) = f k) :
    ∃ v, exec i s = .next (s.due (.v d.toNat) v 1 2) ∧ ∀ k < 2048 / w, laneBits w v k = f k :=
  ⟨_, (exec_of_acts h he).trans (congrArg _ ha), fun k hk => (laneBits_ofLanes hl k).trans (hx k hk)⟩

theorem getD_lanes (v : Row) {k : Nat} (hk : k < 2048 / w) : (lanes w v).getD k 0 = lane w v k := by
  rw [lanes_eq_map, getD_map_range _ hk]

theorem ofNat_mod_toNat (x : Dword) : BitVec.ofNat w (x.toNat % 2 ^ w) = x.truncate w := by
  refine BitVec.eq_of_toNat_eq ?_
  rw [BitVec.toNat_ofNat, Nat.mod_mod, BitVec.truncate_eq_setWidth, BitVec.toNat_setWidth]

theorem ofNat_toNat_add (x : Dword) (k : Nat) : BitVec.ofNat w (x.toNat + k) = x.truncate w + BitVec.ofNat w k := by
  rw [BitVec.ofNat_add, BitVec.ofNat_toNat, BitVec.truncate_eq_setWidth]

/-- Lane `k` of a rotated register. -/
theorem getD_rotated_lanes (v : Row) {r k : Nat} (hr : r < 2048 / w) (hk : k < 2048 / w) :
    ((lanes w v).drop r ++ (lanes w v).take r).getD k 0 = lane w v ((k + r) % (2048 / w)) := by
  have hn : (lanes w v).length = 2048 / w := lanes_length w v
  rw [← List.rotate_eq_drop_append_take (hn ▸ hr.le), List.getD_eq_getElem?_getD, List.getElem?_rotate (hn ▸ hk), hn,
    ← List.getD_eq_getElem?_getD, getD_lanes v (Nat.mod_lt _ (by omega))]

/-- Lane `k` of a register merged from the low lanes of one and the others of another. -/
theorem getD_merged_lanes (u v : Row) {c k : Nat} (hc : c ≤ 2048 / w) (hk : k < 2048 / w) :
    ((lanes w u).take c ++ (lanes w v).drop c).getD k 0 = if c ≤ k then lane w v k else lane w u k := by
  have hlen : ((lanes w u).take c).length = c := by rw [List.length_take, lanes_length, Nat.min_eq_left hc]
  rw [List.getD_eq_getElem?_getD]
  split
  next h =>
    rw [List.getElem?_append_right (hlen.symm ▸ h), hlen, List.getElem?_drop, Nat.add_sub_cancel' h, ← List.getD_eq_getElem?_getD, getD_lanes v hk]
  next h =>
    rw [List.getElem?_append_left (by omega), List.getElem?_take_of_lt (by omega), ← List.getD_eq_getElem?_getD, getD_lanes u hk]

/-- Lane `k` of a selection between two registers. -/
theorem selected_lanes (u v : Row) (on : Nat → Bool) :
    List.zipWith (fun (x : Nat × Nat) c => if c then x.1 else x.2) (List.zip (lanes w u) (lanes w v)) ((List.range (2048 / w)).map on) =
      (List.range (2048 / w)).map fun k => if on k then lane w u k else lane w v k := by
  rw [lanes_eq_map, lanes_eq_map, List.zip_map', List.zipWith_map, List.zipWith_self]

theorem laneBits_setLane (v : Row) (j : Nat) (x : Dword) {k : Nat} (hk : k < 2048 / w) :
    laneBits w (setLane w v j (x.toNat % 2 ^ w)) k = if k = j then x.truncate w else laneBits w v k := by
  rw [laneBits_eq_ofNat, lane_setLane v _ hk]
  split
  · rw [Nat.mod_mod, ofNat_mod_toNat]
  · rw [laneBits_eq_ofNat]

/-- A lane as an x register takes it: extended by its sign or by zeros. -/
theorem extendedLane (hw : 0 < w) (v : Row) (k : Nat) (signed : Prop) [Decidable signed] :
    (if signed then BitVec.ofInt 64 (asSigned w (lane w v k)) else BitVec.ofNat 64 (lane w v k)) =
      if signed then (laneBits w v k).signExtend 64 else (laneBits w v k).zeroExtend 64 := by
  rw [asSigned_lane w v k hw, ← laneBits_toNat, BitVec.ofNat_toNat]
  rfl

section Moves

variable (sp : BitVec 3) (a b : BitVec 5) (p ty : BitVec 3) (m z : BitVec 1)

theorem lane_number_lt (ty : BitVec 3) (x : Nat) : x % (2048 / tyWidth ty) < 2048 / tyWidth ty :=
  Nat.mod_lt _ (Nat.div_pos (Nat.le_of_dvd (by decide) (tyWidth_dvd_row ty)) (tyWidth_pos ty))

theorem vperm_gated : Gated (.vperm sp d a b p ty m z) s d p z (tyWidth ty) 2 fun k =>
    if m = 1 ∧ 2048 / tyWidth ty ≤ (laneBits (tyWidth ty) (s.rv b) k).toNat then 0
    else laneBits (tyWidth ty) (s.rv a) ((laneBits (tyWidth ty) (s.rv b) k).toNat % (2048 / tyWidth ty)) := by
  refine gated_of_pure (show _ = execVperm sp d a b p ty m z s from rfl) rfl rfl fun k _ => ?_
  simp only [laneBits_toNat]
  split
  · rfl
  · rw [laneBits_eq_ofNat]

theorem vrot_gated : Gated (.vrot sp d a b p ty z) s d p z (tyWidth ty) 2 fun k =>
    laneBits (tyWidth ty) (s.rv a) ((k + (s.rx b).toNat % (2048 / tyWidth ty)) % (2048 / tyWidth ty)) := by
  refine gated_of_pure (show _ = execVrot sp d a b p ty z s from rfl) rfl rfl fun k hk => ?_
  have hr := lane_number_lt ty (s.rx b).toNat
  have hlen : ((lanes (tyWidth ty) (s.rv a)).drop ((s.rx b).toNat % (2048 / tyWidth ty)) ++
      (lanes (tyWidth ty) (s.rv a)).take ((s.rx b).toNat % (2048 / tyWidth ty))).length = 2048 / tyWidth ty := by
    rw [List.length_append, List.length_drop, List.length_take, lanes_length]
    omega
  dsimp only
  rw [← laneBits_eq_ofNat, laneBits_ofLanes hlen, getD_rotated_lanes _ hr hk, ← laneBits_eq_ofNat]

theorem viota_gated : Gated (.viota sp d a p ty z) s d p z (tyWidth ty) 2 fun k =>
    (s.rx a).truncate (tyWidth ty) + BitVec.ofNat (tyWidth ty) k := by
  refine gated_of_pure (show _ = execViota sp d a p ty z s from rfl) rfl rfl fun k hk => ?_
  have hlen : ((List.range (2048 / tyWidth ty)).map fun i => (s.rx a).toNat + i).length = 2048 / tyWidth ty := by
    rw [List.length_map, List.length_range]
  dsimp only
  rw [← laneBits_eq_ofNat, laneBits_ofLanes hlen, getD_map_range _ hk, ofNat_toNat_add]

theorem vsel_lanes (h : Acts (.vsel sp d a b p ty) s) : ∃ v, exec (.vsel sp d a b p ty) s = .next (s.due (.v d.toNat) v 1 2) ∧
    ∀ k < 2048 / tyWidth ty, laneBits (tyWidth ty) v k =
      if active (s.rp p.toNat) (tyWidth ty) k then laneBits (tyWidth ty) (s.rv a) k else laneBits (tyWidth ty) (s.rv b) k := by
  have hsel := selected_lanes (w := tyWidth ty) (s.rv a) (s.rv b) (active (s.rp p.toNat) (tyWidth ty))
  refine exec_lanes_of_acts h (show _ = execVsel sp d a b p ty s from rfl) rfl ?_ fun k hk => ?_
  · rw [actives_eq_map, hsel, List.length_map, List.length_range]
  · rw [actives_eq_map, hsel, getD_map_range _ hk, apply_ite (BitVec.ofNat _), ← laneBits_eq_ofNat, ← laneBits_eq_ofNat]

theorem vmerge_lanes (h : Acts (.vmerge sp d a b ty) s) : ∃ v, exec (.vmerge sp d a b ty) s = .next (s.due (.v d.toNat) v 1 2) ∧
    ∀ k < 2048 / tyWidth ty, laneBits (tyWidth ty) v k = if 2048 / tyWidth ty - (s.rx b).toNat % (2048 / tyWidth ty) ≤ k
      then laneBits (tyWidth ty) (s.rv a) k else laneBits (tyWidth ty) (s.rv d) k := by
  refine exec_lanes_of_acts h (show _ = execVmerge sp d a b ty s from rfl) rfl ?_ fun k hk => ?_
  · rw [List.length_append, List.length_take, List.length_drop, lanes_length, lanes_length]
    omega
  · rw [getD_merged_lanes _ _ (Nat.sub_le ..) hk, apply_ite (BitVec.ofNat _), ← laneBits_eq_ofNat, ← laneBits_eq_ofNat]

theorem exec_vext_of_acts (h : Acts (.vext sp d a b ty m) s) :
    let x := laneBits (tyWidth ty) (s.rv a) ((s.rx b).toNat % (2048 / tyWidth ty))
    exec (.vext sp d a b ty m) s = .next (s.due (.x d.toNat)
      ((if tyInt ty = true ∧ m = 0 then x.signExtend 64 else x.zeroExtend 64 : Dword).zeroExtend 2048) 1 2) := by
  intro x
  rw [exec_of_acts h (show _ = execVext sp d a b ty m s from rfl), ← extendedLane (tyWidth_pos ty)]
  simp only [Bool.and_eq_true, beq_iff_eq]
  rfl

end Moves

end Sys2Proof.Machine
end

section
/-! SUPPORT. Reduction trees as folds over the active lanes (R106). -/

namespace Sys2Proof.Machine

/-! ### Folds of some values -/

/-- Some values combined by `op`, none without one. -/
def combined {α : Type} (op : α → α → α) (xs : List (Option α)) : Option α := xs.foldr (Option.merge op) none

/-- Those that a test selects, in their order. -/
theorem combined_selected {α : Type} (op : α → α → α) (on : Nat → Bool) (v : Nat → α) (l : List Nat) :
    combined op (l.map fun k => if on k then some (v k) else none) = combined op (((l.filter on).map v).map some) := by
  induction l with
  | nil => rfl
  | cons k l ih =>
    rw [combined, combined] at *
    rw [List.map_cons, List.foldr_cons, ih, List.filter_cons]
    split
    · rfl
    · exact Option.merge_none_left

theorem combined_cons {α : Type} (op : α → α → α) (x : α) (xs : List α) :
    combined op ((x :: xs).map some) = some (((combined op (xs.map some)).map (op x)).getD x) := by
  rw [combined, List.map_cons, List.foldr_cons, ← combined]
  cases combined op (xs.map some) <;> rfl

theorem getD_combined_add {w : Nat} (l : List (BitVec w)) : (combined (· + ·) (l.map some)).getD 0 = l.sum := by
  induction l with
  | nil => rfl
  | cons x l ih =>
    rw [combined_cons, List.sum_cons, ← ih, Option.getD_some]
    cases combined (· + ·) (l.map some) with
    | none => exact (BitVec.add_zero x).symm
    | some y => rfl

/-- An operation that gives one of its operands, bounding both, gives one of the values, bounding all. -/
theorem combined_bound {op : Int → Int → Int} {R : Int → Int → Prop} (refl : ∀ x, R x x) (trans : ∀ x y z, R x y → R y z → R x z)
    (hop : ∀ x y, (op x y = x ∨ op x y = y) ∧ R x (op x y) ∧ R y (op x y)) (l : List Int) (hl : l ≠ []) :
    ∃ m ∈ l, combined op (l.map some) = some m ∧ ∀ x ∈ l, R x m := by
  induction l with
  | nil => exact absurd rfl hl
  | cons x l ih =>
    rw [combined_cons]
    by_cases hn : l = []
    · subst hn
      exact ⟨x, List.mem_singleton_self x, rfl, fun y hy => List.mem_singleton.mp hy ▸ refl x⟩
    · obtain ⟨m, hm, hc, hb⟩ := ih hn
      obtain ⟨hsel, hx, hy⟩ := hop x m
      refine ⟨op x m, ?_, by rw [hc]; rfl, ?_⟩
      · rcases hsel with h | h
        · rw [h]
          exact List.mem_cons_self
        · rw [h]
          exact List.mem_cons_of_mem x hm
      · exact List.forall_mem_cons.mpr ⟨hx, fun y hyl => trans _ _ _ (hb y hyl) hy⟩

/-! ### Trees -/

/-- A node function that acts on the values of its patterns as `op` does, leaving the rounding state. -/
structure Combines {α : Type} (P : Nat → Prop) (val : Nat → α) (op : α → α → α) (f : Rnd → Nat → Nat → Nat × Rnd) : Prop where
  fits : ∀ r x y, P x → P y → P (f r x y).1
  value : ∀ r x y, P x → P y → val (f r x y).1 = op (val x) (val y)
  state : ∀ r x y, (f r x y).2 = r

section Trees

variable {α : Type} {P : Nat → Prop} {val : Nat → α} {op : α → α → α} {f : Rnd → Nat → Nat → Nat × Rnd}
  (hf : Combines P val op f)
include hf

theorem treeLevel_cons (r : Rnd) (x y : Option Nat) (xs : List (Option Nat)) :
    treeLevel f r (x :: y :: xs) = (x.merge (fun a b => (f r a b).1) y :: (treeLevel f r xs).1, (treeLevel f r xs).2) := by
  cases x with
  | none =>
    rw [Option.merge_none_left]
    rfl
  | some a =>
    cases y with
    | none => rfl
    | some b => simp only [treeLevel, hf.state, Option.merge_some_some]

/-- A node fits and has the value of its two sons. -/
theorem node_combines (r : Rnd) (x y : Option Nat) (hx : ∀ a, x = some a → P a) (hy : ∀ b, y = some b → P b) :
    (∀ c, x.merge (fun a b => (f r a b).1) y = some c → P c) ∧
      (x.merge (fun a b => (f r a b).1) y).map val = (x.map val).merge op (y.map val) := by
  cases x with
  | none =>
    simp only [Option.merge_none_left, Option.map_none]
    exact ⟨hy, trivial⟩
  | some a =>
    cases y with
    | none => exact ⟨hx, rfl⟩
    | some b =>
      have ha := hx a rfl
      have hb := hy b rfl
      exact ⟨fun c hc => Option.some.inj hc ▸ hf.fits r a b ha hb, congrArg some (hf.value r a b ha hb)⟩

variable [Std.Associative op]

/-- A level leaves half as many nodes with the same values together. -/
theorem treeLevel_combines : ∀ (r : Rnd) (xs : List (Option Nat)), (∀ x, some x ∈ xs → P x) →
    (treeLevel f r xs).2 = r ∧ (treeLevel f r xs).1.length = (xs.length + 1) / 2 ∧ (∀ x, some x ∈ (treeLevel f r xs).1 → P x) ∧
    combined op ((treeLevel f r xs).1.map (Option.map val)) = combined op (xs.map (Option.map val))
  | _, [], hP => ⟨rfl, rfl, hP, rfl⟩
  | _, [_], hP => ⟨rfl, by simp [treeLevel], hP, rfl⟩
  | r, x :: y :: xs, hP => by
    obtain ⟨hs, hl, hfit, hc⟩ := treeLevel_combines r xs fun x hx => hP x (List.mem_cons_of_mem _ (List.mem_cons_of_mem _ hx))
    obtain ⟨hnode, hval⟩ := node_combines hf r x y (fun a h => hP a (h ▸ List.mem_cons_self))
      fun b h => hP b (h ▸ List.mem_cons_of_mem _ List.mem_cons_self)
    rw [treeLevel_cons hf]
    refine ⟨hs, ?_, fun c hmem => ?_, ?_⟩
    · rw [List.length_cons, hl, List.length_cons, List.length_cons]
      omega
    · rcases List.mem_cons.mp hmem with h | h
      · exact hnode c h.symm
      · exact hfit c h
    · rw [List.map_cons, hval, combined, List.foldr_cons, ← combined, hc]
      exact Std.Associative.assoc (op := Option.merge op) ..

theorem treeRoot_combines (n : Nat) (r : Rnd) (xs : List (Option Nat)) (hP : ∀ x, some x ∈ xs → P x) (hn : xs.length ≤ 2 ^ n) :
    (treeRoot f n r xs).2 = r ∧ (treeRoot f n r xs).1.map val = combined op (xs.map (Option.map val)) ∧
      ∀ x, (treeRoot f n r xs).1 = some x → P x := by
  induction n generalizing r xs with
  | zero =>
    match xs, hn with
    | [], _ => exact ⟨rfl, rfl, fun x hx => by cases hx⟩
    | [none], _ => exact ⟨rfl, rfl, fun x hx => by cases hx⟩
    | [some y], _ => exact ⟨rfl, rfl, fun x hx => hP x (hx ▸ List.mem_singleton_self _)⟩
  | succ n ih =>
    obtain ⟨hs, hl, hfit, hc⟩ := treeLevel_combines hf r xs hP
    obtain ⟨hs', hv', hfit'⟩ := ih (treeLevel f r xs).2 (treeLevel f r xs).1 hfit (by rw [hl]; rw [pow_succ] at hn; omega)
    exact ⟨hs'.trans hs, hv'.trans hc, hfit'⟩

end Trees

end Sys2Proof.Machine
end

section
/-! SUPPORT. Reductions of the active lanes (R106). -/

namespace Sys2Proof.Machine

/-! ### Readings of 64-bit patterns -/

/-- The reading of a pattern of 64 bits, natural or signed. -/
def wordReading (nat : BitVec 1) (x : Nat) : Int := if nat = 1 then (x : Int) else asSigned 64 x

/-- The reading of a lane. -/
def laneReading (nat : BitVec 1) (w : Nat) (v : Row) (k : Nat) : Int := if nat = 1 then ((laneBits w v k).toNat : Int) else (laneBits w v k).toInt

/-- A leaf of an integer reduction: a lane extended to 64 bits. -/
def intLeaf (nat : BitVec 1) (w x : Nat) : Nat := if nat = 1 then x else truncInt 64 (asSigned w x)

/-- A node of an integer reduction. -/
def intNode (nat : BitVec 1) (fi : Int → Int → Int) : Rnd → Nat → Nat → Nat × Rnd :=
  fun r x y => (truncInt 64 (fi (wordReading nat x) (wordReading nat y)), r)

theorem asSigned_eq_toInt_ofNat (w x : Nat) (hw : 0 < w) : asSigned w x = (BitVec.ofNat w x).toInt := by
  rw [← asSigned_toNat hw, BitVec.toNat_ofNat, asSigned, asSigned, Nat.mod_mod]

theorem ofInt_wordReading (nat : BitVec 1) (x : Nat) : BitVec.ofInt 64 (wordReading nat x) = BitVec.ofNat 64 x := by
  rw [wordReading]
  split
  · exact BitVec.ofInt_natCast ..
  · rw [asSigned_eq_toInt_ofNat 64 x (by decide), BitVec.ofInt_toInt]

/-- A pattern of 64 bits is that of its reading. -/
theorem truncInt_wordReading (nat : BitVec 1) {x : Nat} (hx : x < 2 ^ 64) : truncInt 64 (wordReading nat x) = x := by
  have h := congrArg BitVec.toNat ((ofNat_truncInt 64 (wordReading nat x)).trans (ofInt_wordReading nat x))
  rwa [BitVec.toNat_ofNat, BitVec.toNat_ofNat, Nat.mod_eq_of_lt hx, Nat.mod_eq_of_lt (truncInt_lt ..)] at h

theorem tyWidth_le : ∀ ty, tyWidth ty ≤ 64 := by decide

theorem wordReading_zero (nat : BitVec 1) : wordReading nat 0 = 0 := by
  rw [wordReading]
  split <;> rfl

theorem intLeaf_lt (nat : BitVec 1) {w : Nat} (h64 : w ≤ 64) (v : Row) (k : Nat) : intLeaf nat w (lane w v k) < 2 ^ 64 := by
  rw [intLeaf]
  split
  · exact (lane_lt w v k).trans_le (Nat.pow_le_pow_right Nat.two_pos h64)
  · exact truncInt_lt ..

theorem wordReading_intLeaf (nat : BitVec 1) {w : Nat} (hw : 0 < w) (h64 : w ≤ 64) (v : Row) (k : Nat) :
    wordReading nat (intLeaf nat w (lane w v k)) = laneReading nat w v k := by
  rw [wordReading, intLeaf, laneReading]
  split
  · rw [laneBits_toNat]
  · have hp : (2 : Int) ^ (w - 1) ≤ 2 ^ (64 - 1) := pow_le_pow_right₀ (by decide) (by omega)
    have hlo := BitVec.le_toInt (laneBits w v k)
    have hhi := BitVec.toInt_lt (x := laneBits w v k)
    rw [asSigned_lane w v k hw, asSigned_eq_toInt_ofNat 64 _ (by decide), ofNat_truncInt,
      BitVec.toInt_ofInt_eq_self (by decide) (by omega) (by omega)]

/-! ### Trees of integers -/

theorem intNode_add_combines (nat : BitVec 1) : Combines (fun _ => True) (BitVec.ofNat 64) (· + ·) (intNode nat (· + ·)) where
  fits _ _ _ _ _ := trivial
  value _ x y _ _ := by
    rw [intNode, ofNat_truncInt, BitVec.ofInt_add, ofInt_wordReading, ofInt_wordReading]
  state _ _ _ := rfl

theorem intNode_select_combines (nat : BitVec 1) {fi : Int → Int → Int} (hfi : ∀ x y, fi x y = x ∨ fi x y = y) :
    Combines (· < 2 ^ 64) (wordReading nat) fi (intNode nat fi) where
  fits _ _ _ _ _ := truncInt_lt ..
  value _ x y hx hy := by
    rw [intNode]
    rcases hfi (wordReading nat x) (wordReading nat y) with h | h
    · rw [h, truncInt_wordReading nat hx]
    · rw [h, truncInt_wordReading nat hy]
  state _ _ _ := rfl

/-- The root over the leaves of the lanes that a test selects. -/
theorem treeRoot_selected {α : Type} {P : Nat → Prop} {val : Nat → α} {op : α → α → α} [Std.Associative op] {f : Rnd → Nat → Nat → Nat × Rnd}
    (hf : Combines P val op f) (r : Rnd) (on : Nat → Bool) {leaf : Nat → Nat} (hleaf : ∀ k, P (leaf k)) {n : Nat} (hn : n ≤ 2 ^ 8) :
    let root := treeRoot f 8 r ((List.range n).map fun k => if on k then some (leaf k) else none)
    root.2 = r ∧ root.1.map val = combined op ((((List.range n).filter on).map fun k => val (leaf k)).map some) := by
  have hfit : ∀ x, some x ∈ ((List.range n).map fun k => if on k then some (leaf k) else none) → P x := by
    intro x hx
    obtain ⟨k, -, hk⟩ := List.mem_map.mp hx
    split at hk
    · exact Option.some.inj hk ▸ hleaf k
    · cases hk
  have hval : (fun k => (if on k then some (leaf k) else none).map val) = fun k => if on k then some (val (leaf k)) else none := by
    funext k
    split <;> rfl
  obtain ⟨hs, hv, -⟩ := treeRoot_combines hf 8 r _ hfit (by rwa [List.length_map, List.length_range])
  refine ⟨hs, hv.trans ?_⟩
  rw [List.map_map, ← combined_selected, ← hval]
  rfl

theorem ofInt_sum {w : Nat} (l : List Int) : BitVec.ofInt w l.sum = (l.map (BitVec.ofInt w)).sum := by
  induction l with
  | nil => rfl
  | cons x l ih => rw [List.sum_cons, BitVec.ofInt_add, ih, List.map_cons, List.sum_cons]

theorem getD_map_zero {α : Type} [Zero α] (o : Option Nat) (g : Nat → α) (hg : g 0 = 0) : g (o.getD 0) = (o.map g).getD 0 := by
  cases o with
  | none => exact hg
  | some x => rfl

/-! ### The operations -/

/-- The tree of a reduction (R106). -/
def reduceTree (s : State) (a : BitVec 5) (p ty : BitVec 3) (f : Rnd → Nat → Nat → Nat × Rnd) (leaf : Nat → Nat) : Option Nat × Rnd :=
  treeRoot f 8 s.ctx.rnd ((List.range (2048 / tyWidth ty)).map fun k =>
    if active (s.rp p.toNat) (tyWidth ty) k then some (leaf (lane (tyWidth ty) (s.rv a) k)) else none)

variable {i : Instr} {s : State} {d a : BitVec 5} {p ty : BitVec 3} {nat : BitVec 1} {none_ : Nat} {fi : Int → Int → Int}
  {ff : Rnd → Nat → Nat → Nat × Rnd}

section Acting

variable (h : Acts i s) (he : exec i s = reduceOp i.sp i d a p ty nat none_ fi ff s)
include h he

theorem exec_integer_reduce_of_acts (hty : tyInt ty = true) :
    exec i s = .next (vxDue s (.x d.toNat) (wide (BitVec.ofNat 64 ((reduceTree s a p ty (intNode nat fi) (intLeaf nat (tyWidth ty))).1.getD 0))) 6
      (reduceTree s a p ty (intNode nat fi) (intLeaf nat (tyWidth ty))).2) := by
  rw [exec_of_acts h he]
  simp only [hty, if_true, actives_eq_map, lanes_eq_map, List.zipWith_map, List.zipWith_self]
  rfl

theorem exec_float_reduce_of_acts (hty : tyFlt ty = true) :
    let leaves := (List.range (2048 / tyWidth ty)).map fun k => if active (s.rp p.toNat) (tyWidth ty) k then
      some (fround fmt32 rndRne (fvalue (tyFmt ty) (lane (tyWidth ty) (s.rv a) k))).1 else none
    let root := treeRoot ff 8 s.ctx.rnd leaves
    exec i s = .next ((s.updSelf fun c => { c with lfsr := root.2.lfsr }).dueFlags (.x d.toNat) (BitVec.ofNat 2048 (root.1.getD none_ % 2 ^ 64)) 1 6
      root.2.flags) := by
  intro leaves root
  have hw : wide (BitVec.ofNat 64 (root.1.getD none_)) = BitVec.ofNat 2048 (root.1.getD none_ % 2 ^ 64) := by
    rw [← wide_ofNat (Nat.mod_lt _ (by decide))]
    exact congrArg wide (BitVec.eq_of_toNat_eq (by simp))
  rw [exec_of_acts h he, ← hw]
  simp only [tyInt_of_tyFlt hty, if_false, Bool.false_eq_true, actives_eq_map, lanes_eq_map, List.zipWith_map, List.zipWith_self,
    root, leaves, vxDue]

end Acting

theorem lanes_le_256 : ∀ ty, 2048 / tyWidth ty ≤ 2 ^ 8 := by decide

/-- The numbers of the active lanes. -/
def liveLanes (s : State) (p : BitVec 3) (w : Nat) : List Nat := (List.range (2048 / w)).filter (active (s.rp p.toNat) w)

/-- An integer reduction that acts leaves a value in its x register six vector cycles later. -/
def Reduces (i : Instr) (s : State) (d : BitVec 5) (v : Dword) : Prop :=
  exec i s = .next ((s.updSelf fun c => { c with lfsr := c.lfsr }).due (.x d.toNat) (v.zeroExtend 2048) 1 6)

theorem reduces_sum (h : Acts i s) (he : exec i s = reduceOp i.sp i d a p ty nat none_ (· + ·) ff s) (hty : tyInt ty = true) :
    Reduces i s d (BitVec.ofInt 64 ((liveLanes s p (tyWidth ty)).map (laneReading nat (tyWidth ty) (s.rv a))).sum) := by
  obtain ⟨hs, hv⟩ := treeRoot_selected (intNode_add_combines nat) s.ctx.rnd (active (s.rp p.toNat) (tyWidth ty))
    (leaf := fun k => intLeaf nat (tyWidth ty) (lane (tyWidth ty) (s.rv a) k)) (fun _ => trivial) (lanes_le_256 ty)
  have hleaf : (fun k => BitVec.ofNat 64 (intLeaf nat (tyWidth ty) (lane (tyWidth ty) (s.rv a) k))) =
      BitVec.ofInt 64 ∘ laneReading nat (tyWidth ty) (s.rv a) := by
    funext k
    rw [← ofInt_wordReading nat, wordReading_intLeaf nat (tyWidth_pos ty) (tyWidth_le ty), Function.comp_apply]
  rw [Reduces, exec_integer_reduce_of_acts h he hty, reduceTree, hs, getD_map_zero _ (BitVec.ofNat 64) rfl, hv, getD_combined_add, hleaf,
    ← List.map_map, ← ofInt_sum]
  rfl

/-- A reduction by an operation that gives one of its operands, which bounds both: the bound of the active lanes. -/
theorem reduces_bound [Std.Associative fi] {R : Int → Int → Prop} (refl : ∀ x, R x x) (trans : ∀ x y z, R x y → R y z → R x z)
    (hfi : ∀ x y, (fi x y = x ∨ fi x y = y) ∧ R x (fi x y) ∧ R y (fi x y)) (h : Acts i s)
    (he : exec i s = reduceOp i.sp i d a p ty nat none_ fi ff s) (hty : tyInt ty = true) :
    let live := liveLanes s p (tyWidth ty)
    let val := laneReading nat (tyWidth ty) (s.rv a)
    ∃ v, Reduces i s d (BitVec.ofInt 64 v) ∧ (live = [] → v = 0) ∧ (live ≠ [] → (∃ k ∈ live, v = val k) ∧ ∀ k ∈ live, R (val k) v) := by
  intro live val
  obtain ⟨hs, hv⟩ := treeRoot_selected (intNode_select_combines nat fun x y => (hfi x y).1) s.ctx.rnd (active (s.rp p.toNat) (tyWidth ty))
    (leaf := fun k => intLeaf nat (tyWidth ty) (lane (tyWidth ty) (s.rv a) k))
    (fun k => intLeaf_lt nat (tyWidth_le ty) (s.rv a) k) (lanes_le_256 ty)
  simp only [wordReading_intLeaf nat (tyWidth_pos ty) (tyWidth_le ty)] at hv
  refine ⟨(combined fi ((live.map val).map some)).getD 0, ?_, fun hl => ?_, fun hl => ?_⟩
  · rw [Reduces, exec_integer_reduce_of_acts h he hty, reduceTree, hs, ← ofInt_wordReading nat,
      getD_map_zero _ (wordReading nat) (wordReading_zero nat), hv]
    rfl
  · rw [hl]
    rfl
  · obtain ⟨m, hm, hc, hb⟩ := combined_bound refl trans hfi (live.map val) (by simpa using hl)
    obtain ⟨k, hk, rfl⟩ := List.mem_map.mp hm
    rw [hc]
    exact ⟨⟨k, hk, rfl⟩, fun j hj => hb _ (List.mem_map_of_mem hj)⟩

end Sys2Proof.Machine
end

section
/-! SUPPORT and O24. Scans of the active lanes (R107). -/

namespace Sys2Proof.Machine

/-! ### Running sums -/

theorem length_scanLanes (add : Rnd → Nat → Nat → Nat × Rnd) (r : Rnd) (acc : Nat) (xs : List (Bool × Nat × Nat)) :
    (scanLanes add r acc xs).1.length = xs.length := by
  induction xs generalizing r acc with
  | nil => rfl
  | cons x xs ih =>
    obtain ⟨on, x, base⟩ := x
    cases on with
    | true => exact congrArg (· + 1) (ih ..)
    | false => exact congrArg (· + 1) (ih ..)

/-- An inactive lane has its base. -/
theorem scanLanes_inactive (add : Rnd → Nat → Nat → Nat × Rnd) (r : Rnd) (acc : Nat) (xs : List (Bool × Nat × Nat)) {k x base : Nat}
    (hk : xs[k]? = some (false, x, base)) : (scanLanes add r acc xs).1[k]? = some base := by
  induction xs generalizing r acc k with
  | nil => cases hk
  | cons y xs ih =>
    obtain ⟨on, y, b⟩ := y
    cases k with
    | zero =>
      cases hk
      rfl
    | succ k =>
      cases on with
      | true => exact ih _ _ hk
      | false => exact ih _ _ hk

/-- An active lane has the sum of the active lanes up to it, where an addition gives the same value in each of the rounding states that occur. -/
theorem scanLanes_active {add : Rnd → Nat → Nat → Nat × Rnd} {g : Nat → Nat → Nat} {R : Rnd → Prop}
    (hadd : ∀ r x y, R r → (add r x y).1 = g x y ∧ R (add r x y).2) {r : Rnd} (hr : R r) (acc : Nat) (xs : List (Bool × Nat × Nat))
    {k x base : Nat} (hk : xs[k]? = some (true, x, base)) :
    (scanLanes add r acc xs).1[k]? = some ((((xs.take (k + 1)).filter (·.1)).map (·.2.1)).foldl g acc) := by
  induction xs generalizing r acc k with
  | nil => cases hk
  | cons y xs ih =>
    obtain ⟨on, y, b⟩ := y
    obtain ⟨hv, hR⟩ := hadd r acc y hr
    cases k with
    | zero =>
      cases hk
      exact congrArg some hv
    | succ k =>
      cases on with
      | true => exact (ih hR _ hk).trans (by rw [hv]; rfl)
      | false => exact ih hr _ hk

theorem scanLanes_state {add : Rnd → Nat → Nat → Nat × Rnd} (hadd : ∀ r x y, (add r x y).2 = r) (r : Rnd) (acc : Nat)
    (xs : List (Bool × Nat × Nat)) : (scanLanes add r acc xs).2 = r := by
  induction xs generalizing r acc with
  | nil => rfl
  | cons x xs ih =>
    obtain ⟨on, x, base⟩ := x
    cases on with
    | true => exact (ih ..).trans (hadd ..)
    | false => exact ih ..

/-! ### VSCAN -/

/-- The lanes of a scan in their order: whether each is active, its value, and its base (R97). -/
def scanSource (s : State) (d a : BitVec 5) (p : BitVec 3) (w : Nat) (z : BitVec 1) (k : Nat) : Bool × Nat × Nat :=
  (active (s.rp p.toNat) w k, lane w (s.rv a) k, if z = 1 then 0 else lane w (gateOld s d p z) k)

/-- The scan of the lanes of a register. -/
def scanned (s : State) (d a : BitVec 5) (p : BitVec 3) (w : Nat) (z : BitVec 1) (add : Rnd → Nat → Nat → Nat × Rnd) : List Nat × Rnd :=
  scanLanes add s.ctx.rnd 0 ((List.range (2048 / w)).map (scanSource s d a p w z))

/-- The active lanes up to lane `k`. -/
def liveUpTo (s : State) (p : BitVec 3) (w k : Nat) : List Nat := (List.range (k + 1)).filter (active (s.rp p.toNat) w)

section Lanes

variable (s : State) (d a : BitVec 5) (p : BitVec 3) (w : Nat) (z : BitVec 1) {k : Nat} (hk : k < 2048 / w)

theorem length_scanned (add : Rnd → Nat → Nat → Nat × Rnd) : (scanned s d a p w z add).1.length = 2048 / w := by
  rw [scanned, length_scanLanes, List.length_map, List.length_range]

include hk

theorem getElem?_scanSource : ((List.range (2048 / w)).map (scanSource s d a p w z))[k]? = some (scanSource s d a p w z k) := by
  rw [List.getElem?_map, List.getElem?_range hk, Option.map_some]

theorem laneBits_scanned_inactive (add : Rnd → Nat → Nat → Nat × Rnd) (hon : active (s.rp p.toNat) w k = false) :
    laneBits w (ofLanes w (scanned s d a p w z add).1) k = if z = 1 then 0 else laneBits w (s.rv d) k := by
  have hsrc := getElem?_scanSource s d a p w z hk
  rw [scanSource, hon] at hsrc
  rw [laneBits_ofLanes (length_scanned ..), List.getD_eq_getElem?_getD, scanned, scanLanes_inactive add _ _ _ hsrc, Option.getD_some,
    ofNat_gateOld_lane hk hon]

theorem laneBits_scanned_active {add : Rnd → Nat → Nat → Nat × Rnd} {g : Nat → Nat → Nat} {R : Rnd → Prop}
    (hadd : ∀ r x y, R r → (add r x y).1 = g x y ∧ R (add r x y).2) (hr : R s.ctx.rnd) (hon : active (s.rp p.toNat) w k = true) :
    laneBits w (ofLanes w (scanned s d a p w z add).1) k =
      BitVec.ofNat w ((liveUpTo s p w k).foldl (fun t j => g t (lane w (s.rv a) j)) 0) := by
  have hsrc := getElem?_scanSource s d a p w z hk
  rw [scanSource, hon] at hsrc
  have hlive : (((((List.range (2048 / w)).map (scanSource s d a p w z)).take (k + 1)).filter (·.1)).map (·.2.1)) =
      (liveUpTo s p w k).map (lane w (s.rv a)) := by
    rw [← List.map_take, List.take_range, Nat.min_eq_left hk, List.filter_map, List.map_map]
    rfl
  rw [laneBits_ofLanes (length_scanned ..), List.getD_eq_getElem?_getD, scanned, scanLanes_active hadd hr _ _ hsrc, Option.getD_some, hlive,
    List.foldl_map]

end Lanes

section Vscan

variable (sp : BitVec 3) (d a : BitVec 5) (p ty : BitVec 3) (z : BitVec 1) (s : State)

/-- The addition of an integer scan. -/
def intAdd (w : Nat) : Rnd → Nat → Nat → Nat × Rnd := fun r x y => ((x + y) % 2 ^ w, r)

/-- The addition of a floating scan. -/
def floatAdd (f : Fmt) : Rnd → Nat → Nat → Nat × Rnd := fun r x y => roundSum f r false [fvalue f x, fvalue f y]

theorem exec_vscan_of_acts (h : Acts (.vscan sp d a p ty z) s) {add : Rnd → Nat → Nat → Nat × Rnd}
    (hadd : (if tyInt ty then intAdd (tyWidth ty) else floatAdd (tyFmt ty)) = add) :
    exec (.vscan sp d a p ty z) s = .next (vxDue s (.v d.toNat) (ofLanes (tyWidth ty) (scanned s d a p (tyWidth ty) z add).1) 6
      (scanned s d a p (tyWidth ty) z add).2) := by
  have hmodel : (fun (r : Rnd) (x y : Nat) => if tyInt ty = true then ((x + y) % 2 ^ tyWidth ty, r) else sumFn (tyFmt ty) false r x y 0) = add := by
    rw [← hadd]
    split <;> rfl
  have hk := keptLanes_eq_map (tyWidth ty) z (gateOld s d p z)
  rw [exec_of_acts h (show _ = execVscan sp d a p ty z s from rfl)]
  dsimp only
  rw [hmodel,
    show (if z = 1 then List.replicate (2048 / tyWidth ty) 0 else lanes (tyWidth ty) (gateOld s d p z)) = _ from hk,
    actives_eq_map, lanes_eq_map, List.zip_map', List.zip_map']
  rfl

theorem vscan_integer (hty : tyInt ty = true) : Gated (.vscan sp d a p ty z) s d p z (tyWidth ty) 6 fun k =>
    (liveUpTo s p (tyWidth ty) k).foldl (fun t j => t + laneBits (tyWidth ty) (s.rv a) j) 0 := by
  intro h
  have hs : (scanned s d a p (tyWidth ty) z (intAdd (tyWidth ty))).2 = s.ctx.rnd := scanLanes_state (fun _ _ _ => rfl) ..
  refine ⟨_, by rw [exec_vscan_of_acts sp d a p ty z s h (if_pos hty), hs, vxDue_rnd], fun k hk => ?_⟩
  by_cases hon : active (s.rp p.toNat) (tyWidth ty) k = true
  · rw [if_pos hon, laneBits_scanned_active s d a p _ z hk (add := intAdd (tyWidth ty)) (g := fun x y => (x + y) % 2 ^ tyWidth ty)
      (R := fun _ => True) (fun _ _ _ _ => ⟨rfl, trivial⟩) trivial hon]
    refine (List.foldl_hom (BitVec.ofNat (tyWidth ty)) fun x j => ?_).symm
    rw [laneBits_eq_ofNat, ← BitVec.ofNat_add]
    exact BitVec.eq_of_toNat_eq (by simp)
  · rw [if_neg hon, laneBits_scanned_inactive s d a p _ z hk _ (Bool.eq_false_iff.mpr hon)]

end Vscan

/-! ### A rounded pattern fits its format -/

theorem signed_lt (f : Fmt) (neg : Bool) {q : Nat} (hq : q < 2 ^ (f.e + f.m)) : f.signed neg q < 2 ^ f.width := by
  rw [Fmt.signed, Fmt.width, Nat.add_assoc, Nat.add_comm 1, pow_succ]
  split <;> omega

/-- The patterns from infinity up, with a fraction. -/
theorem top_exponent (f : Fmt) : (2 ^ f.e - 1) * 2 ^ f.m + 2 ^ f.m = 2 ^ (f.e + f.m) := by
  rw [← Nat.succ_mul, Nat.succ_eq_add_one, Nat.sub_add_cancel Nat.one_le_two_pow, pow_add]

theorem maxf_lt (f : Fmt) : f.maxf < 2 ^ (f.e + f.m) := by
  have ht := top_exponent f
  have hm := Nat.two_pow_pos f.m
  rw [Fmt.maxf]
  split <;> omega

theorem canonNan_lt (f : Fmt) : f.canonNan < 2 ^ f.width := by
  have ht := top_exponent f
  have hm := Nat.two_pow_pos f.m
  have hle : 2 ^ (f.m - 1) ≤ 2 ^ f.m := Nat.pow_le_pow_right Nat.two_pos (Nat.sub_le ..)
  rw [Fmt.canonNan, Fmt.width, Nat.add_assoc, Nat.add_comm 1, pow_succ]
  split <;> omega

theorem infinity_lt (f : Fmt) : (2 ^ f.e - 1) * 2 ^ f.m < 2 ^ (f.e + f.m) := by
  have ht := top_exponent f
  have hm := Nat.two_pow_pos f.m
  omega

theorem overflow_lt (f : Fmt) (mode : Nat) (neg : Bool) : f.overflow mode neg < 2 ^ f.width := by
  have hbig := signed_lt f neg (maxf_lt f)
  have hinf := signed_lt f neg (infinity_lt f)
  simp only [Fmt.overflow]
  split
  · exact hbig
  · split
    · exact hbig
    · split <;> assumption
    · split <;> assumption
    · exact hinf

theorem roundFin_lt (f : Fmt) (r : Rnd) (neg : Bool) (mag : Nat) (exp : Int) : (roundFin f r neg mag exp).1 < 2 ^ f.width := by
  simp only [roundFin]
  split
  · exact overflow_lt ..
  next h => exact signed_lt f neg ((not_lt.mp h).trans_lt (maxf_lt f))

theorem fround_lt (f : Fmt) (r : Rnd) (x : FV) : (fround f r x).1 < 2 ^ f.width := by
  cases x with
  | nan => exact canonNan_lt f
  | inf neg =>
    simp only [fround]
    split
    · exact canonNan_lt f
    · exact signed_lt f neg (infinity_lt f)
  | fin neg mag exp =>
    simp only [fround]
    split
    · exact signed_lt f neg (Nat.two_pow_pos _)
    · exact roundFin_lt ..

theorem floatAdd_lt (f : Fmt) (r : Rnd) (x y : Nat) : (floatAdd f r x y).1 < 2 ^ f.width := fround_lt f r _

/-- Outside RSR a floating addition does not depend on the flags, and leaves the state but for them. -/
theorem floatAdd_steady (f : Fmt) {r : Rnd} (hm : r.mode ≠ 4) (q : Rnd) (x y : Nat) (hq : ∃ fl, q = { r with flags := fl }) :
    (floatAdd f q x y).1 = (floatAdd f r x y).1 ∧ ∃ fl, (floatAdd f q x y).2 = { r with flags := fl } := by
  obtain ⟨fl, rfl⟩ := hq
  have hround (q : Rnd) : (floatAdd f q x y).1 = (floatAdd f q.fresh x y).1 := 
    (congrArg Prod.fst (rounds_roundSum f false [fvalue f x, fvalue f y] q) :)
  exact ⟨(hround _).trans (hround r).symm, _, (roundSum_keeps f { r with flags := fl } false _).eq_flags hm⟩

theorem foldl_lt {b : Nat} {g : Nat → Nat → Nat} (hg : ∀ x y, g x y < b) (l : List Nat) {t : Nat} (ht : t < b) : l.foldl g t < b := by
  induction l generalizing t with
  | nil => exact ht
  | cons x l ih => exact ih (hg t x)

theorem vscan_float (sp : BitVec 3) (d a : BitVec 5) (p ty : BitVec 3) (z : BitVec 1) (s : State) (hty : tyFlt ty = true)
    (h : Acts (.vscan sp d a p ty z) s) :
    ∃ v fl l', exec (.vscan sp d a p ty z) s = .next ((s.updSelf fun c => { c with lfsr := l' }).dueFlags (.v d.toNat) v 1 6 fl) ∧
      (∀ k < 2048 / tyWidth ty, active (s.rp p.toNat) (tyWidth ty) k = false →
        laneBits (tyWidth ty) v k = if z = 1 then 0 else laneBits (tyWidth ty) (s.rv d) k) ∧
      (s.ctx.rnd.mode ≠ 4 → ∀ k < 2048 / tyWidth ty, active (s.rp p.toNat) (tyWidth ty) k = true → (laneBits (tyWidth ty) v k).toNat =
        (liveUpTo s p (tyWidth ty) k).foldl (fun t j => (floatAdd (tyFmt ty) s.ctx.rnd t (lane (tyWidth ty) (s.rv a) j)).1) 0) := by
  have hw : (tyFmt ty).width = tyWidth ty := tyFmt_width ty (by simp only [tyFlt, decide_eq_true_eq] at hty; omega)
  refine ⟨_, _, _, exec_vscan_of_acts sp d a p ty z s h (if_neg (tyInt_of_tyFlt hty)), fun k hk hon => laneBits_scanned_inactive s d a p _ z hk _ hon,
    fun hm k hk hon => ?_⟩
  rw [laneBits_scanned_active s d a p _ z hk (R := fun q => ∃ fl, q = { s.ctx.rnd with flags := fl })
    (floatAdd_steady (tyFmt ty) hm) ⟨_, rfl⟩ hon, BitVec.toNat_ofNat]
  exact Nat.mod_eq_of_lt (foldl_lt (fun x j => hw ▸ floatAdd_lt (tyFmt ty) s.ctx.rnd x _) _ (Nat.two_pow_pos _))

/-! ### The obligation -/

/-- Settles O24: each move is a map of lane numbers, and a reduction or a scan is the fold of the active lanes in order. -/
theorem vectorMovesAndReductionsGiveTheirResult : Obligations.VectorMovesAndReductionsGiveTheirResult := by
  refine ⟨?_, ?_⟩
  · intro sp d a b p ty m z s w n A B r
    refine ⟨fun q hq => ?_, fun _ => viota_gated sp a p ty z, fun q hq ha => ?_, fun ha => ?_⟩
    · simp only [List.mem_cons, List.not_mem_nil, or_false] at hq
      obtain rfl | rfl | rfl | rfl := hq
      · exact gated_of_bits (φ := fun x _ => x) (show _ = execVmov sp d a p ty z s from rfl) rfl rfl fun x _ _ => ofNat_toNat_self x
      · exact gated_of_pure (show _ = execVbcast sp d a p ty z s from rfl) rfl rfl fun _ _ => ofNat_mod_toNat _
      · exact vperm_gated sp a b p ty m z
      · exact vrot_gated sp a b p ty z
    · simp only [List.mem_cons, List.not_mem_nil, or_false] at hq
      obtain rfl | rfl | rfl := hq
      · exact vsel_lanes sp a b p ty ha
      · exact vmerge_lanes sp a b ty ha
      · exact ⟨_, exec_of_acts ha (show _ = execVins sp d a b ty s from rfl), fun k hk => laneBits_setLane _ _ _ hk⟩
    · exact exec_vext_of_acts sp a b ty m ha
  · intro sp d a p ty nat z s
    dsimp only
    refine ⟨fun hty => ⟨fun ha => ?_, fun ha => ?_, fun ha => ?_, ?_⟩, fun hty => ⟨fun ha => ?_, fun ha => ?_, fun ha => ?_, fun ha => ?_⟩⟩
    · exact reduces_sum ha (show _ = execVredadd sp d a p ty nat s from rfl) hty
    · exact reduces_bound (R := (· ≤ ·)) le_refl (fun _ _ _ => le_trans) (fun x y => ⟨max_choice x y, le_max_left x y, le_max_right x y⟩) ha
        (show _ = execVredmax sp d a p ty nat s from rfl) hty
    · exact reduces_bound (R := (· ≥ ·)) le_refl (fun _ _ _ => ge_trans) (fun x y => ⟨min_choice x y, min_le_left x y, min_le_right x y⟩) ha
        (show _ = execVredmin sp d a p ty nat s from rfl) hty
    · exact vscan_integer sp d a p ty z s hty
    · exact exec_float_reduce_of_acts (ff := fun r x y => roundSum fmt32 r false [fvalue fmt32 x, fvalue fmt32 y]) ha
        (show _ = execVredadd sp d a p ty 0 s from rfl) hty
    · exact exec_float_reduce_of_acts ha (show _ = execVredmax sp d a p ty 0 s from rfl) hty
    · exact exec_float_reduce_of_acts ha (show _ = execVredmin sp d a p ty 0 s from rfl) hty
    · exact vscan_float sp d a p ty z s hty ha

end Sys2Proof.Machine
end

section
/-! SUPPORT and O26. Array operations at issue: what they read and their nominal times (R126, R128, R134, R137). -/

namespace Sys2Proof.Machine

/-- The operation that the acting context puts into the queue (R126, R144): it takes at issue what it will read, and its times follow the last one's. -/
def State.arrayOp (s : State) (i : Instr) (row entry phase : Nat) (data : Row) : ArrayOp :=
  let k := s.me.core
  let start := max k.cycle k.nomEnd
  { id := s.ids, op := i, hw := s.cur.hw, cmdix := s.ctx.cmdix, issue := k.cycle, row := row, entry := entry, ft := k.ft, mbud := k.mbud
    data := data, nomStart := start, nomEnd := start + max 1 (ceilDiv (phase * k.dM) k.dC)
    nomDue := start + max 1 (ceilDiv ((phase + 12) * k.dM) k.dC), phase := phase, dm := k.dM, dc := k.dC, started := false, actStart := k.arrClk
    actEnd := 0, actDue := 0, curEntry := entry, curRow := row, curSlot := i.ws, used := [entry], snap := 0, before := 0, next := 0, res := 0, flags := 0
    ps := 0, pu := 0, pc := 0, ts := 0, tu := 0, tc := 0, esc := 0, exhausted := false, again := false, fault := none, stale := []
    reported := false, kept := false }

/-- The exposed result that stands for it in its context (R261, R262). -/
def State.arrayDue (s : State) (o : ArrayOp) : Pending :=
  let k := s.me.core
  ⟨o.nomDue, k.cycle, s.cur.pm, .none, 0, 0, 2, sget 0 k.units 2 + (o.nomDue - k.cycle) * (domainUnit * k.dC / k.dM), none⟩

/-- The acting tile after it: the operation is the last of the queue, and its due cycle is among the results of its context. -/
theorem State.queueArray_me (s : State) (i : Instr) (row entry phase : Nat) (data : Row) :
    (s.queueArray i row entry phase data).me =
      let o := s.arrayOp i row entry phase data
      { s.me with core := ({ s.me.core with aq := s.me.core.aq ++ [o], nomEnd := o.nomEnd } : Core).updCtx s.cur.hw fun c =>
          { c with due := c.due ++ [s.arrayDue o] } } := by
  simp only [State.queueArray, State.updSelf_me, State.updMyCore_me, State.updMyCore_cur, Core.enqueue, List.getLast?_concat]
  rfl

/-- What the issue of an array operation leaves, for the row, entry, matrix cycles and register that it reads. -/
def ArrayOperationQueued (s : State) (i : Instr) (row entry phase : Nat) (data : Row) : Prop :=
  let k := s.me.core
  ∃ (v : State) (o : ArrayOp) (p : Pending), exec i s = .next v ∧ v.me.core.aq = k.aq ++ [o] ∧ o.op = i ∧
    o.row = row ∧ o.entry = entry ∧ o.phase = phase ∧ o.data = data ∧ o.ft = k.ft ∧ o.mbud = k.mbud ∧ o.started = false ∧
    o.cmdix = s.ctx.cmdix ∧ o.hw = s.cur.hw ∧ o.nomStart = max k.isscnt.toNat k.nomEnd ∧
    o.nomEnd = o.nomStart + max 1 (ceilDiv (phase * k.dM) k.dC) ∧
    o.nomDue = o.nomStart + max 1 (ceilDiv ((phase + 12) * k.dM) k.dC) ∧ v.me.core.nomEnd = o.nomEnd ∧
    v.me.core.accs = k.accs ∧ v.me.core.wslots = k.wslots ∧ v.me.core.ft = k.ft ∧
    p.dst = .none ∧ p.due = o.nomDue ∧ v.ctx = { s.ctx with due := s.ctx.due ++ [p], cmdix := s.ctx.cmdix + 1 }

theorem arrayOperationQueued_of_acts {s : State} {i : Instr} {row entry phase : Nat} {data : Row} {act : State → State} (ha : Acts i s)
    (he : exec i s = issueCommand i.sp i s act) (hact : act s = s.queueArray i row entry phase data) :
    ArrayOperationQueued s i row entry phase data := by
  have hme : (s.queueArray i row entry phase data).countCommand.me = _ := (State.updSelf_me ..).trans (by rw [State.queueArray_me])
  have hctx : (s.queueArray i row entry phase data).ctx =
      { s.ctx with due := s.ctx.due ++ [s.arrayDue (s.arrayOp i row entry phase data)] } := by
    rw [State.ctx, State.queueArray_me, show (s.queueArray i row entry phase data).cur = s.cur from rfl]
    exact Core.updCtx_ctx ..
  have hcount : (s.queueArray i row entry phase data).countCommand.ctx = _ := (State.updSelf_ctx ..).trans (by rw [hctx])
  refine ⟨_, s.arrayOp i row entry phase data, s.arrayDue (s.arrayOp i row entry phase data), hact ▸ exec_of_acts_command ha he, ?_, rfl, rfl, rfl,
    rfl, rfl, rfl, rfl, rfl, rfl, rfl, rfl, rfl, rfl, ?_, ?_, ?_, ?_, rfl, rfl, hcount⟩
  all_goals rw [hme]; rfl

theorem matrixRow_eq (s : State) (x : BitVec 5) (off : BitVec 10) : matrixRow s x off = (((s.rx x).extractLsb' 8 10).toNat + off.toNat) % 1024 := by
  rw [matrixRow, rowOf_eq_extractLsb']

/-- A product reads its row, the entry that it selects and the formats that this gives (R124, R134). -/
theorem State.queueProduct_eq (s : State) (i : Instr) (x : BitVec 5) (off : BitVec 10) :
    s.queueProduct i x off = s.queueArray i ((((s.rx x).extractLsb' 8 10).toNat + off.toNat) % 1024) (i.ftIndex s.ctx)
      (i.kg * opCpg (i.formats (ftEntry s.me.core.ft (i.ftIndex s.ctx))).1 (i.formats (ftEntry s.me.core.ft (i.ftIndex s.ctx))).2) 0 := by
  rw [State.queueProduct, matrixRow_eq]

/-- An index that is a remainder already selects the entry of that number. -/
theorem ftEntry_mod (ft : Sparse Dword) (n : Nat) : ftEntry ft (n % 16) = (sget 0 ft (n % 16)).toNat := by rw [ftEntry, Nat.mod_mod]

/-- Settles O26: each form is `State.queueArray` on what the issue reads. -/
theorem arrayOperationsJoinTheQueue : Obligations.ArrayOperationsJoinTheQueue := by
  intro sp acc x off ws bk kg fa fb e mask q lvl z s k row ent w cycles i hi ha
  have hent : ftEntry s.me.core.ft ent = w := ftEntry_mod ..
  simp only [List.mem_cons, List.not_mem_nil, or_false] at hi
  obtain rfl | rfl | rfl | rfl | rfl | rfl := hi
  · exact arrayOperationQueued_of_acts ha (show _ = execMma sp acc x off ws bk kg fa fb z s from rfl) (s.queueProduct_eq ..)
  · exact arrayOperationQueued_of_acts ha (show _ = execMmat sp acc x off ws bk kg e lvl z s from rfl)
      (hent ▸ s.queueProduct_eq (.mmat sp acc x off ws bk kg e lvl z) x off)
  · exact arrayOperationQueued_of_acts ha (show _ = execMmae sp acc x off ws bk kg e lvl z s from rfl)
      (hent ▸ s.queueProduct_eq (.mmae sp acc x off ws bk kg e lvl z) x off)
  · exact arrayOperationQueued_of_acts ha (show _ = execAccz sp mask s from rfl) rfl
  · exact arrayOperationQueued_of_acts ha (show _ = execAccwr sp acc x q s from rfl) rfl
  · exact arrayOperationQueued_of_acts ha (show _ = execAccbias sp acc x s from rfl) rfl

end Sys2Proof.Machine
end

section
/-! SUPPORT and O28. ACCRD, the format table, the monitors and the budget at issue (R123, R127, R137, R139, R150, R151). -/

namespace Sys2Proof.Machine

theorem accPair_eq_extractLsb' (a : Acc) (q : Nat) : accPair a q = a.extractLsb' (2048 * q) 2048 := by
  rw [accPair, BitVec.extractLsb', Nat.shiftRight_eq_div_pow]

theorem Core.accEarly_eq_false {k : Core} {acc : Nat} (h : ∀ o ∈ k.aq, acc ∈ o.op.accs → ¬ o.issue < k.isscnt.toNat) : k.accEarly acc = false := by
  rw [Core.accEarly, List.any_eq_false]
  intro o ho
  simp only [Bool.and_eq_true, List.contains_iff_mem, decide_eq_true_eq, not_and]
  exact h o ho

/-- The monitors in the order of their numbers, the budget behind them (R150). -/
theorem Core.monitor_eq_getD (k : Core) {n : Nat} (h : n ≤ 4) : k.monitor n = [k.satc, k.unfc, k.canc, k.esccnt, k.mbud].getD n 0 := by
  match n, h with
  | 0, _ | 1, _ | 2, _ | 3, _ | 4, _ => rfl

/-- A mask of low bits keeps them. -/
theorem and_budgetMask (v : Dword) : v &&& 0x1FFFFFFFFFFFFF = (v.extractLsb' 0 53).zeroExtend 64 := by
  refine BitVec.eq_of_toNat_eq ?_
  rw [BitVec.toNat_and, BitVec.toNat_setWidth, BitVec.extractLsb'_toNat, Nat.shiftRight_zero]
  rw [show (0x1FFFFFFFFFFFFF : Dword).toNat = 2 ^ 53 - 1 from rfl, Nat.and_two_pow_sub_one_eq_mod]
  omega

theorem State.updRest_me (s : State) (f : Core → Core) : (s.updRest f).me = { s.me.soil .rest with core := f s.me.core } := State.updMe_me ..

theorem State.countCommand_core (s : State) :
    s.countCommand.me.core = { s.me.core with ctxs := (s.me.core.updCtx s.cur.hw fun c => { c with cmdix := c.cmdix + 1 }).ctxs } := State.updSelf_core ..

/-- A command that changes its tile's core and no context leaves its context as it was, with one more command counted (R366). -/
theorem State.countCommand_ctx {s u : State} (hc : u.cur = s.cur) (hk : u.me.core.ctxs = s.me.core.ctxs) :
    u.countCommand.ctx = { s.ctx with cmdix := s.ctx.cmdix + 1 } := by
  have hx : u.ctx = s.ctx := by rw [State.ctx, State.ctx, hc]; exact congrArg (sget Ctx.reset · s.cur.hw) hk
  rw [State.countCommand, State.updSelf_ctx, hx]

/-- Settles O28: a read is one result due, and a write is one change of the tile's core. -/
theorem matrixRegistersReadAndWrite : Obligations.MatrixRegistersReadAndWrite := by
  intro sp acc d a q e sel mask s k
  refine ⟨fun ha => ?_, fun ha => ?_, fun ha hsel => ?_, fun ha => ?_, fun ha => ?_, fun ha => ?_⟩
  · refine ⟨_, exec_of_acts_command ha (show _ = execAccrd sp acc d q s from rfl), fun h => ?_⟩
    rw [if_neg (by rw [Core.accEarly_eq_false h]; decide), accPair_eq_extractLsb']
  · exact exec_of_acts_command ha (show _ = execFtget sp e d s from rfl)
  · rw [← Core.monitor_eq_getD _ hsel]
    exact exec_of_acts_command ha (show _ = execMonrd sp d sel s from rfl)
  · refine ⟨_, exec_of_acts_command ha (show _ = execFtset sp e a s from rfl), State.countCommand_ctx rfl ?_, fun j => ?_, ?_⟩
    · rw [State.updRest_me]
    · rw [State.countCommand_core, State.updRest_me]
      exact sget_sput ..
    · rw [State.countCommand_core, State.updRest_me]
  · refine ⟨_, exec_of_acts_command ha (show _ = execMbset sp a s from rfl), State.countCommand_ctx rfl ?_, ?_, ?_⟩
    · rw [State.updRest_me]
    · rw [State.countCommand_core, State.updRest_me]
      exact and_budgetMask _
    · rw [State.countCommand_core, State.updRest_me]
  · refine ⟨_, exec_of_acts_command ha (show _ = execMonclr sp mask s from rfl), State.countCommand_ctx rfl ?_, ?_, ?_, ?_, ?_⟩
    · rw [State.updMyCore_me]
    all_goals rw [State.countCommand_core, State.updMyCore_me]

end Sys2Proof.Machine
end

section
/-! SUPPORT. What stays within one tile: device memory and every other tile are as they were. -/

namespace Sys2Proof.Machine

theorem Elsewhere.refl (s : State) (t : Nat) : Elsewhere s t s := ⟨rfl, fun _ _ => rfl⟩

theorem Elsewhere.trans {s u v : State} {t : Nat} (h : Elsewhere s t u) (g : Elsewhere u t v) : Elsewhere s t v :=
  ⟨g.memory.trans h.memory, fun x hx => (g.tiles x hx).trans (h.tiles x hx)⟩

/-- What touches neither device memory nor the tiles. -/
theorem Elsewhere.of_tiles {s u : State} {t : Nat} (hm : u.mem = s.mem) (ht : u.tiles = s.tiles) : Elsewhere s t u :=
  ⟨hm, fun x _ => congrArg (sget Tile.reset · x) ht⟩

theorem State.updTile_elsewhere (s : State) (t : Nat) (f : Tile → Tile) : Elsewhere s t (s.updTile t f) :=
  ⟨rfl, fun _ hx => State.updTile_tile_ne s f hx⟩

theorem State.updCore_elsewhere (s : State) (t : Nat) (f : Core → Core) : Elsewhere s t (s.updCore t f) := s.updTile_elsewhere ..

theorem State.updCtx_elsewhere (s : State) (t h : Nat) (f : Ctx → Ctx) : Elsewhere s t (s.updCtx t h f) := s.updCore_elsewhere ..

theorem State.updJob_elsewhere (s : State) (t n : Nat) (f : Job → Job) : Elsewhere s t (s.updJob n f) := .of_tiles rfl rfl

theorem State.updFab_elsewhere (s : State) (t : Nat) (f : Fabric → Fabric) : Elsewhere s t (s.updFab f) := .of_tiles rfl rfl

/-- A tile changed in something that does not bear on its core. -/
theorem State.tile_core_of_tiles {s u : State} (t : Nat) (ht : u.tiles = s.tiles) : (u.tile t).core = (s.tile t).core := by
  rw [State.tile, ht]; rfl

end Sys2Proof.Machine
end

section
/-! SUPPORT. The array at work: what starts, what a fault report changes, and the counts of an operation that ends (R126, R130, R132, R144). -/

namespace Sys2Proof.Machine

/-! ### The counts of an operation and the report of a fault -/

theorem State.addEsc_elsewhere (s : State) (t h n : Nat) : Elsewhere s t (s.addEsc t h n) := by
  unfold State.addEsc
  dsimp only
  split
  · exact .refl s t
  · exact (s.updJob_elsewhere t ..).trans (State.updTile_elsewhere ..)

@[simp] theorem State.addEsc_core (s : State) (t h n : Nat) : ((s.addEsc t h n).tile t).core = (s.tile t).core := by
  unfold State.addEsc
  dsimp only
  split
  · rfl
  · rw [State.updTile_tile]
    exact State.tile_core_of_tiles t rfl

/-- The counters with the counts of an operation added (R144). -/
def Core.addCounts (k : Core) (o : ArrayOp) : Core :=
  { k with
    satc := k.satc + BitVec.ofNat 64 o.ts
    unfc := k.unfc + BitVec.ofNat 64 o.tu
    canc := k.canc + BitVec.ofNat 64 o.tc
    satNow := k.satNow + o.ts
    unfNow := k.unfNow + o.tu
    canNow := k.canNow + o.tc
    esccnt := k.esccnt + BitVec.ofNat 64 o.esc }

theorem Core.addCounts_ctx (k : Core) (o : ArrayOp) (h : Nat) : (k.addCounts o).ctx h = k.ctx h := rfl

theorem State.applyCounts_elsewhere (s : State) (t : Nat) (o : ArrayOp) : Elsewhere s t (s.applyCounts t o) := by
  unfold State.applyCounts
  dsimp only
  split
  · exact s.updCore_elsewhere t _
  · exact (s.updCore_elsewhere t _).trans (State.addEsc_elsewhere ..)

theorem State.applyCounts_core (s : State) (t : Nat) (o : ArrayOp) : ((s.applyCounts t o).tile t).core = (s.tile t).core.addCounts o := by
  unfold State.applyCounts
  dsimp only
  split
  · exact State.updCore_core ..
  · rw [State.addEsc_core]
    exact State.updCore_core ..

/-- A report changes nothing, or marks one operation of the queue whose fault was still to be reported: beside the counters and its context, the queue
alone changes (R130, R132). -/
theorem State.reportFault_cases (s : State) (t : Nat) :
    let k := (s.tile t).core
    let k' := ((s.reportFault t).tile t).core
    Elsewhere s t (s.reportFault t) ∧ (k' = k ∨ ∃ o ∈ k.aq, o.started = true ∧ o.fault ≠ none ∧ o.reported = false ∧
      k'.aq = (k.setOp { o with reported := true }).aq ∧ k'.accs = k.accs ∧ k'.actEnd = k.actEnd) := by
  dsimp only
  unfold State.reportFault
  dsimp only
  split
  · exact ⟨.refl s t, .inl rfl⟩
  next o ho =>
    have hs : ∀ n, (if n = 5 then s.signalBoth 1 else s).tiles = s.tiles := fun n => by split <;> simp
    have hm : ∀ n, (if n = 5 then s.signalBoth 1 else s).mem = s.mem := fun n => by split <;> simp
    have hsel := List.find?_some ho
    simp only [Bool.and_eq_true, Bool.not_eq_true', Option.isSome_iff_ne_none] at hsel
    obtain ⟨⟨⟨hst, hf⟩, hr⟩, -⟩ := hsel
    refine ⟨(((Elsewhere.of_tiles (hm _) (hs _)).trans (State.applyCounts_elsewhere ..)).trans (State.updCore_elsewhere ..)).trans
      (State.updCtx_elsewhere ..), .inr ⟨o, List.mem_of_find?_eq_some ho, hst, hf, hr, ?_⟩⟩
    rw [State.pendErr, State.updCtx, State.updCore_core, State.updCore_core, State.applyCounts_core, State.tile_core_of_tiles t (hs _)]
    exact ⟨rfl, rfl, rfl⟩

/-- Whether a fault has been reported is the one thing of an operation that a report changes. -/
def ArrayOp.Same (r r' : ArrayOp) : Prop := r' = r ∨ r' = { r with reported := true }

theorem Core.setOp_setOp (k : Core) {r r' : ArrayOp} (h : r'.id = r.id) : ((k.setOp r).setOp r').aq = (k.setOp r').aq := by
  refine List.map_map.trans (List.map_congr_left fun e _ => ?_)
  by_cases he : e.id = r.id <;> simp [he, h]

/-- An operation put back into the queue, and its fault reported if it has one: where nothing else of the queue has a fault to report, the queue holds
the operation, marked or not, in its place. -/
theorem State.reportFault_setOp {s u : State} {t : Nat} {r : ArrayOp}
    (hu : u = s.updCore t fun k => { k.setOp r with actEnd := r.actEnd })
    (hq : ∀ e ∈ (s.tile t).core.aq, e.id ≠ r.id → e.started = false ∨ e.fault = none ∨ e.reported = true) :
    Elsewhere s t (u.reportFault t) ∧ ∃ r', r.Same r' ∧
      ((u.reportFault t).tile t).core.aq = (s.tile t).core.aq.map (fun e => if e.id = r.id then r' else e) ∧
      ((u.reportFault t).tile t).core.accs = (s.tile t).core.accs ∧ ((u.reportFault t).tile t).core.actEnd = r.actEnd := by
  obtain ⟨hel, hk⟩ := u.reportFault_cases t
  have hcore : (u.tile t).core = { (s.tile t).core.setOp r with actEnd := r.actEnd } := by rw [hu]; exact State.updCore_core ..
  refine ⟨(hu ▸ s.updCore_elsewhere t _ : Elsewhere s t u).trans hel, ?_⟩
  rcases hk with hk | ⟨o, ho, hst, hf, hr, haq, haccs, hend⟩
  · exact ⟨r, .inl rfl, by rw [hk, hcore]; rfl, by rw [hk, hcore]; rfl, by rw [hk, hcore]⟩
  · have hor : o = r := by
      rw [hcore] at ho
      obtain ⟨e, he, heo⟩ := List.mem_map.mp ho
      by_cases hid : e.id = r.id
      · rw [← heo, if_pos hid]
      · rw [if_neg hid] at heo
        subst heo
        rcases hq e he hid with h | h | h
        · exact absurd hst (by rw [h]; decide)
        · exact absurd h hf
        · exact absurd hr (by rw [h]; decide)
    subst hor
    refine ⟨_, .inr rfl, ?_, haccs.trans (by rw [hcore]; rfl), hend.trans (by rw [hcore])⟩
    rw [haq, hcore]
    exact Core.setOp_setOp _ rfl

end Sys2Proof.Machine
end

section
/-! SUPPORT. The k-groups of a product, one after another (R116, R118, R130). -/

namespace Sys2Proof.Machine

/-! ### Lists of patterns -/

theorem join_cut (w n v : Nat) : join w (cut w n v) = v % 2 ^ (w * n) := by
  induction n generalizing v with
  | zero => rw [Nat.mul_zero, pow_zero, Nat.mod_one]; rfl
  | succ n ih => rw [cut, join, ih, Nat.mod_mod, Nat.mul_succ, Nat.add_comm (w * n), pow_add, Nat.mod_mul]

theorem mem_cut_lt {w n v x : Nat} (h : x ∈ cut w n v) : x < 2 ^ w := by
  induction n generalizing v with
  | zero => cases h
  | succ n ih =>
    rcases List.mem_cons.mp h with rfl | h
    · exact Nat.mod_lt _ (Nat.two_pow_pos w)
    · exact ih h

theorem cut_join {w : Nat} {xs : List Nat} (hx : ∀ x ∈ xs, x < 2 ^ w) : cut w xs.length (join w xs) = xs := by
  induction xs with
  | nil => rfl
  | cons x xs ih =>
    have h := hx x List.mem_cons_self
    rw [List.length_cons, join, cut, Nat.mod_eq_of_lt h, Nat.add_mul_mod_self_left, Nat.mod_eq_of_lt h,
      Nat.add_mul_div_left _ _ (Nat.two_pow_pos w), Nat.div_eq_of_lt h, Nat.zero_add, ih fun y hy => hx y (List.mem_cons_of_mem _ hy)]

theorem ofPatterns_cut (a : Acc) : ofPatterns (cut 32 1024 a.toNat) = a := by
  rw [ofPatterns, join_cut, Nat.mod_eq_of_lt a.isLt, ofNat_toNat_self]

/-- The patterns of a pass are those of an accumulator. -/
def Pass.Fits (p : Pass) : Prop := p.acc.length = 1024 ∧ ∀ x ∈ p.acc, x < 2 ^ 32

/-- Such patterns are read back from the accumulator that they make. -/
theorem Pass.Fits.cut_ofPatterns {p : Pass} (h : p.Fits) : cut 32 1024 (ofPatterns p.acc).toNat = p.acc := by
  have hn : 32 * p.acc.length = 32768 := by rw [h.1]
  rw [ofPatterns, BitVec.toNat_ofNat, ← hn, Nat.mod_eq_of_lt (join_lt 32 p.acc), ← h.1, cut_join h.2]

theorem roundSum_lt (f : Fmt) (r : Rnd) (bad : Bool) (xs : List FV) : (roundSum f r bad xs).1 < 2 ^ f.width := fround_lt ..

theorem length_flatMap_pairs {α β : Type} (as : List α) (bs : List β) : (as.flatMap fun a => bs.map fun b => (a, b)).length = as.length * bs.length := by
  simp [List.length_flatMap]

/-- One k-group of 32 rows and 32 columns gives one pattern for each output. -/
theorem Pass.group_fits {p : Pass} (h : p.Fits) (csh : Nat) {as bs : List Vec32} (ha : as.length = 32) (hb : bs.length = 32) :
    (p.group csh as bs).Fits := by
  refine ⟨?_, fun x hx => ?_⟩
  · simp only [Pass.group, List.length_map, List.length_zipWith, length_flatMap_pairs, ha, hb, h.1]
    rfl
  · obtain ⟨o, ho, rfl⟩ := List.mem_map.mp hx
    obtain ⟨i, hi, rfl⟩ := List.mem_iff_getElem.mp ho
    rw [List.getElem_zipWith]
    exact roundSum_lt fmt32 ..

@[simp] theorem Core.groupA_length (k : Core) (fmt row kg g : Nat) : (k.groupA fmt row kg g).length = 32 := by
  unfold Core.groupA
  split <;> simp

@[simp] theorem WSlot.columns_length (w : WSlot) (fmtB pos : Nat) : (w.columns fmtB pos).length = 32 := by simp [WSlot.columns]

/-! ### A pass as far as a group -/

/-- The slot and position of one k-group (R122). -/
def groupPlace (k : Core) (ws bk fmtB i : Nat) : Nat × Nat := ((ws + (bk + i) / (k.wslot ws).groups fmtB) % 8, (bk + i) % (k.wslot ws).groups fmtB)

/-- One k-group of a pass, by its number. -/
def Core.passGroup (k : Core) (csh fa fb row ws bk kg : Nat) (p : Pass) (i : Nat) : Pass :=
  p.group csh (k.groupA fa row kg i) ((k.wslot (groupPlace k ws bk fb i).1).columns fb (groupPlace k ws bk fb i).2)

/-- A pass after its first groups. -/
def Core.passTo (k : Core) (csh fa fb row ws bk kg : Nat) (snap : Acc) (n : Nat) : Pass :=
  (List.range n).foldl (k.passGroup csh fa fb row ws bk kg) ⟨cut 32 1024 snap.toNat, 0, 0, 0, 0⟩

theorem Core.pass_eq_passTo (k : Core) (csh fa fb row ws bk kg : Nat) (snap : Acc) :
    k.pass csh fa fb row ws bk kg snap = k.passTo csh fa fb row ws bk kg snap kg := by
  have hz : List.zip (List.range kg) (groupPlaces k ws bk kg fb) = (List.range kg).map fun i => (i, groupPlace k ws bk fb i) := by
    exact List.ext_getElem (by simp [groupPlaces]) fun i _ _ => by simp [groupPlaces, groupPlace]
  rw [Core.pass, hz, List.foldl_map]
  rfl

theorem Core.passTo_succ (k : Core) (csh fa fb row ws bk kg : Nat) (snap : Acc) (n : Nat) :
    k.passTo csh fa fb row ws bk kg snap (n + 1) = k.passGroup csh fa fb row ws bk kg (k.passTo csh fa fb row ws bk kg snap n) n := by
  rw [Core.passTo, List.range_succ, List.foldl_concat]
  rfl

theorem Core.passTo_fits (k : Core) (csh fa fb row ws bk kg : Nat) (snap : Acc) (n : Nat) : (k.passTo csh fa fb row ws bk kg snap n).Fits := by
  induction n with
  | zero => exact ⟨cut_length .., fun x hx => mem_cut_lt hx⟩
  | succ n ih => exact k.passTo_succ csh fa fb row ws bk kg snap n ▸ Pass.group_fits ih csh (Core.groupA_length ..) (WSlot.columns_length ..)

/-! ### The operation as it runs -/

/-- What the groups of a pass read of its operation; none of them changes it. -/
def ArrayOp.operands (o : ArrayOp) : Instr × Sparse Dword × Dword × Nat × Nat × Nat := (o.op, o.ft, o.mbud, o.curEntry, o.curRow, o.curSlot)

/-- The pass as the operation holds it. -/
def ArrayOp.partialPass (o : ArrayOp) : Pass := ⟨cut 32 1024 o.res.toNat, o.flags, o.ps, o.pu, o.pc⟩

theorem ArrayOp.endPass_operands (o : ArrayOp) : o.endPass.operands = o.operands := by
  unfold ArrayOp.endPass
  split <;> rfl

theorem ArrayOp.endPass_next (o : ArrayOp) : o.endPass.next = o.next := by
  unfold ArrayOp.endPass
  split <;> rfl

theorem ArrayOp.endPass_partialPass (o : ArrayOp) : o.endPass.partialPass = o.partialPass := by
  unfold ArrayOp.endPass
  split <;> rfl

/-- The pass of an operation under its current entry, row and slot, after its first groups (R118, R144). -/
def Core.passOf (k : Core) (o : ArrayOp) (n : Nat) : Pass :=
  let f := o.op.formats (ftEntry o.ft o.curEntry)
  k.passTo (bitsOf o.mbud.toNat 48 5) f.1 f.2 o.curRow o.curSlot o.op.bk o.op.kg (if o.op.zeroAcc then 0 else o.snap) n

/-- The first `n` groups of the pass of `o` have run in `r`. -/
structure Core.HasRun (k : Core) (o : ArrayOp) (n : Nat) (r : ArrayOp) : Prop where
  /-- It reads what `o` reads. -/
  operands : r.operands = o.operands
  /-- The next group. -/
  next : r.next = n
  /-- What the groups have given. -/
  pass : r.partialPass = k.passOf o n

theorem Core.beginPass_cases (k : Core) (o : ArrayOp) : ∃ f, k.beginPass o =
    { o with next := 0, res := if o.op.zeroAcc then 0 else o.snap, flags := 0, ps := 0, pu := 0, pc := 0, again := false, fault := f } := by
  unfold Core.beginPass
  dsimp only
  split <;> exact ⟨_, rfl⟩

theorem Core.beginPass_hasRun (k : Core) (o : ArrayOp) : k.HasRun o 0 (k.beginPass o) := by
  obtain ⟨f, hf⟩ := k.beginPass_cases o
  rw [hf]
  exact ⟨rfl, rfl, rfl⟩

/-- What the next group of an operation makes of its pass (R118). -/
def Core.nextPass (k : Core) (r : ArrayOp) : Pass :=
  let f := r.op.formats (ftEntry r.ft r.curEntry)
  let place := (groupPlaces k r.curSlot r.op.bk r.op.kg f.2).getD r.next (0, 0)
  Pass.group (bitsOf r.mbud.toNat 48 5) r.partialPass (k.groupA f.1 r.curRow r.op.kg r.next) ((k.wslot place.1).columns f.2 place.2)

/-- A group whose rows are sound is summed, and what ends the pass leaves the sums alone (R130, R144). -/
theorem Core.runGroup_of_sound {k : Core} {r : ArrayOp} (h : (r.nextRows.any fun m => k.badBits m != 0) = false) :
    (k.runGroup r).operands = r.operands ∧ (k.runGroup r).next = r.next + 1 ∧
      (k.runGroup r).partialPass = { k.nextPass r with acc := cut 32 1024 (ofPatterns (k.nextPass r).acc).toNat } := by
  unfold Core.runGroup
  rw [h, if_neg Bool.false_ne_true]
  dsimp only
  split
  · exact ⟨ArrayOp.endPass_operands _, ArrayOp.endPass_next _, ArrayOp.endPass_partialPass _⟩
  · exact ⟨rfl, rfl, rfl⟩

/-- One group more (R118): its rows are sound, and what it gives is the next step of the pass. -/
theorem Core.HasRun.succ {k : Core} {o r : ArrayOp} {n : Nat} (h : k.HasRun o n r) (hn : n < o.op.kg)
    (hrows : ∀ m ∈ o.rowsA (o.op.formats (ftEntry o.ft o.curEntry)).1, k.badBits m = 0) : k.HasRun o (n + 1) (k.runGroup r) := by
  obtain ⟨hops, hnext, hpass⟩ := h
  have hsame := hops
  simp only [ArrayOp.operands, Prod.mk.injEq] at hsame
  obtain ⟨hop, hft, hmb, hce, hcr, hcs⟩ := hsame
  have hsound : (r.nextRows.any fun m => k.badBits m != 0) = false := by
    rw [List.any_eq_false]
    intro m hm
    rw [ArrayOp.nextRows, hop, hft, hce, hcr, hnext] at hm
    simp [hrows m (List.mem_flatMap.mpr ⟨n, List.mem_range.mpr hn, hm⟩)]
  have hplace : ∀ f, (groupPlaces k o.curSlot o.op.bk o.op.kg f).getD n (0, 0) = groupPlace k o.curSlot o.op.bk f n := fun f => by
    simp [groupPlaces, groupPlace, hn]
  have hgroup : k.nextPass r = k.passOf o (n + 1) := by
    simp only [Core.nextPass, hop, hft, hmb, hce, hcr, hcs, hnext, hpass, hplace]
    exact (k.passTo_succ ..).symm
  obtain ⟨hops', hnext', hpass'⟩ := Core.runGroup_of_sound hsound
  refine ⟨hops'.trans hops, by rw [hnext', hnext], ?_⟩
  rw [hpass', hgroup, Pass.Fits.cut_ofPatterns (p := k.passOf o (n + 1)) (k.passTo_fits ..)]

/-- The groups of a product one after another give its pass (R118, R130). -/
theorem Core.runGroup_iterate_res (k : Core) (o : ArrayOp)
    (hrows : ∀ m ∈ o.rowsA (o.op.formats (ftEntry o.ft o.curEntry)).1, k.badBits m = 0) :
    (k.runGroup^[o.op.kg] (k.beginPass o)).res =
      let f := o.op.formats (ftEntry o.ft o.curEntry)
      ofPatterns (k.pass (bitsOf o.mbud.toNat 48 5) f.1 f.2 o.curRow o.curSlot o.op.bk o.op.kg (if o.op.zeroAcc then 0 else o.snap)).acc := by
  have hrun : ∀ n ≤ o.op.kg, k.HasRun o n (k.runGroup^[n] (k.beginPass o)) := fun n => by
    induction n with
    | zero => exact fun _ => k.beginPass_hasRun o
    | succ n ih =>
      intro hn
      rw [Function.iterate_succ_apply']
      exact (ih (by omega)).succ (by omega) hrows
  calc (k.runGroup^[o.op.kg] (k.beginPass o)).res = ofPatterns (k.runGroup^[o.op.kg] (k.beginPass o)).partialPass.acc := (ofPatterns_cut _).symm
    _ = ofPatterns (k.passOf o o.op.kg).acc := by rw [(hrun _ le_rfl).pass]
    _ = _ := congrArg (fun p => ofPatterns p.acc) (k.pass_eq_passTo ..).symm

end Sys2Proof.Machine
end

section
/-! SUPPORT and O39. CLKDIV's changes, and the start, escalation and end of array operations (R118, R126, R130, R144, R260, R261, R387). -/

namespace Sys2Proof.Machine

/-! ### Divisors -/

theorem Tile.repair_core (x : Tile) (b now : Nat) : (x.repair b now).core = x.core := by
  unfold Tile.repair
  split <;> rfl

/-- The change of an issue cycle, where no other is due (R260). -/
theorem exec_clkdivApply_one {t : Nat} {s : State} {d : DivChange} {rest : List DivChange} (hd : (s.tile t).core.divs = d :: rest)
    (hnow : d.at_ ≤ (s.tile t).core.isscnt.toNat) (hrest : ∀ e ∈ rest, (s.tile t).core.isscnt.toNat < e.at_) :
    ∃ u, exec (.clkdivApply t) s = .next u ∧ Elsewhere s t u ∧ (u.tile t).core = { (s.tile t).core.applyDivs d with divs := rest } := by
  have hnow' : d.at_ ≤ (s.tile t).core.cycle := hnow
  have hrest' : ∀ e ∈ rest, (s.tile t).core.cycle < e.at_ := hrest
  have hany : ((s.tile t).core.divs.any fun e => e.at_ ≤ (s.tile t).core.cycle) = true := by
    rw [hd, List.any_cons, decide_eq_true hnow', Bool.true_or]
  have hdue : (s.tile t).core.divs.filter (fun e => e.at_ ≤ (s.tile t).core.cycle) = [d] := by
    rw [hd, List.filter_cons_of_pos (by simpa using hnow'), List.filter_eq_nil_iff.mpr fun e he => by
      simpa using hrest' e he]
  have hlate : (s.tile t).core.divs.filter (fun e => (s.tile t).core.cycle < e.at_) = rest := by
    rw [hd, List.filter_cons_of_neg (by simpa using hnow'), List.filter_eq_self.mpr fun e he =>
      decide_eq_true (hrest' e he)]
  refine ⟨_, congrArg Host.Outcome.next (if_pos hany), (s.updCore_elsewhere t _).trans (State.updTile_elsewhere ..), ?_⟩
  rw [State.updTile_tile, Tile.repair_core, State.updCore_core, hdue, hlate]
  rfl

/-! ### The start of an operation -/

theorem Core.nextOp_eq_some {k : Core} {pre rest : List ArrayOp} {o : ArrayOp} (hq : k.aq = pre ++ o :: rest)
    (hpre : ∀ e ∈ pre, e.started = true ∧ e.again = false ∧ e.actEnd ≤ k.arrClk) (ho : o.started = false)
    (hrest : ∀ e ∈ rest, e.started = false) : k.nextOp = some o := by
  have hfind : k.aq.find? (fun e => !e.started) = some o := by
    rw [hq, List.find?_append, List.find?_eq_none.mpr fun e he => by simp [(hpre e he).1], Option.none_or, List.find?_cons_of_pos (by simp [ho])]
  have hidle : k.aq.any (fun e => e.started && (e.again || k.arrClk < e.actEnd)) = false := by
    rw [List.any_eq_false, hq]
    intro e he
    rcases List.mem_append.mp he with he | he
    · obtain ⟨-, hagain, hend⟩ := hpre e he
      simp [hagain, hend]
    · rcases List.mem_cons.mp he with rfl | he
      · simp [ho]
      · simp [hrest e he]
  rw [Core.nextOp, hfind]
  dsimp only
  rw [hidle]
  rfl

/-- An operation `q` of the queue as its phase starts with the durations of `o`: it ends and falls due by the divisors of its issue, and takes its
accumulator as the queue delivers it (R126). -/
def Core.startFrom (k : Core) (o : ArrayOp) (start : Nat) (q : ArrayOp) : ArrayOp :=
  { q with
    started := true
    actStart := start
    actEnd := start + o.span o.phase
    actDue := start + o.span (o.phase + 12)
    snap := k.delivered o ((o.op.accs.head?).getD 0) }

/-- The operation as its phase has begun and its work is done or its first pass begun (R118, R137). -/
def Core.startOp (k : Core) (o : ArrayOp) : ArrayOp := k.runOp (k.startFrom o (max o.actStart k.actEnd) o)

/-- The whole work of an operation changes its sums, flags and counts, and what its passes say of themselves. -/
theorem Core.runOp_cases (k : Core) (o : ArrayOp) : ∃ res flags next ps pu pc again fault, k.runOp o =
    { o with res := res, flags := flags, next := next, ps := ps, pu := pu, pc := pc, again := again, fault := fault } := by
  unfold Core.runOp
  split
  iterate 3 exact ⟨_, _, _, _, _, _, _, _, rfl⟩
  obtain ⟨f, hf⟩ := k.beginPass_cases o
  exact ⟨_, _, _, _, _, _, _, _, hf⟩

theorem Core.runOp_actEnd (k : Core) (o : ArrayOp) : (k.runOp o).actEnd = o.actEnd := by
  obtain ⟨res, flags, next, ps, pu, pc, again, fault, h⟩ := k.runOp_cases o
  rw [h]

/-- A change of a tile's core depends on what it makes of that core alone. -/
theorem State.updCore_congr {s : State} {t : Nat} {f g : Core → Core} (h : f (s.tile t).core = g (s.tile t).core) : s.updCore t f = s.updCore t g := by
  rw [State.updCore, State.updCore, State.updTile, State.updTile, h]

/-- The oldest waiting operation starts, where neither a load nor the array keeps it (R126, R129). -/
theorem exec_arrayPhaseStart_starts {t : Nat} {s : State} {o : ArrayOp} (hn : (s.tile t).core.nextOp = some o) (hk : o.kept = false)
    (ht : max o.actStart (s.tile t).core.actEnd ≤ (s.tile t).core.arrClk) (hl : (s.tile t).core.loadPending o.id (o.slots (s.tile t).core) = false)
    (hnom : o.nomStart ≤ (s.tile t).core.cycle) (hf : (s.tile t).core.aq.find? (fun e => e.id == o.id) = some o) :
    let s' := s.updCore t fun k => k.startNominal o
    let r := (s.tile t).core.startOp o
    (s'.tile t).core = (s.tile t).core ∧
      exec (.arrayPhaseStart t) s = .next ((s'.updCore t fun k => { k.setOp r with actEnd := r.actEnd }).reportFault t) := by
  intro s' r
  have hcore : (s'.tile t).core = (s.tile t).core := (State.updCore_core ..).trans (if_neg (Nat.not_lt.mpr hnom))
  have hget : ((s'.tile t).core.aq.find? fun e => e.id == o.id).getD o = o := by rw [hcore, hf]; rfl
  have hstart : (if o.kept = true then o.actStart else max o.actStart (s.tile t).core.actEnd) = max o.actStart (s.tile t).core.actEnd :=
    if_neg (by rw [hk]; decide)
  have hend : r.actEnd = ((s.tile t).core.startFrom o (max o.actStart (s.tile t).core.actEnd) o).actEnd := Core.runOp_actEnd ..
  refine ⟨hcore, congrArg Host.Outcome.next ?_⟩
  rw [hn]
  refine (if_neg (by rw [hstart]; exact Nat.not_lt.mpr ht)).trans ((if_neg (by rw [hk]; decide)).trans ((if_neg (by rw [hl]; decide)).trans ?_))
  refine (congrArg₂ (fun n q => (s'.updCore t fun k => { k.setOp (k.runOp ((s.tile t).core.startFrom o n q)) with
    actEnd := ((s.tile t).core.startFrom o n q).actEnd }).reportFault t) hstart hget).trans (congrArg (State.reportFault · t) (State.updCore_congr ?_))
  rw [hcore, hend]
  rfl

theorem Core.delivered_of_none_earlier {k : Core} {o : ArrayOp} {a : Nat} (h : ∀ e ∈ k.aq, e.id < o.id → a ∉ e.op.accs) :
    k.delivered o a = k.acc a := by
  have hnil : k.aq.filter (fun e => e.id < o.id && e.op.accs.contains a && !e.stale.contains a && e.fault.isNone) = [] := by
    rw [List.filter_eq_nil_iff]
    intro e he
    by_cases hid : e.id < o.id
    · simp [h e he hid]
    · simp [hid]
  rw [Core.delivered, hnil]
  rfl

/-- The bits of an accumulator of which one pair of rows has been replaced (R137). -/
theorem testBit_replaceRow {old data q j : Nat} (hd : data < 2 ^ 2048) :
    (old % 2 ^ (2048 * q) + 2 ^ (2048 * q) * (data + 2 ^ 2048 * (old / 2 ^ (2048 * (q + 1))))).testBit j =
      if 2048 * q ≤ j ∧ j < 2048 * (q + 1) then data.testBit (j - 2048 * q) else old.testBit j := by
  rw [Nat.add_comm, Nat.testBit_two_pow_mul_add _ (Nat.mod_lt _ (Nat.two_pow_pos _)), Nat.add_comm data, Nat.testBit_two_pow_mul_add _ hd,
    Nat.testBit_div_two_pow, Nat.testBit_mod_two_pow]
  by_cases hlo : j < 2048 * q
  · rw [if_pos hlo, if_neg (by omega), decide_eq_true hlo, Bool.true_and]
  · by_cases hhi : j < 2048 * (q + 1)
    · rw [if_neg hlo, if_pos (by omega), if_pos (by omega)]
    · rw [if_neg hlo, if_neg (by omega), if_neg (by omega)]
      congr 1
      omega

/-- What an operation is once its phase has started (R118, R126, R137). -/
structure Core.Started (k : Core) (o r : ArrayOp) : Prop where
  started : r.started = true
  start : r.actStart = max o.actStart k.actEnd
  ends : r.actEnd = r.actStart + max 1 (ceilDiv (o.phase * o.dm) o.dc)
  due : r.actDue = r.actStart + max 1 (ceilDiv ((o.phase + 12) * o.dm) o.dc)
  snap : ∀ a, o.op.accs.head? = some a → (∀ e ∈ k.aq, e.id < o.id → a ∉ e.op.accs) → r.snap = k.acc a
  accz : ∀ sp m, o.op = .accz sp m → r.res = 0
  accwr : ∀ sp a x q, o.op = .accwr sp a x q → ∀ j < 32768, r.res.getLsbD j =
    if 2048 * q.toNat ≤ j ∧ j < 2048 * (q.toNat + 1) then o.data.getLsbD (j - 2048 * q.toNat) else r.snap.getLsbD j

theorem Core.startOp_started (k : Core) (o : ArrayOp) : k.Started o (k.startOp o) := by
  obtain ⟨res, flags, next, ps, pu, pc, again, fault, h⟩ := k.runOp_cases (k.startFrom o (max o.actStart k.actEnd) o)
  have hs : (k.startOp o).snap = k.delivered o ((o.op.accs.head?).getD 0) := congrArg ArrayOp.snap h
  refine ⟨congrArg ArrayOp.started h, congrArg ArrayOp.actStart h, ?_, ?_, fun a ha hq => ?_, fun sp m hop => ?_, fun sp a x q hop j hj => ?_⟩
  · rw [Core.startOp, h]; rfl
  · rw [Core.startOp, h]; rfl
  · rw [hs, ha]
    exact Core.delivered_of_none_earlier hq
  · rw [Core.startOp, Core.runOp, show (k.startFrom o (max o.actStart k.actEnd) o).op = .accz sp m from hop]
  · rw [hs, Core.startOp, Core.runOp, show (k.startFrom o (max o.actStart k.actEnd) o).op = .accwr sp a x q from hop]
    dsimp only
    rw [BitVec.getLsbD_ofNat, decide_eq_true hj, Bool.true_and, testBit_replaceRow (BitVec.isLt _)]
    rfl

theorem Core.Started.same {k : Core} {o r r' : ArrayOp} (h : k.Started o r) (hr : r.Same r') : k.Started o r' := by
  rcases hr with rfl | rfl
  · exact h
  · exact ⟨h.started, h.start, h.ends, h.due, h.snap, h.accz, h.accwr⟩

theorem Core.startOp_id (k : Core) (o : ArrayOp) : (k.startOp o).id = o.id := by
  obtain ⟨res, flags, next, ps, pu, pc, again, fault, h⟩ := k.runOp_cases (k.startFrom o (max o.actStart k.actEnd) o)
  rw [Core.startOp, h]
  rfl

/-! ### Escalation -/

/-- The pass that follows a discarded one of an MMAE (R144): the next entry, the row that its delta gives and its slot. -/
def Core.nextEntry (k : Core) (o : ArrayOp) : ArrayOp :=
  k.beginPass { o with
    curEntry := ftNext (ftEntry o.ft o.curEntry)
    curRow := ((o.curRow + ftDelta (ftEntry o.ft o.curEntry)) % 1024).toNat
    curSlot := ftSlot (ftEntry o.ft o.curEntry)
    used := o.used ++ [ftNext (ftEntry o.ft o.curEntry)]
    esc := o.esc + 1
    before := o.phase }

/-- The operation with that pass before it: its phase is longer by the cycles of the pass, unless its operands fail (R144, R146; log 59). -/
def Core.escalate (k : Core) (o : ArrayOp) : ArrayOp :=
  let r := k.nextEntry o
  let f := r.op.formats (ftEntry r.ft (ftNext (ftEntry o.ft o.curEntry)))
  if r.fault.isSome then r
  else
    { r with
      phase := r.phase + r.op.kg * opCpg f.1 f.2
      actEnd := r.actStart + r.span (r.phase + r.op.kg * opCpg f.1 f.2)
      actDue := r.actStart + r.span (r.phase + r.op.kg * opCpg f.1 f.2 + 12) }

theorem exec_mmaeEscalation_again {t : Nat} {s : State} {o : ArrayOp}
    (h : (s.tile t).core.aq.find? (fun o => o.started && o.again && o.actEnd ≤ (s.tile t).core.arrClk) = some o) :
    let r := (s.tile t).core.escalate o
    exec (.mmaeEscalation t) s = .next ((s.updCore t fun k => { k.setOp r with actEnd := r.actEnd }).reportFault t) := by
  refine congrArg Host.Outcome.next ?_
  rw [h]
  rfl

/-- What an operation is once its next pass has begun (R144). -/
structure ArrayOp.Escalated (o r : ArrayOp) : Prop where
  entry : r.curEntry = ftNext (ftEntry o.ft o.curEntry)
  row : r.curRow = ((o.curRow + ftDelta (ftEntry o.ft o.curEntry)) % 1024).toNat
  slot : r.curSlot = ftSlot (ftEntry o.ft o.curEntry)
  used : r.used = o.used ++ [r.curEntry]
  esc : r.esc = o.esc + 1
  phase : r.fault = none →
    let f := o.op.formats (ftEntry o.ft r.curEntry)
    r.phase = o.phase + o.op.kg * opCpg f.1 f.2 ∧ r.actEnd = o.actStart + max 1 (ceilDiv (r.phase * o.dm) o.dc)

theorem Core.escalate_escalated (k : Core) (o : ArrayOp) : o.Escalated (k.escalate o) := by
  obtain ⟨f, h⟩ := k.beginPass_cases { o with
    curEntry := ftNext (ftEntry o.ft o.curEntry)
    curRow := ((o.curRow + ftDelta (ftEntry o.ft o.curEntry)) % 1024).toNat
    curSlot := ftSlot (ftEntry o.ft o.curEntry)
    used := o.used ++ [ftNext (ftEntry o.ft o.curEntry)]
    esc := o.esc + 1
    before := o.phase }
  unfold Core.escalate Core.nextEntry
  rw [h]
  cases f with
  | none => exact ⟨rfl, rfl, rfl, rfl, rfl, fun _ => ⟨rfl, rfl⟩⟩
  | some n => exact ⟨rfl, rfl, rfl, rfl, rfl, fun hf => nomatch hf⟩

theorem ArrayOp.Escalated.same {o r r' : ArrayOp} (h : o.Escalated r) (hr : r.Same r') : o.Escalated r' := by
  rcases hr with rfl | rfl
  · exact h
  · exact ⟨h.entry, h.row, h.slot, h.used, h.esc, h.phase⟩

theorem Core.escalate_id (k : Core) (o : ArrayOp) : (k.escalate o).id = o.id := by
  have h : (k.nextEntry o).id = o.id := (congrArg ArrayOp.id (k.beginPass_cases _).choose_spec :)
  unfold Core.escalate
  dsimp only
  split <;> exact h

theorem ArrayOp.Same.actEnd {r r' : ArrayOp} (h : r.Same r') : r'.actEnd = r.actEnd := by rcases h with rfl | rfl <;> rfl

/-! ### The end of an operation -/

theorem foldl_enter_acc_core (o : ArrayOp) (l : List Nat) (x : Tile) :
    (l.foldl (fun x a => (x.soil (.acc a)).enter (accNumber a) (crcOf 4096 o.res.toNat)) x).core = x.core := by
  induction l generalizing x with
  | nil => rfl
  | cons a l ih => exact ih _

theorem Tile.enterOp_core (x : Tile) (o : ArrayOp) : (x.enterOp o).core = x.core := by
  unfold Tile.enterOp
  dsimp only
  split <;> exact foldl_enter_acc_core ..

theorem sget_foldl_sput {α : Type} (d v : α) (l : List Nat) (m : Sparse α) (n : Nat) :
    sget d (l.foldl (fun m a => sput a v m) m) n = if n ∈ l then v else sget d m n := by
  induction l generalizing m with
  | nil => rfl
  | cons a l ih =>
    rw [List.foldl_cons, ih, sget_sput]
    by_cases hl : n ∈ l <;> by_cases ha : n = a <;> simp [hl, ha]

/-- The tile that an operation falls due in: the write is entered, the operation leaves the queue, and one of the region's start is noted (R126, R335). -/
def Tile.landOp (o : ArrayOp) (x : Tile) : Tile :=
  let x := x.enterOp o
  { x with
    core := { x.core.popOp o with accs := o.writes.foldl (fun m a => sput a o.res m) x.core.accs }
    region := { x.region with fallen := if x.region.start.aq.any fun e => e.id == o.id then x.region.fallen ++ [o] else x.region.fallen } }

/-- What an operation raises as it falls due, ESCX among it where its entries are exhausted (R144). -/
def ArrayOp.raises (o : ArrayOp) : BitVec 6 := if o.exhausted then o.flags ||| flESCX else o.flags

theorem ArrayOp.getLsbD_raises (o : ArrayOp) {j : Nat} (hj : j < 6) : o.raises.getLsbD j = (o.flags.getLsbD j || (o.exhausted && j == 5)) := by
  have h5 : flESCX.getLsbD j = (j == 5) := by
    have : ∀ j < 6, flESCX.getLsbD j = (j == 5) := by decide
    exact this j hj
  unfold ArrayOp.raises
  cases o.exhausted
  · simp
  · simp [h5]

/-- What falls due writes its accumulators, raises its flags, counts, and leaves the queue (R126, R144). -/
theorem exec_arrayOperationDue_due {t : Nat} {s : State} {o : ArrayOp} (h : (s.tile t).core.aq.find? (s.tile t).core.opDue = some o)
    (hf : o.fault = none) :
    let k := (s.tile t).core
    ∃ u, exec (.arrayOperationDue t) s = .next u ∧ Elsewhere s t u ∧ (u.tile t).core =
      (({ k.popOp o with accs := o.writes.foldl (fun m a => sput a o.res m) k.accs } : Core).updCtx o.hw fun c =>
        { c with raised := c.raised ||| o.raises }).addCounts o := by
  have hex : exec (.arrayOperationDue t) s =
      .next (((s.updTile t (Tile.landOp o)).updCtx t o.hw fun c => { c with raised := c.raised ||| o.raises }).applyCounts t o) := by
    refine congrArg Host.Outcome.next ?_
    rw [h]
    exact if_neg (by rw [hf]; decide)
  refine ⟨_, hex, ((s.updTile_elsewhere t _).trans (State.updCtx_elsewhere ..)).trans (State.applyCounts_elsewhere ..), ?_⟩
  rw [State.applyCounts_core, State.updCtx, State.updCore_core, State.updTile_tile, Tile.landOp, Tile.enterOp_core]

theorem Core.popOp_aq (k : Core) {o : ArrayOp} (hf : o.fault = none) : (k.popOp o).aq =
    (k.aq.filter fun e => e.id != o.id).map fun e => if e.id < o.id then { e with stale := e.stale ++ o.op.accs } else e := by
  simp [Core.popOp, hf]

theorem ArrayOp.mem_writes {o : ArrayOp} (hf : o.fault = none) (n : Nat) : n ∈ o.writes ↔ n ∈ o.op.accs ∧ n ∉ o.stale := by
  simp [ArrayOp.writes, hf]

/-- Settles O39: divisors, the start, the groups, the next pass and the end of an operation, one event after another. -/
theorem divisorsAndTheArrayQueueAdvance : Obligations.DivisorsAndTheArrayQueueAdvance := by
  intro t s k new
  refine ⟨fun d rest => exec_clkdivApply_one, fun pre o rest hq hpre ho hrest hfault hk hr hnom hl ht => ?_, fun o fa fb _ hf _ hrows => ?_,
    fun o ho hfault => ?_, fun o ho hf => ?_⟩
  · have hfind : k.aq.find? (fun e => e.id == o.id) = some o := by
      rw [hq, List.find?_append, List.find?_eq_none.mpr fun e he => by simp [(hfault e he).1], Option.none_or, List.find?_cons_of_pos (by simp)]
    obtain ⟨hcore, hex⟩ := exec_arrayPhaseStart_starts (Core.nextOp_eq_some hq hpre ho hrest) hk ht hl hnom hfind
    have hid := k.startOp_id o
    have hothers : ∀ e ∈ k.aq, e.id ≠ (k.startOp o).id → e.started = false ∨ e.fault = none ∨ e.reported = true := by
      intro e he hne
      rw [hq] at he
      rcases List.mem_append.mp he with he | he
      · exact .inr (hfault e he).2
      · rcases List.mem_cons.mp he with rfl | he
        · exact absurd hid.symm hne
        · exact .inl (hrest e he)
    obtain ⟨hel, r, hsame, haq, haccs, hend⟩ := State.reportFault_setOp (t := t) (r := k.startOp o) rfl (by rw [hcore]; exact hothers)
    obtain ⟨hst, hstart, hends, hdue, hsnap, hz, hw⟩ := (k.startOp_started o).same hsame
    rw [hcore] at haq haccs
    rw [hid] at haq
    exact ⟨_, r, hex, (s.updCore_elsewhere t _).trans hel, haccs, haq, hst, hstart, hends, hdue, hend.trans hsame.actEnd.symm, hsnap, hz, hw⟩
  · have hrun := k.runGroup_iterate_res o
    rw [hf] at hrun
    exact hrun hrows
  · have hid := k.escalate_id o
    obtain ⟨hel, r, hsame, haq, haccs, hend⟩ := State.reportFault_setOp (s := s) (r := k.escalate o) rfl fun e he _ => .inr (hfault e he)
    obtain ⟨hentry, hrow, hslot, hused, hesc, hphase⟩ := (k.escalate_escalated o).same hsame
    rw [hid] at haq
    exact ⟨_, r, exec_mmaeEscalation_again ho, hel, haccs, haq, hentry, hrow, hslot, hused, hesc, hphase⟩
  · obtain ⟨u, hex, hel, hu⟩ := exec_arrayOperationDue_due ho hf
    refine ⟨u, hex, hel, ?_⟩
    have hctx : (u.tile t).core.ctx o.hw = { k.ctx o.hw with raised := (k.ctx o.hw).raised ||| o.raises } := by
      rw [hu, Core.addCounts_ctx]
      exact Core.updCtx_ctx ..
    dsimp only
    rw [hctx]
    rw [hu]
    refine ⟨Core.popOp_aq _ hf, fun n hn => ?_, rfl, rfl, rfl, rfl, fun j hj => ?_, rfl⟩
    · refine (sget_foldl_sput 0 o.res o.writes k.accs (n % 4)).trans ?_
      rw [Nat.mod_eq_of_lt hn, Core.acc, Nat.mod_eq_of_lt hn]
      exact if_congr (ArrayOp.mem_writes hf n) rfl rfl
    · rw [BitVec.getLsbD_or, o.getLsbD_raises hj, Bool.or_assoc]

end Sys2Proof.Machine
end

section
/-! SUPPORT. What reaches a tile that hears: the completion of a command and a row written from outside (R129, R156, R180, R183, R333). -/

namespace Sys2Proof.Machine

/-! ### Inputs -/

/-- A change of its core leaves a tile hearing, but for the issue cycle. -/
theorem Hears.of_tile {s u : State} {t : Nat} {c : Core} (h : Hears s t) (hu : u.tile t = { s.tile t with core := c })
    (hc : c.isscnt = (s.tile t).core.isscnt) : Hears u t := by
  obtain ⟨hlive, hserves, hfirst, hawake⟩ := h
  refine ⟨hu ▸ hlive, hu ▸ hserves, ?_, hu ▸ hawake⟩
  rw [Tile.reruns, Core.cycle] at hfirst ⊢
  rw [hu]
  dsimp only
  rwa [hc]

theorem State.input_elsewhere (s : State) (t : Nat) (i : Input) : Elsewhere s t (s.input t i) := by
  unfold State.input
  split
  · exact .refl s t
  · exact (s.updTile_elsewhere t _).trans (State.updTile_elsewhere ..)

/-- An input takes effect at once in a tile that hears. -/
theorem State.input_core_of_hears {s : State} {t : Nat} (h : Hears s t) (i : Input) :
    ((s.input t i).tile t).core = (((s.tile t).note i).applyInput i).core := by
  have hwake : (s.wake t).tile t = s.tile t := by
    rw [State.wake, State.updTile_tile, if_pos h.live]
  rw [State.input, h.serves, if_neg Bool.false_ne_true, State.updTile_tile, hwake, Tile.soilFrom_core, Tile.input, h.first, h.awake]
  rfl

/-! ### Completions -/

theorem getLsbD_tagBit_mod (g k : Nat) : (tagBit g).getLsbD k = decide (k = g % 128) := by
  rw [← getLsbD_tagBit (Nat.mod_lt g (by decide)), tagBit, tagBit, Nat.mod_mod]

theorem Core.tagDone_tagDone (k : Core) (tag : Option Nat) (failed : Bool) : TagDone k (k.tagDone tag failed) tag failed := by
  cases tag with
  | none => exact ⟨nofun, fun j _ => ⟨rfl, rfl⟩⟩
  | some g =>
    have htb (j : Nat) : (k.tagDone (some g) failed).tb.getLsbD j = (k.tb.getLsbD j || (sget 0 k.cnt g ≤ 1 && decide (j = g % 128))) := by
      by_cases hn : sget 0 k.cnt g ≤ 1
      · simp [Core.tagDone, hn, getLsbD_tagBit_mod]
      · simp [Core.tagDone, hn, show ¬ sget 0 k.cnt g - 1 = 0 by omega]
    have hte (j : Nat) : (k.tagDone (some g) failed).te.getLsbD j = (k.te.getLsbD j || (failed && decide (j = g % 128))) := by
      cases failed
      · simp [Core.tagDone]
      · simp [Core.tagDone, getLsbD_tagBit_mod]
    refine ⟨fun _ hg => ?_, fun j hj => ?_⟩
    · cases hg
      exact ⟨sget_sput_same .., by simp [htb], by simp [hte]⟩
    · have hne := hj g rfl
      exact ⟨by simp [htb, hne], by simp [hte, hne]⟩

/-- The error that a failed command without a tag leaves its context (R185). -/
def commandErrs (op : Instr) (err : Option (BitVec 32)) (ix : BitVec 32) : List Err :=
  match err, tagOf op with
  | some w, none => [copyError op w ix]
  | _, _ => []

/-- The context of a command that has completed (R129, R182, R185). -/
def Ctx.hearsDone (copy : Bool) (flags : BitVec 6) (es : List Err) (c : Ctx) : Ctx :=
  { c with
    ocp := if copy then c.ocp - 1 else c.ocp
    omx := if copy then c.omx else c.omx - 1
    fcr := fcrRaise c.fcr flags
    errs := c.errs ++ es }

/-- The completion of a command in a tile that hears: its tag and its context take it, and no engine's list changes. -/
theorem State.commandDone_of_hears {s : State} {t : Nat} (hs : Hears s t) (h : Nat) (copy : Bool) (op : Instr) (err : Option (BitVec 32))
    (ix : BitVec 32) (flags : BitVec 6) :
    let k := (s.tile t).core
    let k' := ((s.commandDone t h copy op err ix flags).tile t).core
    k'.mcmds = k.mcmds ∧ k'.copies = k.copies ∧ TagDone k k' (tagOf op) err.isSome ∧
      k'.ctx h = (k.ctx h).hearsDone copy flags (commandErrs op err ix) := by
  intro k k'
  have hk : ∃ trap, k' = k.commandDone h copy (tagOf op) err.isSome trap flags ∧ trap.toList = commandErrs op err ix := by
    refine ⟨_, State.input_core_of_hears hs _, ?_⟩
    unfold commandErrs
    cases err <;> cases tagOf op <;> rfl
  obtain ⟨trap, hk, htrap⟩ := hk
  have hctx : (k.tagDone (tagOf op) err.isSome).ctx h = k.ctx h := congrArg (sget Ctx.reset · h) (Core.tagDone_ctxs ..)
  rw [hk, Core.commandDone]
  refine ⟨?_, ?_, k.tagDone_tagDone .., ?_⟩
  · cases tagOf op <;> rfl
  · cases tagOf op <;> rfl
  · rw [Core.updCtx_ctx, hctx, ← htrap, Ctx.hearsDone]
    cases trap
    · simp
    · rfl

/-! ### Rows from outside -/

theorem Tile.applyInput_row_core (x : Tile) (n : Nat) (v : Row) (fe : Bool) : (x.applyInput (.row n v fe)).core =
    { x.core with
      rows := sput (n % 1024) v x.core.rows
      fe := sput (n % 1024) (if fe then BitVec.allOnes 32 else x.core.feBits n) x.core.fe
      bad := sput (n % 1024) (x.core.badBits n &&& ~~~BitVec.allOnes 32) x.core.bad } := by
  simp [Tile.applyInput, Tile.writeRow, Core.badBits]

/-- A row has landed in a core: it holds its data, full or as it was, and no bad word; every other row and every context is as before (R156, R183). -/
structure Core.RowLanded (k k' : Core) (row : Nat) (data : Row) (fe : Bool) : Prop where
  holds : k'.row row = data
  sound : k'.badBits row = 0
  full : k'.feBits row = if fe then -1 else k.feBits row
  others : ∀ n, n % 1024 ≠ row % 1024 → k'.row n = k.row n ∧ k'.feBits n = k.feBits n
  ctxs : k'.ctxs = k.ctxs

theorem State.landScratch_of_hears {s : State} {t : Nat} (h : Hears s t) (row : Nat) (data : Row) (fe : Bool) :
    (s.tile t).core.RowLanded ((s.landScratch t row data fe).tile t).core row data fe := by
  rw [State.landScratch, State.input_core_of_hears h, Tile.applyInput_row_core, Nat.mod_mod]
  refine ⟨sget_sput_same .., ?_, ?_, fun n hn => ⟨sget_sput_ne _ _ _ hn, sget_sput_ne _ _ _ hn⟩, rfl⟩
  · refine (sget_sput_same ..).trans ?_
    rw [BitVec.not_allOnes]
    exact BitVec.and_zero
  · refine (sget_sput_same ..).trans ?_
    cases fe
    · exact congrArg (sget 0 _) (Nat.mod_mod ..)
    · exact BitVec.neg_one_eq_allOnes.symm

end Sys2Proof.Machine
end

section
/-! SUPPORT and O40. The completion of engine commands, the start of copies and the landing of their rows (R129, R136, R138, R180, R184, R185). -/

namespace Sys2Proof.Machine

/-! ### Matrix commands -/

/-- A failed WBLD spoils its slot, and nothing else of the tile changes (R136). -/
theorem State.spoilSlot_cases (s : State) (t : Nat) (m : MatCmd) : Elsewhere s t (s.spoilSlot t m) ∧
    ∃ w, (s.spoilSlot t m).tile t = { s.tile t with core := { (s.tile t).core with wslots := w } } := by
  unfold State.spoilSlot
  split
  · exact ⟨s.updCore_elsewhere t _, _, State.updTile_tile ..⟩
  · exact ⟨.refl s t, _, rfl⟩

/-- A matrix command that has nothing left to do leaves its list, and completes (R129). -/
theorem exec_matrixCommandCompletion_done {t id : Nat} {s : State} {m : MatCmd} (hm : (s.tile t).core.mcmds.find? (fun m => m.id == id) = some m)
    (hd : m.deferred = false) (hmoved : m.total ≤ m.moved) (hrel : releases m.op = true → m.after.all s.settled = true)
    (htag : m.tagWrite = 2 ∨ m.tagWrite = 0 ∧ ∀ sp acc x off f rm tag tg tw sx rl sc, m.op = .accst sp acc x off f rm tag tg tw sx rl sc → tw = 0) :
    exec (.matrixCommandCompletion t id) s =
      .next (((s.spoilSlot t m).updCore t fun k => { k with mcmds := k.mcmds.filter fun e => e.id != id }).commandDone t m.hw false m.op m.err
        m.cmdix m.flags) := by
  refine congrArg Host.Outcome.next ?_
  rw [hm]
  refine (if_neg ?_).trans ((if_neg ?_).trans (if_neg ?_))
  · rintro (h | h | h)
    · exact absurd h (by rw [hd]; decide)
    · omega
    · cases hr : releases m.op
      · simp [hr] at h
      · simp [hrel hr] at h
  · rintro ⟨hasks, h0, -⟩
    rcases htag with h2 | ⟨-, hacc⟩
    · omega
    · split at hasks
      next hop => simp [hacc _ _ _ _ _ _ _ _ _ _ _ _ hop] at hasks
      · cases hasks
  · omega

/-! ### Copies -/

theorem State.failCopy_elsewhere (s : State) (t id w : Nat) : Elsewhere s t (s.failCopy t id w) :=
  (s.updFab_elsewhere t _).trans (State.updCore_elsewhere ..)

/-- A command with an error, unless it has one (R185). -/
def CopyCmd.failed (m : CopyCmd) (w : BitVec 32) : CopyCmd := if m.err = none then { m with err := some w } else m

theorem CopyCmd.failed_of_err_none {m : CopyCmd} (h : m.err = none) (w : BitVec 32) : m.failed w = { m with err := some w } := if_pos h

theorem State.failCopy_core (s : State) (t id w : Nat) : ((s.failCopy t id w).tile t).core =
    { (s.tile t).core with copies := (s.tile t).core.copies.map fun e =>
        if e.id = id ∧ e.err = none then { e with err := some (BitVec.ofNat 32 w) } else e } :=
  State.updCore_core ..

/-- A command put back into its list and failed there. -/
theorem State.failCopy_setCopy_core (s : State) (t w : Nat) (m : CopyCmd) :
    (((s.updCore t fun k => k.setCopy m).failCopy t m.id w).tile t).core =
      { (s.tile t).core with copies := (s.tile t).core.copies.map fun e => if e.id = m.id then m.failed (BitVec.ofNat 32 w) else e } := by
  rw [State.failCopy_core, State.updCore_core]
  refine congrArg (fun cs => { (s.tile t).core with copies := cs }) (List.map_map.trans (List.map_congr_left fun e _ => ?_))
  by_cases he : e.id = m.id <;> simp [CopyCmd.failed, he]

/-- What the start of a copy leaves: the command active with its targets, or at its end with an error (R178, R185). -/
def StartsCopy (s : State) (t : Nat) (i : Instr) (m : CopyCmd) : Prop :=
  let k := (s.tile t).core
  ∃ u r, exec i s = .next u ∧ Elsewhere s t u ∧ (u.tile t).core = { k with copies := k.copies.map fun e => if e.id = m.id then r else e } ∧
    (∀ ts, s.copyTargets t m = some ts → let m' := { m with state := .active, targets := ts }
      (s.copyCut t m' = false → r = m') ∧ (s.copyCut t m' = true → m.err = none → r = { m' with next := m.rows, err := some 5 })) ∧
    (s.copyTargets t m = none → m.err = none → r = { m with state := .active, next := m.rows, err := some 2 })

/-- A command with its targets, as it holds a place. -/
def CopyCmd.placed (m : CopyCmd) (ts : List Nat) : CopyCmd := { m with state := .active, targets := ts }

/-- A command that holds a place and has no row left to read. -/
def CopyCmd.ended (m : CopyCmd) : CopyCmd := { m with state := .active, next := m.rows }

theorem State.startCopy_of_no_targets {s : State} {t : Nat} {m : CopyCmd} (h : s.copyTargets t m = none) :
    s.startCopy t m = (s.updCore t fun k => k.setCopy m.ended).failCopy t m.ended.id 2 := by
  rw [State.startCopy, h]
  rfl

theorem State.startCopy_of_cut {s : State} {t : Nat} {m : CopyCmd} {ts : List Nat} (h : s.copyTargets t m = some ts)
    (hcut : s.copyCut t (m.placed ts) = true) : s.startCopy t m = (s.updCore t fun k => k.setCopy (m.placed ts).ended).failCopy t (m.placed ts).ended.id 5 := by
  rw [State.startCopy, h]
  exact if_pos hcut

theorem State.startCopy_of_reachable {s : State} {t : Nat} {m : CopyCmd} {ts : List Nat} (h : s.copyTargets t m = some ts)
    (hcut : s.copyCut t (m.placed ts) = false) : s.startCopy t m = s.updCore t fun k => k.setCopy (m.placed ts) := by
  rw [State.startCopy, h]
  exact if_neg (by rw [CopyCmd.placed] at hcut; rw [hcut]; decide)

theorem startsCopy_of_exec {s : State} {t : Nat} {i : Instr} {m : CopyCmd} (he : exec i s = .next (s.startCopy t m)) : StartsCopy s t i m := by
  have hfail (m : CopyCmd) (w : Nat) : Elsewhere s t ((s.updCore t fun k => k.setCopy m).failCopy t m.id w) :=
    (s.updCore_elsewhere t _).trans (State.failCopy_elsewhere ..)
  cases hts : s.copyTargets t m with
  | none =>
    rw [State.startCopy_of_no_targets hts] at he
    exact ⟨_, _, he, hfail .., s.failCopy_setCopy_core t 2 m.ended, fun _ h => absurd (hts.symm.trans h) nofun,
      fun _ herr => CopyCmd.failed_of_err_none (m := m.ended) herr 2⟩
  | some ts =>
    cases hcut : s.copyCut t (m.placed ts) with
    | false =>
      rw [State.startCopy_of_reachable hts hcut] at he
      refine ⟨_, _, he, s.updCore_elsewhere t _, State.updCore_core .., fun ts' h => ?_, fun h => absurd (hts.symm.trans h) nofun⟩
      obtain rfl : ts = ts' := Option.some.inj (hts.symm.trans h)
      exact ⟨fun _ => rfl, fun h => absurd (hcut.symm.trans h) (by decide)⟩
    | true =>
      rw [State.startCopy_of_cut hts hcut] at he
      refine ⟨_, _, he, hfail .., s.failCopy_setCopy_core t 5 (m.placed ts).ended, fun ts' h => ?_, fun h => absurd (hts.symm.trans h) nofun⟩
      obtain rfl : ts = ts' := Option.some.inj (hts.symm.trans h)
      exact ⟨fun h => absurd (hcut.symm.trans h) (by decide), fun _ herr => CopyCmd.failed_of_err_none (m := (m.placed ts).ended) herr 5⟩

theorem exec_copyCommandStart_free {t : Nat} {s : State} {m : CopyCmd} (hm : (s.tile t).core.copies.find? (fun m => m.state == .queued) = some m)
    (hplace : (s.tile t).core.activeCopies < 8) (hpre : (s.tile t).core.preempting = false) :
    exec (.copyCommandStart t) s = .next (s.startCopy t m) := by
  refine congrArg Host.Outcome.next ((if_neg (by rw [hpre]; decide)).trans ?_)
  rw [State.startQueued, hm]
  exact if_pos hplace

theorem exec_cpytStart_due {t id : Nat} {s : State} {m : CopyCmd}
    (hm : (s.tile t).core.copies.find? (fun m => m.id == id && m.state == .timed) = some m) (hplace : (s.tile t).core.activeCopies < 8)
    (hpre : (s.tile t).core.preempting = false) (htime : m.third.toNat ≤ s.ptc (dieOf t)) :
    exec (.cpytStart t id) s = .next (s.startCopy t m) := by
  refine congrArg Host.Outcome.next ?_
  rw [hm]
  exact if_pos ⟨hplace, by rw [hpre]; decide, htime⟩

/-- A copy that has nothing left to do leaves the engine, and completes (R184). -/
theorem exec_copyCompletion_done {t id : Nat} {s : State} {m : CopyCmd} (hm : (s.tile t).core.copies.find? (fun m => m.id == id) = some m)
    (hstate : m.state = .active ∨ m.state = .finishing) (hrows : m.err.isSome = true ∨ m.next = m.rows ∧ (m.signals = true ∨ m.add.2 = 0))
    (hopen : s.copyOpen id = false) (hrel : releases m.op = true → m.after.all s.settled = true)
    (htag : m.err.isSome = true ∨ m.tagWrite ≠ 0 ∨
      ∀ sp dir g x off n y tw tag tg aq rl sc fe, m.op = .cpy sp dir g x off n y tw tag tg aq rl sc fe → tw = 0)
    (hfirst : (s.tile t).reruns = false) :
    exec (.copyCompletion t id) s =
      .next ((s.updCore t fun k => { k with copies := k.copies.filter fun e => e.id != id }).commandDone t m.hw true m.op m.err m.cmdix 0) := by
  refine congrArg Host.Outcome.next ?_
  rw [hm]
  refine (if_neg ?_).trans (if_neg ?_)
  · have hready : (m.err.isSome || (m.next == m.rows && (m.signals || m.add.2 == 0))) = true := by simpa using hrows
    have hover : (!releases m.op || m.after.all s.settled) = true := by
      cases hr : releases m.op
      · rfl
      · exact hrel hr
    have hunder : (m.state == .active || m.state == .finishing) = true := by simpa using hstate
    rw [hready, hover, hunder, hopen, hfirst]
    decide
  · rintro ⟨hasks, h0, hok⟩
    rcases htag with h | h | hcpy
    · exact hok h
    · exact h h0
    · split at hasks
      next hop => simp [hcpy _ _ _ _ _ _ _ _ _ _ _ _ _ _ hop] at hasks
      · cases hasks

/-! ### Rows that land -/

theorem State.dropReq_gone (s : State) (id : Nat) : ∀ q ∈ (s.dropReq id).fab.reqs, q.id ≠ id := fun q hq => by
  have := (List.mem_filter.mp hq).2
  simpa using this

theorem State.performedAt_copyTo {s : State} {r : Req} {c t row : Nat} {fe : Bool} (hk : r.kind = .copyTo c t row fe) :
    s.performedAt r = if dieOf r.tile = dieOf t then s.dropReq r.id else s.updReq r.id fun x => { x with state := .performed } := by
  unfold State.performedAt Req.target
  rw [hk]

/-- A row that may not be written yet is tried again a tick later. -/
theorem State.landRow_later {s : State} {r : Req} {t row : Nat} (fe : Bool) (next : State → State) (h : s.mayLand t row (t != r.tile) = false) :
    s.landRow r t row fe next = s.after 1 (.copyRowLand r.id) := if_neg (by rw [h]; decide)

/-- What becomes of the request of a row that has landed: it stays out of the tiles, and is gone on the die it came from (R173). -/
structure RowFollowed (r : Req) (t : Nat) (next : State → State) : Prop where
  mem : ∀ u, (next u).mem = u.mem
  tiles : ∀ u, (next u).tiles = u.tiles
  gone : dieOf r.tile = dieOf t → ∀ u, ∀ q ∈ (next u).fab.reqs, q.id ≠ r.id

theorem RowFollowed.dropReq (r : Req) (t : Nat) : RowFollowed r t fun u => u.dropReq r.id :=
  ⟨fun _ => rfl, fun _ => rfl, fun _ u => u.dropReq_gone r.id⟩

theorem RowFollowed.performedAt {r : Req} {c t row : Nat} {fe : Bool} (hk : r.kind = .copyTo c t row fe) :
    RowFollowed r t fun u => u.performedAt r := by
  refine ⟨fun u => ?_, fun u => ?_, fun hdie u => ?_⟩ <;> rw [State.performedAt_copyTo hk]
  · split <;> rfl
  · split <;> rfl
  · rw [if_pos hdie]
    exact u.dropReq_gone r.id

/-- A row read for a live copy to its own tile lands there. -/
theorem exec_copyRowLand_copyIn {s : State} {id c row : Nat} {r : Req} {fe : Bool} {m : CopyCmd} (hr : s.req id = some r) (hk : r.kind = .copyIn c row fe)
    (hopen : r.state ≠ .performed) (hm : (s.tile r.tile).core.copies.find? (fun m => m.id == c) = some m) (hone : m.multicast = false) (herr : m.err = none) :
    exec (.copyRowLand id) s = .next (s.landRow r r.tile row fe fun u => u.dropReq id) := by
  refine congrArg Host.Outcome.next ?_
  rw [hr]
  dsimp only
  rw [hk]
  dsimp only
  rw [hm]
  exact (if_neg (by rw [herr]; decide)).trans ((if_neg hopen).trans (if_neg (by rw [hone]; decide)))

/-- A row that a copy writes to a tile lands there. -/
theorem exec_copyRowLand_copyTo {s : State} {id c t row : Nat} {r : Req} {fe : Bool} (hr : s.req id = some r) (hk : r.kind = .copyTo c t row fe) :
    exec (.copyRowLand id) s = .next (s.landRow r t row fe fun u => u.performedAt r) := by
  refine congrArg Host.Outcome.next ?_
  rw [hr]
  dsimp only
  rw [hk]

/-- A row that may be written lands; what follows it stays out of the tiles. -/
theorem State.landRow_lands {s : State} {r : Req} {t row : Nat} {fe : Bool} {next : State → State} (hs : Hears s t)
    (h : s.mayLand t row (t != r.tile) = true) (hnext : RowFollowed r t next) :
    let u := s.landRow r t row fe next
    Elsewhere s t u ∧ (s.tile t).core.RowLanded (u.tile t).core row r.data fe ∧ (dieOf r.tile = dieOf t → ∀ q ∈ u.fab.reqs, q.id ≠ r.id) := by
  rw [State.landRow, if_pos h]
  refine ⟨((s.input_elsewhere t _).trans (State.updCore_elsewhere ..)).trans (.of_tiles (hnext.mem _) (hnext.tiles _)), ?_,
    fun hdie => hnext.gone hdie _⟩
  rw [State.tile_core_of_tiles t (hnext.tiles _), State.updCore_core]
  exact { State.landScratch_of_hears hs row r.data fe with }

theorem fcrRaise_zero (fcr : BitVec 64) : fcrRaise fcr 0 = fcr := by
  simp [fcrRaise]

/-- Settles O40: each event is its last branch, a completion or a row reaches a tile that hears, and a start replaces one command. -/
theorem engineCommandsStartAndComplete : Obligations.EngineCommandsStartAndComplete := by
  intro t id s k report starts
  have hreport (op : Instr) (err : Option (BitVec 32)) (ix : BitVec 32) : report op err ix = commandErrs op err ix := by
    unfold commandErrs
    cases err with
    | none => rfl
    | some w => cases h : tagOf op <;> simp [report, h]
  refine ⟨fun m hm hd hmoved hrel htag hs => ?_, fun m hm hplace hpre => startsCopy_of_exec (exec_copyCommandStart_free hm hplace hpre),
    fun m hm hplace hpre htime => startsCopy_of_exec (exec_cpytStart_due hm hplace hpre htime),
    fun m hm hstate hrows hopen hrel htag hs => ?_, fun r row fe hr hs hkind => ?_⟩
  · obtain ⟨hel, w, hspoil⟩ := s.spoilSlot_cases t m
    have htile : ((s.spoilSlot t m).updCore t fun k => { k with mcmds := k.mcmds.filter fun e => e.id != id }).tile t =
        { s.tile t with core := { k with wslots := w, mcmds := k.mcmds.filter fun e => e.id != id } } := by
      rw [State.updCore, State.updTile_tile, hspoil]
    obtain ⟨hmcmds, -, htagged, hctx⟩ := State.commandDone_of_hears (hs.of_tile htile rfl) m.hw false m.op m.err m.cmdix m.flags
    rw [htile] at hmcmds htagged hctx
    refine ⟨_, exec_matrixCommandCompletion_done hm hd hmoved hrel htag, (hel.trans (State.updCore_elsewhere ..)).trans (State.input_elsewhere ..),
      hmcmds, htagged, ?_⟩
    rw [hreport]
    exact hctx
  · have htile : (s.updCore t fun k => { k with copies := k.copies.filter fun e => e.id != id }).tile t = _ := State.updTile_tile ..
    obtain ⟨-, hcopies, htagged, hctx⟩ := State.commandDone_of_hears (hs.of_tile htile rfl) m.hw true m.op m.err m.cmdix 0
    rw [htile] at hcopies htagged hctx
    refine ⟨_, exec_copyCompletion_done hm hstate hrows hopen hrel htag hs.first, (s.updCore_elsewhere t _).trans (State.input_elsewhere ..),
      hcopies, htagged, hctx.trans ?_⟩
    rw [hreport, Ctx.hearsDone, fcrRaise_zero]
    rfl
  · obtain rfl : r.id = id := by simpa using List.find?_some hr
    have hland : ∃ next, exec (.copyRowLand r.id) s = .next (s.landRow r t row fe next) ∧ RowFollowed r t next := by
      rcases hkind with ⟨c, m, hk, rfl, hopen, hm, hone, herr⟩ | ⟨c, hk⟩
      · exact ⟨_, exec_copyRowLand_copyIn hr hk hopen hm hone herr, .dropReq ..⟩
      · exact ⟨_, exec_copyRowLand_copyTo hr hk, .performedAt hk⟩
    obtain ⟨next, he, hnext⟩ := hland
    refine ⟨fun hlater => he.trans (congrArg _ (State.landRow_later fe next hlater)), fun hmay => ?_⟩
    obtain ⟨hel, ⟨hrow, hsound, hfull, hothers, hctxs⟩, hgone⟩ := State.landRow_lands (fe := fe) hs hmay hnext
    exact ⟨_, he, hel, hrow, hsound, hfull, hothers, hctxs, hgone⟩

end Sys2Proof.Machine
end
